-- ==== Sys2Proof/Word.lean ====
section
/-! DEFINITION. The word types of the module and their plainest arithmetic. -/

namespace Sys2Proof

/-- One byte of memory, of a datagram or of a store. -/
abbrev Byte := BitVec 8

/-- A descriptor word, a dictionary value, a tally: 64 bits, little-endian in memory
(spec/00_scope.md, "Conventions for numbers and references"). -/
abbrev Word := BitVec 64

/-- Ring number, 0 to 16,383 (spec/02 "Ring command word"). -/
abbrev RingId := BitVec 14

/-- Partition number, 0 to 15 (spec/01 "Partitions"). -/
abbrev PartId := BitVec 4

end Sys2Proof
end

