-- ==== Sys2Proof/Syntax.lean ====
section
/-! DEFINITION. The commands of the module: one constructor per row of spec/opcode_table.json, with the operands
each row takes. The rows give no bits, so the operands are the model's own list of what the spec's text lets a
sender, a pin, a neighbour or a sensor deliver with the event (log entry 7). -/

namespace Sys2Proof

/-- Where a datagram of the management bus came from and where it was sent (R351, R362): the requester's IPv6 address and UDP port,
the PLCA transmit opportunity of its frame (`none`: no PLCA), the address and port it was sent to. -/
structure BusPath where
  addr     : BitVec 128
  port     : BitVec 16
  slot     : Option (BitVec 8)
  dest     : BitVec 128
  destPort : BitVec 16
  deriving DecidableEq, Repr

/-- Where an Orogus request came from (R352): the mailbox, the management bus, or the bus with a MAGIC or VERSION that is wrong. -/
inductive Source where
  | mailbox
  | bus (path : BusPath)
  | badBus (path : BusPath)
  deriving DecidableEq, Repr

/-- The TXID and source of an Orogus request (R352). -/
structure Req where
  txid : BitVec 32
  src  : Source
  deriving DecidableEq, Repr

/-- Core cycles of one unit as the core counted them (R87, R88): which cycles froze under which cause depends on
arbitration and so comes in with the event. -/
structure UnitCycles where
  busy         : BitVec 64
  freezeCap    : BitVec 64
  drainBlocked : BitVec 64
  shadowLate   : BitVec 64
  feederDry    : BitVec 64
  bankConflict : BitVec 64
  /-- cycles charged to the seven store causes of R216, in the order of phase subindexes 0x08 to 0x0E -/
  causes       : List (BitVec 64)
  deriving DecidableEq, Repr

/-- A fabric transaction: the header slot x0 to x3 and its data bytes (spec/10 "Transaction header slot"). -/
structure Packet where
  x0 : Word
  x1 : Word
  x2 : Word
  x3 : Word
  data : List Byte
  deriving DecidableEq, Repr

/-- What the two ends of a Kraur link exchange at training, and what training measured (R262, R267, R279). -/
structure TrainResult where
  dims      : BitVec 8 × BitVec 8 × BitVec 8
  coords    : BitVec 8 × BitVec 8 × BitVec 8
  goodLanes : BitVec 13
  delay     : BitVec 16
  /-- protocol versions the partner supports, bit v for version v (R7) -/
  versions  : BitVec 8
  /-- consecutive blocks decoded without an uncorrectable codeword, and the largest skew of a lane in symbols (R256) -/
  goodBlocks : BitVec 16
  skew      : BitVec 8
  /-- last LSEQ the partner received in order -/
  lack      : BitVec 12
  deriving DecidableEq, Repr

/-- A detected error as its detector reports it (R381): source code, unit, place, address, and the partition of
the command for which the access was made. -/
structure ErrorReport where
  source    : BitVec 8
  unitKind  : BitVec 5
  unit      : BitVec 16
  address   : Word
  locationA : BitVec 16
  locationB : BitVec 32
  part      : PartId
  /-- the access was made for a command (false: scrub, migration, start-up) -/
  byCommand : Bool
  /-- LOCATION_B is a column of an array or quern engine, which a checksum row or an injection has named (R96) -/
  namesCol  : Bool := false
  /-- of a clean millpond line: it could not be corrected (source 0x08) -/
  cleanLost : Bool := false
  deriving DecidableEq, Repr

/-- Who claims a unit: a core, a bolter's core or a quern engine, and whether its runner has been fed the last tile of the unit it
works on (R85, R136). -/
structure Claimant where
  agent : BitVec 8
  fed   : Bool
  deriving DecidableEq, Repr

/-- The end of a discard: the ring, and what the agents that abandoned units of the command had counted in them (R47, R87). -/
structure Discarded where
  ring      : RingId
  abandoned : List (BitVec 8 × UnitCycles)
  deriving DecidableEq, Repr

/-- What makes a lane suspect: its corrected symbols in the second, and whether it lost lock (R257). -/
structure LaneErrors where
  corrections : BitVec 32
  lockLost    : Bool
  deriving DecidableEq, Repr

/-- What the tailrace holds for one column (128 the checksum column) in one pass of the array test (R99, R387): the pass, 8 × format +
pattern in the order of R387, the result of each array, rotated back, and the arrays whose checksum row names the column (R96). -/
structure ColumnSample where
  pass : BitVec 6
  col : BitVec 8
  r0  : BitVec 32
  r1  : BitVec 32
  r2  : BitVec 32
  r3  : BitVec 32
  named : List (BitVec 2)
  deriving DecidableEq, Repr

/-- The outcome of a targeted self-test as the miller reads it (R387, R388): passed, the columns whose four results the
tailrace compared (R99), the columns of a quern engine whose results differ from the reference digests, the whole unit failed, or a
row failed, with the addresses of its uncorrectable lines (R248). -/
inductive TestOutcome where
  | pass
  | columns (samples : List ColumnSample)
  | digests (cols : List (BitVec 8))
  | failUnit
  | failRow (lost : List Word)
  deriving DecidableEq, Repr

/-- One unit that fails the start-up self-test (R397). A spare is named by the place after the last one of its kind: unit 256 + p is
physical core p, LOCATION_B 129 + i spare column i of array LOCATION_A, 64 the spare column of a quern engine, LOCATION_A 16 + i spare way
i of a set group, lane 12 (4 of Falyndi) the spare lane. -/
structure StartupFail where
  unitKind  : BitVec 5
  unit      : BitVec 16
  locationA : BitVec 16
  locationB : BitVec 32
  deriving DecidableEq, Repr

/-- What a warm reset's recovery meets: the code checkers that fail their test, and what the agents that abandoned units had counted
in them, with the ring of each (R242, R378, R87). -/
structure RecoveryInfo where
  checkerFails : List StartupFail
  abandoned    : List (RingId × BitVec 8 × UnitCycles)
  deriving DecidableEq, Repr

/-- What a start of the module meets outside itself: the straps, the level of MOD_RST_N at its end, what the temperature sensors read
(sensor, °C), the slots whose loaded code fails its digest, the failures of the start-up self-test and how long it ran (R350, R397, R403,
R413, R414). -/
structure StartInfo where
  slotId    : BitVec 8
  modRstLow : Bool
  sensors   : List (BitVec 8 × BitVec 8)
  loadFails : List (BitVec 1)
  fails     : List StartupFail
  testTicks : BitVec 32
  deriving DecidableEq, Repr

/-- How a retrain of an HBM channel ends (R243, R244), or that its stack's PHY has failed (R247). -/
inductive RetrainResult where
  | passed
  | failed
  | phyFailed
  deriving DecidableEq, Repr

/-- What the host's end of the FHA-4 link says at training: the protocol versions it supports, bit v for version v, and the last LSEQ it
received in order (R343, R347). -/
structure HostEnd where
  versions : BitVec 8
  lack     : BitVec 12
  deriving DecidableEq, Repr

/-- What the supply supervisor sees: the input voltage, and whether every rail is in regulation (R420, R421). -/
structure SupplySeen where
  millivolts : BitVec 16
  railsGood  : Bool
  deriving DecidableEq, Repr

/-- The commands (rows of spec/opcode_table.json). -/
inductive Instr where
  -- chapters 02 and 03: rings, hopper, dispatcher
  | doorbell (ring : RingId) (word : Word)
  | create (rq : Req) (ring : RingId) (rsv : BitVec 46)
  | destroy (rq : Req) (ring : RingId) (rsv : BitVec 46)
  | resume (rq : Req) (ring : RingId) (rsv : BitVec 46)
  | descriptorFetch (ring : RingId)
  | acceptance (ring : RingId)
  | dispatch (part : PartId)
  | claim (ring : RingId) (who : Claimant)
  | unitComplete (ring : RingId) (agent : BitVec 8) (unit : BitVec 64) (cycles : UnitCycles)
  | commit (ring : RingId)
  | notifyHoldoffExpiry (vector : BitVec 11)
  | discardComplete (d : Discarded)
  | nop (ring : RingId)
  | tallySignal (ring : RingId)
  | tallyWait (ring : RingId)
  | fence (ring : RingId)
  | rewind (ring : RingId)
  | release (ring : RingId)
  -- chapters 04 to 06: arrays, vector units, quern engines
  | gemm (ring : RingId)
  | gemmBatched (ring : RingId)
  | gemmGrouped (ring : RingId)
  | conv (ring : RingId)
  | convDw (ring : RingId)
  | quernConv (ring : RingId)
  | quernPatch (ring : RingId)
  | quernUnpatch (ring : RingId)
  | pool (ring : RingId)
  | elemwise (ring : RingId)
  | reduce (ring : RingId)
  | norm (ring : RingId)
  | softmax (ring : RingId)
  | optimStep (ring : RingId)
  | rngFill (ring : RingId)
  -- chapter 07: attention and the key-value cache
  | attnFwd (ring : RingId)
  | attnBwd (ring : RingId)
  | kvAppend (ring : RingId)
  | kvTableSwap (ring : RingId)
  | prefixLookup (ring : RingId)
  | prefixInsert (ring : RingId)
  | prefixRelease (ring : RingId)
  -- chapters 08 and 09: stores and memory opcodes
  | saveAct (ring : RingId)
  | loadAct (ring : RingId)
  | spill (ring : RingId)
  | fetch (ring : RingId)
  | copy (ring : RingId)
  | convert (ring : RingId)
  | map (ring : RingId)
  | unmap (ring : RingId)
  -- chapter 10: fabric opcodes
  | remoteRead (ring : RingId)
  | remoteWrite (ring : RingId)
  | remoteAtomic (ring : RingId)
  | allreduce (ring : RingId)
  | reduceScatter (ring : RingId)
  | allgather (ring : RingId)
  | normReduce (ring : RingId)
  | attnMerge (ring : RingId)
  -- chapter 12: media
  | decode (ring : RingId)
  | encode (ring : RingId)
  | streamCtxCreate (ring : RingId)
  | streamCtxReset (ring : RingId)
  | streamCtxDestroy (ring : RingId)
  | mediaWatchdog (ring : RingId) (picture : BitVec 16)
  -- chapter 11: resilience and measurement
  | cut (ring : RingId)
  | parityUpdate (ring : RingId)
  | restore (ring : RingId)
  | reconstruct (ring : RingId)
  | reconstructParity (ring : RingId)
  | digest (ring : RingId)
  | phaseMark (ring : RingId)
  | tapRead (ring : RingId)
  -- chapter 13: Orogus
  | write (rq : Req) (index : BitVec 16) (sub : BitVec 8) (value : List Byte)
  | read (rq : Req) (index : BitVec 16) (sub : BitVec 8)
  | describe (rq : Req) (index : BitVec 16) (sub : BitVec 8)
  | discover (rq : Req)
  | segInitUp (rq : Req) (index : BitVec 16) (sub : BitVec 8)
  | segInitDown (rq : Req) (index : BitVec 16) (sub : BitVec 8) (size : Word) (segments : BitVec 32) (crc : BitVec 32)
  | segment (rq : Req) (index : BitVec 16) (sub : BitVec 8) (segno : BitVec 32) (seglen : BitVec 16) (flags : BitVec 8)
      (crc : BitVec 32) (data : List Byte)
  | segReq (rq : Req) (index : BitVec 16) (sub : BitVec 8) (segno : BitVec 32)
  | segEnd (rq : Req) (index : BitVec 16) (sub : BitVec 8)
  | segAbort (rq : Req) (index : BitVec 16) (sub : BitVec 8)
  | sessionTimeout (src : Source) (index : BitVec 16) (sub : BitVec 8)
  | mailboxDoorbell (txid : Word)
  | fwBundle (rq : Req) (object : List Byte)
  | attestRequest (rq : Req) (nonce : List Byte)
  | eventAck (rq : Req) (value : Word)
  | quiesceRequest (rq : Req) (part : PartId) (value : Byte)
  | enabled (rq : Req) (part : PartId) (value : Byte)
  | coreMask (rq : Req) (part : PartId) (word : BitVec 2) (value : Word)
  | tallyRange (rq : Req) (part : PartId) (isCount : Bool) (value : BitVec 16)
  | tallyMirrorBase (rq : Req) (value : Word)
  | kvPoolBase (rq : Req) (part : PartId) (value : Word)
  | prefixNodes (rq : Req) (part : PartId) (value : BitVec 32)
  | vanishWatch (rq : Req) (slot : BitVec 6) (value : BitVec 32)
  | tapConfig (rq : Req) (tap : BitVec 8) (value : BitVec 32)
  | recordSelect (rq : Req) (value : BitVec 32)
  | region0Lost (rq : Req) (value : Byte)
  -- chapter 10: lending, bywash, links, transactions
  | publish (rq : Req) (window : BitVec 6) (part : PartId) (notice : BitVec 16) (size : BitVec 34)
  | revoke (rq : Req) (window : BitVec 6) (part : PartId) (notice : BitVec 16) (size : BitVec 34)
  | noticeExpiry (window : BitVec 6)
  | windowFreed (window : BitVec 6)
  | bywashForce (rq : Req) (value : Byte)
  | bywashOpen (lasersReady : BitVec 6)
  | portRetrain (port : BitVec 3)
  | portTrainingDone (port : BitVec 3) (result : TrainResult)
  | flit (link : BitVec 3) (bytes : List Byte) (blockGood : Bool) (corrected : BitVec 16)
  | nak (link : BitVec 3) (lack : BitVec 12) (corrected : BitVec 16)
  | laneSwap (link : BitVec 3) (lane : BitVec 4) (seen : LaneErrors) (spareGood : Bool)
  | forward (pkt : Packet) (inPort : Option (BitVec 3)) (vc : BitVec 2) (residency : BitVec 32)
  | lifeExpiry (pkt : Packet)
  | kraurRead (pkt : Packet)
  | kraurWrite (pkt : Packet)
  | atomic (pkt : Packet)
  | tally (pkt : Packet)
  | lendNotice (pkt : Packet)
  | collAbort (pkt : Packet)
  | collective (pkt : Packet)
  | response (pkt : Packet)
  | txnRetry (node : BitVec 16) (tag : BitVec 32)
  | fabricTimeout (node : BitVec 16) (tag : BitVec 32)
  | collWaitTimeout (ring : RingId)
  -- chapter 13: Falyndi
  | falyndiTraining (host : HostEnd) (goodLanes : BitVec 5)
  | falyndiLinkLoss
  | falyndiRestoreExpiry
  | linkLostClear
  | falyndiHostAccess (isWrite : Bool) (address : Word) (len : BitVec 16) (data : List Byte)
  -- chapter 14: power, thermal, resets
  | park
  | enterDoze (rq : Req)
  | enterLend (rq : Req)
  | enterSleep (rq : Req)
  | returnToP1 (rq : Req) (value : Byte)
  | powerStateReached
  | millerClockStop
  | powerCapSample (watts : BitVec 16)
  | throttle (sensor : BitVec 8) (celsius : BitVec 8)
  | coolantInletWarning (reading : BitVec 32)
  | thermalTrip (celsius : BitVec 8)
  | thermTripN (low : Bool)
  | tripHoldExpiry (info : StartInfo)
  | coldReset (info : StartInfo)
  | inputLoss (seen : SupplySeen)
  | moduleReset (byPin : Option Req) (info : StartInfo)
  | modRstNRelease (info : StartInfo)
  | warmReset (rq : Req)
  | warmResetRecovery (found : RecoveryInfo)
  | millerWatchdog
  | partitionReset (rq : Req) (value : Byte)
  -- chapters 15 and 09: health, repair, HBM service
  | errorDetected (e : ErrorReport)
  | targetedTest
  | testResult (faultId : BitVec 24) (outcome : TestOutcome) (ticks : BitVec 32)
  | dieLost (die : BitVec 3)
  | arm (rq : Req) (word : BitVec 60)
  | disarm (rq : Req) (word : BitVec 60)
  | hbmRetrain (channel : BitVec 9) (result : RetrainResult) (holdCycles : BitVec 32)
  | evacuationResume
  | migrationEnd
  | scrub (corrected : List Word) (uncorrectable : List Word) (lines : BitVec 32)
  | pageZeroed
  | marginRun (rq : Req) (value : Byte) (passed : Bool) (errors : BitVec 32) (inRange : Bool)
  | marginEnable (rq : Req) (value : Byte)
  | lmarginEnable (rq : Req) (value : Byte)
  | lmarginRun (rq : Req) (value : Byte) (passed : Bool) (errors : BitVec 32) (inRange : Bool)
  -- chapter 16: firmware
  | cancel (rq : Req)
  | rollback (rq : Req)
  | secverCommit (rq : Req) (value : Byte)
  | factoryTestMode
  deriving DecidableEq, Repr

end Sys2Proof
end

