-- ==== Sys2Proof/Machine/Fp.lean ====
section
/-! DEFINITION. Floating formats (R108 to R112): decoding to exact values, exact arithmetic, rounding. A value is exact
until one of the rounding functions narrows it, so each rounding the spec names is one call here. -/

namespace Sys2Proof.Machine

/-- An exact value: (-1)^neg × m × 2^e, an infinity, or NaN. -/
inductive FVal where
  | nan
  | inf (neg : Bool)
  | fin (neg : Bool) (m : Nat) (e : Int)
  deriving DecidableEq, Repr

/-- How a format uses its largest exponent (R110). -/
inductive FKind where
  | ieee
  | e4m3
  | e2m1
  deriving DecidableEq, Repr

/-- A floating format: exponent bits, fraction bits, bias (R110 "Floating encodings"). -/
structure FFmt where
  eb   : Nat
  fb   : Nat
  bias : Int
  kind : FKind
  deriving DecidableEq, Repr

def fmtF32 : FFmt := { eb := 8, fb := 23, bias := 127, kind := .ieee }
def fmtF16 : FFmt := { eb := 5, fb := 10, bias := 15, kind := .ieee }
def fmtBF16 : FFmt := { eb := 8, fb := 7, bias := 127, kind := .ieee }
def fmtE4M3 : FFmt := { eb := 4, fb := 3, bias := 7, kind := .e4m3 }
def fmtE5M2 : FFmt := { eb := 5, fb := 2, bias := 15, kind := .ieee }
def fmtE2M1 : FFmt := { eb := 2, fb := 1, bias := 1, kind := .e2m1 }
def fmtA20 : FFmt := { eb := 8, fb := 11, bias := 127, kind := .ieee }
/-- binary64, in which the norm taps sum (R314). -/
def fmtF64 : FFmt := { eb := 11, fb := 52, bias := 1023, kind := .ieee }

/-- Width of an encoding in bits. -/
def FFmt.width (f : FFmt) : Nat := 1 + f.eb + f.fb

/-- The magnitude bits of the first pattern that is not finite. -/
def FFmt.topBits (f : FFmt) : Nat :=
  match f.kind with
  | .ieee => (2 ^ f.eb - 1) * 2 ^ f.fb
  | .e4m3 => 2 ^ (f.eb + f.fb) - 1
  | .e2m1 => 2 ^ (f.eb + f.fb)

/-- The canonical NaN (R111); formats without NaN have none and use their top pattern. -/
def FFmt.nanBits (f : FFmt) : Nat :=
  match f.kind with
  | .ieee => f.topBits + 2 ^ (f.fb - 1)
  | .e4m3 => f.topBits
  | .e2m1 => 0

/-- The magnitude bits of the largest finite value. -/
def FFmt.maxBits (f : FFmt) : Nat := f.topBits - 1

/-- Decode a pattern (R110). -/
def FFmt.decode (f : FFmt) (bits : Nat) : FVal :=
  let neg := (bits >>> (f.eb + f.fb)) % 2 == 1
  let mag := bits % 2 ^ (f.eb + f.fb)
  let e := mag >>> f.fb
  let fr := mag % 2 ^ f.fb
  if f.topBits ≤ mag then
    match f.kind with
    | .ieee => if fr = 0 then .inf neg else .nan
    | _ => .nan
  else if e = 0 then .fin neg fr (1 - f.bias - f.fb)
  else .fin neg (2 ^ f.fb + fr) (e - f.bias - f.fb)

/-- Pack a sign and magnitude bits. -/
def FFmt.pack (f : FFmt) (neg : Bool) (mag : Nat) : Nat := (if neg then 2 ^ (f.eb + f.fb) else 0) + mag

/-- The exponent of the unit in the last place on the format's grid for a magnitude m × 2^e (subnormals included). -/
def FFmt.ulpExp (f : FFmt) (m : Nat) (e : Int) : Int := max ((Nat.log2 m : Int) + e) (1 - f.bias) - f.fb

/-- m × 2^e in units of 2^E: quotient, remainder, divisor. -/
def scaleTo (m : Nat) (e E : Int) : Nat × Nat × Nat :=
  if E ≤ e then (m * 2 ^ (e - E).toNat, 0, 1)
  else (m / 2 ^ (E - e).toNat, m % 2 ^ (E - e).toNat, 2 ^ (E - e).toNat)

/-- Round to nearest, ties to even, from quotient, remainder and divisor. -/
def roundHalfEven (q r d : Nat) : Nat :=
  if 2 * r < d then q else if d < 2 * r then q + 1 else if q % 2 = 0 then q else q + 1

/-- Magnitude bits of m × 2^e rounded to nearest even on the format's grid, range ignored. -/
def FFmt.roundMag (f : FFmt) (m : Nat) (e : Int) : Nat :=
  if m = 0 then 0
  else
    let E := f.ulpExp m e
    let t := scaleTo m e E
    ((E + f.fb + f.bias - 1) * 2 ^ f.fb + roundHalfEven t.1 t.2.1 t.2.2).toNat

/-- Magnitude bits of m × 2^e rounded toward zero, range ignored, with the fraction dropped: (bits, remainder, divisor). -/
def FFmt.truncMag (f : FFmt) (m : Nat) (e : Int) : Nat × Nat × Nat :=
  if m = 0 then (0, 0, 1)
  else
    let E := f.ulpExp m e
    let t := scaleTo m e E
    (((E + f.fb + f.bias - 1) * 2 ^ f.fb + t.1).toNat, t.2.1, t.2.2)

/-- Round to nearest even with IEEE overflow to infinity (FP32, A20, FP64, and R123 with SAT = 0 for IEEE formats). -/
def FFmt.round (f : FFmt) : FVal → Nat
  | .nan => f.nanBits
  | .inf neg => f.pack neg f.topBits
  | .fin neg m e =>
    let b := f.roundMag m e
    f.pack neg (if f.topBits ≤ b then f.topBits else b)

def FVal.neg : FVal → FVal
  | .nan => .nan
  | .inf s => .inf (!s)
  | .fin s m e => .fin (!s) m e

def FVal.abs : FVal → FVal
  | .nan => .nan
  | .inf _ => .inf false
  | .fin _ m e => .fin false m e

def FVal.isNan : FVal → Bool
  | .nan => true
  | _ => false

def FVal.isFinite : FVal → Bool
  | .fin _ _ _ => true
  | _ => false

def FVal.isZero : FVal → Bool
  | .fin _ m _ => m == 0
  | _ => false

def FVal.sign : FVal → Bool
  | .nan => false
  | .inf s => s
  | .fin s _ _ => s

/-- The signed integer of a finite value in units of 2^e', for e' not above its exponent. -/
def signedAt (neg : Bool) (m : Nat) (e e' : Int) : Int :=
  let v : Int := (m * 2 ^ (e - e').toNat : Nat)
  if neg then -v else v

/-- A signed integer in units of 2^e as an exact value; zero takes the given sign. -/
def ofSigned (v : Int) (e : Int) (zeroNeg : Bool) : FVal :=
  if v = 0 then .fin zeroNeg 0 e else .fin (decide (v < 0)) v.natAbs e

/-- Exact sum (IEEE 754 on infinities; an exact zero sum of unlike signs is +0). -/
def FVal.add : FVal → FVal → FVal
  | .nan, _ => .nan
  | _, .nan => .nan
  | .inf a, .inf b => if a = b then .inf a else .nan
  | .inf a, _ => .inf a
  | _, .inf b => .inf b
  | .fin a m e, .fin b n g =>
    let k := min e g
    ofSigned (signedAt a m e k + signedAt b n g k) k (a && b)

def FVal.sub (x y : FVal) : FVal := x.add y.neg

/-- Exact product. -/
def FVal.mul : FVal → FVal → FVal
  | .nan, _ => .nan
  | _, .nan => .nan
  | .inf a, .inf b => .inf (a != b)
  | .inf a, .fin b m _ => if m = 0 then .nan else .inf (a != b)
  | .fin a m _, .inf b => if m = 0 then .nan else .inf (a != b)
  | .fin a m e, .fin b n g => .fin (a != b) (m * n) (e + g)

/-- Multiply by a power of two. -/
def FVal.scale (k : Int) : FVal → FVal
  | .fin s m e => .fin s m (e + k)
  | x => x

/-- Exact comparison x < y of non-NaN values, zeros equal. -/
def FVal.lt : FVal → FVal → Bool
  | .nan, _ => false
  | _, .nan => false
  | .inf a, .inf b => a && !b
  | .inf a, _ => a
  | _, .inf b => !b
  | .fin a m e, .fin b n g =>
    let k := min e g
    decide (signedAt a m e k < signedAt b n g k)

/-- Comparison that orders -0 below +0 (R237, R428). -/
def FVal.ltSigned (x y : FVal) : Bool :=
  x.lt y || (x.isZero && y.isZero && x.sign && !y.sign)

/-- A ratio num/den × 2^e as an exact value with a sticky last bit: rounding it to any format of up to 60 fraction bits
gives the rounding of the ratio itself. -/
def ratio (neg : Bool) (num den : Nat) (e : Int) : FVal :=
  let k := (Nat.log2 den + 130) - min (Nat.log2 den + 130) (Nat.log2 num)
  let n := num * 2 ^ k
  .fin neg (2 * (n / den) + (if n % den = 0 then 0 else 1)) (e - k - 1)

/-- Quotient, to be rounded once. -/
def FVal.div : FVal → FVal → FVal
  | .nan, _ => .nan
  | _, .nan => .nan
  | .inf _, .inf _ => .nan
  | .inf a, .fin b _ _ => .inf (a != b)
  | .fin a _ _, .inf b => .fin (a != b) 0 0
  | .fin a m e, .fin b n g =>
    if n = 0 then (if m = 0 then .nan else .inf (a != b))
    else if m = 0 then .fin (a != b) 0 0
    else ratio (a != b) m n (e - g)

/-- Square root, to be rounded once. -/
def FVal.sqrt : FVal → FVal
  | .nan => .nan
  | .inf s => if s then .nan else .inf false
  | .fin s m e =>
    if m = 0 then .fin s 0 0
    else if s then .nan
    else
      let m' := if e % 2 = 0 then m else 2 * m
      let e' := if e % 2 = 0 then e else e - 1
      let n := m' * 2 ^ 260
      let r := Nat.sqrt n
      .fin false (2 * r + (if r * r = n then 0 else 1)) (e' / 2 - 130 - 1)

/-- FP32 patterns are carried as numbers below 2^32. -/
abbrev F32 := Nat

def f32 (x : F32) : FVal := fmtF32.decode x
def r32 (v : FVal) : F32 := fmtF32.round v
def f32Nan : F32 := 0x7FC00000
def f32Inf : F32 := 0x7F800000
def f32NegInf : F32 := 0xFF800000
def f32One : F32 := 0x3F800000

def f32Add (x y : F32) : F32 := r32 ((f32 x).add (f32 y))
def f32Sub (x y : F32) : F32 := r32 ((f32 x).sub (f32 y))
def f32Mul (x y : F32) : F32 := r32 ((f32 x).mul (f32 y))
/-- x × y + z with one rounding. -/
def f32Fma (x y z : F32) : F32 := r32 (((f32 x).mul (f32 y)).add (f32 z))
def f32Sqrt (x : F32) : F32 := r32 (f32 x).sqrt
/-- Correctly rounded 1/x (the `rc` of R428). -/
def f32RecipExact (x : F32) : F32 := r32 ((f32 f32One).div (f32 x))

/-- Max and min of R237 and R428: NaN canonical, -0 below +0. -/
def f32Max (x y : F32) : F32 :=
  if (f32 x).isNan || (f32 y).isNan then f32Nan else if (f32 x).ltSigned (f32 y) then y else x

def f32Min (x y : F32) : F32 :=
  if (f32 x).isNan || (f32 y).isNan then f32Nan else if (f32 y).ltSigned (f32 x) then y else x

/-- An integer as FP32, rounded to nearest even (R123). -/
def f32OfInt (i : Int) : F32 := r32 (ofSigned i 0 false)

/-- Round a value to the nearest integer, ties to even, saturating to [lo, hi]; NaN gives 0 (R123). -/
def toIntSat (lo hi : Int) : FVal → Int
  | .nan => 0
  | .inf s => if s then lo else hi
  | .fin s m e =>
    let t := scaleTo m e 0
    let q : Int := roundHalfEven t.1 t.2.1 t.2.2
    max lo (min hi (if s then -q else q))

/-- One level of the pairwise tree of R428. -/
def treeLevel (op : F32 → F32 → F32) : List F32 → List F32
  | x :: y :: t => op x y :: treeLevel op t
  | l => l

/-- The pairwise tree of R428 over `fuel` levels at most. -/
def treeRun (op : F32 → F32 → F32) : Nat → List F32 → List F32
  | 0, l => l
  | n + 1, l => if l.length ≤ 1 then l else treeRun op n (treeLevel op l)

/-- The pairwise tree; an empty row gives `unit`. -/
def tree (op : F32 → F32 → F32) (unit : F32) (l : List F32) : F32 := (treeRun op l.length l).headD unit

/-- FP32 pairwise sum; a row of no values sums to +0 (R428). -/
def treeSum (l : List F32) : F32 := tree f32Add 0 l

end Sys2Proof.Machine
end

