-- ==== Sys2Proof/Machine/Sha.lean ====
section
/-! DEFINITION. Bytes and words, SHA-256, ECDSA P-256 verification (R400), CRC-32 (R258) and Philox4x32-10 (R309). -/

namespace Sys2Proof.Machine

/-- The `n` low bytes of a number, little-endian. -/
def leBytes : Nat → Nat → List Byte
  | 0, _ => []
  | n + 1, v => BitVec.ofNat 8 v :: leBytes n (v / 256)

/-- A little-endian byte string as a number. -/
def leNat : List Byte → Nat
  | [] => 0
  | b :: t => b.toNat + 256 * leNat t

/-- The `n` low bytes of a number, big-endian. -/
def beBytes (n v : Nat) : List Byte := (leBytes n v).reverse

/-- A big-endian byte string as a number. -/
def beNat (bs : List Byte) : Nat := leNat bs.reverse

/-- Bits [hi:lo] of a number. -/
def bits (v hi lo : Nat) : Nat := (v >>> lo) % 2 ^ (hi + 1 - lo)

/-- Bit i of a number. -/
def bit (v i : Nat) : Bool := (v >>> i) % 2 == 1

/-- `n` bytes padded or cut to a length. -/
def padTo (n : Nat) (l : List Byte) : List Byte := (l ++ List.replicate (n - l.length) 0).take n

/-- Cut a list into pieces of `k` (at most `fuel` of them). -/
def chunksOf {α : Type} (k : Nat) : Nat → List α → List (List α)
  | 0, _ => []
  | fuel + 1, l => if l.isEmpty then [] else l.take k :: chunksOf k fuel (l.drop k)

/-- Big-endian 32-bit words of a byte string. -/
def beWords (bs : List Byte) : List (BitVec 32) :=
  (chunksOf 4 bs.length bs).map (fun b => BitVec.ofNat 32 (beNat b))

/-- Word `i` of a string of `n` 32-bit words written as one number, first word highest. -/
def wordOf (n string i : Nat) : BitVec 32 := BitVec.ofNat 32 (string >>> (32 * (n - 1 - i)))

/-- FIPS 180-4: the 64 round constants of SHA-256, eight to a number. -/
def digestConstants : List Nat :=
  [0x428a2f9871374491b5c0fbcfe9b5dba53956c25b59f111f1923f82a4ab1c5ed5,
   0xd807aa9812835b01243185be550c7dc372be5d7480deb1fe9bdc06a7c19bf174,
   0xe49b69c1efbe47860fc19dc6240ca1cc2de92c6f4a7484aa5cb0a9dc76f988da,
   0x983e5152a831c66db00327c8bf597fc7c6e00bf3d5a7914706ca635114292967,
   0x27b70a852e1b21384d2c6dfc53380d13650a7354766a0abb81c2c92e92722c85,
   0xa2bfe8a1a81a664bc24b8b70c76c51a3d192e819d6990624f40e3585106aa070,
   0x19a4c1161e376c082748774c34b0bcb5391c0cb34ed8aa4a5b9cca4f682e6ff3,
   0x748f82ee78a5636f84c878148cc7020890befffaa4506cebbef9a3f7c67178f2]

/-- FIPS 180-4: the initial hash value. -/
def digestStart : Nat := 0x6a09e667bb67ae853c6ef372a54ff53a510e527f9b05688c1f83d9ab5be0cd19

/-- The round constant of round `t`. -/
def roundConstant (t : Nat) : BitVec 32 := wordOf 8 (digestConstants.getD (t / 8) 0) (t % 8)

/-- The exclusive or of a word turned right by three amounts. -/
def turned (x : BitVec 32) (i j k : Nat) : BitVec 32 := x.rotateRight i ^^^ (x.rotateRight j ^^^ x.rotateRight k)

/-- The exclusive or of a word turned right by two amounts and shifted by a third. -/
def mixed (x : BitVec 32) (i j k : Nat) : BitVec 32 := (x >>> k) ^^^ (x.rotateRight i ^^^ x.rotateRight j)

/-- The hash value, or the working variables: the last four words of each of the digest's two sequences, newest first. -/
structure Digest where
  upper : List (BitVec 32)
  lower : List (BitVec 32)
  deriving DecidableEq, Repr

def Digest.start : Digest :=
  { upper := (List.range 4).map (wordOf 8 digestStart), lower := (List.range' 4 4).map (wordOf 8 digestStart) }

/-- One round with the schedule's word and the round's constant: each sequence gains one word and loses its oldest. -/
def Digest.round (d : Digest) (word constant : BitVec 32) : Digest :=
  let u (i : Nat) : BitVec 32 := d.upper.getD i 0
  let l (i : Nat) : BitVec 32 := d.lower.getD i 0
  let choice := l 2 ^^^ (l 0 &&& (l 1 ^^^ l 2))
  let most := (u 0 &&& (u 1 ||| u 2)) ||| (u 1 &&& u 2)
  let sum := constant + word + choice + turned (l 0) 6 11 25 + l 3
  { upper := (most + turned (u 0) 2 13 22 + sum) :: d.upper.take 3, lower := (u 3 + sum) :: d.lower.take 3 }

/-- `n` rounds from round `t`. The sixteen words of the schedule that lie ahead slide with the rounds. -/
def Digest.rounds : Nat → Nat → List (BitVec 32) → Digest → Digest
  | 0, _, _, d => d
  | n + 1, t, ahead, d =>
    let later := ahead.getD 0 0 + mixed (ahead.getD 1 0) 7 18 3 + ahead.getD 9 0 + mixed (ahead.getD 14 0) 17 19 10
    Digest.rounds n (t + 1) (ahead.drop 1 ++ [later]) (d.round (ahead.getD 0 0) (roundConstant t))

/-- One block of 64 bytes. -/
def Digest.block (d : Digest) (bytes : List Byte) : Digest :=
  let r := Digest.rounds 64 0 (beWords bytes) d
  { upper := (d.upper.zip r.upper).map (fun p => p.1 + p.2), lower := (d.lower.zip r.lower).map (fun p => p.1 + p.2) }

/-- The bytes that fill a message of `n` bytes to whole blocks: a one bit, zeros and the length in bits. -/
def digestTail (n : Nat) : List Byte := (0x80 : Byte) :: beBytes ((119 - n % 64) % 64 + 8) (8 * n)

/-- SHA-256 of a byte string, 32 bytes. -/
def sha256 (m : List Byte) : List Byte :=
  let whole := m ++ digestTail m.length
  let d := (chunksOf 64 whole.length whole).foldl Digest.block Digest.start
  (d.upper ++ d.lower).flatMap (fun w => beBytes 4 w.toNat)

def crcByte (c : BitVec 32) (b : Byte) : BitVec 32 :=
  (List.range 8).foldl (fun c _ => if c.getLsbD 0 then (c >>> 1) ^^^ 0xEDB88320 else c >>> 1) (c ^^^ b.setWidth 32)

/-- CRC-32 of IEEE 802.3 (R258). -/
def crc32 (m : List Byte) : BitVec 32 := ~~~(m.foldl crcByte 0xFFFFFFFF)

/-- One Philox round on (c0, c1, c2, c3) under key (k0, k1). -/
def philoxRound (c : Nat × Nat × Nat × Nat) (k0 k1 : Nat) : Nat × Nat × Nat × Nat :=
  let p0 := 0xD2511F53 * c.1
  let p1 := 0xCD9E8D57 * c.2.2.1
  (Nat.xor (Nat.xor (p1 / 2 ^ 32) c.2.1) k0, p1 % 2 ^ 32, Nat.xor (Nat.xor (p0 / 2 ^ 32) c.2.2.2) k1, p0 % 2 ^ 32)

def philoxRun : Nat → Nat × Nat × Nat × Nat → Nat → Nat → Nat × Nat × Nat × Nat
  | 0, c, _, _ => c
  | n + 1, c, k0, k1 => philoxRun n (philoxRound c k0 k1) ((k0 + 0x9E3779B9) % 2 ^ 32) ((k1 + 0xBB67AE85) % 2 ^ 32)

/-- The draw of element i for a key and a stream: words 0 and 1 of Philox4x32-10 (R309). -/
def philoxDraw (key stream i : Nat) : Nat × Nat :=
  let r := philoxRun 10 (i % 2 ^ 32, i / 2 ^ 32 % 2 ^ 32, stream % 2 ^ 32, 0) (key % 2 ^ 32) (key / 2 ^ 32 % 2 ^ 32)
  (r.1, r.2.1)

/-- The key of stream S in step t under a seed (R309). -/
def streamKey (seed stream step : Nat) : Nat :=
  leNat ((sha256 (leBytes 8 seed ++ leBytes 4 stream ++ leBytes 8 step)).take 8)

/-! ### ECDSA P-256 (R400; the curve and the verification are FIPS 186-4's: PRESUMED, log entry 54) -/

/-- The field's prime, and the order of the base point. -/
def p256 : Nat := 0xFFFFFFFF00000001000000000000000000000000FFFFFFFFFFFFFFFFFFFFFFFF
def n256 : Nat := 0xFFFFFFFF00000000FFFFFFFFFFFFFFFFBCE6FAADA7179E84F3B9CAC2FC632551

/-- Coefficient b of y² = x³ − 3x + b. -/
def b256 : Nat := 0x5AC635D8AA3A93E7B3EBBD55769886BC651D06B0CC53B0F63BCE3C3E27D2604B

/-- The base point. -/
def g256 : Nat × Nat :=
  (0x6B17D1F2E12C4247F8BCE6E563A440F277037D812DEB33A0F4A13945D898C296,
   0x4FE342E2FE1A7F9B8EE7EB4A7C0F9E162BCE33576B315ECECBB6406837BF51F5)

/-- acc × b^e modulo m, for e below 2^fuel. -/
def powMod (m : Nat) : Nat → Nat → Nat → Nat → Nat
  | 0, _, _, acc => acc
  | fuel + 1, b, e, acc => powMod m fuel (b * b % m) (e / 2) (if e % 2 = 1 then acc * b % m else acc)

/-- The inverse modulo a prime below 2^256. -/
def invMod (m a : Nat) : Nat := powMod m 256 (a % m) (m - 2) 1

/-- The sum of two points of the curve; `none` is the point at infinity. -/
def curveAdd : Option (Nat × Nat) → Option (Nat × Nat) → Option (Nat × Nat)
  | none, q => q
  | p, none => p
  | some p, some q =>
    if p.1 = q.1 ∧ (p.2 + q.2) % p256 = 0 then none
    else
      let k := if p.1 = q.1 then (3 * p.1 * p.1 + (p256 - 3)) * invMod p256 (2 * p.2) % p256
        else (q.2 + p256 - p.2) * invMod p256 (q.1 + p256 - p.1) % p256
      let x := (k * k + 2 * p256 - p.1 - q.1) % p256
      some (x, (k * (p.1 + p256 - x) + p256 - p.2) % p256)

/-- acc + k × p, for k below 2^fuel. -/
def curveMul : Nat → Nat → Option (Nat × Nat) → Option (Nat × Nat) → Option (Nat × Nat)
  | 0, _, _, acc => acc
  | fuel + 1, k, p, acc => curveMul fuel (k / 2) (curveAdd p p) (if k % 2 = 1 then curveAdd acc p else acc)

/-- A public key is a point of the curve. -/
def onCurve (q : Nat × Nat) : Bool :=
  decide (q.1 < p256 ∧ q.2 < p256) && q.2 * q.2 % p256 == (q.1 * q.1 * q.1 + (p256 - 3) * q.1 + b256) % p256

/-- A signature r, s of a SHA-256 hash verifies under the key X, Y; each number is 32 bytes, big-endian (spec/16 "Bundle"). -/
def ecdsaVerify (key hash sig : List Byte) : Bool :=
  let q := (beNat (key.take 32), beNat (key.drop 32))
  let r := beNat (sig.take 32)
  let s := beNat (sig.drop 32)
  let w := invMod n256 s
  decide (0 < r ∧ r < n256 ∧ 0 < s ∧ s < n256) && onCurve q &&
  (match curveAdd (curveMul 256 (beNat hash * w % n256) (some g256) none) (curveMul 256 (r * w % n256) (some q) none) with
   | some x => x.1 % n256 == r
   | none => false)

end Sys2Proof.Machine
end

