-- ==== Sys2Proof/Machine/Formats.lean ====
section
/-! DEFINITION. Storage formats (R108, R112, R113) and the conversions into them (R123 to R129). -/

namespace Sys2Proof.Machine

/-- The storable formats (R108). -/
inductive Fmt where
  | f32 | f16 | bf16 | e4m3 | e5m2 | bs8 | bs4 | i8 | i32
  deriving DecidableEq, Repr

/-- The format of a code; `none` for codes R109 and R5 refuse. -/
def Fmt.ofCode : Nat → Option Fmt
  | 0x01 => some .f32
  | 0x02 => some .f16
  | 0x03 => some .bf16
  | 0x04 => some .e4m3
  | 0x05 => some .e5m2
  | 0x06 => some .bs8
  | 0x07 => some .bs4
  | 0x08 => some .i8
  | 0x09 => some .i32
  | _ => none

/-- Bits of one element in the element plane. -/
def Fmt.bits : Fmt → Nat
  | .f32 => 32
  | .f16 => 16
  | .bf16 => 16
  | .e4m3 => 8
  | .e5m2 => 8
  | .bs8 => 8
  | .bs4 => 4
  | .i8 => 8
  | .i32 => 32

def Fmt.isBlock : Fmt → Bool
  | .bs8 => true
  | .bs4 => true
  | _ => false

def Fmt.isInt : Fmt → Bool
  | .i8 => true
  | .i32 => true
  | _ => false

/-- The floating encoding of an element. -/
def Fmt.elem : Fmt → FFmt
  | .f32 => fmtF32
  | .f16 => fmtF16
  | .bf16 => fmtBF16
  | .e4m3 => fmtE4M3
  | .e5m2 => fmtE5M2
  | .bs8 => fmtE4M3
  | .bs4 => fmtE2M1
  | .i8 => fmtF32
  | .i32 => fmtF32

/-- Bytes of `n` consecutive elements from an even position. -/
def Fmt.bytes (f : Fmt) (n : Nat) : Nat := (n * f.bits + 7) / 8

/-- The compute format of an array operand: BS4 computes as BS8 (R114); FP32 and integers have none. -/
def Fmt.compute : Fmt → Option Fmt
  | .bs4 => some .bs8
  | .f32 => none
  | .i8 => none
  | .i32 => none
  | f => some f

/-- A two's complement pattern of `w` bits as an integer. -/
def signed (w v : Nat) : Int :=
  if v % 2 ^ w < 2 ^ (w - 1) then ((v % 2 ^ w : Nat) : Int) else ((v % 2 ^ w : Nat) : Int) - ((2 ^ w : Nat) : Int)

/-- An integer as a two's complement pattern of `w` bits (wrapping). -/
def unsigned (w : Nat) (i : Int) : Nat := (i % ((2 ^ w : Nat) : Int)).toNat

/-- The exact value of an element pattern under its block scale byte (R110, R112; integers are themselves). -/
def Fmt.value (f : Fmt) (pat scale : Nat) : FVal :=
  match f with
  | .i8 => ofSigned (signed 8 pat) 0 false
  | .i32 => ofSigned (signed 32 pat) 0 false
  | .bs8 => if scale = 0xFF then .nan else (fmtE4M3.decode pat).scale ((scale : Int) - 127)
  | .bs4 => if scale = 0xFF then .nan else (fmtE2M1.decode pat).scale ((scale : Int) - 127)
  | g => g.elem.decode pat

/-- What a conversion adds to the counters of R129. -/
structure NumCounts where
  vanished   : Nat
  saturated  : Nat
  overflowed : Nat
  zeroBlocks : Nat
  nanBlocks  : Nat
  deriving DecidableEq, Repr

def NumCounts.zero : NumCounts := { vanished := 0, saturated := 0, overflowed := 0, zeroBlocks := 0, nanBlocks := 0 }

def NumCounts.add (a b : NumCounts) : NumCounts :=
  { vanished := a.vanished + b.vanished, saturated := a.saturated + b.saturated,
    overflowed := a.overflowed + b.overflowed, zeroBlocks := a.zeroBlocks + b.zeroBlocks,
    nanBlocks := a.nanBlocks + b.nanBlocks }

/-- A nonzero finite value whose written element is zero. -/
def vanishes (y : FVal) (zero : Bool) : Nat := if zero && y.isFinite && !y.isZero then 1 else 0

/-- Magnitude bits on a grid, range ignored: nearest even (R123), or stochastic with the draw's low 16 bits (R124). -/
def gridMag (f : FFmt) (draw : Option Nat) (m : Nat) (e : Int) : Nat :=
  match draw with
  | none => f.roundMag m e
  | some u =>
    let t := f.truncMag m e
    if t.2.1 = 0 then t.1
    else if u % 65536 < t.2.1 * 65536 / t.2.2 then t.1 + 1 else t.1

/-- Narrow one value to a floating element (R123, R124). -/
def narrowFloat (f : FFmt) (sat : Bool) (draw : Option Nat) (y : FVal) : Nat × NumCounts :=
  match y with
  | .nan => (f.nanBits, NumCounts.zero)
  | .inf s =>
    if sat then (f.pack s f.maxBits, { NumCounts.zero with saturated := 1 })
    else (match f.kind with
      | .ieee => f.pack s f.topBits
      | _ => f.nanBits, NumCounts.zero)
  | .fin s m e =>
    let b := gridMag f draw m e
    if f.topBits ≤ b then
      if sat then (f.pack s f.maxBits, { NumCounts.zero with saturated := 1 })
      else (match f.kind with
        | .ieee => f.pack s f.topBits
        | _ => f.nanBits, { NumCounts.zero with overflowed := 1 })
    else (f.pack s b, { NumCounts.zero with vanished := vanishes y (b == 0) })

/-- Convert one value to an integer element: nearest even, saturating, NaN to 0 (R123). -/
def narrowInt (w : Nat) (y : FVal) : Nat × NumCounts :=
  let lo : Int := -((2 ^ (w - 1) : Nat) : Int)
  let hi : Int := ((2 ^ (w - 1) : Nat) : Int) - 1
  let v := toIntSat lo hi y
  let wide := toIntSat (lo - 1) (hi + 1) y
  (unsigned w v,
   { NumCounts.zero with
     vanished := vanishes y (v == 0)
     saturated := if wide = v then 0 else 1
     overflowed := if y.isNan then 1 else 0 })

/-- ⌊log2 |v|⌋ of a nonzero finite value. -/
def FVal.log2 : FVal → Int
  | .fin _ m e => (Nat.log2 m : Int) + e
  | _ => 0

/-- The element of largest magnitude of a block. -/
def amax (vs : List FVal) : FVal := vs.foldl (fun a v => if a.lt v.abs then v.abs else a) (.fin false 0 0)

/-- One block of BS8 or BS4 (R125 to R127): scale byte, element patterns, counts. `draws` holds one draw per value
when rounding is stochastic. -/
def encodeBlock (f : Fmt) (vs : List FVal) (draws : Option (List Nat)) : Nat × List Nat × NumCounts :=
  let g := f.elem
  if vs.any (fun v => !v.isFinite) then
    (0xFF, vs.map (fun _ => if f = .bs8 then 0x7F else 0), { NumCounts.zero with nanBlocks := 1 })
  else if vs.all FVal.isZero then
    (0, vs.map (fun v => g.pack v.sign 0), { NumCounts.zero with zeroBlocks := 1 })
  else
    let x := max ((amax vs).log2 - (if f = .bs8 then 8 else 2)) (-127)
    let es := (List.range vs.length).map (fun i =>
      match (vs.getD i (.fin false 0 0)).scale (-x) with
      | .fin s m e => g.pack s (min (gridMag g (draws.map (fun d => d.getD i 0)) m e) g.maxBits)
      | _ => 0)
    let van := ((List.zip vs es).map (fun p => vanishes p.1 (p.2 % 2 ^ (g.eb + g.fb) == 0))).sum
    ((x + 127).toNat, es, { NumCounts.zero with vanished := van })

/-- Narrow a value to a non-block format (R123, R124): FP32 is written as it stands, NaN canonical (R111). -/
def narrowElem (f : Fmt) (sat : Bool) (draw : Option Nat) (y : FVal) : Nat × NumCounts :=
  match f with
  | .f32 => (fmtF32.round y, NumCounts.zero)
  | .i8 => narrowInt 8 y
  | .i32 => narrowInt 32 y
  | g => narrowFloat g.elem sat draw y

end Sys2Proof.Machine
end

