-- ==== Sys2Proof/Config.lean ====
section
/-! DEFINITION. What the implementation fixes and the spec leaves open: free values, constants with no body
(log entries 4 and 5). Nothing can be proved of their values, so what is proved holds for every value. -/

namespace Sys2Proof.Config

/-- The approximate functions of R122, R132, R160, R311 and of the "Vector unit rates and accuracy, per core" table. -/
inductive ApproxFn where
  | exp2 | recip | rsqrt | exp | divide | log2 | gelu | silu | tanh | sigmoid | sqrtRng | lnRng | cosRng
  deriving DecidableEq, Repr

/-- Content the spec calls undefined: the byte at a place, for the `n`-th time content became undefined (R34, R240). -/
opaque freeByte : Nat → Nat → Byte

/-- A word the spec leaves open, for the `n`-th time it is needed. -/
opaque freeWord : Nat → Word

/-- By how many units in the last place an approximate function misses the exact result: a fixed function of its
operands (R132), used only within the stated bound. -/
opaque approxOff : ApproxFn → Nat → Nat

/-- The code value with which the bolter's encoder ends a block (R200 fixes only that the decoder returns every bin):
a fixed function of the coded bins (R208). -/
opaque coderPick : List Bool → Nat

/-- The order in which contributions meet where the spec fixes none (R132): the key of the i-th one in the `n`-th
such meeting. -/
opaque orderKey : Nat → Nat → Nat

/-- The set of a line within its slice, taken from further bits of x (R236). -/
opaque millpondSet : Nat → Nat

/-- Which free place the module takes in a pinned area (R21 fixes the stack, not the place). -/
opaque pinnedPick : Nat → Nat

/-- The first element of a segment of a collective (R283 fixes n segments, not their bounds). -/
opaque segCut : Nat → Nat → Nat → Nat

/-- The protocol versions that the module's Kraur ports support, bit v for version v (R7 names no values; log entry 15). -/
opaque kraurVersions : Nat

/-- The payload of a control flit by its purpose, 1 lane swap, 2 NAK, and an argument (spec/10 names the purposes, not the
layout; log entry 15). -/
opaque controlPayload : Nat → Nat → List Byte

/-- The layout of the fields whose CRC-32 is a collective's signature (R282). -/
opaque signatureBytes : List Nat → List Byte

/-- Whether the `n`-th atomic operation of codes 0x2 to 0x4 is the maximum: no bit of the encoding tells (R237). -/
opaque atomicMax : Nat → Bool

/-- Whether the shared block of a block code lies on I/O die B (R391); no block codes are given. -/
opaque blockOnDieB : Nat → Bool

/-- The root public key the boot ROM checks against the fuses (R400, R401). -/
opaque rootKey : List Byte

/-- The signed bundle a module leaves the factory with, in slot 0 (log entry 2). -/
opaque factoryBundle : List Byte

/-- Whether an HBM device has resources left to repair a row for good (R248): channel, granule row. -/
opaque pprFits : Nat → Nat → Bool

/-- The board loads in watts at the `n`-th power sample, up to 15 (R18's note on module input). -/
opaque boardLoad : Nat → Nat

/-- What a firmware slot's flash holds beyond the bytes staged into it (R405). -/
opaque flashByte : Nat → Byte

/-- ECDSA P-256 signature by the module's identity key (R409) of a SHA-256 hash. -/
opaque ecdsaSign : List Byte → List Byte

/-- The migration rules in a miller image (R407): the image, layout before, layout after, index, subindex, value. -/
opaque migrateRule : List Byte → Nat → Nat → Nat → Nat → Word → Option Word

/-- Whether the new layout refuses a migrated value (R407). -/
opaque migrateRefused : Nat → Nat → Nat → Word → Bool

/-- A block of a picture, in luma samples. -/
structure Block where
  x      : Nat
  y      : Nat
  width  : Nat
  height : Nat
  deriving DecidableEq, Repr, Inhabited

/-- Profiles of the "Decode support" table (R319); `other` is any that no row names. -/
inductive Profile where
  | constrainedBaseline | main | high | main10 | mainStill | other
  deriving DecidableEq, Repr, Inhabited

/-- What a picture's parameter sets or sequence header say of its coding (R319): codec 0 H.264, 1 HEVC, 2 AV1; chroma format 0 4:0:0,
1 4:2:0, 2 4:2:2, 3 4:4:4; field or MBAFF coding; an extension that the table lists as not supported (range, scalable, multiview,
large-scale tile). -/
structure CodedFormat where
  codec     : Nat
  profile   : Profile
  bitDepth  : Nat
  chroma    : Nat
  fields    : Bool
  extension : Bool
  deriving DecidableEq, Repr, Inhabited

/-- One decoded picture (R326, R329, R330): coded size, bit depth, whole planes of 4:2:0 samples in raster order, what the stream
signals, the blocks that were not decoded correctly, film grain syntax elements. -/
structure Picture where
  width     : Nat
  height    : Nat
  bitDepth  : Nat
  luma      : List Nat
  cb        : List Nat
  cr        : List Nat
  /-- signalled matrix: 1 BT.601, 2 BT.709, 3 BT.2020; 0 none -/
  matrix    : Nat
  /-- signalled range: 1 limited, 2 full; 0 none -/
  range     : Nat
  /-- signalled chroma sample location in quarter luma samples, horizontal and vertical; none signalled -/
  chroma    : Option (Int × Int)
  /-- blocks that were not decoded correctly, and so are concealed -/
  hidden    : List Block
  grain     : List (BitVec 16)
  deriving DecidableEq, Repr, Inhabited

/-- The next complete unit of a stream, an access unit or a temporal unit (R326): its bytes, how many pictures it codes or shows, the
resynchronisations in it (R332), the next stream state. -/
structure CodedUnit where
  consumed : Nat
  pictures : Nat
  resyncs  : Nat
  next     : Nat
  deriving DecidableEq, Repr, Inhabited

/-- What the decoder makes of one picture of a unit (R326 to R334). -/
structure CodedPicture where
  /-- the slot that a show_existing_frame shows: no picture is decoded -/
  shows    : Option Nat
  /-- no parameter set or sequence header is there to decode it with -/
  orphan   : Bool
  format   : CodedFormat
  /-- it is a random access point -/
  access   : Bool
  /-- slots of the pictures it refers to -/
  refs     : List Nat
  /-- the picture, before any block is concealed -/
  picture  : Picture
  /-- nothing of it can be decoded -/
  damaged  : Bool
  /-- the blocks that are still undecoded when the watchdog abandons it (R331) -/
  undone   : List Block
  /-- it is shown: its place in output order, counted on through the stream -/
  place    : Option Int
  /-- how many of the pictures that then wait for output are due -/
  due      : Nat
  /-- slots whose pictures the stream still refers to after it -/
  kept     : List Nat
  deriving DecidableEq, Repr, Inhabited

/-- The decoder's reading of the next unit (external standards, R319): codec, stream state, the bytes from the unit on. None: the bytes
hold no complete unit. -/
opaque mediaUnit (codec state : Nat) (bytes : List Byte) : Option CodedUnit

/-- The decoder's reading of picture `k` of a unit (external standards, R319): codec, stream state, the pictures that the slots hold, the
slot the picture goes to, the unit's bytes. -/
opaque mediaPicture (codec state : Nat) (slots : List (Nat × Picture)) (slot : Nat) (bytes : List Byte) (k : Nat) : CodedPicture

/-- The chroma sample of a window that is not resized (R329 names no filter): position in luma samples, the chroma location in quarter
luma samples, the window's width and height in chroma samples, and its samples. -/
opaque chromaUnfiltered (x y : Nat) (locX locY : Int) (width height : Nat) (samples : List Nat) : Nat

/-- One encoded row of coding tree units at the quantiser rate control chose, or in its cheapest coding (R337). -/
structure RowCode where
  normal   : List Byte
  cheapest : List Byte
  deriving DecidableEq, Repr, Inhabited

/-- A block of a coding tree unit that is predicted from the reference: its place and size in luma samples from the unit's
corner, and the number of the vector the search settles on. -/
structure MotionBlock where
  x      : Nat
  y      : Nat
  width  : Nat
  height : Nat
  pickX  : Nat
  pickY  : Nat
  deriving DecidableEq, Repr, Inhabited

/-- One column of 64 luma samples of the search window, with the matching chroma (R336). -/
structure WindowColumn where
  luma : List Nat
  cb   : List Nat
  cr   : List Nat
  deriving DecidableEq, Repr, Inhabited

/-- What motion search hands the coder for one coding tree unit: the window's samples, and each block with its vector in
quarter samples (R336). -/
structure UnitSearch where
  window  : List WindowColumn
  vectors : List (MotionBlock × Int × Int)
  deriving DecidableEq, Repr, Inhabited

/-- What the coding of one picture depends on (R337): codec, stream state, key picture, QP, its budget, the context's dimensions and
depth, the matrix and range it signals (R335), its samples, the previous coded picture (R320), the firmware bundle. -/
structure EncodeJob where
  codec     : Nat
  state     : Nat
  key       : Bool
  qp        : Nat
  budget    : Nat
  width     : Nat
  height    : Nat
  depth     : Nat
  matrix    : Nat
  range     : Nat
  luma      : List Nat
  cb        : List Nat
  cr        : List Nat
  reference : Option Picture
  firmware  : List Byte
  deriving DecidableEq, Repr, Inhabited

/-- The search (R336 names neither the block sizes nor the cost): the picture, row, column, window. -/
opaque mediaSearch (job : EncodeJob) (row col : Nat) (window : List WindowColumn) : List MotionBlock

/-- The encoder (external standards, R320, R336, R337): the picture, the searches of the row's coding tree units, row, whether an
earlier row fell back, the picture's bytes so far, which are the entropy coder's state. -/
opaque mediaEncodeRow (job : EncodeJob) (search : List UnitSearch) (row : Nat) (fallen : Bool) (coded : List Byte) : RowCode

/-- The content of the picture's headers (external standards): header `k`, a parameter set or the sequence header of a key picture, or
the header of its slice or tile group (R320, R335). -/
opaque mediaEncodeHeader (job : EncodeJob) (k : Nat) : List Byte

/-- The stream state after an encoded picture. -/
opaque mediaEncodeNext (job : EncodeJob) (coded : List Byte) : Nat

/-- The picture that a coded picture decodes to, which the next inter picture refers to (R320). -/
opaque mediaRebuilt (job : EncodeJob) (coded : List Byte) : Picture

/-- The stream state that starts a stream (R325). -/
opaque mediaStart : Nat → Nat

end Sys2Proof.Config
end

