-- ==== Sys2Proof/Machine/FpFun.lean ====
section
/-! DEFINITION. The approximate functions of the vector unit and the epilogue (R102, R122, R311, R316). Each is the
exact function, truncated to the FP32 grid, moved by a free number of units in the last place inside the bound the
spec states (Config.approxOff, log entry 5). Exact values come from fixed-point series of 320 fraction bits. -/

namespace Sys2Proof.Machine

open Sys2Proof.Config (ApproxFn)

/-- Fraction bits of the fixed-point values below. -/
def fixBits : Nat := 320

/-- 1 in fixed point. -/
def fixOne : Nat := 2 ^ fixBits

/-- Σ over odd j = 1, 3, … of x^j / j, each power being the previous times `x2` (sign alternating when `alt`). -/
def oddSeries (alt : Bool) (x2 : Nat) : Nat → Nat → Nat → Int
  | 0, _, _ => 0
  | fuel + 1, p, j =>
    (p / j : Nat) +
      (let r := oddSeries alt x2 fuel (p * x2 / fixOne) (j + 2)
       if alt then -r else r)

/-- ln 2 = 2 artanh(1/3). -/
def fixLn2 : Nat := 2 * (oddSeries false (fixOne / 9) 110 (fixOne / 3) 1).toNat

/-- π by Machin's formula. -/
def fixPi : Nat :=
  (16 * oddSeries true (fixOne / 25) 80 (fixOne / 5) 1 - 4 * oddSeries true (fixOne / 57121) 30 (fixOne / 239) 1).toNat

/-- e^r for 0 ≤ r < 1. -/
def expSeries (r : Nat) : Nat → Nat
  | 0 => fixOne
  | n + 1 => expSeriesStep r (n + 1) fixOne
where
  expSeriesStep (r : Nat) : Nat → Nat → Nat
    | 0, acc => acc
    | k + 1, acc => expSeriesStep r k (fixOne + r * acc / fixOne / (k + 1))

/-- e^x as a value, for a fixed-point x of moderate size. -/
def expFix (x : Int) : FVal :=
  let k := x / fixLn2
  let r := (x % fixLn2).toNat
  .fin false (expSeries r 90) (k - fixBits)

/-- A value as fixed point, rounded toward zero; the exponent is bounded by the callers. -/
def toFix (neg : Bool) (m : Nat) (e : Int) : Int :=
  let v : Int := (scaleTo m e (-(fixBits : Int))).1
  if neg then -v else v

/-- A fixed-point number as a value. -/
def ofFix (v : Int) : FVal := ofSigned v (-(fixBits : Int)) false

/-- ln of m × 2^e with m > 0. -/
def lnFix (m : Nat) (e : Int) : Int :=
  let b := Nat.log2 m
  let f := m * 2 ^ (fixBits - b)
  let q := (f - fixOne) * fixOne / (f + fixOne)
  2 * oddSeries false (q * q / fixOne) 110 q 1 + ((b : Int) + e) * fixLn2

/-- Σ of the erf series z + 2z³/3 + 4z⁵/15 + …: each term is the previous times 2z²/(2n+1). -/
def erfSum (z2 : Nat) : Nat → Nat → Nat → Nat
  | 0, _, _ => 0
  | fuel + 1, t, n => t + erfSum z2 fuel (t * (2 * z2) / fixOne / (2 * n + 1)) (n + 1)

/-- erf(|z|) for a fixed-point |z| ≤ 11: (2/√π) e^(−z²) Σ. -/
def erfFix (z : Nat) : Nat :=
  let z2 := z * z / fixOne
  let e := (scaleTo (expSeries ((-(z2 : Int)) % fixLn2).toNat 90) ((-(z2 : Int)) / fixLn2) 0).1
  let sqrtPi := Nat.sqrt (fixPi * fixOne)
  2 * e * erfSum z2 800 z 1 / sqrtPi

/-- Σ of the cosine series. -/
def cosSum (t2 : Nat) : Nat → Nat → Nat → Int
  | 0, _, _ => 0
  | fuel + 1, t, n => (t : Int) - cosSum t2 fuel (t * t2 / fixOne / ((2 * n + 1) * (2 * n + 2))) (n + 1)

/-- cos(2πx) for x = n / 2^24, 0 ≤ n < 2^24. -/
def cosTurn (n : Nat) : FVal :=
  let u := min (n % 2 ^ 24) (2 ^ 24 - n % 2 ^ 24)
  let q := if 2 ^ 22 < u then 2 ^ 23 - u else u
  let th := 2 * fixPi * q / 2 ^ 24
  let c := cosSum (th * th / fixOne) 60 fixOne 0
  ofFix (if 2 ^ 22 < u then -c else if q = 2 ^ 22 then 0 else c)

/-- An FP32 result within k units in the last place of an exact finite value: one of the grid values that the bound
admits, chosen by a fixed function of the operands (R122, R132; log entry 5). -/
def approxPick (fn : ApproxFn) (k key : Nat) : FVal → F32
  | .nan => f32Nan
  | .inf s => fmtF32.pack s fmtF32.topBits
  | .fin s m e =>
    let t := fmtF32.truncMag m e
    let exact := t.2.1 == 0
    let span := if exact then 2 * k + 1 else 2 * k
    let lo := if exact then k else k - 1
    let mag := t.1 + Config.approxOff fn key % span - lo
    fmtF32.pack s (min mag (max fmtF32.maxBits (min fmtF32.topBits (fmtF32.roundMag m e))))

/-- exp2, 2 ulp. -/
def fExp2 (x : F32) : F32 :=
  match f32 x with
  | .nan => f32Nan
  | .inf s => if s then 0 else f32Inf
  | .fin s m e =>
    if (FVal.fin false 200 0).lt (.fin false m e) then (if s then 0 else f32Inf)
    else
      let v := toFix s m e
      let i := v / fixOne
      let r := (v % fixOne).toNat * fixLn2 / fixOne
      approxPick .exp2 2 x (.fin false (expSeries r 90) (i - fixBits))

/-- exp, 3 ulp. -/
def fExp (x : F32) : F32 :=
  match f32 x with
  | .nan => f32Nan
  | .inf s => if s then 0 else f32Inf
  | .fin s m e =>
    if (FVal.fin false 150 0).lt (.fin false m e) then (if s then 0 else f32Inf)
    else approxPick .exp 3 x (expFix (toFix s m e))

/-- Reciprocal, 1 ulp; infinities and zeros as IEEE 754. -/
def fRecip (x : F32) : F32 :=
  match (f32 f32One).div (f32 x) with
  | .fin s m e => if (f32 x).isFinite then approxPick .recip 1 x (.fin s m e) else r32 (.fin s m e)
  | v => r32 v

/-- Reciprocal square root, 1 ulp. -/
def fRsqrt (x : F32) : F32 :=
  match (f32 x) with
  | .nan => f32Nan
  | .inf s => if s then f32Nan else 0
  | .fin s m e =>
    if m = 0 then fmtF32.pack s fmtF32.topBits
    else if s then f32Nan
    else approxPick .rsqrt 1 x ((f32 f32One).div (FVal.fin s m e).sqrt)

/-- Divide, 2 ulp. -/
def fDiv (x y : F32) : F32 :=
  match (f32 x).div (f32 y) with
  | .fin s m e => if m = 0 then fmtF32.pack s 0 else approxPick .divide 2 (x * 2 ^ 32 + y) (.fin s m e)
  | v => r32 v

/-- The exact natural logarithm as a value. -/
def lnVal (m : Nat) (e : Int) : FVal := ofFix (lnFix m e)

/-- log2, 2 ulp (R160). -/
def fLog2 (x : F32) : F32 :=
  match f32 x with
  | .nan => f32Nan
  | .inf s => if s then f32Nan else f32Inf
  | .fin s m e =>
    if m = 0 then f32NegInf else if s then f32Nan
    else approxPick .log2 2 x ((lnVal m e).div (ofFix fixLn2))

/-- 1 / (1 + e^−y) as an exact value for a moderate y. -/
def sigmoidVal (s : Bool) (m : Nat) (e : Int) : FVal :=
  (f32 f32One).div ((f32 f32One).add (expFix (-(toFix s m e))))

/-- Sigmoid, 4 ulp. -/
def fSigmoid (x : F32) : F32 :=
  match f32 x with
  | .nan => f32Nan
  | .inf s => if s then 0 else f32One
  | .fin s m e =>
    if (FVal.fin false 120 0).lt (.fin false m e) then
      approxPick .sigmoid 4 x (if s then .fin false 1 (-400) else .fin false (2 ^ 64 - 1) (-64))
    else approxPick .sigmoid 4 x (sigmoidVal s m e)

/-- SiLU, 4 ulp. -/
def fSilu (x : F32) : F32 :=
  match f32 x with
  | .nan => f32Nan
  | .inf s => if s then 0 else f32Inf
  | .fin s m e =>
    if (FVal.fin false 120 0).lt (.fin false m e) then
      (if s then approxPick .silu 4 x (.fin true 1 (-400)) else approxPick .silu 4 x (.fin s m e))
    else approxPick .silu 4 x ((FVal.fin s m e).mul (sigmoidVal s m e))

/-- tanh, 4 ulp: (1 − e^(−2|y|)) / (1 + e^(−2|y|)); below 2^−80 in magnitude the value itself. -/
def fTanh (x : F32) : F32 :=
  match f32 x with
  | .nan => f32Nan
  | .inf s => fmtF32.pack s f32One
  | .fin s m e =>
    if (FVal.fin false m e).lt (.fin false 1 (-80)) then approxPick .tanh 4 x (.fin s m e)
    else if (FVal.fin false 60 0).lt (.fin false m e) then approxPick .tanh 4 x (.fin s (2 ^ 64 - 1) (-64))
    else
      let q := expFix (-2 * toFix false m e)
      let v := ((f32 f32One).sub q).div ((f32 f32One).add q)
      approxPick .tanh 4 x (if s then v.neg else v)

/-- GELU, 4 ulp: y Φ(y); beyond |y| = 15 the value itself or a vanishing one. -/
def fGelu (x : F32) : F32 :=
  match f32 x with
  | .nan => f32Nan
  | .inf s => if s then 0 else f32Inf
  | .fin s m e =>
    if (FVal.fin false 15 0).lt (.fin false m e) then
      (if s then approxPick .gelu 4 x (.fin true 1 (-400)) else approxPick .gelu 4 x (.fin s m e))
    else
      let z := (toFix false m e).toNat * fixOne / Nat.sqrt (2 * fixOne * fixOne)
      let f := erfFix z
      let phi2 : Nat := if s then fixOne - f else fixOne + f
      approxPick .gelu 4 x ((FVal.fin s m e).mul (.fin false phi2 (-(fixBits : Int) - 1)))

/-- ReLU, exact. -/
def fRelu (x : F32) : F32 :=
  if (f32 x).isNan then f32Nan else if (f32 0).lt (f32 x) then x else 0

/-- ln x of R311, 4 ulp, for the x of its uniform draw (positive). -/
def fLnRng (x : F32) : F32 :=
  match f32 x with
  | .fin _ m e => if m = 0 then f32NegInf else
      (let v := lnVal m e
       match v with
       | .fin _ 0 _ => 0
       | _ => approxPick .lnRng 4 x v)
  | _ => f32Nan

/-- √x of R311, 4 ulp. -/
def fSqrtRng (x : F32) : F32 :=
  match (f32 x).sqrt with
  | .fin s m e => if m = 0 then fmtF32.pack s 0 else approxPick .sqrtRng 4 x (.fin s m e)
  | v => r32 v

/-- cos(2πx) of R311, 4 ulp, for x = n × 2^−24. -/
def fCosRng (n : Nat) : F32 := approxPick .cosRng 4 n (cosTurn n)

/-- The activation functions of R122 by ACT code. -/
def activation (act : Nat) (y : F32) : F32 :=
  match act with
  | 1 => fRelu y
  | 2 => fGelu y
  | 3 => fSilu y
  | 4 => fTanh y
  | 5 => fSigmoid y
  | _ => y

end Sys2Proof.Machine
end

