-- ==== Sys2Proof/Machine/SMap.lean ====
section
/-! DEFINITION. Sparse tables in one canonical form: a list of (key, value) pairs with strictly rising keys and no
entry equal to what an unlisted key reads as. Memory, the dictionary store, rings and tallies are such tables. -/

namespace Sys2Proof.Machine

/-- The canonical form: keys strictly rising, no entry equal to the value an unlisted key reads as. -/
def tableWf {α : Type} [DecidableEq α] (dflt : Nat → α) : List (Nat × α) → Bool
  | [] => true
  | [(k, v)] => decide (v ≠ dflt k)
  | (k, v) :: (k', v') :: t => decide (v ≠ dflt k) && decide (k < k') && tableWf dflt ((k', v') :: t)

/-- The value at a key. -/
def tableGet {α : Type} (dflt : Nat → α) : List (Nat × α) → Nat → α
  | [], k => dflt k
  | (k', v) :: t, k => if k' = k then v else tableGet dflt t k

/-- Write a value, keeping the canonical form: writing what an unlisted key reads as removes the entry. -/
def tableSet {α : Type} [DecidableEq α] (dflt : Nat → α) (k : Nat) (v : α) : List (Nat × α) → List (Nat × α)
  | [] => if v = dflt k then [] else [(k, v)]
  | (k', v') :: t =>
    if k < k' then (if v = dflt k then (k', v') :: t else (k, v) :: (k', v') :: t)
    else if k = k' then (if v = dflt k then t else (k, v) :: t)
    else (k', v') :: tableSet dflt k v t

/-- Keep the entries whose key passes a test; the others read as the default again. -/
def tableKeep {α : Type} (keep : Nat → Bool) (t : List (Nat × α)) : List (Nat × α) :=
  t.filter (fun e => keep e.1)

/-- Replace the first element that passes a test. -/
def modifyFirst {α : Type} (p : α → Bool) (f : α → α) : List α → List α
  | [] => []
  | x :: t => if p x then f x :: t else x :: modifyFirst p f t

/-- The first element with the least key. -/
def leastBy {α : Type} (key : α → Nat) : List α → Option α
  | [] => none
  | x :: t =>
    match leastBy key t with
    | none => some x
    | some y => if key x ≤ key y then some x else some y

/-- Keep the last `n` elements. -/
def keepLast {α : Type} (n : Nat) (l : List α) : List α := l.drop (l.length - n)

/-- Insert a number into a strictly rising list. -/
def insertNat (n : Nat) : List Nat → List Nat
  | [] => [n]
  | m :: t => if n < m then n :: m :: t else if n = m then m :: t else m :: insertNat n t

end Sys2Proof.Machine
end

