-- ==== Sys2Proof/Machine/State.lean ====
section
/-! DEFINITION. The state of the module as plain data, and the state right after reset. -/

namespace Sys2Proof.Machine

/-- The two ordering numbers (spec/00 R1). -/
inductive Variant where
  | cxm1440
  | cxm1280
  deriving DecidableEq, Repr

/-- What the write-protected identity EEPROM at I2C address 0x50 holds (R415; log entry 2). -/
structure Eeprom where
  serial   : List Byte
  boardRev : BitVec 16
  mac      : BitVec 48
  deriving DecidableEq, Repr

/-- Identity values: the EEPROM, what the last cold reset has read of it, fuses, straps and manufacture (R350, R400, R415; log entry
2). -/
structure Ident where
  eeprom     : Eeprom
  serial     : List Byte
  boardRev   : BitVec 16
  packageId  : Word
  mac        : BitVec 48
  slotStrap  : BitVec 8
  rootDigest : List Byte
  deviceCert : List Byte
  caCert     : List Byte
  deriving DecidableEq, Repr

/-- What a hopper cell's descriptor is (R35): its read is issued; accepted; SEQ at or below COMMITTED_SEQ; a pending
duplicate of an accepted SEQ; returned with a status and FAULT_ID, ending in its turn. -/
inductive CellState where
  | reading
  | accepted
  | duplicate
  | pendingDup
  | returned (status : Byte) (faultId : BitVec 24)
  deriving DecidableEq, Repr

/-- One hopper cell on a ring's list (spec/03 "The cell pool"). -/
structure HCell where
  pos   : BitVec 32
  desc  : List Word
  st    : CellState
  /-- acceptance order over all rings (R63) -/
  order : Nat
  /-- SEQ of the segment this descriptor belongs to (R71) -/
  seg   : Option (BitVec 48)
  deriving DecidableEq, Repr

/-- STATE of a ring (spec/02 "Ring status record"). -/
inductive RingState where
  | free
  | active
  | halted
  deriving DecidableEq, Repr

/-- A ring: its status record and its list of cells. COMMITTED_SEQ has its home in the ledger (R45). -/
structure Ring where
  state      : RingState
  lastResult : Byte
  haltStatus : Byte
  rgen       : Byte
  part       : PartId
  stack      : BitVec 4
  size       : BitVec 17
  inflight   : Bool
  commitPos  : BitVec 32
  consumer   : BitVec 32
  producer   : BitVec 32
  nextSeq    : BitVec 48
  ringAddr   : Word
  mirrorAddr : Word
  cqBase     : Word
  cells      : List HCell
  /-- SEQ of the segment open at the accept end of the ring (R71) -/
  openSeg    : Option (BitVec 48)
  /-- stopped at an RMARK position because the directory is full (R72) -/
  dirStop    : Bool
  deriving DecidableEq, Repr

/-- A FREE ring's record. -/
def Ring.free : Ring :=
  { state := .free, lastResult := 0, haltStatus := 0, rgen := 0, part := 0, stack := 0, size := 0, inflight := false,
    commitPos := 0, consumer := 0, producer := 0, nextSeq := 0, ringAddr := 0, mirrorAddr := 0, cqBase := 0, cells := [],
    openSeg := none, dirStop := false }

/-- A replay segment and its directory entry (R71 to R77). -/
structure Segment where
  ring      : Nat
  seq       : BitVec 48
  part      : Nat
  /-- descriptors whose cells the segment holds, in ring order -/
  held      : List (List Word)
  /-- the REND descriptor has ended committed or failed -/
  complete  : Bool
  releasing : Bool
  /-- released while open: descriptors that join free their cells (R77) -/
  released  : Bool
  deriving DecidableEq, Repr

/-- A change applied only at a command's commit (R43, R173, R182, R187, R310, R314, R323). -/
inductive CommitAct where
  /-- invert CUR and increment VERSION of a tensor table entry -/
  | flip (part tensor : Nat)
  /-- set CUR and VERSION of an entry (RESTORE) -/
  | setVersion (part tensor : Nat) (cur : Bool) (version : BitVec 32)
  | tallyAdd (tally : Nat) (addend : Word)
  /-- write bytes at a global address (roots, nodes, bucket heads) -/
  | write (addr : Nat) (bytes : List Byte)
  /-- set a page's reference count to 1 (R172) -/
  | refSet (part cls page : Nat)
  | refInc (part cls page : Nat)
  | refDec (part cls page : Nat)
  /-- enter the pages whose count reached 0 into the deferred ring and increment E; `always` for KV_TABLE_SWAP (R173) -/
  | kvEpoch (part : Nat) (always : Bool)
  /-- write FREE_EPOCH to two INT32 elements (R178) -/
  | freeEpoch (part : Nat) (addrLo addrHi : Nat)
  | prefixFree (part : Nat) (head count : BitVec 32)
  | streamAdvance (part slot : Nat)
  | streamSet (part slot : Nat) (seed ctr : Word)
  | tapAdd (tap : Nat) (addend : Word)
  | tapRead (first count : Nat) (addrs : List Nat) (clear : Bool)
  | phaseMark (first count : Nat) (addrs : List Nat)
  /-- put CUT_TICKS, and the digest over it, into the header of a cut record (R296) -/
  | cutStamp (addrs : List Nat) (record : List Byte)
  /-- the command's installed mappings become usable by others (R224) -/
  | mapDone (part va : Nat)
  | unmap (part va : Nat)
  | releaseSeg (ring : Nat) (seq : BitVec 48)
  /-- invert a media context's current bit (R323) -/
  | ctxFlip (engine ctx : Nat)
  | ctxCreate (engine ctx part store codec : Nat) (encode deep : Bool) (maxW maxH slots : Nat)
  | ctxReset (engine ctx : Nat)
  | ctxFree (engine ctx : Nat)
  /-- apply a remote tally add after the commit point (R70) -/
  | remoteAdd (node tally : Nat) (addend : Word)
  deriving DecidableEq, Repr

/-- A page reserved from a class stack (R176, R183). -/
structure PageRes where
  part : Nat
  cls  : Nat
  page : Nat
  deriving DecidableEq, Repr

/-- A staged COLLECTIVE chunk (R282). -/
structure Chunk where
  node : Nat
  pkt  : Packet
  deriving DecidableEq, Repr

/-- A collective instance's progress (R282, R288). -/
structure CollInst where
  collId    : BitVec 32
  signature : BitVec 32
  nodes     : List Nat
  rank      : Nat
  /-- how many messages of its schedule have been sent -/
  sent      : Nat
  /-- chunks taken out of staging, in order of arrival -/
  used      : List Chunk
  /-- when it was dispatched, or a chunk of its own last arrived or was acknowledged -/
  lastTick  : Word
  deriving DecidableEq, Repr

/-- One claimed unit (R136). -/
structure Claim where
  agent : Nat
  unit  : Nat
  deriving DecidableEq, Repr

/-- A command in flight (R64, R135): from its dispatch to its end. -/
structure InFlight where
  ring     : Nat
  part     : Nat
  pos      : BitVec 32
  desc     : List Word
  /-- dispatch order -/
  order    : Nat
  startTick : Word
  /-- occupies one of the 256 dispatch slots (R64, R65) -/
  slot     : Bool
  /-- its units are claimed from a work counter -/
  counted  : Bool
  counter  : Nat
  slotCount : Nat
  gridRows : Nat
  gridCols : Nat
  gridInner : Nat
  gridEntries : Nat
  blockSide : Nat
  claims   : List Claim
  /-- completed units, with the agent that ran each -/
  unitsDone : List Claim
  /-- the row of its opcode has run -/
  executed : Bool
  status   : Byte
  faultId  : BitVec 24
  acts     : List CommitAct
  /-- global address ranges written (address, bytes) -/
  wrote    : List (Nat × Nat)
  /-- what it wrote, by global address: until it commits the memory holds undefined content there for every other reader (R34) -/
  results  : List (Nat × List Byte)
  /-- data for host memory that came while Falyndi was down: not yet durable (R42) -/
  hostLate : Bool
  /-- ended by a status that ends a command without execution (R56) -/
  idle     : Bool
  /-- since when it waits for host memory that Falyndi does not reach (R216, R347) -/
  hostWait : Option Word
  /-- weir buckets that withhold it, as in `MemSys.weirUsed`, and the bytes of its requests that have left each bucket (R234) -/
  weirWait : List Nat
  weirPaid : List (Nat × Nat)
  /-- its reads of other nodes carry PRI: the latency mark of its ring at dispatch (R235) -/
  pri      : Bool
  /-- the dispatcher still reads what its dispatch needs from another node (R229) -/
  reading  : Bool
  /-- ranges of other nodes' memory that its reads have fetched (R229) -/
  fetched  : List (Nat × Nat)
  /-- counter additions that belong to single units: (unit, index, n), made under the agent that runs the unit (R89, R94) -/
  unitCounts : List (Nat × Nat × Nat)
  /-- root words read at dispatch (no unit) or at a unit's claim: (unit, sequence, words) (R169, R184) -/
  roots    : List (Option Nat × Nat × List Nat)
  /-- default_span as it stood at dispatch (R119) -/
  spanDefault : Nat
  /-- status with which it is being discarded (R47, R48) -/
  discard  : Option Byte
  reserved : List PageRes
  /-- sequences held (R176), or media contexts held (R324), as (kind, number): kind 0 sequence, 1 media context -/
  holds    : List (Nat × Nat)
  coll     : Option CollInst
  busy     : Word
  stall    : Word
  /-- what the dispatcher read at dispatch: a group table (R107), CLIPF (R316) -/
  latched  : List Nat
  /-- parts of a REWIND still to end, the running one first; and whether that one has run (R75) -/
  parts    : List (List Word)
  partOn   : Bool
  deriving DecidableEq, Repr

/-- A commit journal record (R43). -/
structure JournalRec where
  ring    : Nat
  seq     : BitVec 48
  part    : Nat
  /-- what is still to be applied -/
  acts    : List CommitAct
  /-- ELAPSED_TICKS at the commit point -/
  elapsed : Nat
  /-- segment of the descriptor's cell -/
  seg     : Option (BitVec 48)
  /-- a fault, a partition reset or a warm reset came after the commit point (R44) -/
  interrupted : Bool
  deriving DecidableEq, Repr

/-- A tally marked by a store command whose ring is halted at its failed end (R218, R219): the ring, the tally, the cause
(0 to 6 in the order of phase subindexes 0x08 to 0x0E) and the dispatch order. -/
structure WaitMark where
  ring  : Nat
  tally : Nat
  cause : Nat
  order : Nat
  deriving DecidableEq, Repr

/-- Hopper, dispatcher and retained SRAM. -/
structure Hopper where
  rings      : List (Nat × Ring)
  ledger     : List (Nat × BitVec 48)
  journal    : List JournalRec
  tallies    : List (Nat × Word)
  /-- tallies that no partition owns, with the partition that owned them last (R66) -/
  tallyLast  : List (Nat × Nat)
  segments   : List Segment
  inflight   : List InFlight
  /-- hopper cells retired by repair (R390) -/
  retiredCells : List Nat
  acceptOrder : Nat
  dispatchOrder : Nat
  /-- partitions whose dispatch a discard has stopped (R47) -/
  stopped    : List Nat
  stallQuota : List Nat
  stallPool  : List Nat
  /-- rings stopped at their partition's hold limit that have not fetched since (R72) -/
  stallHold  : List Nat
  /-- the ring after the one that fetched last: round robin begins here (R60) -/
  fetchTurn  : Nat
  marks      : List WaitMark
  /-- writes of tally_mirror_base whose mirror is being written in another node's memory, with its base (R69) -/
  mirrorReqs : List (Req × Nat)
  deriving DecidableEq, Repr

/-- Content of part of a core's memory: zeros outside, undefined inside (R81, R100, R382). `kind` 0 operand store,
1 tailrace banks, 2 vector registers, 3 bolter state, 4 page-walker state; offset and size in bytes (size 0: all of it); `tag` names the
undefined content (`Config.freeByte tag offset`). -/
structure CoreRange where
  phys : Nat
  kind : Nat
  off  : Nat
  size : Nat
  tag  : Nat
  deriving DecidableEq, Repr

/-- Cores, quern engines and the parts of the repair map that belong to them. -/
structure Cores where
  sram       : List CoreRange
  /-- core_state 3, 4 or 5 of a withheld or retired logical core; 0: in service -/
  withheld   : List (Nat × Nat)
  /-- cores removed from a mask while withheld: cleared when the test ends (R98) -/
  clearLater : List Nat
  /-- logical cores moved by repair, with their physical core (R79, R392) -/
  moved      : List (Nat × Nat)
  retiredPhys : List Nat
  quernWithheld : List (Nat × Nat)
  /-- quern spare column in use, by die -/
  quernSpare : List (Nat × Nat)
  /-- millpond set group: the ways steered to spares 1 and 0, 0xFF unused, 0xFE a spare that is retired, by group (R390, R396) -/
  wayMap     : List (Nat × BitVec 16)
  /-- ways retired for want of a spare: (set group, way) (R390) -/
  retiredWays : List (Nat × Nat)
  /-- spares that have failed and are retired (R397): (unit kind, physical core, die or port, array, spare) -/
  badSpares  : List (Nat × Nat × Nat × Nat)
  /-- physical cores in the broadcast-runner mode (R99) -/
  runnerMode : List Nat
  /-- the units that each agent has claimed and may still feed: (agent, ring, unit) (R82, R85) -/
  lastClaim  : List (Nat × Nat × Nat)
  /-- compute dies lost (R393) -/
  lostDies   : List Nat
  deriving DecidableEq, Repr

/-- A device-virtual page (R222). -/
structure Mapping where
  part   : Nat
  va     : Nat
  /-- page bytes: 2^16, 2^21 or 2^30 -/
  size   : Nat
  addr   : Nat
  tier   : Nat
  /-- ring of the installing command until it commits (R224) -/
  owner  : Option Nat
  deriving DecidableEq, Repr

/-- A millpond line (R226): line address, way of its set, partition whose fill it was (none: shared infrastructure), dirty. Most
recently used first in the list. -/
structure MpLine where
  line  : Nat
  way   : Nat
  owner : Option Nat
  dirty : Bool
  deriving DecidableEq, Repr

/-- A channel migration (R245, R246). -/
structure Migration where
  channels : List Nat
  /-- waiting for free pages (step 3) -/
  blocked  : Bool
  /-- the retired channels before step 1: the old locations -/
  prior    : List Nat
  phase    : Nat
  /-- phase 0: the next stripe; phase 1: the next pinned granule of the stack being moved, downward -/
  cursor   : Nat
  /-- stacks whose pinned granules are still to move, the one being moved first -/
  toMove   : List Nat
  /-- its first 1,024 granules stand in the holding buffer -/
  held     : Bool
  /-- bytes that the migration rate has allowed and no move has used -/
  work     : Nat
  /-- health record that led to it; 0 none -/
  recSeq   : Nat
  deriving DecidableEq, Repr

/-- Memory system. -/
structure MemSys where
  /-- bytes by global address -/
  bytes    : List Host.Cell
  /-- ranges whose unlisted bytes hold undefined content: first key, keys, tag of `Config.freeByte` (R240) -/
  undef    : List (Nat × Nat × Nat)
  maps     : List Mapping
  /-- freed T2 pages awaiting zeroing: address, bytes -/
  unzeroed : List (Nat × Nat)
  /-- translation caches: (agent, partition, page address) -/
  xlat     : List (Nat × Nat × Nat)
  millpond : List MpLine
  /-- write-combining buffer entries: line and mask of the bytes that stand in it, bit b for byte b (R232) -/
  wcb      : List (Nat × Nat)
  lostLines : List Nat
  /-- retired channels in order of retirement (R231) -/
  retired  : List Nat
  reloc    : List Nat
  migration : Option Migration
  /-- channels whose pass of R245 waits for the one that runs, with the record that led to each -/
  retireQueue : List (List Nat × Nat)
  /-- retired ranges whose mapped pages still wait for free pages (R249) -/
  evacRanges : List Nat
  /-- channel_state 1, 2 or 3 of a live channel -/
  chanState : List (Nat × Nat)
  /-- consecutive failed retrains (R244) -/
  chanFails : List (Nat × Nat)
  /-- remapped rows (channel, row), and rows repaired by post-package repair -/
  rowRemap : List (Nat × Nat)
  rowRepaired : List (Nat × Nat)
  retiredRanges : List Nat
  /-- weir buckets: 3 × partition + (0 T1 and T2, 1 T3, 2 T4); what is missing from full, in 25ths of a byte: at a rate of r
  MB/s a tick refills r of them (R234) -/
  weirUsed : List (Nat × Nat)
  /-- start epochs of active walks: (partition, ring, unit, epoch) -/
  walks    : List (Nat × Nat × Nat × Nat)
  /-- free list of prefix nodes: (partition, head, nodes) (R182) -/
  prefixFree : List (Nat × Nat × Nat)
  marginTrained : Bool
  /-- pinned_mib_per_stack in force: the entry's value at the last module reset (R230) -/
  pinnedNow : Nat
  deriving DecidableEq, Repr

/-- An outstanding fabric transaction of this module (R266, R268). -/
structure Txn where
  node   : Nat
  tag    : BitVec 32
  pkt    : Packet
  /-- ring whose command sent it -/
  ring   : Option Nat
  /-- local place of READ data or of an atomic's old value -/
  dst    : Option Nat
  /-- tick at which its transaction timeout passes -/
  deadline : Word
  /-- it has been sent: the windows of R266 let it go; and the tick at which it went (R216) -/
  issued : Bool
  sentAt : Word
  deriving DecidableEq, Repr

/-- A deduplication table entry (R269): `bits` lists the applied tags of the window from `base`. -/
structure Dedup where
  node   : Nat
  base   : BitVec 32
  bits   : List (BitVec 32)
  slots  : List (BitVec 32 × Word)
  expiry : Word
  deriving DecidableEq, Repr

/-- A slot that waits to leave in a flit: its class (VC 0 to 3, background 4), the PRI bit of its transaction, whether it is the
header slot, the tick at which its transaction's LIFE ends, and its 32 bytes (R259, R265, R267). -/
structure QSlot where
  cls   : Nat
  pri   : Bool
  first : Bool
  due   : Nat
  bytes : List Byte
  deriving DecidableEq, Repr

/-- A transaction handed to a port on a VC; port 6: an answer to the module itself. -/
structure Sent where
  port : Nat
  vc   : Nat
  pkt  : Packet
  deriving DecidableEq, Repr

/-- A link's flit layer (R257 to R261, R341): Kraur ports 0 to 5, Falyndi 6. -/
structure Link where
  nextLseq : BitVec 12
  replay   : List (BitVec 12 × List Byte)
  /-- when the LIFE of each transaction whose header slot lies in the replay buffer runs out: LSEQ, slot, tick (R267) -/
  lives    : List (BitVec 12 × Nat × Nat)
  /-- LSEQ expected next, and whether flits are discarded until it arrives -/
  rxNext   : BitVec 12
  rxDiscard : Bool
  /-- credit held per class: VC 0 to 3, background -/
  credits  : List Nat
  /-- received slots per class that await their transaction's end -/
  rxSlots  : List (Nat × List Byte)
  /-- lane whose traffic the spare carries -/
  spareFor : Option Nat
  /-- slots that wait for a flit, credit or the link -/
  queue    : List QSlot
  /-- credit to return to the partner, per class -/
  owed     : List Nat
  /-- VC whose turn is next (R265) -/
  turn     : Nat
  /-- the last turns of the port, newest first, at most 255: whether priority took the turn (R234, R265) -/
  recent   : List Bool
  /-- a data flit has arrived whose acknowledgement no flit has carried yet (R261) -/
  ackDue   : Bool
  /-- ticks of the replays within the bound of R260 -/
  replayed : List Word
  /-- control and idle flits sent, oldest first (R257, R260, R261) -/
  ctrl     : List (List Byte)
  /-- the spare lane's PRBS31 shows no error (R257) -/
  spareClean : Bool
  /-- protocol version the link runs at; 0: none negotiated (R7, R343) -/
  version  : Nat
  deriving DecidableEq, Repr

/-- A flit layer at reset. -/
def Link.fresh (credits : List Nat) : Link :=
  { nextLseq := 0, replay := [], lives := [], rxNext := 0, rxDiscard := false, credits := credits, rxSlots := [], spareFor := none,
    queue := [], owed := [0, 0, 0, 0, 0], turn := 0, recent := [], ackDue := false, replayed := [], ctrl := [],
    spareClean := true, version := 0 }

/-- Kraur fabric. -/
structure Fabric where
  links    : List Link
  /-- who was the partner when the replay buffer was filled, by port -/
  partners : List (Nat × Nat)
  dedup    : List Dedup
  /-- always-on tick at which the table was last cleared -/
  dedupCleared : Word
  tags     : List (Nat × BitVec 32)
  txns     : List Txn
  /-- borrowers of each window in order of first access -/
  borrowers : List (Nat × List Nat)
  /-- notice deadline of each window in NOTICE -/
  noticeEnd : List (Nat × Word)
  /-- noticed T3 pool entries: 16 × partition + entry -/
  noticed  : List Nat
  staged   : List Chunk
  lasersReady : BitVec 6
  ioDieBFault : Bool
  /-- transactions, responses and messages handed to the links, oldest first -/
  sent     : List Sent
  /-- transactions for this module that wait at its ports, with their tick of arrival (R271) -/
  arrivals : List (Packet × Word)
  /-- port and lane being margined (R291) -/
  margined : Option (Nat × Nat)
  deriving DecidableEq, Repr

/-- A response kept for repeats (R352), and what was sent. -/
structure Kept where
  txid  : BitVec 32
  src   : Source
  bytes : List Byte
  deriving DecidableEq, Repr

/-- A segmented session (R356). -/
structure Session where
  index    : BitVec 16
  sub      : BitVec 8
  src      : Source
  upload   : Bool
  size     : Word
  segments : BitVec 32
  crc      : BitVec 32
  /-- upload snapshot -/
  snapshot : List Byte
  /-- download segments held -/
  held     : List (Nat × List Byte)
  /-- tick of its last message -/
  last     : Word
  deriving DecidableEq, Repr

/-- A datagram sent on the management bus: IPv6 addresses and UDP ports of its sender and its receiver, and its bytes (R351). -/
structure Datagram where
  srcAddr : BitVec 128
  srcPort : BitVec 16
  addr  : BitVec 128
  port  : BitVec 16
  bytes : List Byte
  deriving DecidableEq, Repr

/-- A host access at the FHA-4: a write with its data, or a read of `len` bytes and the TAG of its transaction (R342, R344). -/
structure HostAccess where
  isWrite : Bool
  addr    : Nat
  len     : Nat
  data    : List Byte
  tag     : Nat
  deriving DecidableEq, Repr

/-- A host write. -/
def hostPut (a : Nat) (data : List Byte) : HostAccess := { isWrite := true, addr := a, len := data.length, data := data, tag := 0 }

/-- Falyndi, FHA-4, mailbox, management bus. -/
structure HostSide where
  link      : Link
  linkLost  : Bool
  /-- tick at which the link went down (R348) -/
  downAt    : Word
  dropped   : Nat
  /-- host accesses that wait while the link is down, in order: the FHA-4 holds writes of up to 256 KiB, what comes behind them stalls
  at the host (R347) -/
  fhaBuf    : List HostAccess
  /-- what the last host read was answered with (R344) -/
  hostRead  : List Byte
  /-- records and messages held while the link is down, as (address, bytes) -/
  held      : List (Nat × List Byte)
  mailReq   : List (Nat × Byte)
  mailResp  : List Byte
  mailBusy  : Bool
  cause     : BitVec 2
  /-- MSI-X vectors sent, oldest first -/
  msix      : List Nat
  /-- vectors in holdoff: (vector, a message is withheld, tick at which its last message left) -/
  holdoff   : List (Nat × Bool × Nat)
  /-- datagrams sent on the management bus, oldest first -/
  busOut    : List Datagram
  kept      : List Kept
  sessions  : List Session
  /-- event log records as bytes, oldest first -/
  events    : List (List Byte)
  journal   : List (List Byte)
  factoryTest : Bool
  deriving DecidableEq, Repr

/-- Reset kinds (R377). -/
inductive ResetKind where
  | warm
  | module
  | cold
  deriving DecidableEq, Repr

/-- Power, clocks, pins, resets. -/
structure Power where
  inputOk     : Bool
  pgood       : Bool
  modRstLow   : Bool
  thermLow    : Bool
  /-- the module drives THERM_TRIP_N low and is held in reset: tick of the trip -/
  tripped     : Option Word
  /-- a module reset raised within the 60 s waits -/
  resetWaits  : Bool
  /-- held in module reset -/
  held        : Bool
  resetRunning : Option ResetKind
  /-- a P-state transition is running: its target, and whether it is a wake -/
  transition  : Option (Nat × Bool)
  /-- requester of the transition whose response is due -/
  transReq    : Option Req
  millerClock : Bool
  /-- array duty in 64ths -/
  duty        : Nat
  samples     : List (BitVec 16)
  throttling  : Bool
  /-- sensor readings by sensor -/
  sensors     : List (Nat × BitVec 8)
  /-- last tick at which a command was in flight (R367) -/
  idleSince   : Word
  /-- values that entries of powered-down blocks held at entry into P2 to P4 (R372) -/
  heldReads   : List (Nat × Word)
  deriving DecidableEq, Repr

/-- A health record (spec/15 "Health record"). -/
structure HealthRec where
  seq      : Word
  ticks    : Word
  source   : BitVec 8
  part     : BitVec 4
  partValid : Bool
  shared   : Bool
  injected : Bool
  outcome  : BitVec 4
  unitKind : BitVec 5
  unit     : BitVec 16
  address  : Word
  locationA : BitVec 16
  locationB : BitVec 32
  action   : BitVec 8
  newUnit  : BitVec 16
  transients : BitVec 8
  testTicks : BitVec 32
  related  : BitVec 24
  errors   : BitVec 32
  /-- MODEL'S OWN: LOCATION_B is a column that a checksum row, a test or an injection has named (R96, R390) -/
  namesCol : Bool := false
  deriving DecidableEq, Repr

/-- A queued or running targeted test or repair verification (R384, R386, R389). -/
structure Test where
  seq      : Word
  running  : Bool
  /-- verification after a repair -/
  verify   : Bool
  /-- PERSIST of the injection behind the error, if any -/
  persist  : Option (BitVec 2)
  deriving DecidableEq, Repr

/-- An armed injection (R398). -/
structure Injection where
  kind    : BitVec 4
  persist : BitVec 2
  unit    : BitVec 16
  locA    : BitVec 16
  locB    : BitVec 16
  /-- inj_address at the ARM, for kinds 5 and 6 -/
  addr    : Word
  deriving DecidableEq, Repr

/-- Health and repair. -/
structure Health where
  log      : List HealthRec
  lasting  : List HealthRec
  tests    : List Test
  injections : List Injection
  /-- transient outcomes: (unit kind, unit, tick) -/
  transients : List (Nat × Nat × Word)
  failed   : Bool
  startupResult : Nat
  deriving DecidableEq, Repr

/-- A firmware slot's bytes and whether ROLLBACK staged it (R405, R406). -/
structure FwSlot where
  bytes      : List Byte
  byRollback : Bool
  deriving DecidableEq, Repr

/-- Firmware and security. -/
structure Firmware where
  slot0    : FwSlot
  slot1    : FwSlot
  /-- previous settings image: layout and class-P values (R407) -/
  prevLayout : Option (BitVec 16)
  prevImage : List (Nat × Word)
  migrationReport : List Byte
  attestReport : List Byte
  recovery : Bool
  deriving DecidableEq, Repr

/-- One copy of a stream's state (R323). -/
structure StreamCopy where
  /-- parameter sets, position and entropy state, as the codec's own decoder or encoder numbers them -/
  token    : Nat
  /-- pictures of the stream so far -/
  pictures : Nat
  /-- pictures of the next unit that have been decoded already (R327) -/
  taken    : Nat
  /-- the pictures its slots hold (R321, R323) -/
  slots    : List (Nat × Config.Picture)
  /-- slots that the stream refers to -/
  refs     : List Nat
  /-- slots that wait for output, with their places in output order, and how many of them are due (R326) -/
  waiting  : List (Nat × Int)
  due      : Nat
  /-- the most recently decoded good picture (R333) -/
  good     : Option Config.Picture
  /-- slots whose picture could not be decoded; only a random access point can be decoded next (R333) -/
  lost     : List Nat
  needRap  : Bool
  deriving DecidableEq, Repr

/-- A stream context (R321 to R325). -/
structure MediaCtx where
  engine : Nat
  ctx    : Nat
  part   : Nat
  /-- device-virtual address of the context store -/
  store  : Nat
  codec  : Nat
  encode : Bool
  deep   : Bool
  maxW   : Nat
  maxH   : Nat
  slots  : Nat
  cur    : Bool
  copyA  : StreamCopy
  copyB  : StreamCopy
  deriving DecidableEq, Repr

/-- Media engines. -/
structure Media where
  contexts : List MediaCtx
  /-- engine_state 3 or 5 -/
  withheld : List (Nat × Nat)
  /-- context the engine last worked for -/
  lastCtx  : List (Nat × Nat)
  /-- commands whose picture the watchdog abandoned: (ring, picture) -/
  abandoned : List (Nat × Nat)
  deriving DecidableEq, Repr

/-- The state of the module. -/
structure State where
  variant : Variant
  ident   : Ident
  /-- dictionary entries and counters, by 256 × index + subindex, as differing from their defaults -/
  dict    : List (Nat × Word)
  hop     : Hopper
  cores   : Cores
  mem     : MemSys
  fab     : Fabric
  host    : HostSide
  pwr     : Power
  hlth    : Health
  fw      : Firmware
  media   : Media
  /-- MODEL'S OWN: how often content or a value has become undefined (log entry 4) -/
  fresh   : Nat
  /-- waiting commands, first in first out -/
  pending : List Instr
  deriving DecidableEq, Repr

/-- Reasons to stop with a fault. The spec has the module handle every error itself, so no command raises one;
`poweredDown` is kept for the interface (raised by no meaning; safe). -/
inductive Fault where
  | poweredDown
  deriving DecidableEq, Repr

/-- Reasons to refuse. `notModelled`: raised by Dispatch.lean for a row without a meaning (safe: a stop). -/
inductive Refusal where
  | notModelled (mnemonic : String)
  deriving DecidableEq, Repr

/-- Hopper at reset (R50, R380). -/
def Hopper.reset : Hopper :=
  { rings := [], ledger := [], journal := [], tallies := [], tallyLast := [], segments := [], inflight := [], retiredCells := [],
    acceptOrder := 0, dispatchOrder := 0, stopped := [], stallQuota := [], stallPool := [], stallHold := [], fetchTurn := 0, marks := [], mirrorReqs := [] }

/-- The memories of every physical core with undefined content (R380). -/
def allLost (tag : Nat) : List CoreRange :=
  (List.range 156).flatMap (fun p => (List.range 5).map (fun k => { phys := p, kind := k, off := 0, size := 0, tag := tag }))

/-- Cores at first reset: the factory repair map, no core withheld (R79), memories with undefined content. -/
def Cores.reset : Cores :=
  { sram := allLost 0, withheld := [], clearLater := [], moved := [], retiredPhys := [], quernWithheld := [], quernSpare := [],
    wayMap := [], retiredWays := [], badSpares := [], runnerMode := [], lastClaim := [], lostDies := [] }

/-- Memory at reset: zeros (R426). -/
def MemSys.reset : MemSys :=
  { bytes := [], undef := [], maps := [], unzeroed := [], xlat := [], millpond := [], wcb := [], lostLines := [], retired := [],
    reloc := [], migration := none, retireQueue := [], evacRanges := [], chanState := [], chanFails := [], rowRemap := [], rowRepaired := [],
    retiredRanges := [], weirUsed := [], walks := [], prefixFree := [], marginTrained := true, pinnedNow := 1536 }

/-- Credits of a Kraur port: 1,024 slots for each VC, 512 for the background stream (R261). -/
def kraurCredits : List Nat := [1024, 1024, 1024, 1024, 512]

/-- Fabric at reset. -/
def Fabric.reset : Fabric :=
  { links := List.replicate 6 (Link.fresh kraurCredits), partners := [], dedup := [], dedupCleared := 0, tags := [],
    txns := [], borrowers := [], noticeEnd := [], noticed := [], staged := [], lasersReady := 0, ioDieBFault := false,
    sent := [], arrivals := [], margined := none }

/-- Host side at reset. -/
def HostSide.reset : HostSide :=
  { link := Link.fresh kraurCredits, linkLost := false, downAt := 0, dropped := 0, fhaBuf := [], hostRead := [], held := [],
    mailReq := [], mailResp := [],
    mailBusy := false, cause := 0, msix := [], holdoff := [], busOut := [], kept := [], sessions := [], events := [],
    journal := [], factoryTest := false }

/-- Power at reset: input in range, in P1 (R365, R377, R421). -/
def Power.reset : Power :=
  { inputOk := true, pgood := true, modRstLow := false, thermLow := false, tripped := none, resetWaits := false,
    held := false, resetRunning := none, transition := none, transReq := none, millerClock := true, duty := 64,
    samples := [], throttling := false, sensors := [], idleSince := 0, heldReads := [] }

/-- Health at reset: empty logs, no failure (R397). -/
def Health.reset : Health :=
  { log := [], lasting := [], tests := [], injections := [], transients := [], failed := false, startupResult := 0 }

/-- Firmware at first reset (log entry 2). -/
def Firmware.reset : Firmware :=
  { slot0 := { bytes := Config.factoryBundle, byRollback := false }, slot1 := { bytes := [], byRollback := false }, prevLayout := none,
    prevImage := [], migrationReport := [], attestReport := [], recovery := false }

/-- Media engines at reset. -/
def Media.reset : Media :=
  { contexts := [], withheld := [], lastCtx := [], abandoned := [] }

/-- The module right after its first cold reset: P1, partition 0 enabled and quiescent, the bywash not yet open,
ledger_epoch incremented to 1 (R50), every other dictionary entry at its default (log entries 1 and 2). -/
def State.reset : State :=
  { variant := .cxm1440,
    ident := { eeprom := { serial := [], boardRev := 0, mac := 0 }, serial := [], boardRev := 0, packageId := 0, mac := 0,
               slotStrap := 0xFF, rootDigest := sha256 Config.rootKey, deviceCert := [], caCert := [] },
    dict := [(256 * 0x2100 + 5, 1)],
    hop := Hopper.reset, cores := Cores.reset, mem := MemSys.reset, fab := Fabric.reset, host := HostSide.reset,
    pwr := Power.reset, hlth := Health.reset, fw := Firmware.reset, media := Media.reset, fresh := 1, pending := [] }

end Sys2Proof.Machine
end

