-- ==== Sys2Proof/Machine/Dict.lean ====
section
/-! DEFINITION. The Orogus dictionary's entry tables (R357 to R361, R427): type, access right, persistence class and
default of every entry of the spec's tables, in the order of its chapters. Entries whose value other state determines
are read by `dictRead` of Machine/Flags.lean. -/

namespace Sys2Proof.Machine

/-- Data types (R357, R358). -/
inductive DType where
  | bool | u8 | u16 | u32 | u64 | i32 | i64 | f32 | str | dom
  deriving DecidableEq, Repr

/-- Access rights (R359). -/
inductive Access where
  | const | ro | rw | wo | rwq
  deriving DecidableEq, Repr

/-- Persistence classes (R361). -/
inductive Persist where
  | v | w | p
  deriving DecidableEq, Repr

/-- One row of an entry table: `span` indexes from `index`, `subs` subindexes from `sub`. -/
structure DEntry where
  index  : Nat
  span   : Nat
  sub    : Nat
  subs   : Nat
  type   : DType
  access : Access
  persist : Persist
  dflt   : Nat
  deriving DecidableEq, Repr

def mkEntry (index span sub subs : Nat) (type : DType) (access : Access) (persist : Persist) (dflt : Nat) : DEntry :=
  { index := index, span := span, sub := sub, subs := subs, type := type, access := access, persist := persist,
    dflt := dflt }

/-- Type code of DESCRIBE and of the journal (R358). -/
def DType.code : DType → Nat
  | .bool => 1
  | .u8 => 2
  | .u16 => 3
  | .u32 => 4
  | .u64 => 5
  | .i32 => 6
  | .i64 => 7
  | .f32 => 8
  | .str => 9
  | .dom => 10

/-- Bytes on the wire of a fixed-size type. -/
def DType.size : DType → Nat
  | .bool => 1
  | .u8 => 1
  | .u16 => 2
  | .u32 => 4
  | .u64 => 8
  | .i32 => 4
  | .i64 => 8
  | .f32 => 4
  | .str => 256
  | .dom => 0

def Access.code : Access → Nat
  | .const => 0
  | .ro => 1
  | .rw => 2
  | .wo => 3
  | .rwq => 4

def Persist.code : Persist → Nat
  | .v => 0
  | .w => 1
  | .p => 2

/-- Entries of spec/00_scope.md. -/
def entriesIdentity : List DEntry :=
  [mkEntry 0x1000 1 0x01 1 .u8 .const .p 1,  -- arch_level
   mkEntry 0x1000 1 0x02 1 .str .const .p 0,  -- ordering_number
   mkEntry 0x1000 1 0x03 1 .u16 .const .p 144,  -- enabled_cores
   mkEntry 0x1000 1 0x04 1 .u8 .const .p 1]  -- max_dver

/-- Entries of spec/01_architecture.md. -/
def entriesPartition : List DEntry :=
  [mkEntry 0x2000 16 0x01 1 .bool .rwq .p 0,  -- enabled
   mkEntry 0x2000 16 0x02 1 .u64 .rwq .p 0,  -- core_mask_0
   mkEntry 0x2000 16 0x03 1 .u64 .rwq .p 0,  -- core_mask_1
   mkEntry 0x2000 16 0x04 1 .u64 .rwq .p 0,  -- core_mask_2
   mkEntry 0x2000 16 0x05 1 .u8 .ro .v 0,  -- state
   mkEntry 0x2000 16 0x06 1 .bool .rw .v 1,  -- quiesce_request
   mkEntry 0x2000 16 0x07 1 .u32 .ro .v 0]  -- in_flight

/-- Entries of spec/02_command_model.md. -/
def entriesRing : List DEntry :=
  [mkEntry 0x2100 1 0x01 1 .u16 .const .p 16384,  -- ring_count
   mkEntry 0x2100 1 0x02 1 .u64 .rwq .w 0,  -- ring_config_base
   mkEntry 0x2100 1 0x03 1 .u64 .ro .w 0,  -- ring_status_base
   mkEntry 0x2100 1 0x04 1 .u64 .wo .v 0,  -- ring_cmd
   mkEntry 0x2100 1 0x05 1 .u32 .ro .p 0,  -- ledger_epoch
   mkEntry 0x2100 1 0x06 1 .u64 .ro .w 0,  -- doorbell_base
   mkEntry 0x2100 1 0x0C 1 .u64 .ro .w 0,  -- ring_status_mirror_base
   mkEntry 0x2000 16 0x08 1 .u64 .rwq .w 0,  -- tensor_table_base
   mkEntry 0x2000 16 0x09 1 .u32 .rwq .w 0]  -- tensor_table_entries

/-- Entries of spec/03_hopper.md. -/
def entriesHopper : List DEntry :=
  [mkEntry 0x2100 1 0x07 1 .u16 .rwq .p 32,  -- fetch_depth
   mkEntry 0x2100 1 0x08 1 .u64 .rwq .w 0,  -- tally_mirror_base
   mkEntry 0x2100 1 0x09 1 .u16 .const .p 4096,  -- segment_dir_entries
   mkEntry 0x2100 1 0x0A 1 .u16 .ro .v 0,  -- segments_in_use
   mkEntry 0x2100 1 0x0B 1 .u32 .ro .v 65536,  -- cells_free
   mkEntry 0x2000 16 0x0A 1 .u32 .rwq .p 65536,  -- cell_quota
   mkEntry 0x2000 16 0x0B 1 .u32 .ro .v 0,  -- cells_used
   mkEntry 0x2000 16 0x0C 1 .u32 .ro .v 0,  -- cells_held
   mkEntry 0x2000 16 0x0D 1 .u16 .rwq .p 0,  -- tally_base
   mkEntry 0x2000 16 0x0E 1 .u16 .rwq .p 0,  -- tally_count
   mkEntry 0x2000 16 0x0F 1 .bool .rwq .p 0]  -- remote_signal_enable

/-- Entries of spec/04_qorek_core.md. -/
def entriesCore : List DEntry :=
  [mkEntry 0x2200 1 0x00 1 .u8 .const .p 144,  -- core_entries
   mkEntry 0x2200 1 0x01 144 .u8 .ro .v 0,  -- core_state
   mkEntry 0x2201 1 0x01 144 .u8 .ro .p 0,  -- phys_core
   mkEntry 0x2202 1 0x01 156 .u64 .ro .p 0xFFFFFFFFFFFFFFFF,  -- spare_columns
   mkEntry 0x2206 1 0x01 6 .u8 .ro .v 1]  -- quern_state

/-- Entries of spec/05_numerics.md. -/
def entriesNumeric : List DEntry :=
  [mkEntry 0x2300 1 0x01 1 .u8 .rwq .p 3,  -- default_span
   mkEntry 0x2300 1 0x02 1 .u8 .const .p 64,  -- watch_slots
   mkEntry 0x2301 1 0x01 64 .u32 .rw .w 0]  -- vanish_watch

/-- Entries of spec/06_tiling_convolution.md. -/
def entriesTiling : List DEntry :=
  [mkEntry 0x2203 1 0x01 1 .u8 .rwq .p 0]  -- visit_order

/-- Entries of spec/07_attention_kv.md. -/
def entriesKv : List DEntry :=
  [mkEntry 0x2610 16 0x01 1 .u64 .rwq .w 0,  -- kv_dir_base
   mkEntry 0x2610 16 0x02 1 .u32 .rwq .w 0,  -- kv_dir_entries
   mkEntry 0x2610 16 0x03 1 .u64 .rwq .w 0,  -- kv_pool_base
   mkEntry 0x2610 16 0x04 1 .u16 .rwq .p 0xFFFF,  -- walk_fence_tally
   mkEntry 0x2610 16 0x05 1 .u64 .ro .w 1,  -- kv_epoch
   mkEntry 0x2610 16 0x06 1 .u64 .rwq .w 0,  -- prefix_base
   mkEntry 0x2610 16 0x07 1 .u8 .rwq .w 10,  -- prefix_buckets_log2
   mkEntry 0x2610 16 0x08 1 .u32 .rwq .w 0,  -- prefix_nodes
   mkEntry 0x2610 16 0x09 1 .u8 .rwq .p 4,  -- prefix_granule_log2
   mkEntry 0x2610 16 0x0A 1 .u64 .rwq .p 0,  -- prefix_salt
   mkEntry 0x2610 16 0x0B 1 .u32 .ro .v 0,  -- deferred_pages
   mkEntry 0x2610 16 0x0C 1 .u32 .ro .v 0]  -- prefix_free

/-- Entries of spec/08_activation_store.md. -/
def entriesStore : List DEntry :=
  [mkEntry 0x2500 1 0x01 1 .u16 .const .p 136,  -- fixed_rate_bytes
   mkEntry 0x2500 1 0x02 1 .u16 .const .p 256,  -- unit_side
   mkEntry 0x2500 1 0x03 1 .u16 .rw .p 25,  -- late_t2_ticks
   mkEntry 0x2500 1 0x04 1 .u16 .rw .p 75,  -- late_t3_ticks
   mkEntry 0x2500 1 0x05 1 .u16 .rw .p 150]  -- late_t4_ticks

/-- Entries of spec/09_memory_system.md. -/
def entriesMemory : List DEntry :=
  [mkEntry 0x2000 16 0x10 1 .u8 .rwq .p 16,  -- t1_ways
   mkEntry 0x2000 16 0x11 1 .u64 .rwq .p 0xFFFFFFFFFFFFFFFF,  -- t2_quota
   mkEntry 0x2000 16 0x12 1 .u64 .rwq .p 0xFFFFFFFFFFFFFFFF,  -- t3_quota
   mkEntry 0x2000 16 0x13 1 .u64 .rwq .p 0xFFFFFFFFFFFFFFFF,  -- t4_quota
   mkEntry 0x2000 16 0x14 1 .u64 .ro .w 0,  -- t2_used
   mkEntry 0x2000 16 0x15 1 .u64 .ro .w 0,  -- t3_used
   mkEntry 0x2000 16 0x16 1 .u64 .ro .w 0,  -- t4_used
   mkEntry 0x2000 16 0x17 1 .u32 .rw .p 0xFFFFFFFF,  -- weir_t2_rate
   mkEntry 0x2000 16 0x18 1 .u32 .rw .p 1024,  -- weir_t2_burst
   mkEntry 0x2000 16 0x19 1 .u32 .rw .p 0xFFFFFFFF,  -- weir_t3_rate
   mkEntry 0x2000 16 0x1A 1 .u32 .rw .p 1024,  -- weir_t3_burst
   mkEntry 0x2000 16 0x1B 1 .u32 .rw .p 0xFFFFFFFF,  -- weir_t4_rate
   mkEntry 0x2000 16 0x1C 1 .u32 .rw .p 1024,  -- weir_t4_burst
   mkEntry 0x2430 16 0x01 16 .u64 .rw .w 0,  -- t3_window_base
   mkEntry 0x2430 16 0x11 16 .u64 .rw .w 0,  -- t3_window_size
   mkEntry 0x2440 16 0x01 16 .u64 .rw .w 0,  -- t4_window_base
   mkEntry 0x2440 16 0x11 16 .u64 .rw .w 0,  -- t4_window_size
   mkEntry 0x2400 1 0x01 1 .u64 .ro .p 908385583104,  -- region0_size
   mkEntry 0x2400 1 0x02 1 .u64 .ro .p 0,  -- hbm_capacity
   mkEntry 0x2400 1 0x03 1 .u16 .ro .p 0,  -- channels_retired
   mkEntry 0x2400 1 0x04 1 .u16 .rw .p 1536,  -- pinned_mib_per_stack
   mkEntry 0x2400 1 0x05 1 .u64 .ro .v 0,  -- zeroing_backlog
   mkEntry 0x2400 1 0x06 1 .u16 .ro .w 0,  -- lost_lines
   mkEntry 0x2400 1 0x07 1 .bool .rw .w 0,  -- region0_lost
   mkEntry 0x2400 1 0x08 1 .u8 .rw .p 32,  -- migration_rate
   mkEntry 0x2401 12 0x01 32 .u8 .ro .v 0,  -- channel_state
   mkEntry 0x2410 1 0x01 1 .u8 .rwq .p 0,  -- weir_mode
   mkEntry 0x2410 1 0x02 1 .u8 .rw .p 10,  -- weir_floor_pct
   mkEntry 0x2411 1 0x01 1 .u8 .const .p 16,  -- millpond_ways
   mkEntry 0x2411 1 0x02 1 .u8 .const .p 96,  -- set_groups
   mkEntry 0x2412 1 0x01 1 .u32 .rw .p 86400,  -- scrub_period_s
   mkEntry 0x2412 1 0x02 1 .u64 .ro .w 0,  -- scrub_position
   mkEntry 0x2413 1 0x01 1 .bool .rw .v 0,  -- margin_enable
   mkEntry 0x2413 1 0x02 1 .u16 .rw .v 0,  -- margin_target
   mkEntry 0x2413 1 0x03 1 .u8 .rw .v 0,  -- margin_axis
   mkEntry 0x2413 1 0x04 1 .i32 .rw .v 0,  -- margin_step
   mkEntry 0x2413 1 0x05 1 .bool .wo .v 0,  -- margin_run
   mkEntry 0x2413 1 0x06 1 .u64 .ro .v 0,  -- margin_result
   mkEntry 0x2414 1 0x01 1 .u16 .ro .v 0xFFFF,  -- migrating_channel
   mkEntry 0x2414 1 0x02 1 .u32 .ro .v 0,  -- migration_cursor
   mkEntry 0x2414 1 0x03 1 .u8 .ro .v 0,  -- migration_phase
   mkEntry 0x2420 1 0x01 128 .u64 .rw .w 0,  -- latency_rings_lo
   mkEntry 0x2421 1 0x01 128 .u64 .rw .w 0,  -- latency_rings_hi
   mkEntry 0x2450 1 0x01 1 .dom .ro .p 0,  -- interleave_map
   mkEntry 0x2450 1 0x02 1 .dom .ro .w 0]  -- lost_line_table

/-- Entries of spec/10_kraur_fabric.md. -/
def entriesFabric : List DEntry :=
  [mkEntry 0x2700 1 0x01 3 .u8 .rwq .p 1,  -- dim_x, dim_y, dim_z
   mkEntry 0x2700 1 0x04 3 .u8 .rwq .p 0,  -- coord_x, coord_y, coord_z
   mkEntry 0x2700 1 0x07 1 .u16 .ro .p 0,  -- node_id
   mkEntry 0x2700 1 0x08 1 .u32 .rw .p 2000,  -- txn_timeout_us
   mkEntry 0x2700 1 0x09 1 .u32 .rw .p 400,  -- txn_retry_us
   mkEntry 0x2700 1 0x0A 1 .u8 .ro .v 0,  -- fabric_state
   mkEntry 0x2700 1 0x0B 1 .bool .rw .v 0,  -- bywash_force
   mkEntry 0x2700 1 0x0C 1 .bool .ro .v 1,  -- bywash_closed
   mkEntry 0x2700 1 0x0D 1 .u16 .const .p 4096,  -- dedup_entries
   mkEntry 0x2700 1 0x0E 1 .u32 .rw .p 4096,  -- lane_swap_threshold
   mkEntry 0x2701 6 0x01 1 .u8 .ro .v 0,  -- port_state
   mkEntry 0x2701 6 0x02 1 .u16 .ro .v 0xFFFF,  -- partner_node
   mkEntry 0x2701 6 0x03 1 .u16 .ro .p 0x0FFF,  -- lane_map
   mkEntry 0x2701 6 0x04 1 .u16 .ro .v 0,  -- link_delay_ticks
   mkEntry 0x2707 1 0x01 1 .bool .rw .v 0,  -- lmargin_enable
   mkEntry 0x2707 1 0x02 1 .u8 .rw .v 0,  -- lmargin_port
   mkEntry 0x2707 1 0x03 1 .u8 .rw .v 0,  -- lmargin_lane
   mkEntry 0x2707 1 0x04 1 .u8 .rw .v 0,  -- lmargin_axis
   mkEntry 0x2707 1 0x05 1 .i32 .rw .v 0,  -- lmargin_step
   mkEntry 0x2707 1 0x06 1 .bool .wo .v 0,  -- lmargin_run
   mkEntry 0x2707 1 0x07 1 .u64 .ro .v 0,  -- lmargin_result
   mkEntry 0x2710 1 0x01 1 .u64 .wo .v 0,  -- lend_cmd
   mkEntry 0x2710 1 0x02 1 .u8 .ro .v 0,  -- lend_result
   mkEntry 0x2740 64 0x01 1 .u8 .ro .w 0,  -- window_state
   mkEntry 0x2740 64 0x02 1 .u64 .ro .w 0,  -- window_base
   mkEntry 0x2740 64 0x03 1 .u64 .ro .w 0,  -- window_size
   mkEntry 0x2740 64 0x04 1 .u8 .ro .w 0,  -- window_partition
   mkEntry 0x2740 64 0x05 1 .u32 .ro .v 0,  -- notice_ticks
   mkEntry 0x2740 64 0x06 1 .u8 .ro .w 0]  -- window_borrowers

/-- Entries of spec/11_training_resilience.md. -/
def entriesResilience : List DEntry :=
  [mkEntry 0x2800 1 0x01 1 .u32 .rw .p 256,  -- auto_size_mib
   mkEntry 0x2800 1 0x02 1 .u8 .rw .p 8,  -- auto_period
   mkEntry 0x2810 16 0x01 64 .u64 .rwq .w 0,  -- stream_seed
   mkEntry 0x2820 16 0x01 64 .u64 .rwq .w 0,  -- stream_ctr
   mkEntry 0x2830 1 0x01 128 .u32 .rw .w 0,  -- tap_config
   mkEntry 0x2831 1 0x01 128 .u32 .rw .w 0,  -- tap_config
   mkEntry 0x2832 1 0x01 128 .u64 .ro .w 0,  -- tap_value
   mkEntry 0x2833 1 0x01 128 .u64 .ro .w 0]  -- tap_value

/-- Entries of spec/12_media_engines.md. -/
def entriesMedia : List DEntry :=
  [mkEntry 0x2900 1 0x01 1 .u8 .const .p 8,  -- engine_count
   mkEntry 0x2900 1 0x02 1 .u8 .const .p 0x0F,  -- encode_mask
   mkEntry 0x2900 1 0x03 1 .u16 .const .p 512,  -- contexts_per_engine
   mkEntry 0x2901 8 0x01 1 .u8 .ro .v 1,  -- engine_state
   mkEntry 0x2901 8 0x02 1 .u16 .ro .w 0]  -- contexts_in_use

/-- Entries of spec/13_falyndi_orogus.md. -/
def entriesHost : List DEntry :=
  [mkEntry 0x1000 1 0x05 1 .str .const .p 0,  -- serial_number
   mkEntry 0x1000 1 0x06 1 .u16 .const .p 0,  -- board_revision
   mkEntry 0x1000 1 0x07 1 .u64 .const .p 0,  -- package_id
   mkEntry 0x1010 1 0x01 1 .u64 .ro .p 0x0000000000000FFF,  -- capabilities_0
   mkEntry 0x1010 1 0x02 254 .u64 .ro .p 0,  -- capabilities_n
   mkEntry 0x1100 1 0x01 1 .u8 .ro .v 0,  -- falyndi_state
   mkEntry 0x1100 1 0x02 1 .u8 .ro .v 0,  -- falyndi_version
   mkEntry 0x1100 1 0x03 1 .u8 .const .p 0x02,  -- falyndi_versions
   mkEntry 0x1100 1 0x04 1 .u8 .ro .p 0x0F,  -- falyndi_lane_map
   mkEntry 0x1100 1 0x05 1 .u16 .rw .p 10,  -- falyndi_restore_ms
   mkEntry 0x1100 1 0x06 1 .u16 .rw .p 25,  -- notify_holdoff_ticks
   mkEntry 0x1110 1 0x01 1 .u8 .ro .w 0,  -- slot_id
   mkEntry 0x1110 1 0x02 1 .bool .rw .p 1,  -- plca_enable
   mkEntry 0x1110 1 0x03 1 .u8 .rw .p 32,  -- plca_to_timer
   mkEntry 0x1110 1 0x04 1 .u64 .const .p 0,  -- mac_address
   mkEntry 0x1110 1 0x05 1 .u16 .const .p 30661,  -- orogus_port
   mkEntry 0x1120 1 0x01 128 .u64 .rw .w 0,  -- ring_notify_lo
   mkEntry 0x1121 1 0x01 128 .u64 .rw .w 0,  -- ring_notify_hi
   mkEntry 0x1200 1 0x01 1 .dom .ro .w 0,  -- event_log
   mkEntry 0x1200 1 0x02 1 .u64 .ro .p 0,  -- event_seq
   mkEntry 0x1200 1 0x03 1 .u64 .rw .v 0,  -- event_ack
   mkEntry 0x1210 1 0x01 1 .dom .ro .p 0,  -- change_journal
   mkEntry 0x1210 1 0x02 1 .u64 .ro .p 0]  -- journal_seq

/-- Entries of spec/14_power_reset.md. -/
def entriesPower : List DEntry :=
  [mkEntry 0x1400 1 0x01 1 .u64 .ro .w 0,  -- aon_ticks
   mkEntry 0x1400 1 0x02 1 .u8 .ro .v 1,  -- power_state
   mkEntry 0x1400 1 0x03 1 .u8 .wo .v 0,  -- power_request
   mkEntry 0x1400 1 0x04 1 .u16 .rw .p 250,  -- park_idle_ticks
   mkEntry 0x1400 1 0x05 1 .u8 .ro .v 0,  -- power_result
   mkEntry 0x1401 1 0x01 1 .u16 .rw .p 2700,  -- package_power_limit
   mkEntry 0x1401 1 0x02 1 .u16 .ro .v 0,  -- package_power_w
   mkEntry 0x1401 1 0x03 1 .u16 .ro .v 0,  -- input_power_w
   mkEntry 0x1401 1 0x04 1 .u16 .ro .v 0,  -- input_mv
   mkEntry 0x1402 1 0x01 1 .u8 .rw .p 95,  -- throttle_temp_c
   mkEntry 0x1402 1 0x02 1 .u8 .const .p 110,  -- trip_temp_c
   mkEntry 0x1402 1 0x03 1 .u8 .ro .v 0,  -- die_temp_max_c
   mkEntry 0x1402 1 0x04 1 .f32 .ro .v 0,  -- coolant_inlet_c
   mkEntry 0x1500 1 0x01 1 .u8 .wo .v 0,  -- reset_cmd
   mkEntry 0x1500 1 0x02 1 .u8 .wo .v 0,  -- partition_reset
   mkEntry 0x1500 1 0x03 1 .u8 .ro .p 0,  -- last_reset_cause
   mkEntry 0x1500 1 0x04 1 .u16 .rw .p 1000]  -- miller_watchdog_ms

/-- Entries of spec/15_health_repair.md. -/
def entriesHealth : List DEntry :=
  [mkEntry 0x4000 1 0x01 1 .dom .ro .w 0,  -- health_log
   mkEntry 0x4000 1 0x02 1 .u64 .ro .p 0,  -- health_seq
   mkEntry 0x4000 1 0x03 1 .u8 .ro .p 0,  -- health_state
   mkEntry 0x4001 1 0x01 1 .u32 .rw .v 0,  -- record_select
   mkEntry 0x4001 1 0x02 8 .u64 .ro .v 0,  -- record_word
   mkEntry 0x4002 1 0x01 1 .dom .ro .p 0,  -- lasting_log
   mkEntry 0x4003 1 0x01 1 .u8 .rw .p 8,  -- transient_limit
   mkEntry 0x4003 1 0x02 1 .u32 .rw .p 86400,  -- transient_window_s
   mkEntry 0x4004 1 0x01 7 .u32 .ro .v 0,  -- spares_left
   mkEntry 0x4100 1 0x01 1 .dom .ro .p 0,  -- repair_map
   mkEntry 0x4100 1 0x02 4 .u64 .ro .p 0,  -- repair_map_digest
   mkEntry 0x4110 1 0x01 1 .u8 .ro .w 0,  -- startup_result
   mkEntry 0x4110 1 0x02 1 .u32 .ro .w 0,  -- startup_ticks
   mkEntry 0x4200 1 0x01 1 .u64 .wo .v 0,  -- inj_cmd
   mkEntry 0x4200 1 0x02 1 .u64 .rw .v 0,  -- inj_address
   mkEntry 0x4200 1 0x03 1 .bool .rw .v 0,  -- inj_allow_repair
   mkEntry 0x4200 1 0x04 1 .u8 .ro .v 0]  -- inj_armed

/-- Entries of spec/16_firmware_security.md. -/
def entriesFirmware : List DEntry :=
  [mkEntry 0x1300 1 0x01 1 .u8 .ro .p 0,  -- fw_active_slot
   mkEntry 0x1300 1 0x02 1 .u8 .ro .p 0,  -- fw_slot_state
   mkEntry 0x1300 1 0x03 1 .u8 .ro .p 0,  -- fw_slot_state
   mkEntry 0x1300 1 0x04 1 .u8 .ro .p 1,  -- fw_last_boot_result
   mkEntry 0x1300 1 0x05 1 .u8 .ro .p 0,  -- fw_fail_reason
   mkEntry 0x1300 1 0x06 1 .u64 .ro .v 0,  -- fw_build_id
   mkEntry 0x1301 1 0x01 1 .dom .wo .p 0,  -- fw_bundle
   mkEntry 0x1301 1 0x02 1 .u8 .wo .v 0,  -- fw_stage_cmd
   mkEntry 0x1310 1 0x01 1 .u64 .ro .v 0,  -- secver_active
   mkEntry 0x1310 1 0x02 1 .u8 .ro .p 0,  -- fuse_count
   mkEntry 0x1310 1 0x03 1 .u8 .wo .v 0,  -- secver_commit
   mkEntry 0x1310 1 0x04 1 .u8 .ro .v 0,  -- secver_result
   mkEntry 0x1320 1 0x01 1 .dom .ro .p 0,  -- migration_report
   mkEntry 0x1320 1 0x02 1 .u16 .ro .p 0,  -- settings_layout
   mkEntry 0x1330 1 0x01 1 .dom .const .p 0,  -- device_cert
   mkEntry 0x1330 1 0x02 1 .dom .const .p 0,  -- ca_cert
   mkEntry 0x1330 1 0x03 4 .u64 .const .p 0,  -- root_key_digest
   mkEntry 0x1340 1 0x01 1 .dom .wo .v 0,  -- attest_request
   mkEntry 0x1340 1 0x02 1 .dom .ro .v 0]  -- attest_report

/-- The counters: U64, RO, persistence W. -/
def entriesCounters : List DEntry :=
  [mkEntry 0x3110 9 0xFF 1 .u64 .ro .w 0,
   mkEntry 0x3140 1 0x01 4 .u64 .ro .w 0,
   mkEntry 0x3141 1 0x02 3 .u64 .ro .w 0,
   mkEntry 0x3142 1 0xFF 1 .u64 .ro .w 0,
   mkEntry 0x3143 1 0x01 3 .u64 .ro .w 0,
   mkEntry 0x3144 1 0xFF 1 .u64 .ro .w 0,
   mkEntry 0x3200 19 0x01 16 .u64 .ro .w 0,
   mkEntry 0x3200 19 0xFF 1 .u64 .ro .w 0,
   mkEntry 0x3220 9 0x01 156 .u64 .ro .w 0,
   mkEntry 0x3220 9 0xFF 1 .u64 .ro .w 0,
   mkEntry 0x3229 1 0x01 6 .u64 .ro .w 0,
   mkEntry 0x3229 1 0xFF 1 .u64 .ro .w 0,
   mkEntry 0x3230 1 0x01 80 .u64 .ro .w 0,
   mkEntry 0x3230 1 0xFF 1 .u64 .ro .w 0,
   mkEntry 0x3231 4 0x01 16 .u64 .ro .w 0,
   mkEntry 0x3231 4 0xFF 1 .u64 .ro .w 0,
   mkEntry 0x3240 5 0x01 16 .u64 .ro .w 0,
   mkEntry 0x3240 5 0xFF 1 .u64 .ro .w 0,
   mkEntry 0x3250 14 0x01 16 .u64 .ro .w 0,
   mkEntry 0x3250 14 0xFF 1 .u64 .ro .w 0,
   mkEntry 0x3260 11 0x01 16 .u64 .ro .w 0,
   mkEntry 0x3260 11 0xFF 1 .u64 .ro .w 0,
   mkEntry 0x3270 5 0x01 12 .u64 .ro .w 0,
   mkEntry 0x3270 5 0xFF 1 .u64 .ro .w 0,
   mkEntry 0x3275 2 0xFF 1 .u64 .ro .w 0,
   mkEntry 0x3277 1 0x01 12 .u64 .ro .w 0,
   mkEntry 0x3277 1 0xFF 1 .u64 .ro .w 0,
   mkEntry 0x3278 2 0x01 16 .u64 .ro .w 0,
   mkEntry 0x3278 2 0xFF 1 .u64 .ro .w 0,
   mkEntry 0x327A 1 0xFF 1 .u64 .ro .w 0,
   mkEntry 0x327B 4 0x01 16 .u64 .ro .w 0,
   mkEntry 0x327B 4 0xFF 1 .u64 .ro .w 0,
   mkEntry 0x327F 1 0x01 2 .u64 .ro .w 0,
   mkEntry 0x3280 11 0x01 6 .u64 .ro .w 0,
   mkEntry 0x3280 11 0xFF 1 .u64 .ro .w 0,
   mkEntry 0x328B 11 0xFF 1 .u64 .ro .w 0,
   mkEntry 0x32A0 5 0x01 16 .u64 .ro .w 0,
   mkEntry 0x32A0 5 0xFF 1 .u64 .ro .w 0,
   mkEntry 0x32B0 11 0x01 8 .u64 .ro .w 0,
   mkEntry 0x32B0 11 0xFF 1 .u64 .ro .w 0,
   mkEntry 0x32C0 8 0xFF 1 .u64 .ro .w 0,
   mkEntry 0x3300 256 0x01 17 .u64 .ro .w 0]

/-- Capability bitmaps (R364); 0x1010:01 and the rest. -/
def entriesCapability : List DEntry :=
  [mkEntry 0x1010 1 0x01 1 .u64 .ro .p 0xFFF,
   mkEntry 0x1010 1 0x02 254 .u64 .ro .p 0]

/-- Every entry, tables in chapter order. -/
def dictTables : List DEntry :=
  entriesIdentity ++ entriesCapability ++ entriesPartition ++ entriesRing ++ entriesHopper ++ entriesCore ++
  entriesNumeric ++ entriesTiling ++ entriesKv ++ entriesStore ++ entriesMemory ++ entriesFabric ++
  entriesResilience ++ entriesMedia ++ entriesHost ++ entriesPower ++ entriesHealth ++ entriesFirmware ++
  entriesCounters

/-- The key of index:subindex. -/
def dk (index sub : Nat) : Nat := 256 * index + sub

def DEntry.covers (e : DEntry) (k : Nat) : Bool :=
  decide (e.index ≤ k / 256 ∧ k / 256 < e.index + e.span ∧ e.sub ≤ k % 256 ∧ k % 256 < e.sub + e.subs)

/-- Core entries beyond the variant's enabled cores do not exist on the CXM-1280-LQ. -/
def absentOn (v : Variant) (k : Nat) : Bool :=
  v == .cxm1280 && (k / 256 == 0x2200 || k / 256 == 0x2201) && decide (0x80 < k % 256)

/-- The highest subindex in use of an index (R357); `none` when no entry has the index. -/
def highestSub (v : Variant) (index : Nat) : Option Nat :=
  let subs := (dictTables.filter (fun e => decide (e.index ≤ index ∧ index < e.index + e.span))).map
    (fun e => e.sub + e.subs - 1)
  if subs.isEmpty then none
  else some (if v = .cxm1280 ∧ (index = 0x2200 ∨ index = 0x2201) then 128 else subs.foldl max 0)

/-- The entry named by a key, subindex 0x00 of every existing index included (R357). -/
def dictEntry (v : Variant) (k : Nat) : Option DEntry :=
  if absentOn v k then none
  else match dictTables.find? (fun e => e.covers k) with
    | some e => some e
    | none =>
      if k % 256 = 0 then (highestSub v (k / 256)).map (fun h => mkEntry (k / 256) 1 0 1 .u8 .const .p h) else none

/-- The default of an entry (R357). -/
def dictDefault (v : Variant) (k : Nat) : Word :=
  if k = dk 0x2000 1 then 1
  else if k = dk 0x2000 2 ∨ k = dk 0x2000 3 then 0xFFFFFFFFFFFFFFFF
  else if k = dk 0x2000 4 then (if v = .cxm1440 then 0xFFFF else 0)
  else if k = dk 0x2000 5 then 3
  else if k = dk 0x2000 14 then 4096
  else if k = dk 0x2100 3 then 0x10000000000
  else if k = dk 0x2100 6 then 0x020000020000
  else if k = dk 0x2100 0xC then 0x16000000000
  else if k = dk 0x1110 1 then 0xFF
  else if k = dk 0x1300 2 then 3
  else if k = dk 0x1320 2 then
    (Config.factoryBundle.getD 2 0).setWidth 64 + 256 * (Config.factoryBundle.getD 3 0).setWidth 64
  else if k = dk 0x1000 3 ∨ k = dk 0x2200 0 then (if v = .cxm1440 then 144 else 128)
  else if k = dk 0x1401 1 then (if v = .cxm1440 then 2700 else 2500)
  else match dictEntry v k with
    | some e => BitVec.ofNat 64 e.dflt
    | none => 0

/-- Persistence class of a stored key; class W for the ones the model alone keeps. -/
def dictClass (v : Variant) (k : Nat) : Persist :=
  match dictEntry v k with
  | some e => e.persist
  | none => .w

/-- The largest object of a DOM entry (R427). -/
def domMax (k : Nat) : Nat :=
  if k = dk 0x1200 1 then 32768
  else if k = dk 0x1210 1 then 131072
  else if k = dk 0x1301 1 then 234881024
  else if k = dk 0x1320 1 then 524304
  else if k = dk 0x1330 1 ∨ k = dk 0x1330 2 then 4096
  else if k = dk 0x1340 1 then 32
  else if k = dk 0x1340 2 then 256
  else if k = dk 0x2450 1 then 12288
  else if k = dk 0x2450 2 then 32768
  else if k = dk 0x4000 1 then 262144
  else if k = dk 0x4002 1 then 65536
  else 4348064

/-- The maximum length DESCRIBE reports (R358). -/
def DEntry.maxLen (e : DEntry) (k : Nat) : Nat :=
  match e.type with
  | .dom => domMax k
  | t => t.size

end Sys2Proof.Machine
end

