-- ==== Sys2Proof/Machine/Mem.lean ====
section
/-! DEFINITION. The dictionary store's accessors, memory by global address (R220, R221), placement (R230, R231), the
millpond (R226, R232, R236), translation (R222 to R224) and the allocation of pages (R227). -/

namespace Sys2Proof.Machine

/-- The stored value of a dictionary key. -/
def dGet (s : State) (k : Nat) : Nat := (tableGet (dictDefault s.variant) s.dict k).toNat

/-- Set the stored value of a dictionary key. -/
def dSet (s : State) (k v : Nat) : State :=
  { s with dict := tableSet (dictDefault s.variant) k (BitVec.ofNat 64 v) s.dict }

/-- Add to a counter. -/
def dAdd (s : State) (k n : Nat) : State := if n = 0 then s else dSet s k (dGet s k + n)

/-- Count under a subindex and in the module total (0xFF). -/
def count (s : State) (index sub n : Nat) : State := dAdd (dAdd s (dk index sub) n) (dk index 0xFF) n

/-- Count under a partition and in the module total. -/
def countP (s : State) (index part n : Nat) : State := count s index (part + 1) n

/-- Count in the module total only. -/
def countT (s : State) (index n : Nat) : State := dAdd s (dk index 0xFF) n

/-- The always-on tick count (R365). -/
def now (s : State) : Nat := dGet s (dk 0x1400 1)

/-- power_state, 0 to 4 for P0 to P4. -/
def pState (s : State) : Nat := dGet s (dk 0x1400 2)

/-- Partition entry (index 0x2000 + p). -/
def pGet (s : State) (p sub : Nat) : Nat := dGet s (dk (0x2000 + p) sub)

def pSet (s : State) (p sub v : Nat) : State := dSet s (dk (0x2000 + p) sub) v

/-- The torus size and coordinates are valid (R262). -/
def coordsValid (s : State) : Bool :=
  [1, 2, 3].all (fun i => decide (1 ≤ dGet s (dk 0x2700 i) ∧ dGet s (dk 0x2700 i) ≤ 40 ∧
    dGet s (dk 0x2700 (i + 3)) < dGet s (dk 0x2700 i)))

/-- node_id (R262). -/
def nodeId (s : State) : Nat :=
  if coordsValid s then
    dGet s (dk 0x2700 4) + dGet s (dk 0x2700 1) * (dGet s (dk 0x2700 5) + dGet s (dk 0x2700 2) * dGet s (dk 0x2700 6))
  else 0xFFFF

/-- A node number assigned in the torus (R262). -/
def assignedNode (s : State) (n : Nat) : Bool :=
  decide (n < dGet s (dk 0x2700 1) * dGet s (dk 0x2700 2) * dGet s (dk 0x2700 3))

/-- Fields of a global address (R220). -/
def gaNode (a : Nat) : Nat := bits a 59 44
def gaRegion (a : Nat) : Nat := bits a 43 40
def gaOffset (a : Nat) : Nat := a % 2 ^ 40

/-- A global address from its fields. -/
def gaMake (node region offset : Nat) : Nat := node * 2 ^ 44 + region * 2 ^ 40 + offset

/-- Region 0 stripes before retirement, S0, and stripes withdrawn per retired channel, W (R230). -/
def stripes0 (s : State) : Nat := 589824 - 8 * s.mem.pinnedNow
def stripesW (s : State) : Nat := stripes0 s / 384

/-- S_n: stripes of region 0 with n channels retired (R230). -/
def stripesN (s : State) : Nat := stripes0 s - s.mem.retired.length * stripesW s

/-- region0_size in bytes. -/
def region0Size (s : State) : Nat := stripesN s * 1572864

/-- Bytes of a stack's pinned area, and those that may hold data (R231). -/
def pinnedBytes (s : State) : Nat := s.mem.pinnedNow * 2 ^ 20
def pinnedUsable (s : State) : Nat := 31 * s.mem.pinnedNow * 2 ^ 15

/-- R221: a global address the module accepts. -/
def gaValid (s : State) (a : Nat) : Bool :=
  decide (a < 2 ^ 60) &&
  (match gaRegion a with
   | 0 => if gaNode a = nodeId s then decide (gaOffset a < region0Size s) else decide (gaNode a ≠ 0xFFFF)
   | 1 => decide (gaOffset a / 2 ^ 36 < 12) &&
       (if gaNode a = nodeId s then decide (gaOffset a % 2 ^ 36 < pinnedBytes s) else decide (gaNode a ≠ 0xFFFF))
   | 2 => decide (gaNode a = nodeId s)
   | _ => false)

/-- An address range inside the module's own HBM. -/
def inLocalHbm (s : State) (a len : Nat) : Bool :=
  gaValid s a && (len == 0 || gaValid s (a + len - 1)) && decide (gaNode a = nodeId s ∧ gaRegion a < 2) &&
  decide (gaOffset a + len ≤ 2 ^ 40)

/-- The key of a byte: own memory by region and offset, another node's memory apart. -/
def memKey (s : State) (a : Nat) : Nat :=
  if gaNode a = nodeId s then a % 2 ^ 44 else (gaNode a + 1) * 2 ^ 44 + a % 2 ^ 44

/-- What a byte nothing has written reads as: zero (R426; log entry 3), or undefined content in the ranges listed. -/
def memDefault (u : List (Nat × Nat × Nat)) (k : Nat) : Byte :=
  match u.find? (fun r => decide (r.1 ≤ k ∧ k < r.1 + r.2.1)) with
  | some r => Config.freeByte r.2.2 k
  | none => 0

/-- Take [k, k + n) out of the undefined ranges. -/
def carve (k n : Nat) (u : List (Nat × Nat × Nat)) : List (Nat × Nat × Nat) :=
  u.flatMap (fun r =>
    (if r.1 < k then [(r.1, min r.2.1 (k - r.1), r.2.2)] else []) ++
    (if k + n < r.1 + r.2.1 then [(max r.1 (k + n), r.1 + r.2.1 - max r.1 (k + n), r.2.2)] else []))

/-- One byte of memory by key. -/
def keyByte (s : State) (k : Nat) : Byte := tableGet (memDefault s.mem.undef) s.mem.bytes k

/-- One byte of memory at a global address. -/
def ldByte (s : State) (a : Nat) : Byte := keyByte s (memKey s a)

def ldBytes (s : State) (a : Nat) : Nat → List Byte
  | 0 => []
  | n + 1 => ldByte s a :: ldBytes s (a + 1) n

/-- A little-endian number in memory. -/
def ldNat (s : State) (a n : Nat) : Nat := leNat (ldBytes s a n)

/-- Write one byte, keeping the memory's canonical form. -/
def memSet (u : List (Nat × Nat × Nat)) (k : Nat) (b : Byte) (m : List Host.Cell) : List Host.Cell :=
  tableSet (memDefault u) k b m

/-- Write bytes at consecutive keys. -/
def memSets (u : List (Nat × Nat × Nat)) (k : Nat) : List Byte → List Host.Cell → List Host.Cell
  | [], m => m
  | b :: t, m => memSets u (k + 1) t (memSet u k b m)

/-- The memory's canonical form: keys strictly rising, no entry that an unlisted key reads as. -/
abbrev Memory.wf (u : List (Nat × Nat × Nat)) (m : List Host.Cell) : Prop := tableWf (memDefault u) m = true

/-- Write bytes at a key. -/
def stKey (s : State) (k : Nat) (bs : List Byte) : State :=
  { s with mem := { s.mem with bytes := memSets s.mem.undef k bs s.mem.bytes } }

/-- Whether 128-byte line `l` (by key) lies wholly inside [k, k + n). -/
def lineInside (l k n : Nat) : Bool := decide (k ≤ 128 * l ∧ 128 * l + 128 ≤ k + n)

/-- Store bytes at a global address: a write of a whole lost line removes it from the table (R240). -/
def store (s : State) (a : Nat) (bs : List Byte) : State :=
  let k := memKey s a
  let s := stKey s k bs
  { s with mem := { s.mem with lostLines := s.mem.lostLines.filter (fun l => !lineInside l k bs.length) } }

/-- Store a little-endian number. -/
def stNat (s : State) (a n v : Nat) : State := store s a (leBytes n v)

/-- Zero a range of the module's own memory: every byte of it reads as one that nothing has written. -/
def zeroRange (s : State) (a n : Nat) : State :=
  let k := memKey s a
  { s with mem := { s.mem with
    bytes := tableKeep (fun x => !(decide (k ≤ x ∧ x < k + n))) s.mem.bytes
    undef := carve k n s.mem.undef
    lostLines := s.mem.lostLines.filter (fun l => !lineInside l k n) } }

/-- Pages handed out read as zeros (R227). -/
def zeroPages (s : State) : List Mapping → State
  | [] => s
  | m :: t => zeroPages (if m.tier = 2 then zeroRange s m.addr m.size else s) t

/-- The next free-value index (log entry 4). -/
def tickFresh (s : State) : State := { s with fresh := s.fresh + 1 }

/-- Undefined content: `n` bytes that nothing constrains (R34, R240; log entry 4). -/
def freeBytes (s : State) (n : Nat) : List Byte := (List.range n).map (Config.freeByte s.fresh)

/-- Give ranges of global addresses undefined content. -/
def undefine (s : State) : List (Nat × Nat) → State
  | [] => s
  | (a, n) :: t => undefine (tickFresh (store s a (freeBytes s n))) t

/-- A listed lost line meets [a, a + n) (R240), or region 0 is lost and the range lies in it. -/
def lostIn (s : State) (a n : Nat) : Bool :=
  let k := memKey s a
  (decide (dGet s (dk 0x2400 7) = 1) && decide (gaNode a = nodeId s ∧ gaRegion a = 0) && decide (0 < n)) ||
  s.mem.lostLines.any (fun l => decide (128 * l < k + n ∧ k < 128 * l + 128))

/-- The start of the first lost line that [a, a + n) meets; with region 0 lost, the range's own start. -/
def firstLost (s : State) (a n : Nat) : Option Nat :=
  let k := memKey s a
  match s.mem.lostLines.find? (fun l => decide (128 * l < k + n ∧ k < 128 * l + 128)) with
  | some l => some (a / 2 ^ 44 * 2 ^ 44 + 128 * l % 2 ^ 44)
  | none => if lostIn s a n then some a else none

/-- Live channels in ascending order (R231). -/
def liveChannels (s : State) : List Nat := (List.range 384).filter (fun c => !s.mem.retired.contains c)

def liveOfStack (s : State) (st : Nat) : List Nat := (liveChannels s).filter (fun c => c / 32 == st)

/-- Index of an element. -/
def indexOf (x : Nat) : List Nat → Nat
  | [] => 0
  | y :: t => if y = x then 0 else 1 + indexOf x t

/-- The channels that are not in a list of retired ones, ascending. -/
def channelsBut (r : List Nat) : List Nat := (List.range 384).filter (fun c => !r.contains c)

/-- `locate` of R231 for a list of retired channels: channel and granule row of a region and offset. -/
def locateWith (s : State) (r : List Nat) (region offset : Nat) : Nat × Nat :=
  if region = 1 then
    let g := offset % 2 ^ 36 / 256
    let live := (channelsBut r).filter (fun c => c / 32 == offset / 2 ^ 36)
    (live.getD (g % live.length) 0, 16 * stripes0 s + g / live.length)
  else
    let g := offset / 256
    let st := g / 6144
    let e := (g % 6144 + (st * 1031) % 6144) % 6144
    let c := e % 384
    let k := e / 384
    if !r.contains c then (c, 16 * st + k)
    else
      let n := r.length
      let sn := stripes0 s - n * stripesW s
      let t := indexOf c r * (16 * sn) + 16 * st + k
      ((channelsBut r).getD (t % (384 - n)) 0, 16 * sn + t / (384 - n))

/-- A granule stands in the holding buffer of its stack's compute die (R245, R246). -/
def inHolding (s : State) (region offset : Nat) : Bool :=
  s.mem.migration.any (fun m => region == 1 && m.phase == 1 && m.held && m.toMove.head? == some (offset / 2 ^ 36) &&
    decide (offset % 2 ^ 36 / 256 < 1024))

/-- The migration has moved a granule to its new location (R246): stripes below the cursor; of the stack being moved the
granules above it, and those held, which go there next. -/
def Migration.moved (m : Migration) (region offset : Nat) : Bool :=
  if region = 1 then
    !m.toMove.contains (offset / 2 ^ 36) ||
    (m.phase == 1 && m.held && m.toMove.head? == some (offset / 2 ^ 36) &&
      (decide (m.cursor < offset % 2 ^ 36 / 256) || decide (offset % 2 ^ 36 / 256 < 1024)))
  else m.phase == 1 || decide (offset / 1572864 < m.cursor)

/-- Where a granule is: while a migration runs, at its old location until the cursor has moved it (R231, R246). -/
def locate (s : State) (region offset : Nat) : Nat × Nat :=
  match s.mem.migration with
  | none => locateWith s s.mem.retired region offset
  | some m => locateWith s (if m.moved region offset then s.mem.retired else m.prior) region offset

/-- Home slice of a line address (R236): x mod 6, or x mod 5 over five slices once a die is lost (R393). -/
def lineX (l : Nat) : Nat := Nat.xor (Nat.xor l (l / 2 ^ 11)) (Nat.xor (l / 2 ^ 22) (l / 2 ^ 33))

/-- Line address L of R236 of an own address. -/
def lineAddr (a : Nat) : Nat := a % 2 ^ 44 / 128

/-- Dies whose slice is in service, in ascending order: the slices of R236, renumbered once a die is lost (R393). -/
def sliceDies (s : State) : List Nat := (List.range 6).filter (fun d => !s.cores.lostDies.contains d)

/-- The set of a line, over the slices of all dies. -/
def lineSet (dies : List Nat) (l : Nat) : Nat :=
  dies.getD (lineX l % max 1 dies.length) 0 * 16384 + Config.millpondSet (lineX l) % 16384

/-- Ways in service in a set: 16 less the retired ones of its group of 1,024 sets (R390). -/
def liveWays (s : State) (set : Nat) : List Nat :=
  (List.range 16).filter (fun w => !s.cores.retiredWays.contains (set / 1024, w))

/-- One line access: a hit moves the line to the front; a miss fills it under the limits of R226, in the way of its victim, else in the
lowest free one (DESIGN CHOICE, log entry 62: the spec names no order). -/
def touchLine (owner : Option Nat) (write : Bool) (s : State) (l : Nat) : State :=
  let dies := sliceDies s
  let cnt (s : State) (ix : Nat) : State := match owner with
    | some p => countP s ix p 1
    | none => countT s ix 1
  match s.mem.millpond.find? (fun m => m.line == l) with
  | some m =>
    cnt { s with mem := { s.mem with
      millpond := { m with dirty := m.dirty || write } :: s.mem.millpond.filter (fun x => x.line != l) } } 0x3278
  | none =>
    let set := lineSet dies l
    let ways := liveWays s set
    let lim := match owner with
      | some p => min (pGet s p 0x10) ways.length
      | none => ways.length
    let all := s.mem.millpond.filter (fun m => lineSet dies m.line == set)
    let mine := all.filter (fun m => m.owner == owner && owner.isSome)
    let victim := if lim ≤ mine.length then mine.getLast? else if ways.length ≤ all.length then all.getLast? else none
    let way := match victim with
      | some v => v.way
      | none => (ways.find? (fun w => all.all (fun m => m.way != w))).getD 0
    let kept := match victim with
      | some v => s.mem.millpond.filter (fun x => x.line != v.line)
      | none => s.mem.millpond
    cnt { s with mem := { s.mem with millpond := { line := l, way := way, owner := owner, dirty := write } :: kept } } 0x3279

/-- The bytes of line `l` that [k, k + n) covers, bit b for byte b. -/
def lineMask (l k n : Nat) : Nat :=
  let lo := max k (128 * l) - 128 * l
  let hi := min (k + n) (128 * l + 128) - 128 * l
  2 ^ hi - 2 ^ lo

/-- The channel of a line. -/
def lineChannel (s : State) (l : Nat) : Nat := (locate s (l * 128 / 2 ^ 40 % 16) (l * 128 % 2 ^ 40)).1

/-- A write of the bytes in `mask` of a line that the slice does not hold goes to the channel's write-combining buffer: an entry
that comes to cover its line is written to HBM, and the oldest of 64 makes room for a new one (R232). -/
def touchPart (owner : Option Nat) (mask : Nat) (s : State) (l : Nat) : State :=
  if s.mem.millpond.any (fun m => m.line == l) then touchLine owner true s l
  else
    let old := ((s.mem.wcb.find? (fun x => x.1 == l)).map (·.2)).getD 0
    let rest := s.mem.wcb.filter (fun x => x.1 != l)
    let same := rest.filter (fun x => lineChannel s x.1 == lineChannel s l)
    let kept := if 64 ≤ same.length then
        (match same.head? with
         | some v => rest.filter (fun x => x.1 != v.1)
         | none => rest)
      else rest
    let full := Nat.lor old mask == 2 ^ 128 - 1
    let s := { s with mem := { s.mem with wcb := if full then rest else kept ++ [(l, Nat.lor old mask)] } }
    match owner with
    | some p => countP s 0x3279 p 1
    | none => countT s 0x3279 1

/-- A write of a whole line allocates in the home slice and takes the place of a buffer entry (R232). -/
def touchWhole (owner : Option Nat) (s : State) (l : Nat) : State :=
  touchLine owner true { s with mem := { s.mem with wcb := s.mem.wcb.filter (fun x => x.1 != l) } } l

/-- The lines that [k, k + n) touches. -/
def linesOf (k n : Nat) : List Nat :=
  if n = 0 then [] else (List.range ((k + n - 1) / 128 - k / 128 + 1)).map (fun i => k / 128 + i)

/-- Line accesses of a range of own regions 0 and 1; other memory is not cached (R229). -/
def touchRange (owner : Option Nat) (write : Bool) (s : State) (a n : Nat) : State :=
  if gaNode a = nodeId s ∧ gaRegion a < 2 then
    let k := a % 2 ^ 44
    (linesOf k n).foldl (fun s l =>
      if write then (if lineInside l k n then touchWhole owner s l else touchPart owner (lineMask l k n) s l)
      else touchLine owner false s l) s
  else s

/-- The page of a partition that covers a device-virtual address (R222). -/
def findMap (s : State) (part va : Nat) : Option Mapping :=
  s.mem.maps.find? (fun m => m.part == part && decide (m.va ≤ va ∧ va < m.va + m.size))

/-- A mapping that a command of a ring may use (R224). -/
def Mapping.usable (m : Mapping) (ring : Nat) : Bool :=
  match m.owner with
  | none => true
  | some r => r == ring

/-- Translate a device-virtual address for a ring of a partition. -/
def translate (s : State) (part ring va : Nat) : Option Nat :=
  match findMap s part va with
  | some m => if m.usable ring then some (m.addr + (va - m.va)) else none
  | none => none

/-- One byte at a device-virtual address; an address without a page reads as zero here, and `pieces` reports it. -/
def vaByte (s : State) (part ring va : Nat) : Byte :=
  match translate s part ring va with
  | some g => ldByte s g
  | none => 0

def vaBytes (s : State) (part ring va n : Nat) : List Byte :=
  (List.range n).map (fun i => vaByte s part ring (va + i))

def vaNat (s : State) (part ring va n : Nat) : Nat := leNat (vaBytes s part ring va n)

/-- [va, va + n) cut at page ends: (global address, bytes) pieces, or the first address without a page (R223). -/
def pieces (s : State) (part ring : Nat) : Nat → Nat → Nat → Except Nat (List (Nat × Nat))
  | 0, va, n => if n = 0 then .ok [] else .error va
  | fuel + 1, va, n =>
    if n = 0 then .ok []
    else match findMap s part va with
      | none => .error va
      | some m =>
        if m.usable ring then
          let len := min n (m.va + m.size - va)
          match pieces s part ring fuel (va + len) (n - len) with
          | .error a => .error a
          | .ok t => .ok ((m.addr + (va - m.va), len) :: t)
        else .error va

/-- `pieces` with fuel enough for every page of the machine. -/
def rangePieces (s : State) (part ring va n : Nat) : Except Nat (List (Nat × Nat)) :=
  pieces s part ring (s.mem.maps.length + 1) va n

/-- Bytes of a tier that a partition has mapped, ring memory and windows included (R21, R225, R273). -/
def tierUsed (s : State) (part tier : Nat) : Nat :=
  ((s.mem.maps.filter (fun m => m.part == part && m.tier == tier)).map (·.size)).sum +
  (if tier = 2 then
    ((s.hop.rings.filter (fun r => r.2.state != .free && r.2.part.toNat == part)).map
      (fun r => 256 * r.2.size.toNat)).sum +
    ((List.range 64).map (fun w =>
      if dGet s (dk (0x2740 + w) 1) ≠ 0 ∧ dGet s (dk (0x2740 + w) 4) = part then dGet s (dk (0x2740 + w) 3) else 0)).sum
   else 0)

/-- The quota of a tier (R225). -/
def tierQuota (s : State) (part tier : Nat) : Nat := pGet s part (0xF + tier)

/-- A further `n` bytes stay within the quota; all ones is no limit. -/
def quotaAllows (s : State) (part tier n : Nat) : Bool :=
  tierQuota s part tier == 0xFFFFFFFFFFFFFFFF || decide (tierUsed s part tier + n ≤ tierQuota s part tier)

/-- Ranges (offset, bytes) of region 0 in use: mapped T2 pages, windows, retired ranges. -/
def region0Taken (s : State) : List (Nat × Nat) :=
  ((s.mem.maps.filter (fun m => m.tier == 2)).map (fun m => (gaOffset m.addr, m.size))) ++
  ((List.range 64).filterMap (fun w =>
    if dGet s (dk (0x2740 + w) 1) ≠ 0 then some (gaOffset (dGet s (dk (0x2740 + w) 2)), dGet s (dk (0x2740 + w) 3))
    else none)) ++
  ((s.mem.retiredRanges.filter (fun a => gaRegion a == 0)).map (fun a => (gaOffset a, 2 ^ 21)))

def alignUp (a n : Nat) : Nat := (a + n - 1) / n * n

/-- [o, o + n) meets none of the ranges. -/
def rangeFree (taken : List (Nat × Nat)) (o n : Nat) : Bool :=
  taken.all (fun t => decide (o + n ≤ t.1 ∨ t.1 + t.2 ≤ o ∨ t.2 = 0))

/-- The lowest offset aligned to the page size that is free (R227). -/
def lowestFree (taken : List (Nat × Nat)) (limit size : Nat) : Option Nat :=
  leastBy id ((0 :: taken.map (fun t => alignUp (t.1 + t.2) size)).filter
    (fun o => decide (o + size ≤ limit) && rangeFree taken o size))

/-- The highest free range of `n` bytes aligned to 2 MiB (R273). -/
def highestFree (taken : List (Nat × Nat)) (limit n : Nat) : Option Nat :=
  leastBy (fun o => limit - o) (((limit :: taken.map (·.1)).filterMap
    (fun t => if n ≤ t then some ((t - n) / 2 ^ 21 * 2 ^ 21) else none)).filter
      (fun o => decide (o + n ≤ limit) && rangeFree taken o n))

end Sys2Proof.Machine
end

