-- ==== Sys2Proof/Machine/Ops.lean ====
section
/-! DEFINITION. The named operations the commands share: rings and their status records, cells, tallies, events,
health records, completion records and messages, the ends of a command, discards (R47) and what a detected error does
(R384). -/

namespace Sys2Proof.Machine

/-! ### Host side -/

/-- The slots of a transaction on a class: the header slot, then its data (R259). -/
def slotsOf (cls : Nat) (pri : Bool) (due : Nat) (p : Packet) : List QSlot :=
  let head := leBytes 8 p.x0.toNat ++ leBytes 8 p.x1.toNat ++ leBytes 8 p.x2.toNat ++ leBytes 8 p.x3.toNat
  (head :: (chunksOf 32 p.data.length p.data).map (padTo 32)).zipIdx.map (fun b =>
    { cls := cls, pri := pri, first := b.2 == 0, due := due, bytes := b.1 })

/-- [a, a + n) cut at 1,024-byte boundaries (R266, R342). -/
def kibCuts : Nat → Nat → Nat → List (Nat × Nat)
  | 0, _, _ => []
  | fuel + 1, a, n =>
    if n = 0 then []
    else
      let k := min n (1024 - a % 1024)
      (a, k) :: kibCuts fuel (a + k) (n - k)

def kib (a n : Nat) : List (Nat × Nat) := kibCuts (n / 1024 + 2) a n

/-- A Falyndi transaction: KIND, LEN, TAG and ADDR, with DEST, SRC, LIFE and PRI zero (R342). -/
def falyndiPacket (kind len tag addr : Nat) (data : List Byte) : Packet :=
  { x0 := BitVec.ofNat 64 (kind * 2 ^ 60 + len * 2 ^ 45), x1 := BitVec.ofNat 64 (tag * 2 ^ 32), x2 := BitVec.ofNat 64 addr, x3 := 0,
    data := data }

/-- A transaction of the module joins Falyndi's queue on a VC (R342); flits take it from there. -/
def falyndiOut (s : State) (vc : Nat) (p : Packet) : State :=
  { s with host := { s.host with link := { s.host.link with queue := s.host.link.queue ++ slotsOf vc false 0 p } } }

/-- Falyndi is trained, with input power (R343, R420); a warm reset leaves it so (R378). -/
def falyndiTrained (s : State) : Bool := dGet s (dk 0x1100 1) == 2 && s.pwr.inputOk

/-- Falyndi is up, and no warm reset holds it (R343, R347, R378). -/
def falyndiUp (s : State) : Bool := falyndiTrained s && s.pwr.resetRunning != some .warm

/-- Falyndi retrains, or a warm reset holds it: what comes from the host waits in the FHA-4. -/
def falyndiHeld (s : State) : Bool := dGet s (dk 0x1100 1) == 3 || (falyndiTrained s && !falyndiUp s)

/-- A host access waits behind the link, or behind accesses that wait already (R345, R347, R384). -/
def hostQueued (s : State) : Bool := falyndiHeld s || (falyndiUp s && !s.host.fhaBuf.isEmpty)

/-- A host access while the link is held waits its turn: writes of up to 256 KiB in the FHA-4, what comes behind them at the host,
whose stores stall; none is lost, and a read passes no write (R345, R347). -/
def holdHost (s : State) (x : HostAccess) : State := { s with host := { s.host with fhaBuf := s.host.fhaBuf ++ [x] } }

/-- A host write discarded while LINK_LOST stands (R348). -/
def dropHost (s : State) : State := { s with host := { s.host with dropped := s.host.dropped + 1 } }

/-- The place in the held list that stands for an MSI-X message of a vector. -/
def msixPlace (v : Nat) : Nat := 2 ^ 64 + v

/-- A write to host memory, in WRITE transactions of at most 1,024 bytes on VC 2 (R342): held in the module while the link is not up
(R347). Host memory shows it from then on (DEDUCED from R345: whatever follows it reaches the host behind it). -/
def hostWrite (s : State) (a : Nat) (bs : List Byte) : State :=
  if falyndiUp s then
    (kib a bs.length).foldl (fun s x => falyndiOut s 2 (falyndiPacket 1 x.2 0 x.1 ((bs.drop (x.1 - a)).take x.2))) (store s a bs)
  else { s with host := { s.host with held := s.host.held ++ [(a, bs)] } }

/-- DMA reads of host memory, in READ transactions of at most 1,024 bytes on VC 3 (R342). -/
def hostFetch (s : State) (a n : Nat) : State :=
  (kib a n).foldl (fun s x => falyndiOut s 3 (falyndiPacket 0 x.2 0 x.1 [])) s

/-- An MSI-X message on VC 2, behind what was written before it (R342, R345). -/
def sendMsix (s : State) (v : Nat) : State :=
  if falyndiUp s then falyndiOut { s with host := { s.host with msix := s.host.msix ++ [v] } } 2 (falyndiPacket 4 0 0 v [])
  else { s with host := { s.host with held := s.host.held ++ [(msixPlace v, [])] } }

/-- The UDP port of the management bus (R351). -/
def orogusPort : BitVec 16 := 30661

/-- The modified EUI-64 interface identifier of a MAC address: FFFE in its middle, the universal bit inverted (R351). -/
def eui64 (mac : Nat) : Nat := Nat.xor (mac / 2 ^ 24 * 2 ^ 40 + 0xFFFE * 2 ^ 24 + mac % 2 ^ 24) (2 ^ 57)

/-- The module's two link-local addresses (R351): of its MAC address, and fe80::ca1:0:0:SS of its slot. -/
def macAddress (s : State) : BitVec 128 := BitVec.ofNat 128 (0xFE80 * 2 ^ 112 + eui64 s.ident.mac.toNat)
def slotAddress (s : State) : BitVec 128 := BitVec.ofNat 128 (0xFE80 * 2 ^ 112 + 0xCA1 * 2 ^ 48 + dGet s (dk 0x1110 1))

/-- A datagram on the management bus; a module strapped 0x00 does not transmit (R350). -/
def busSend (s : State) (d : Datagram) : State :=
  if dGet s (dk 0x1110 1) = 0 then s else { s with host := { s.host with busOut := s.host.busOut ++ [d] } }

/-- The Orogus header (spec/13 "Orogus header"). -/
def orogusHeader (txid type len status sub index : Nat) : List Byte :=
  leBytes 8 (txid % 2 ^ 32 * 2 ^ 32 + type * 2 ^ 24 + 1 * 2 ^ 16 + 0x0C61) ++
  leBytes 8 (len * 2 ^ 48 + status * 2 ^ 40 + sub * 2 ^ 24 + index * 2 ^ 8)

/-! ### Events (R363) -/

/-- Where events go: ff02::1 (R351). -/
def eventAddr : BitVec 128 := 0xFF020000000000000000000000000001#128

/-- ALERT_N is asserted: event_seq exceeds event_ack (R363). -/
def alerting (s : State) : Bool := decide (dGet s (dk 0x1200 3) < dGet s (dk 0x1200 2))

/-- The record of an event as 32 bytes. -/
def eventBytes (seq ticks faultId : Nat) (part : Option Nat) (sev sub index detail : Nat) : List Byte :=
  leBytes 8 seq ++ leBytes 8 ticks ++
  leBytes 8 (faultId * 2 ^ 40 + (part.getD 0) * 2 ^ 36 + (if part.isSome then 2 ^ 35 else 0) + sev * 2 ^ 32 +
    sub * 2 ^ 24 + index * 2 ^ 8) ++ leBytes 8 detail

/-- Raise an event: log, EVENT message, and cause bit 1 with MSI-X vector 0 while Falyndi is up. -/
def raiseEvent (s : State) (sev faultId : Nat) (part : Option Nat) (index sub detail : Nat) : State :=
  let seq := dGet s (dk 0x1200 2) + 1
  let r := eventBytes seq (now s) faultId part sev sub index detail
  let s := dSet s (dk 0x1200 2) seq
  let s := { s with
    host := { s.host with events := keepLast 1024 (s.host.events ++ [r]) }
    pwr := { s.pwr with millerClock := true } }
  let s := busSend s { srcAddr := macAddress s, srcPort := orogusPort, addr := eventAddr, port := orogusPort, bytes := orogusHeader 0 0x0A 32 0 0 0 ++ r }
  if falyndiUp s then sendMsix { s with host := { s.host with cause := s.host.cause ||| 2 } } 0 else s

/-! ### Health records (R394) -/

/-- FAULT_ID of a record number. -/
def faultIdOf (seq : Nat) : Nat := (seq - 1) % (2 ^ 24 - 1) + 1

/-- Word r2 of a health record. -/
def HealthRec.r2 (r : HealthRec) : Nat :=
  faultIdOf r.seq.toNat * 2 ^ 40 + r.source.toNat * 2 ^ 32 + r.part.toNat * 2 ^ 28 + (if r.partValid then 2 ^ 27 else 0) +
  (if r.shared then 2 ^ 26 else 0) + (if r.injected then 2 ^ 25 else 0) + r.outcome.toNat * 2 ^ 21 +
  r.unitKind.toNat * 2 ^ 16 + r.unit.toNat

/-- Words r0 to r7. -/
def HealthRec.words (r : HealthRec) : List Nat :=
  [r.seq.toNat, r.ticks.toNat, r.r2, r.address.toNat, r.locationA.toNat * 2 ^ 32 + r.locationB.toNat,
   r.action.toNat * 2 ^ 56 + r.newUnit.toNat * 2 ^ 40 + r.transients.toNat * 2 ^ 32 + r.testTicks.toNat,
   r.related.toNat * 2 ^ 40, r.errors.toNat]

def HealthRec.toBytes (r : HealthRec) : List Byte := r.words.flatMap (leBytes 8)

/-- Severity of the event of a record (R394). -/
def recordSeverity (r : HealthRec) (discards : Bool) : Nat :=
  match r.outcome.toNat with
  | 0 => if discards then 2 else 1
  | 1 => 1
  | 6 => 3
  | _ => 2

/-- The event of a record's write or update; outcomes 2, 3 and 6 are also kept in lasting_log. -/
def recordEvent (s : State) (r : HealthRec) (discards : Bool) : State :=
  let s := if r.outcome = 2 ∨ r.outcome = 3 ∨ r.outcome = 6 then
      { s with hlth := { s.hlth with lasting := keepLast 1024 (s.hlth.lasting ++ [r]) } } else s
  raiseEvent s (recordSeverity r discards) (faultIdOf r.seq.toNat)
    (if r.partValid then some r.part.toNat else none) 0x4000 1 r.r2

/-- What a record's transient outcomes are counted for (R388): an array of a core, an SRAM row, or the unit itself, as (kind, number). -/
def HealthRec.place (r : HealthRec) : Nat × Nat :=
  let row := r.source.toNat == 3 || r.source.toNat == 4 || r.source.toNat == 5 || r.source.toNat == 8 || r.source.toNat == 0x0B
  let part := if row then 2 ^ 17 + r.locationA.toNat * 2 ^ 32 + r.locationB.toNat
    else if r.source = 1 then 1 + r.locationA.toNat else 0
  (r.unitKind.toNat, r.unit.toNat + 2 ^ 16 * part)

/-- The transient outcomes of a record's unit that still lie in the window (R388). -/
def transientsOf (s : State) (r : HealthRec) : List (Nat × Nat × Word) :=
  s.hlth.transients.filter (fun x => (x.1, x.2.1) == r.place && decide (now s < x.2.2.toNat + dGet s (dk 0x4003 2) * 25000000))

/-- A new record in the log, without its event: its SEQ, TICKS, RELATED and TRANSIENTS are filled in here. -/
def noteRec (s : State) (r : HealthRec) : State × HealthRec :=
  let seq := dGet s (dk 0x4000 2) + 1
  let prev := (s.hlth.log.filter (fun x => x.unitKind == r.unitKind && x.unit == r.unit)).getLast?
  let r := { r with
    seq := BitVec.ofNat 64 seq, ticks := BitVec.ofNat 64 (now s),
    transients := BitVec.ofNat 8 (min (transientsOf s r).length 255),
    related := (match prev with
      | some x => BitVec.ofNat 24 (faultIdOf x.seq.toNat)
      | none => 0) }
  let s := dSet s (dk 0x4000 2) seq
  let s := countT s 0x32C0 1
  ({ s with hlth := { s.hlth with log := keepLast 4096 (s.hlth.log ++ [r]) } }, r)

/-- A new record with its event; answers the state and the FAULT_ID. -/
def writeHealth (s : State) (r : HealthRec) (discards : Bool) : State × Nat :=
  let w := noteRec s r
  (recordEvent w.1 w.2 discards, faultIdOf w.2.seq.toNat)

/-- A record with only its source, unit and outcome. -/
def blankRec (source unitKind unit outcome : Nat) : HealthRec :=
  { seq := 0, ticks := 0, source := BitVec.ofNat 8 source, part := 0, partValid := false, shared := false,
    injected := false, outcome := BitVec.ofNat 4 outcome, unitKind := BitVec.ofNat 5 unitKind, unit := BitVec.ofNat 16 unit,
    address := 0, locationA := 0, locationB := 0, action := 0, newUnit := 0, transients := 0, testTicks := 0,
    related := 0, errors := 1 }

/-- The record of a number. -/
def findRec (s : State) (seq : Nat) : Option HealthRec := s.hlth.log.find? (fun r => r.seq.toNat == seq)

/-- Update a record and raise its event. -/
def updateRec (s : State) (seq : Nat) (f : HealthRec → HealthRec) : State :=
  match findRec s seq with
  | none => s
  | some r =>
    let r' := f r
    let s := { s with hlth := { s.hlth with log := modifyFirst (fun x => x.seq.toNat == seq) (fun _ => r') s.hlth.log } }
    let s := match r'.outcome.toNat with
      | 1 => countT s 0x32C1 1
      | 2 => countT s 0x32C2 1
      | 3 => countT s 0x32C3 1
      | _ => s
    recordEvent s r' false

/-! ### Rings, ledger, cells -/

def ringDefault (_ : Nat) : Ring := Ring.free

/-- The record of a ring. -/
def ringOf (s : State) (n : Nat) : Ring := tableGet ringDefault s.hop.rings n

def ledgerDefault (_ : Nat) : BitVec 48 := 0

/-- COMMITTED_SEQ of a ring (R45). -/
def committedSeq (s : State) (n : Nat) : Nat := (tableGet ledgerDefault s.hop.ledger n).toNat

/-- STATE as a code. -/
def RingState.code : RingState → Nat
  | .free => 0
  | .active => 1
  | .halted => 2

/-- The status record of a ring: 64 bytes (spec/02 "Ring status record"). -/
def ringBytes (r : Ring) (committed : Nat) : List Byte :=
  leBytes 8 (r.lastResult.toNat * 2 ^ 48 + r.haltStatus.toNat * 2 ^ 40 + r.rgen.toNat * 2 ^ 32 + r.part.toNat * 2 ^ 28 +
    r.stack.toNat * 2 ^ 24 + r.size.toNat * 2 ^ 7 + (if r.inflight then 4 else 0) + r.state.code) ++
  leBytes 8 (r.commitPos.toNat * 2 ^ 32 + r.consumer.toNat) ++ leBytes 8 r.producer.toNat ++ leBytes 8 committed ++
  leBytes 8 r.nextSeq.toNat ++ leBytes 8 r.ringAddr.toNat ++ leBytes 8 r.mirrorAddr.toNat ++ leBytes 8 r.cqBase.toNat

/-- Write the status record of a ring to both copies of the table (R26, R431). -/
def mirrorRing (s : State) (n : Nat) : State :=
  let bs := ringBytes (ringOf s n) (committedSeq s n)
  let base := dGet s (dk 0x2100 3) % 2 ^ 44
  let mir := dGet s (dk 0x2100 0xC) % 2 ^ 44
  let s := stKey s (base + 64 * n) bs
  if mir = 0 then s else stKey s (mir + 64 * n) bs

/-- Set a ring's record. -/
def putRing (s : State) (n : Nat) (r : Ring) : State :=
  mirrorRing { s with hop := { s.hop with rings := tableSet ringDefault n r s.hop.rings } } n

/-- Set a ring's ledger entry and its mirror. -/
def putLedger (s : State) (n seq : Nat) : State :=
  mirrorRing { s with hop := { s.hop with ledger := tableSet ledgerDefault n (BitVec.ofNat 48 seq) s.hop.ledger } } n

/-- Cells on the ring lists of a partition. -/
def cellsOnRings (s : State) (p : Nat) : Nat :=
  ((s.hop.rings.filter (fun r => r.2.part.toNat == p)).map (fun r => r.2.cells.length)).sum

/-- cells_held of a partition. -/
def cellsHeld (s : State) (p : Nat) : Nat :=
  ((s.hop.segments.filter (fun g => g.part == p)).map (fun g => g.held.length)).sum

/-- cells_used of a partition. -/
def cellsUsed (s : State) (p : Nat) : Nat := cellsOnRings s p + cellsHeld s p

/-- cells_free: the pool less retired and used cells (R390). -/
def cellsFree (s : State) : Nat :=
  65536 - s.hop.retiredCells.length - ((List.range 16).map (cellsUsed s)).sum

/-- in_flight of a partition. -/
def inFlightOf (s : State) (p : Nat) : Nat := (s.hop.inflight.filter (fun c => c.part == p)).length

/-- The command in flight on a ring. -/
def flightOf (s : State) (ring : Nat) : Option InFlight := s.hop.inflight.find? (fun c => c.ring == ring)

/-- Replace the command in flight on a ring. -/
def setFlight (s : State) (ring : Nat) (f : InFlight → InFlight) : State :=
  { s with hop := { s.hop with inflight := modifyFirst (fun c => c.ring == ring) f s.hop.inflight } }

/-- Remove the command in flight on a ring, with the chunks staged for its instance. -/
def dropFlight (s : State) (ring : Nat) : State :=
  let ids := s.hop.inflight.filterMap (fun c => if c.ring = ring then c.coll.map (·.collId.toNat) else none)
  { s with
    hop := { s.hop with inflight := s.hop.inflight.filter (fun c => c.ring != ring) }
    fab := { s.fab with staged := s.fab.staged.filter (fun k => !ids.contains (k.pkt.x2.toNat / 2 ^ 32)) }
    media := { s.media with abandoned := s.media.abandoned.filter (fun a => a.1 != ring) } }

/-- A quiescing partition becomes quiescent when nothing is in flight (R12). -/
def settleQuiesce (s : State) (p : Nat) : State :=
  if pGet s p 5 = 2 ∧ inFlightOf s p = 0 then pSet s p 5 3 else s

/-! ### Descriptor header fields -/

/-- Word i of a descriptor. -/
def dw (d : List Word) (i : Nat) : Nat := (d.getD i 0).toNat

def opcOf (d : List Word) : Nat := bits (dw d 0) 15 4
def seqOf (d : List Word) : Nat := bits (dw d 1) 47 0
def phaseOf (d : List Word) : Nat := bits (dw d 0) 23 16
def prioOf (d : List Word) : Nat := bits (dw d 0) 26 24
def voutOf (d : List Word) : Bool := bit (dw d 0) 27
def rmarkOf (d : List Word) : Bool := bit (dw d 0) 28
def rendOf (d : List Word) : Bool := bit (dw d 0) 29
def zwriteOf (d : List Word) : Bool := bit (dw d 0) 30

/-! ### Discards (R47) -/

/-- The command of a ring has passed its commit point (R43): its journal record is sealed. -/
def sealedOn (s : State) (ring : Nat) : Bool := s.hop.journal.any (fun j => j.ring == ring)

/-- Discard every command in flight of the partitions that is before its commit point: each ends once its writes and
transactions have ended (DISCARD_COMPLETE). Dispatch of a partition with a command to end is stopped until then. -/
def discardParts (s : State) (parts : List Nat) (status faultId : Nat) : State :=
  let hit (c : InFlight) : Bool := parts.contains c.part && c.discard.isNone && !sealedOn s c.ring
  let stop := (s.hop.inflight.filter (fun c => parts.contains c.part && !sealedOn s c.ring)).map (·.part)
  { s with hop := { s.hop with
    inflight := s.hop.inflight.map (fun c =>
      if hit c then { c with discard := some (BitVec.ofNat 8 status), faultId := BitVec.ofNat 24 faultId, claims := [] } else c),
    journal := s.hop.journal.map (fun j => if parts.contains j.part then { j with interrupted := true } else j)
    stopped := stop.foldl (fun l p => insertNat p l) s.hop.stopped } }

/-- Every partition. -/
def allParts : List Nat := List.range 16

/-! ### Cores -/

/-- The physical core of a logical core: the factory map of R79, or where repair has moved it. -/
def physOf (s : State) (i : Nat) : Nat :=
  match s.cores.moved.find? (fun m => m.1 == i) with
  | some m => m.2
  | none =>
    match s.variant with
    | .cxm1440 => 26 * (i / 24) + i % 24
    | .cxm1280 => if i < 44 then 26 * (i / 22) + i % 22 else 26 * ((i - 44) / 21 + 2) + (i - 44) % 21

/-- Logical cores sold enabled. -/
def coreCount (s : State) : Nat := if s.variant = .cxm1440 then 144 else 128

/-- The mask bit of a logical core in a partition. -/
def inMask (s : State) (p i : Nat) : Bool := bit (pGet s p (2 + i / 64)) (i % 64)

/-- The partition whose mask names a logical core (R9). -/
def coreOwner (s : State) (i : Nat) : Option Nat := (List.range 16).find? (fun p => inMask s p i)

/-- Physical cores of the logical cores that no partition owns. -/
def idlePhys (s : State) : List Nat :=
  ((List.range (coreCount s)).filter (fun i => (coreOwner s i).isNone)).map (physOf s)

/-- Core memories that lose their content: operand store, tailrace banks and bolter state of an unowned core hold zeros (R9). -/
def lostMems (s : State) (tag : Nat) : List CoreRange :=
  (allLost tag).filter (fun r => !((r.kind == 0 || r.kind == 1 || r.kind == 3) && (idlePhys s).contains r.phys))

/-- core_state 3, 4 or 5; 0 when in service. -/
def withheldOf (s : State) (i : Nat) : Nat :=
  match s.cores.withheld.find? (fun w => w.1 == i) with
  | some w => w.2
  | none => 0

def setWithheld (s : State) (i st : Nat) : State :=
  { s with cores := { s.cores with
    withheld := (s.cores.withheld.filter (fun w => w.1 != i)) ++ (if st = 0 then [] else [(i, st)]) } }

/-- The cores of a partition that may claim units (R98). -/
def dispatchSet (s : State) (p : Nat) : List Nat :=
  (List.range (coreCount s)).filter (fun i => inMask s p i && withheldOf s i == 0)

/-- The first quern engine as an agent: agents 0 to 143 are logical cores, 160 to 165 quern engines. -/
def quernAgent : Nat := 160

/-- Count for an agent: cores under their physical core, quern engines under their die or in the total. -/
def agentCount (s : State) (agent index n : Nat) : State :=
  if n = 0 then s
  else if agent < quernAgent then count s index (physOf s agent + 1) n
  else if index = 0x3225 then count s 0x3229 (agent - quernAgent + 1) n
  else countT s index n

/-- The mask of a partition names no core. -/
def maskEmpty (s : State) (p : Nat) : Bool := pGet s p 2 == 0 && pGet s p 3 == 0 && pGet s p 4 == 0

/-! ### Detected errors (R381 to R385) -/

/-- The domain of an error: which partitions it discards, and whether it is shared (R381). -/
def errorDomain (s : State) (e : ErrorReport) : List Nat × Bool :=
  match e.source.toNat with
  | 0x01 => ((coreOwner s e.unit.toNat).toList, false)
  | 0x02 => ((coreOwner s e.unit.toNat).toList, false)
  | 0x03 => ((coreOwner s e.unit.toNat).toList, false)
  | 0x05 => ((coreOwner s e.unit.toNat).toList, false)
  | 0x07 => (if e.byCommand then [e.part.toNat] else [], false)
  | 0x09 => ([e.part.toNat], false)
  | 0x0A => (allParts, true)
  | 0x0B => (allParts, true)
  | 0x0C => (allParts, true)
  | 0x0F => (allParts, true)
  | 0x13 => (allParts, true)
  | 0x14 => (allParts, true)
  | 0x15 => (if e.byCommand then [e.part.toNat] else [], false)
  | _ => ([], false)

/-- The source has a targeted test (R381). -/
def hasTest (source : Nat) : Bool :=
  decide (1 ≤ source ∧ source ≤ 8) || decide (0x0A ≤ source ∧ source ≤ 0x10)

/-- The unit of an error is withheld, under test or under repair: a test of its open record is queued (R385). -/
def openTest (s : State) (e : ErrorReport) : Option Test :=
  s.hlth.tests.find? (fun t => match findRec s t.seq.toNat with
    | some r => r.unitKind == e.unitKind && r.unit == e.unit &&
        (e.unitKind.toNat != 4 || r.locationB == e.locationB)
    | none => false)

/-- Enter a line in the lost-line table; over 4,096 lines region 0 is lost (R240). Answers whether it overflowed. -/
def loseLine (s : State) (addr : Nat) : State × Bool :=
  let l := memKey s addr / 128
  if s.mem.lostLines.contains l then (s, false)
  else if 4096 ≤ s.mem.lostLines.length then (dSet s (dk 0x2400 7) 1, true)
  else ({ s with mem := { s.mem with lostLines := s.mem.lostLines ++ [l] } }, false)

/-- The counters an error of a source adds to. -/
def countError (s : State) (e : ErrorReport) : State :=
  let stack (s : State) (ix : Nat) : State :=
    count s ix ((locate s (gaRegion e.address.toNat) (gaOffset e.address.toNat)).1 / 32 + 1) 1
  match e.source.toNat with
  | 0x01 => count s 0x3226 (physOf s e.unit.toNat + 1) 1
  | 0x02 => (match coreOwner s e.unit.toNat with
      | some p => countP s 0x3254 p 1
      | none => countT s 0x3254 1)
  | 0x04 => dAdd s (dk 0x327F 1) 1
  | 0x05 => dAdd s (dk 0x327F 2) 1
  | 0x06 => stack s 0x3270
  | 0x07 => if e.unitKind.toNat = 4 then stack s 0x3271 else dAdd s (dk 0x327F 2) 1
  | 0x08 => dAdd s (dk 0x327F 1) 1
  | 0x09 => countP s 0x327D e.part.toNat 1
  | 0x0B => dAdd s (dk 0x327F 2) 1
  | _ => s

/-- A spare has failed and is retired (R397): unit kind, physical core, die, set group or port, array, spare. -/
def spareBad (s : State) (kind unit array spare : Nat) : Bool := s.cores.badSpares.contains (kind, unit, array, spare)

/-- Move a lane's traffic to the spare when the spare is free and shows no error (R257): answers the state and whether it moved. -/
def swapLane (s : State) (link lane : Nat) : State × Bool :=
  let l := if link = 6 then s.host.link else s.fab.links.getD link (Link.fresh kraurCredits)
  if l.spareFor.isSome || !l.spareClean || spareBad s (if link = 6 then 6 else 5) link 0 0 then (s, false)
  else
    let l' := { l with spareFor := some lane }
    if link = 6 then
      (countT (dSet { s with host := { s.host with link := l' } } (dk 0x1100 4)
        (Nat.xor (Nat.lor (dGet s (dk 0x1100 4)) 0x10) (2 ^ lane))) 0x3113 1, true)
    else
      (count (dSet { s with fab := { s.fab with links := s.fab.links.set link l' } } (dk (0x2701 + link) 3)
        (Nat.xor (Nat.lor (dGet s (dk (0x2701 + link) 3)) 0x1000) (2 ^ lane))) 0x3287 (link + 1) 1, true)

/-- Withhold the unit of an error (step 2 of R384). -/
def withholdUnit (s : State) (e : ErrorReport) : State :=
  let u := e.unit.toNat
  if e.source = 0x0F then s
  else match e.unitKind.toNat with
  | 1 => if withheldOf s u = 0 then setWithheld s u 3 else s
  | 2 =>
    if s.cores.quernWithheld.any (fun q => q.1 == u) then s
    else { s with cores := { s.cores with quernWithheld := s.cores.quernWithheld ++ [(u, 3)] } }
  | 7 =>
    if s.media.withheld.any (fun q => q.1 == u) then s
    else { s with media := { s.media with withheld := s.media.withheld ++ [(u, 3)] } }
  | 5 => (swapLane s (u / 16) (u % 16)).1
  | 6 => (swapLane s 6 u).1
  | _ => s

/-- A clean millpond line that reads uncorrectable is invalidated, so that its next read fetches it from HBM again (R381). -/
def dropLine (s : State) (addr : Nat) : State :=
  { s with mem := { s.mem with millpond := s.mem.millpond.filter (fun l => l.line != memKey s addr / 128) } }

/-- What a detected error does (R384): discard, withhold, record, queue the test. `persist`: the PERSIST of the
injection behind it. Answers the state and the record's FAULT_ID. -/
def detectError (s : State) (e : ErrorReport) (persist : Option (BitVec 2)) : State × Nat :=
  let s := countError s e
  let s := if e.source = 8 ∧ e.cleanLost then dropLine s e.address.toNat else s
  let lost := if e.source = 7 then loseLine s e.address.toNat else (s, false)
  let s := lost.1
  let dom := if lost.2 then (allParts, true) else errorDomain s e
  match openTest s e with
  | some t =>
    let s := countT s 0x32C6 1
    let fid := faultIdOf t.seq.toNat
    let s := { s with hlth := { s.hlth with
      log := modifyFirst (fun r => r.seq == t.seq) (fun r => { r with errors := r.errors + 1 }) s.hlth.log } }
    (discardParts s dom.1 0x10 fid, fid)
  | none =>
    let tested := hasTest e.source.toNat
    let s0 := withholdUnit s e
    let w := writeHealth s0 { blankRec e.source.toNat e.unitKind.toNat e.unit.toNat (if tested then 0 else 4) with
      part := BitVec.ofNat 4 (dom.1.headD 0), partValid := !dom.2 && !dom.1.isEmpty, shared := dom.2,
      injected := persist.isSome, address := e.address, locationA := e.locationA, locationB := e.locationB, namesCol := e.namesCol }
      (!dom.1.isEmpty)
    let s := if tested then
        { w.1 with hlth := { w.1.hlth with tests := w.1.hlth.tests ++
          [{ seq := BitVec.ofNat 64 (dGet w.1 (dk 0x4000 2)), running := false, verify := false, persist := persist }] } }
      else w.1
    (discardParts s dom.1 0x10 w.2, w.2)

/-- The report of a translation fault (R223). -/
def translationFault (part va : Nat) : ErrorReport :=
  { source := 9, unitKind := 10, unit := BitVec.ofNat 16 part, address := BitVec.ofNat 64 va, locationA := 0,
    locationB := 0, part := BitVec.ofNat 4 part, byCommand := true }

/-- The report of an uncorrectable HBM read (R240): the channel and row of the address. -/
def uncorrectableRead (s : State) (part a : Nat) (byCommand : Bool) : ErrorReport :=
  let w := locate s (gaRegion a) (gaOffset a)
  { source := 7, unitKind := 4, unit := BitVec.ofNat 16 w.1, address := BitVec.ofNat 64 a, locationA := 0,
    locationB := BitVec.ofNat 32 w.2, part := BitVec.ofNat 4 part, byCommand := byCommand }

/-- Index under which a unit's counts hold the columns that a checksum row names (R96); 0x3226 holds the rows of the checksum column. -/
def columnMismatch : Nat := 0x13226

/-- The report of a checksum mismatch in a unit that an agent runs, at array × 2¹⁶ + column or row (R95, R96, R105). -/
def checksumReport (agent place : Nat) (column : Bool) : ErrorReport :=
  { source := if agent < quernAgent then 0x01 else 0x0A, unitKind := if agent < quernAgent then 1 else 2,
    unit := BitVec.ofNat 16 (if agent < quernAgent then agent else agent - quernAgent), address := 0,
    locationA := BitVec.ofNat 16 (place / 65536), locationB := BitVec.ofNat 32 (place % 65536), part := 0, byCommand := true,
    namesCol := column }

/-- A checksum mismatch; that of a quern engine counts in the total (R105). -/
def chargeMismatch (s : State) (agent place : Nat) (column : Bool) : State :=
  (detectError (if agent < quernAgent then s else countT s 0x3226 1) (checksumReport agent place column) none).1

/-- One count of a completed unit under the agent that ran it: a checksum mismatch, whose number is its place, or a number
to add (R89, R94, R95, R105). -/
def chargeOne (s : State) (agent : Nat) (x : Nat × Nat) : State :=
  if x.1 = 0x3226 ∨ x.1 = columnMismatch then chargeMismatch s agent x.2 (x.1 == columnMismatch)
  else agentCount s agent x.1 x.2

/-- Count what belongs to completed units of a ring's command, each under the agent that ran it. -/
def chargeUnits (s : State) (ring : Nat) : State :=
  match flightOf s ring with
  | none => s
  | some c =>
    let due (x : Nat × Nat × Nat) : Option Claim := c.unitsDone.find? (fun k => k.unit == x.1)
    let s := setFlight s ring (fun f => { f with unitCounts := f.unitCounts.filter (fun x => (due x).isNone) })
    c.unitCounts.foldl (fun s x => match due x with
      | some k => chargeOne s k.agent x.2
      | none => s) s

/-! ### Rows under test (R243, R384) -/

/-- The HBM rows whose tests have not ended: (channel, granule row). -/
def testedRows (s : State) : List (Nat × Nat) :=
  s.hlth.tests.filterMap (fun t => match findRec s t.seq.toNat with
    | some r => if r.unitKind = 4 then some (r.unit.toNat, r.locationB.toNat) else none
    | none => none)

/-- A range of the module's own memory touches a row under test: its accesses are held. -/
def rowHeld (s : State) (a n : Nat) : Bool :=
  let rows := testedRows s
  !rows.isEmpty && gaNode a == nodeId s && decide (gaRegion a < 2) && decide (0 < n) &&
  (List.range ((a + n - 1) / 256 - a / 256 + 1)).any (fun i =>
    rows.contains (locate s (gaRegion a) ((gaOffset a / 256 + i) * 256)))

/-! ### Writes that merge (R233) -/

/-- The code words that a write covers only in part: their old content is read (R233). -/
def partialWords (a n : Nat) : List (Nat × Nat) :=
  (if a % 64 = 0 ∨ n = 0 then [] else [(a / 64 * 64, 64)]) ++
  (if (a + n) % 64 = 0 ∨ n = 0 then [] else [((a + n) / 64 * 64, 64)])

/-- The first lost line that ranges of reads meet. -/
def lostRead (s : State) (l : List (Nat × Nat)) : Option Nat := (l.filterMap (fun x => firstLost s x.1 x.2)).head?

/-- A store outside any command: where the merge read of a code word is uncorrectable the write is not performed, and the line is
reported (R233, R240). -/
def storeM (s : State) (a : Nat) (bs : List Byte) : State :=
  match lostRead s (partialWords a bs.length) with
  | some l => (detectError s (uncorrectableRead s 0 l false) none).1
  | none => store s a bs

/-- Store a little-endian number in this way. -/
def stWord (s : State) (a n v : Nat) : State := storeM s a (leBytes n v)

/-- A write by shared infrastructure to a global address. -/
def gWrite (s : State) (a : Nat) (bs : List Byte) : State :=
  if gaRegion a = 2 then hostWrite s a bs else touchRange none true (storeM s a bs) a bs.length

/-! ### Tallies (R66 to R69) -/

def tallyDefault (_ : Nat) : Word := 0

def tallyOf (s : State) (t : Nat) : Nat := (tableGet tallyDefault s.hop.tallies t).toNat

/-- The partition that owns a tally. -/
def tallyOwner (s : State) (t : Nat) : Option Nat :=
  (List.range 16).find? (fun p => decide (pGet s p 0xD ≤ t ∧ t < pGet s p 0xD + pGet s p 0xE))

/-- A tally lies in a partition's range. -/
def tallyIn (s : State) (p t : Nat) : Bool := decide (pGet s p 0xD ≤ t ∧ t < pGet s p 0xD + pGet s p 0xE)

/-! ### Completion records and messages (R56, R346) -/

/-- The bit of a ring in ring_notify, or in the latency marks, from a pair of index ranges. -/
def ringBit (s : State) (lo ring : Nat) : Bool :=
  let ix := if ring < 8192 then lo else lo + 1
  bit (dGet s (dk ix (ring % 8192 / 64 + 1))) (ring % 64)

/-- A completion message leaves, at most one per vector within the holdoff; while the link is down one waits for each vector, behind
the last record that it covers (R346, R347). -/
def sendVector (s : State) (v : Nat) : State :=
  if !falyndiUp s then
    sendMsix { s with host := { s.host with held := s.host.held.filter (fun h => h.1 != msixPlace v) } } v
  else if dGet s (dk 0x1100 6) = 0 then sendMsix s v
  else if s.host.holdoff.any (fun h => h.1 == v) then
    { s with host := { s.host with holdoff := modifyFirst (fun h => h.1 == v) (fun h => (h.1, true, h.2.2)) s.host.holdoff } }
  else
    let s := sendMsix s v
    { s with host := { s.host with holdoff := s.host.holdoff ++ [(v, false, now s)] } }

/-- A completion message for a ring whose ring_notify bit is set. -/
def notify (s : State) (ring : Nat) : State := if ringBit s 0x1120 ring then sendVector s (1 + ring % 2047) else s

/-- What a completion record carries beside the ring's own fields. -/
structure EndInfo where
  pos     : Nat
  seq     : Nat
  phase   : Nat
  status  : Nat
  faultId : Nat
  busy    : Nat
  stall   : Nat
  elapsed : Nat
  deriving DecidableEq, Repr

/-- The completion record as 32 bytes (spec/02 "Completion record"). -/
def completionBytes (s : State) (n : Nat) (r : Ring) (e : EndInfo) : List Byte :=
  let valid := 1 - (e.pos / r.size.toNat) % 2
  leBytes 8 (valid * 2 ^ 63 + n * 2 ^ 48 + e.seq) ++
  leBytes 8 (e.faultId * 2 ^ 40 + dGet s (dk 0x2100 5) % 2 ^ 16 * 2 ^ 24 + r.rgen.toNat * 2 ^ 16 + e.phase * 2 ^ 8 +
    e.status) ++
  leBytes 8 e.busy ++ leBytes 8 (min e.stall 0xFFFFFFFF * 2 ^ 32 + min e.elapsed 0xFFFFFFFF)

/-- The counter of an end (R58); committed ends count nothing. -/
def endCounter (status : Nat) : Option Nat :=
  if status = 0x02 then some 0x3200
  else if status = 0x24 then some 0x3201
  else if status = 0x10 then some 0x3202
  else if status = 0x11 then some 0x3203
  else if status = 0x12 then some 0x3204
  else if status / 16 = 2 then some 0x3205
  else if status / 16 = 3 ∨ status / 16 = 4 then some 0x3206
  else none

/-- Write a completion record, count the end and send the message: c1 to c3 before c0 within one step. -/
def writeCompletion (s : State) (n : Nat) (e : EndInfo) : State :=
  let r := ringOf s n
  let s := gWrite s (r.cqBase.toNat + 32 * (e.pos % r.size.toNat)) (completionBytes s n r e)
  let s := match endCounter e.status with
    | some ix => countP s ix r.part.toNat 1
    | none => s
  let s := dAdd s (dk (0x3300 + e.phase) 0x11) 1
  notify s n

/-! ### Segments (R71 to R77) -/

/-- The directory entry of a ring and SEQ. -/
def findSeg (s : State) (ring seq : Nat) : Option Segment :=
  s.hop.segments.find? (fun g => g.ring == ring && g.seq.toNat == seq)

def setSeg (s : State) (ring seq : Nat) (f : Segment → Segment) : State :=
  { s with hop := { s.hop with
    segments := modifyFirst (fun g => g.ring == ring && g.seq.toNat == seq) f s.hop.segments } }

def dropSeg (s : State) (ring seq : Nat) : State :=
  { s with hop := { s.hop with
    segments := s.hop.segments.filter (fun g => !(g.ring == ring && g.seq.toNat == seq)) } }

/-- A segment descriptor has ended committed or failed: its cell joins the segment's list, or is freed where the
segment was released while open (R73, R77). -/
def segmentEnd (s : State) (ring seq : Nat) (d : List Word) : State :=
  match findSeg s ring seq with
  | none => s
  | some g =>
    let s := if g.released then s else setSeg s ring seq (fun g => { g with held := g.held ++ [d] })
    if rendOf d then
      (if g.released then dropSeg s ring seq else setSeg s ring seq (fun g => { g with complete := true }))
    else s

/-- After cells of a ring were dropped: entries whose RMARK descriptor has not ended go with it, and the open segment is
the incomplete one that is left (R71, R73). -/
def reopenSeg (s : State) (ring : Nat) : State :=
  let s := { s with hop := { s.hop with
    segments := s.hop.segments.filter (fun g => !(g.ring == ring && !g.complete && decide (committedSeq s ring < g.seq.toNat))) } }
  let r := ringOf s ring
  let o := (s.hop.segments.find? (fun g => g.ring == ring && !g.complete)).map (·.seq)
  putRing s ring { r with openSeg := o, dirStop := false }

/-! ### Ends of a command -/

/-- Halt a ring: CONSUMER and NEXT_SEQ as given, every cell behind dropped (R47, spec/02 "Ends of a command"). -/
def haltRing (s : State) (n consumer nextSeq status : Nat) : State :=
  let r := ringOf s n
  reopenSeg (putRing s n { r with
    state := .halted, haltStatus := BitVec.ofNat 8 status, consumer := BitVec.ofNat 32 consumer,
    nextSeq := BitVec.ofNat 48 nextSeq, inflight := false, cells := [] }) n

/-- End the descriptor at COMMIT_POS of a ring with a status that is not a commit: skipped, returned or failed (spec/02
"Ends of a command", R33, R38, R73). -/
def endHead (s : State) (n status faultId busy stall elapsed : Nat) : State :=
  let r := ringOf s n
  match r.cells with
  | [] => s
  | c :: rest =>
    let pos := r.commitPos.toNat
    let seq := seqOf c.desc
    let e : EndInfo :=
      { pos := pos, seq := seq, phase := phaseOf c.desc, status := status, faultId := faultId, busy := busy,
        stall := stall, elapsed := elapsed }
    if status = 2 then
      let s := putRing s n { r with cells := rest, commitPos := BitVec.ofNat 32 (pos + 1), inflight := false }
      let s := writeCompletion s n e
      if seq = 2 ^ 48 - 1 then haltRing s n (pos + 1) seq 0x24 else s
    else if status / 16 = 1 ∨ status / 16 = 2 then
      let s := haltRing s n pos (committedSeq s n + 1) status
      writeCompletion s n e
    else
      let s := putLedger s n seq
      let s := putRing s n { r with cells := rest, commitPos := BitVec.ofNat 32 (pos + 1), inflight := false }
      let s := match c.seg with
        | some g => segmentEnd s n g.toNat c.desc
        | none => s
      let s := haltRing s n (pos + 1) (seq + 1) status
      writeCompletion s n e

/-- End in their turn the descriptors at the head of a ring that are not to be executed: duplicates, pending duplicates
whose original has ended, and returned ones (R33, R36). -/
def settleRing (n : Nat) : Nat → State → State
  | 0, s => s
  | fuel + 1, s =>
    let r := ringOf s n
    if r.state = .active then
      match r.cells with
      | [] => s
      | c :: _ =>
        match c.st with
        | .duplicate => settleRing n fuel (endHead s n 2 0 0 0 0)
        | .pendingDup =>
          if seqOf c.desc ≤ committedSeq s n then settleRing n fuel (endHead s n 2 0 0 0 0) else s
        | .returned st fid => endHead s n st.toNat fid.toNat 0 0 0
        | .accepted => s
        | .reading => s
    else s

/-- `settleRing` over every cell the ring holds. -/
def settle (s : State) (n : Nat) : State := settleRing n ((ringOf s n).cells.length + 1) s

/-! ### Injections (R398, R430) -/

/-- The error that an injection makes at its firing point. -/
def injError (s : State) (i : Injection) : ErrorReport :=
  let w := locate s (gaRegion i.addr.toNat) (gaOffset i.addr.toNat)
  let of (source kind : Nat) : ErrorReport :=
    { source := BitVec.ofNat 8 source, unitKind := BitVec.ofNat 5 kind, unit := i.unit, address := 0, locationA := i.locA,
      locationB := i.locB.setWidth 32, part := 0, byCommand := true, namesCol := i.kind == 1 || i.kind == 9 }
  let hbm (source : Nat) : ErrorReport :=
    { source := BitVec.ofNat 8 source, unitKind := 4, unit := BitVec.ofNat 16 w.1, address := i.addr, locationA := 0,
      locationB := BitVec.ofNat 32 w.2, part := 0, byCommand := true }
  match i.kind.toNat with
  | 1 => of 0x01 1
  | 2 => of 0x05 1
  | 3 => of 0x03 1
  | 4 => of 0x08 3
  | 5 => hbm 0x06
  | 6 => hbm 0x07
  | 7 => of 0x0D 5
  | 8 => of 0x0E 6
  | 9 => of 0x0A 2
  | _ => of 0x0C 7

/-- Disarm the first injection that passes a test, counting that it has fired. -/
def takeInjection (s : State) (p : Injection → Bool) : Option (Injection × State) :=
  match s.hlth.injections.find? p with
  | none => none
  | some i => some (i, countT { s with hlth := { s.hlth with injections := s.hlth.injections.erase i } } 0x32C7 1)

/-- Fire an injection that passes a test, for a command of a partition. -/
def fireInjection (s : State) (part : Nat) (p : Injection → Bool) : State :=
  match takeInjection s p with
  | none => s
  | some (i, s) => (detectError s { injError s i with part := BitVec.ofNat 4 part } (some i.persist)).1

/-- An access meets the way of an armed injection of kind 4: a line of [a, a + n) lies in it. -/
def armedWay (s : State) (a n : Nat) (i : Injection) : Bool :=
  i.kind == 4 && gaNode a == nodeId s && decide (gaRegion a < 2) && s.mem.millpond.any (fun m =>
    m.way == i.locA.toNat && lineSet (sliceDies s) m.line / 1024 == i.unit.toNat &&
    decide (a % 2 ^ 44 < 128 * m.line + 128 ∧ 128 * m.line < a % 2 ^ 44 + n))

/-- A read of [a, a + n) meets the code word of an armed injection of a kind. -/
def armedAt (s : State) (kind a n : Nat) (i : Injection) : Bool :=
  i.kind.toNat == kind && !inHolding s (gaRegion i.addr.toNat) (gaOffset i.addr.toNat) && decide (i.addr.toNat / 64 * 64 < a + n ∧ a < i.addr.toNat / 64 * 64 + 64)

/-- What a read of [a, a + n) that no command makes meets: armed injections of its code words and ways (R430). -/
def fireRead (s : State) (a n : Nat) : State :=
  [(armedAt s 6 a n ·), (armedAt s 5 a n ·), (armedWay s a n ·)].foldl (fun s p =>
    match takeInjection s p with
    | none => s
    | some (i, s) => (detectError s { injError s i with byCommand := false } (some i.persist)).1) s

end Sys2Proof.Machine
end

