-- ==== Sys2Proof/Machine/Route.lean ====
section
/-! DEFINITION. Node numbers and routing of the Kraur torus (R262 to R264). -/

namespace Sys2Proof

/-! ### Header fields -/

def Packet.kind (p : Packet) : Nat := Machine.bits p.x0.toNat 63 60
def Packet.code (p : Packet) : Nat := Machine.bits p.x0.toNat 59 56
def Packet.len (p : Packet) : Nat := Machine.bits p.x0.toNat 55 45
def Packet.w64 (p : Packet) : Bool := Machine.bit p.x0.toNat 42
def Packet.dest (p : Packet) : Nat := Machine.bits p.x0.toNat 31 16
def Packet.src (p : Packet) : Nat := Machine.bits p.x0.toNat 15 0
def Packet.tag (p : Packet) : Nat := Machine.bits p.x1.toNat 63 32
def Packet.life (p : Packet) : Nat := Machine.bits p.x1.toNat 31 0
def Packet.addr (p : Packet) : Nat := p.x2.toNat
def Packet.operand (p : Packet) : Nat := p.x3.toNat

end Sys2Proof

namespace Sys2Proof.Machine

/-- Kinds of transaction. -/
def kRead : Nat := 0
def kWrite : Nat := 1
def kAtomic : Nat := 2
def kTally : Nat := 3
def kMessage : Nat := 4
def kCollective : Nat := 5
def kResponse : Nat := 8


/-- Size of the torus in dimension d (0 X, 1 Y, 2 Z). -/
def dimSize (s : State) (d : Nat) : Nat := dGet s (dk 0x2700 (d + 1))

/-- The module's own coordinate. -/
def coordOf (s : State) (d : Nat) : Nat := dGet s (dk 0x2700 (d + 4))

/-- The coordinate of a node number in dimension d. -/
def nodeCoord (s : State) (n d : Nat) : Nat :=
  if d = 0 then n % dimSize s 0
  else if d = 1 then n / dimSize s 0 % dimSize s 1
  else n / dimSize s 0 / dimSize s 1

/-- port_state: 0 down, 1 training, 2 up, 3 held, 4 retired. -/
def portState (s : State) (i : Nat) : Nat := dGet s (dk (0x2701 + i) 1)

/-- A hop's link is down (R264). A training or held port keeps its traffic (R260, R280). -/
def portDown (s : State) (i : Nat) : Bool := portState s i == 0 || portState s i == 4

/-- The node at the other end of a port. -/
def partnerOf (s : State) (i : Nat) : Nat := dGet s (dk (0x2701 + i) 2)

/-- The port of a dimension and direction. -/
def portOf (d : Nat) (plus : Bool) : Nat := 2 * d + (if plus then 0 else 1)

/-- Where the hop out of a port leads in its dimension: the partner's coordinate; the ring's next place while the port has no
partner yet and its traffic is held (R279). -/
def hopCoord (s : State) (d : Nat) (plus : Bool) : Nat :=
  let n := dimSize s d
  let q := partnerOf s (portOf d plus)
  if q = 0xFFFF then (if plus then (coordOf s d + 1) % n else (coordOf s d + n - 1) % n) else nodeCoord s q d

/-- What a forwarding module does with a transaction. -/
inductive Hop where
  | here
  | out (port vc : Nat)
  | absent (unroutable : Bool)
  deriving DecidableEq, Repr

/-- Distance from a to b in a ring of n in the direction of travel, 1 to n for distinct or wrapping ends. -/
def ringDist (n a b : Nat) (plus : Bool) : Nat := if plus then (b + n - a) % n else (a + n - b) % n

/-- The direction R263 takes in a dimension: + when Δ ≤ D − Δ. -/
def shortPlus (n c t : Nat) : Bool := decide (2 * ringDist n c t true ≤ n)

/-- A hop crosses the dateline: the partner's coordinate wraps in the direction of travel. -/
def crosses (c p : Nat) (plus : Bool) : Bool := if plus then decide (p ≤ c) else decide (c ≤ p)

/-- R264 from the dimensions still to correct, in their order. `plus?` fixes the direction in the first of them, `vc1`
says that the transaction is already past that dimension's dateline. -/
def hopFrom (s : State) (t : Nat) : Nat → List Nat → Option Bool → Bool → Bool → Hop
  | 0, _, _, _, _ => .absent true
  | _, [], _, _, _ => .here
  | fuel + 1, d :: rest, plus?, vc1, esc =>
    let n := dimSize s d
    let c := coordOf s d
    let plus := plus?.getD (shortPlus n c (nodeCoord s t d))
    let port := portOf d plus
    if portDown s port then
      if esc then .absent true else hopFrom s t fuel (d :: rest) (some (!plus)) false true
    else
      let p := hopCoord s d plus
      let hop := let h := ringDist n c p plus; if h = 0 then n else h
      if ringDist n c (nodeCoord s t d) plus < hop then
        if rest.isEmpty then .absent false
        else if esc then .absent true
        else hopFrom s t fuel (rest ++ [d]) none false true
      else .out port ((if esc then 2 else 0) + (if vc1 || crosses c p plus then 1 else 0))

/-- The next hop of a transaction for node t that came in by a port on a VC (`none`: it starts here). On the escape
class the port it came in by tells which dimension and direction it keeps (R264; DEDUCED, log entry 11). -/
def nextHop (s : State) (t : Nat) (inPort : Option Nat) (vc : Nat) : Hop :=
  let esc := decide (2 ≤ vc)
  let wrong (d : Nat) : Bool := coordOf s d != nodeCoord s t d
  match inPort with
  | none => hopFrom s t 6 ([0, 1, 2].filter wrong) none false false
  | some i =>
    let e := i / 2
    let order := if esc then [e, (e + 1) % 3, (e + 2) % 3] else [0, 1, 2]
    let dims := order.filter wrong
    let keep := dims.head? == some e
    hopFrom s t 6 dims (if esc && keep then some (i % 2 == 1) else none) (keep && vc % 2 == 1) esc

/-- What the module's own accesses to a node meet before any answer: 0, or NODE_ABSENT (R262, R264, R278). -/
def nodeStatus (s : State) (n : Nat) : Nat :=
  if n = nodeId s then 0
  else if !assignedNode s n || dGet s (dk 0x2700 0xC) == 1 then 0x32
  else match nextHop s n none 0 with
    | .absent _ => 0x32
    | _ => 0

end Sys2Proof.Machine
end

