-- ==== Sys2Proof/Machine/Links.lean ====
section
/-! DEFINITION. The flit layer of a link: slots, flits, credit, replay and reception (R257 to R261, R265, R341, R342). Each
transaction's slots start a flit of their own when they reach the port (DESIGN CHOICE, log entry 15). -/

namespace Sys2Proof.Machine

/-- The flit layer of a link: Kraur ports 0 to 5, Falyndi 6. -/
def getLink (s : State) (i : Nat) : Link :=
  if i = 6 then s.host.link else s.fab.links.getD i (Link.fresh kraurCredits)

def setLink (s : State) (i : Nat) (l : Link) : State :=
  if i = 6 then { s with host := { s.host with link := l } }
  else { s with fab := { s.fab with links := s.fab.links.set i l } }

/-- Count under a port and in the total, for Falyndi in the total of its own counter. -/
def linkCount (s : State) (i kraur falyndi n : Nat) : State :=
  if i = 6 then (if falyndi = 0 then s else countT s falyndi n) else count s kraur (i + 1) n

/-- The link carries flits: its port is up, and stays up through a warm reset (R271, R378). -/
def linkStays (s : State) (i : Nat) : Bool := if i = 6 then falyndiTrained s else portState s i == 2 && s.pwr.inputOk

/-- The module sends its traffic and returns credit over the link: a warm reset withholds both (R271, R378). -/
def linkUp (s : State) (i : Nat) : Bool := linkStays s i && s.pwr.resetRunning != some .warm

/-- The words of a flit header but its CRC. -/
structure FlitHead where
  type  : Nat
  vc    : Nat
  bgmap : Nat
  lseq  : Nat
  lack  : Nat
  crvc  : Nat
  crcnt : Nat
  slotv : Nat
  deriving DecidableEq, Repr

/-- A flit of 272 bytes (spec/10 "Flit header", R258). -/
def flitBytes (h : FlitHead) (payload : List Byte) : List Byte :=
  let f0 := leBytes 8 (h.type * 2 ^ 60 + h.vc * 2 ^ 58 + h.bgmap * 2 ^ 50 + h.lseq * 2 ^ 38 + h.lack * 2 ^ 26 +
    h.crvc * 2 ^ 23 + h.crcnt * 2 ^ 16 + h.slotv * 2 ^ 8)
  let pay := padTo 256 payload
  f0 ++ leBytes 8 (crc32 (f0 ++ leBytes 8 0 ++ pay)).toNat ++ pay

def flitHead (bs : List Byte) : FlitHead :=
  let f0 := leNat (bs.take 8)
  { type := bits f0 63 60, vc := bits f0 59 58, bgmap := bits f0 57 50, lseq := bits f0 49 38, lack := bits f0 37 26,
    crvc := bits f0 25 23, crcnt := bits f0 22 16, slotv := bits f0 15 8 }

/-- The CRC of a received flit holds (R258). -/
def flitGood (bs : List Byte) : Bool :=
  bs.length == 272 && crc32 (bs.take 8 ++ leBytes 4 0 ++ (bs.drop 12)) == BitVec.ofNat 32 (leNat ((bs.drop 8).take 4))

/-! ### Sending -/

/-- The slots of a transaction that a port takes at tick `at'`: the header slot, then its data (R259). -/
def packetSlots (at' cls : Nat) (p : Packet) : List QSlot :=
  slotsOf cls (bit p.x0.toNat 44) (at' + p.life) p

/-- Drop whole transactions whose header slot still waits and meets a test: answers what stays and how many were dropped. A
transaction whose header has left goes on. `gone` lists the classes in which data slots belong to a dropped one. -/
def dropHeads (late : QSlot → Bool) : List Nat → List QSlot → List QSlot × Nat
  | _, [] => ([], 0)
  | gone, q :: t =>
    let out := if q.first then late q else gone.contains q.cls
    let r := dropHeads late (if out then q.cls :: gone else gone.filter (· != q.cls)) t
    if out then (r.1, r.2 + (if q.first then 1 else 0)) else (q :: r.1, r.2)

/-- Transactions whose LIFE has run out in a port's queue are dropped without a response (R267). -/
def expireQueue (s : State) (i : Nat) : State :=
  let l := getLink s i
  let r := dropHeads (fun q => decide (q.due ≤ now s)) [] l.queue
  if i = 6 ∨ r.2 = 0 then s else countT (setLink s i { l with queue := r.1 }) 0x3290 r.2

/-- A slot as it leaves: a header carries the LIFE that its wait has left it (R267). -/
def leaving (s : State) (i : Nat) (q : QSlot) : List Byte :=
  if q.first && i != 6 then q.bytes.take 8 ++ leBytes 4 (q.due - now s) ++ q.bytes.drop 12 else q.bytes

/-- The slots of one class that may leave now, at most `n`: those with credit. -/
def mayLeave (l : Link) (cls n : Nat) : List QSlot :=
  (l.queue.filter (fun q => q.cls == cls)).take (min n (l.credits.getD cls 0))

/-- Drop the first `n` slots of a class. -/
def dropSlots (cls : Nat) : Nat → List QSlot → List QSlot
  | 0, q => q
  | _, [] => []
  | n + 1, x :: t => if x.cls = cls then dropSlots cls n t else x :: dropSlots cls (n + 1) t

/-- The head of a VC is a priority transaction. -/
def headPri (l : Link) (c : Nat) : Bool := (mayLeave l c 1).any (·.pri)

/-- Priority may take the next turn: the other traffic keeps `floor` per cent of any 256 turns (R234, R265; a slot of this
arbitration point is a turn, log entry 15). -/
def priorityMay (l : Link) (floor : Nat) : Bool :=
  decide (100 * ((l.recent.filter id).length + 1) + 256 * floor ≤ 25600)

/-- The VC that is served next: round robin; in weir mode 1, which gives the floor, one with a priority head goes before the
others within that floor (R265). `none` when no VC has a slot and credit. -/
def nextVc (l : Link) (floor : Option Nat) : Option Nat :=
  let order := (List.range 4).map (fun i => (l.turn + i) % 4)
  let ready := order.filter (fun c => !(mayLeave l c 1).isEmpty)
  match floor, ready.find? (headPri l), ready.find? (fun c => !headPri l c) with
  | some f, some c, some o => some (if priorityMay l f then c else o)
  | _, _, _ => ready.head?

/-- The floor of weir mode 1. -/
def weirFloor (s : State) : Option Nat := if dGet s (dk 0x2410 1) = 1 then some (dGet s (dk 0x2410 2)) else none

/-- The class with credit to return, and how much of it fits a flit (R261). -/
def creditDue (l : Link) : Nat × Nat :=
  match (List.range 5).find? (fun c => 0 < l.owed.getD c 0) with
  | some c => (c, min 127 (l.owed.getD c 0))
  | none => (0, 0)

/-- Take credits of a class from a list. -/
def lessAt (c n : Nat) (l : List Nat) : List Nat := l.set c (l.getD c 0 - n)

/-- Send one data flit, if any slot may leave and the replay buffer has room (R259, R260): answers the link and the
number of its background slots. -/
def sendFlit (s : State) (i : Nat) : Option (Link × Nat) :=
  let l := getLink s i
  let vc := nextVc l (weirFloor s)
  let v := match vc with
    | some c => mayLeave l c 8
    | none => []
  let g := mayLeave l 4 (8 - v.length)
  if 2048 ≤ l.replay.length ∨ (v.isEmpty ∧ g.isEmpty) then none
  else
    let due := creditDue l
    let h : FlitHead :=
      { type := 1, vc := vc.getD 0, bgmap := 2 ^ v.length * (2 ^ g.length - 1), lseq := l.nextLseq.toNat,
        lack := (l.rxNext - 1).toNat, crvc := due.1, crcnt := due.2, slotv := 2 ^ v.length - 1 }
    let f := flitBytes h ((v ++ g).flatMap (leaving s i))
    let c := vc.getD 0
    some ({ l with
      nextLseq := l.nextLseq + 1
      replay := l.replay ++ [(l.nextLseq, f)]
      lives := l.lives ++ ((v ++ g).zipIdx.filter (fun q => q.1.first && i != 6)).map (fun q => (l.nextLseq, q.2, q.1.due))
      queue := dropSlots 4 g.length (dropSlots c v.length l.queue)
      credits := lessAt 4 g.length (lessAt c v.length l.credits)
      owed := lessAt due.1 due.2 l.owed
      turn := if vc.isSome then (c + 1) % 4 else l.turn
      recent := if vc.isSome then (headPri l c :: l.recent).take 255 else l.recent
      ackDue := false }, g.length)

/-- The header of a flit that carries no slots. -/
def bareHead (l : Link) (type : Nat) (due : Nat × Nat) : FlitHead :=
  { type := type, vc := 0, bgmap := 0, lseq := 0, lack := (l.rxNext - 1).toNat, crvc := due.1, crcnt := due.2, slotv := 0 }

/-- The idle flit that returns credit and acknowledges while no data flit leaves (R261). Idle flits with neither are not kept. -/
def sendIdle (l : Link) : Option Link :=
  let due := creditDue l
  if due.2 = 0 ∧ !l.ackDue then none
  else some { l with
    ackDue := false, owed := lessAt due.1 due.2 l.owed, ctrl := l.ctrl ++ [flitBytes (bareHead l 0 due) []] }

/-- Send a control flit (R257, R260). -/
def sendCtrl (s : State) (i purpose arg : Nat) : State :=
  if !linkStays s i then s
  else
    let l := getLink s i
    linkCount (setLink s i { l with
      ackDue := false, ctrl := l.ctrl ++ [flitBytes (bareHead l 2 (0, 0)) (Config.controlPayload purpose arg)] }) i 0x3280 0 1

/-- Send what can leave a link, a flit at a time. -/
def pumpRun (i : Nat) : Nat → State → State
  | 0, s => s
  | fuel + 1, s =>
    if !linkUp s i then s
    else match sendFlit s i with
      | none => (match sendIdle (getLink s i) with
          | none => s
          | some l => pumpRun i fuel (linkCount (setLink s i l) i 0x3280 0 1))
      | some (l, bg) =>
        let s := linkCount (setLink s i l) i 0x3280 0 1
        pumpRun i fuel (if i = 6 then s else count s 0x328A (i + 1) bg)

def pump (s : State) (i : Nat) : State :=
  let s := expireQueue s i
  pumpRun i ((getLink s i).queue.length + (getLink s i).owed.sum / 127 + 7) s

/-- A transaction joins a port's queue on a VC. -/
def enqueue (s : State) (port vc : Nat) (p : Packet) : State :=
  let l := getLink s port
  setLink s port { l with queue := l.queue ++ packetSlots (now s) (if bit p.x0.toNat 43 then 4 else vc) p }

/-- Hand a transaction to a port on a VC. -/
def putOut (s : State) (port vc : Nat) (p : Packet) : State :=
  let s := enqueue s port vc p
  pump { s with fab := { s.fab with sent := s.fab.sent ++ [{ port := port, vc := vc, pkt := p }] } } port

/-- Count a dropped transaction whose LIFE is spent (R267). -/
def dropExpired (s : State) : State := countT s 0x3290 1

/-- A transaction with another LIFE. -/
def packetLife (p : Packet) (life : Nat) : Packet := { p with x1 := BitVec.ofNat 64 (p.tag * 2 ^ 32 + life) }

/-- Hand a transaction to a port after `residency` ticks here: its LIFE loses them, one tick more, and the port's fibre delay
(R267). -/
def launch (s : State) (port vc residency : Nat) (p : Packet) : State :=
  let spent := residency + 1 + dGet s (dk (0x2701 + port) 4)
  if p.life ≤ spent then dropExpired s else putOut s port vc (packetLife p (p.life - spent))

/-- The answer NODE_ABSENT to a request, as its target would carry it (R264). -/
def absentAnswer (p : Packet) : Packet :=
  { x0 := BitVec.ofNat 64 (8 * 2 ^ 60 + 1 * 2 ^ 56 + bits p.x0.toNat 15 0 * 2 ^ 16 + bits p.x0.toNat 31 16), x1 := p.x1,
    x2 := 0, x3 := 0, data := [] }

/-- Send a transaction from here toward its target; one to an unassigned node (R262) or with no way (R264) gets its answer from the
module itself. -/
def sendPacket (s : State) (p : Packet) : State :=
  match (if assignedNode s p.dest then nextHop s p.dest none 0 else .absent false) with
  | .out port vc => launch s port vc 0 p
  | .here => s
  | .absent lost =>
    let s := if lost then countT s 0x3291 1 else s
    if bits p.x0.toNat 63 60 = 8 then s
    else { s with fab := { s.fab with sent := s.fab.sent ++ [{ port := 6, vc := 0, pkt := absentAnswer p }] } }

/-- A request that has no way on gets its answer: from here to its source, which may be this module (R264). -/
def turnBack (s : State) (p : Packet) (lost : Bool) : State :=
  let s := if lost then countT s 0x3291 1 else s
  if p.kind = kResponse then s
  else if p.src = nodeId s then { s with fab := { s.fab with sent := s.fab.sent ++ [{ port := 6, vc := 0, pkt := absentAnswer p }] } }
  else sendPacket s (absentAnswer p)

/-! ### Receiving -/

/-- Replay flits that the partner has acknowledged leave the buffer, which holds 2,048 (R260). -/
def ackReplay (l : Link) (lack : BitVec 12) : Link :=
  let waits (q : BitVec 12) : Bool := decide (0 < (q - lack).toNat ∧ (q - lack).toNat ≤ 2048)
  { l with replay := l.replay.filter (fun x => waits x.1), lives := l.lives.filter (fun x => waits x.1) }

/-- A payload with the LIFE of the header slot at a place replaced. -/
def putLife (pay : List Byte) (slot life : Nat) : List Byte :=
  pay.take (32 * slot + 8) ++ leBytes 4 life ++ pay.drop (32 * slot + 12)

/-- The replay buffer's flits as they leave again: each header slot carries the LIFE it has left (R260, R267). -/
def resendFlits (s : State) (l : Link) : Link :=
  { l with replay := l.replay.map (fun x =>
    (x.1, flitBytes (flitHead x.2) ((l.lives.filter (fun y => y.1 == x.1)).foldl
      (fun pay y => putLife pay y.2.1 (y.2.2 - now s)) (x.2.drop 16)))) }

/-- Credit that a flit returns (R261). -/
def takeCredit (l : Link) (crvc crcnt : Nat) : Link :=
  if crvc < 5 then { l with credits := l.credits.set crvc (l.credits.getD crvc 0 + crcnt) } else l

/-- Data slots that a header slot announces: a READ brings none (R259). -/
def slotsFor (head : List Byte) : Nat :=
  let x0 := leNat (head.take 8)
  if bits x0 63 60 = 0 then 0 else (bits x0 55 45 + 31) / 32

/-- Whole transactions of a class leave its receive buffer: answers the slots that stay and how many left. -/
def takeWhole (cls : Nat) : Nat → List (Nat × List Byte) → List (Nat × List Byte) × Nat
  | 0, q => (q, 0)
  | fuel + 1, q =>
    match q.filter (fun x => x.1 == cls) with
    | [] => (q, 0)
    | h :: t =>
      let n := 1 + slotsFor h.2
      if t.length + 1 < n then (q, 0)
      else
        let others := q.filter (fun x => x.1 != cls)
        let r := takeWhole cls fuel (others ++ t.drop (n - 1))
        (r.1, r.2 + n)

/-- The slots of a data flit enter the receive buffers; transactions that are whole leave them and their credit is owed. -/
def acceptSlots (l : Link) (h : FlitHead) (payload : List Byte) : Link :=
  let slot (i : Nat) : List Byte := (payload.drop (32 * i)).take 32
  let mine := (List.range 8).filterMap (fun i =>
    if bit h.slotv i then some (h.vc, slot i) else if bit h.bgmap i then some (4, slot i) else none)
  (List.range 5).foldl (fun l c =>
    let r := takeWhole c l.rxSlots.length l.rxSlots
    { l with rxSlots := r.1, owed := l.owed.set c (l.owed.getD c 0 + r.2) }) { l with rxSlots := l.rxSlots ++ mine }

/-- A flit is discarded: later data flits wait for the replay that the NAK control flit asks for (R258, R260). -/
def discardFlit (s : State) (i : Nat) : State := sendCtrl (setLink s i { getLink s i with rxDiscard := true }) i 2 0

/-- A received flit (R258, R260, R261). A data flit out of order is discarded, with the credit it carries, which its replay brings again;
while a replay is awaited it brings no second NAK (DESIGN CHOICE, log entry 15). In a warm reset flits still arrive (R271). -/
def receiveFlit (s : State) (i : Nat) (bs : List Byte) (blockGood : Bool) : State :=
  if !linkStays s i then s
  else
    let s := linkCount s i 0x3281 0 1
    let l := getLink s i
    if !blockGood then discardFlit (linkCount s i 0x3284 0 1) i
    else if !flitGood bs then discardFlit (linkCount s i 0x3282 0x3110 1) i
    else
      let h := flitHead bs
      let l := ackReplay l (BitVec.ofNat 12 h.lack)
      if h.type ≠ 1 then pump (setLink s i (takeCredit l h.crvc h.crcnt)) i
      else if BitVec.ofNat 12 h.lseq ≠ l.rxNext then
        (if l.rxDiscard then setLink s i l else discardFlit (setLink s i l) i)
      else
        pump (setLink s i (acceptSlots { takeCredit l h.crvc h.crcnt with rxNext := l.rxNext + 1, rxDiscard := false, ackDue := true } h (bs.drop 16))) i

end Sys2Proof.Machine
end

