-- ==== Sys2Proof/Machine/Txn.lean ====
section
/-! DEFINITION. Fabric transactions at their source: header fields, tags, windows and sending (spec/10 "Transaction
header slot", R259, R266 to R268). -/

namespace Sys2Proof

namespace Machine

/-- Word x0. -/
def packX0 (kind code len : Nat) (pri bg w64 : Bool) (dest src : Nat) : Word :=
  BitVec.ofNat 64 (kind * 2 ^ 60 + code * 2 ^ 56 + len * 2 ^ 45 + (if pri then 2 ^ 44 else 0) + (if bg then 2 ^ 43 else 0) +
    (if w64 then 2 ^ 42 else 0) + dest * 2 ^ 16 + src)

/-- What a command asks of another node. -/
structure Ask where
  kind    : Nat
  code    : Nat
  len     : Nat
  pri     : Bool
  bg      : Bool
  w64     : Bool
  node    : Nat
  addr    : Nat
  operand : Nat
  data    : List Byte
  /-- where READ data or an atomic's old value goes -/
  dst     : Option Nat
  deriving DecidableEq, Repr

/-- A plain request. -/
def Ask.plain (kind node addr operand : Nat) (data : List Byte) : Ask :=
  { kind := kind, code := 0, len := data.length, pri := false, bg := false, w64 := false, node := node, addr := addr,
    operand := operand, data := data, dst := none }

/-- The next tag toward a node (R266). -/
def nextTag (s : State) (node : Nat) : BitVec 32 :=
  match s.fab.tags.find? (fun t => t.1 == node) with
  | some t => t.2
  | none => 0

def setTag (s : State) (node : Nat) (t : BitVec 32) : State :=
  { s with fab := { s.fab with tags := s.fab.tags.filter (fun x => x.1 != node) ++ [(node, t)] } }

/-- The transaction timeout in ticks. -/
def txnTicks (s : State) : Nat := 25 * dGet s (dk 0x2700 8)

/-- The windows of R266 let a waiting transaction go: fewer than 1,024 tags behind it are open, and no open ATOMIC
toward the node shares its result slot. -/
def mayIssue (s : State) (t : Txn) : Bool :=
  let out := s.fab.txns.filter (fun x => x.node == t.node && x.issued)
  out.all (fun x => decide ((t.tag - x.tag).toNat < 1024) &&
    !(t.pkt.kind == kAtomic && x.pkt.kind == kAtomic && x.tag.toNat % 64 == t.tag.toNat % 64))

/-- Send waiting transactions toward a node in the order of their tags, up to the first that must wait. -/
def issueTo (node : Nat) : Nat → State → State
  | 0, s => s
  | fuel + 1, s =>
    match s.fab.txns.find? (fun t => t.node == node && !t.issued) with
    | none => s
    | some t =>
      if mayIssue s t then
        let life := txnTicks s
        let pkt := { t.pkt with x1 := BitVec.ofNat 64 (t.tag.toNat * 2 ^ 32 + life % 2 ^ 32) }
        let t' := { t with pkt := pkt, issued := true, deadline := BitVec.ofNat 64 (now s + life), sentAt := BitVec.ofNat 64 (now s) }
        issueTo node fuel (sendPacket { s with fab := { s.fab with
          txns := modifyFirst (fun x => x.node == t.node && x.tag == t.tag) (fun _ => t') s.fab.txns } } pkt)
      else s

/-- Send every waiting transaction toward a node that may go; a warm reset sends none (R378). -/
def issueAll (s : State) (node : Nat) : State :=
  if s.pwr.resetRunning.isSome then s else issueTo node (s.fab.txns.filter (fun t => t.node == node && !t.issued)).length s

/-- Give a request its tag and queue it, for a ring's command or for none. -/
def ask (s : State) (ring : Option Nat) (a : Ask) : State :=
  let tag := nextTag s a.node
  let pkt : Packet :=
    { x0 := packX0 a.kind a.code a.len a.pri a.bg a.w64 a.node (nodeId s), x1 := BitVec.ofNat 64 (tag.toNat * 2 ^ 32),
      x2 := BitVec.ofNat 64 a.addr, x3 := BitVec.ofNat 64 a.operand, data := a.data }
  let s := setTag s a.node (tag + 1)
  issueAll { s with fab := { s.fab with txns := s.fab.txns ++
    [{ node := a.node, tag := tag, pkt := pkt, ring := ring, dst := a.dst, deadline := 0, issued := false, sentAt := 0 }] } } a.node

/-- Queue requests in order. -/
def asks (ring : Option Nat) (s : State) : List Ask → State
  | [] => s
  | a :: t => asks ring (ask s ring a) t

/-- COLL_ABORT to every other member (R288). -/
def collAbortAll (s : State) (inst : CollInst) : State :=
  asks none s ((inst.nodes.filter (· != nodeId s)).map (fun n =>
    { Ask.plain kMessage n inst.collId.toNat 0 [] with code := 1 }))

/-- WRITE requests for bytes at another node's global address. -/
def writeAsks (bg : Bool) (a : Nat) (bs : List Byte) : List Ask :=
  (kib a bs.length).map (fun x =>
    { Ask.plain kWrite (gaNode a) x.1 0 ((bs.drop (x.1 - a)).take x.2) with bg := bg })

/-- READ requests that fetch bytes of another node to a place of this module or of the host. -/
def readAsks (pri : Bool) (a n dst : Nat) : List Ask :=
  (kib a n).map (fun x =>
    { Ask.plain kRead (gaNode a) x.1 0 [] with len := x.2, pri := pri, dst := some (dst + (x.1 - a)) })

/-- A global address in host memory. -/
def hostRange (a : Nat) : Bool := gaRegion a == 2

/-- A global address on another node. -/
def remoteAddr (s : State) (a : Nat) : Bool := !hostRange a && gaNode a != nodeId s

/-- A write by shared infrastructure to a global address of any node: to another node's memory it goes as WRITE requests. -/
def farWrite (s : State) (a : Nat) (bs : List Byte) : State :=
  if remoteAddr s a then asks none s (writeAsks false a bs) else gWrite s a bs

/-! ### Tallies (R68, R69) -/

/-- Set a tally and write its mirror, wherever that lies (R69). -/
def putTally (s : State) (t v : Nat) : State :=
  let s := { s with hop := { s.hop with tallies := tableSet tallyDefault t (BitVec.ofNat 64 v) s.hop.tallies } }
  let base := dGet s (dk 0x2100 8)
  if base = 0 then s else farWrite s (base + 8 * t) (leBytes 8 v)

/-- A tally add, held at 2^64 − 1 (R68). -/
def tallyAdd (s : State) (t add : Nat) : State :=
  let v := tallyOf s t + add
  if v < 2 ^ 64 then putTally s t v
  else
    let s := match tallyOwner s t with
      | some p => countP s 0x3210 p 1
      | none => countT s 0x3210 1
    putTally s t (2 ^ 64 - 1)

/-- A T3 backing pool entry, numbered 16 × partition + entry: its base and its bytes (R228). -/
def poolEntry (s : State) (k : Nat) : Nat × Nat :=
  (dGet s (dk (0x2430 + k / 16) (k % 16 + 1)), dGet s (dk (0x2430 + k / 16) (k % 16 + 0x11)))

/-- An address lies in a T3 backing pool entry of a partition whose window's revocation has been noticed (R275). -/
def noticedAt (s : State) (part a : Nat) : Bool :=
  s.fab.noticed.any (fun k => k / 16 == part && decide ((poolEntry s k).1 ≤ a ∧ a < (poolEntry s k).1 + (poolEntry s k).2))

/-- The command on a ring waits for transactions. -/
def waitsTxn (s : State) (ring : Nat) : Bool := s.fab.txns.any (fun t => t.ring == some ring)

/-- A ring's reads carry PRI (R235, R265). -/
def priRing (s : State) (ring : Nat) : Bool := dGet s (dk 0x2410 1) == 1 && ringBit s 0x2420 ring

end Machine

end Sys2Proof
end

