-- ==== Sys2Proof/Machine/Pool.lean ====
section
/-! DEFINITION. The KV page pool of a partition: its record, class stacks, reference counts, deferred ring, walks and the
walk fence (spec/07 "Pool, reference counts and the walk fence", R168 to R174). -/

namespace Sys2Proof.Machine

/-- A KV entry of a partition (index 0x2610 + p). -/
def kvGet (s : State) (p sub : Nat) : Nat := dGet s (dk (0x2610 + p) sub)

/-- The header of a KV pool record. -/
structure Pool where
  base  : Nat
  heads : Nat
  hdim  : Nat
  fmt   : Fmt
  defer : Nat
  head  : Nat
  tail  : Nat
  deriving DecidableEq, Repr

/-- The head dimension of an HDIM code. -/
def headDim (code : Nat) : Nat := 64 * 2 ^ code

/-- The pool of a partition; `none` while kv_pool_base is 0. -/
def poolOf (s : State) (p : Nat) : Option Pool :=
  let b := kvGet s p 3
  if b = 0 then none
  else
    let h0 := ldNat s b 8
    let h2 := ldNat s (b + 16) 8
    some { base := b, heads := bits h0 23 16, hdim := headDim (bits h0 9 8),
           fmt := (Fmt.ofCode (bits h0 4 0)).getD .bf16, defer := ldNat s (b + 8) 8, head := h2 / 2 ^ 32,
           tail := h2 % 2 ^ 32 }

/-- The formats a pool may hold. -/
def poolFmt (code : Nat) : Bool := decide (2 ≤ code ∧ code ≤ 6)

/-- The record of class c: ARENA, PAGES, TOP, STACK, REFCNT. -/
def clsAddr (pool : Pool) (c : Nat) : Nat := pool.base + 64 + 32 * c
def clsArena (s : State) (pool : Pool) (c : Nat) : Nat := ldNat s (clsAddr pool c) 8
def clsPages (s : State) (pool : Pool) (c : Nat) : Nat := ldNat s (clsAddr pool c + 12) 4
def clsTop (s : State) (pool : Pool) (c : Nat) : Nat := ldNat s (clsAddr pool c + 8) 4
def clsStack (s : State) (pool : Pool) (c : Nat) : Nat := ldNat s (clsAddr pool c + 16) 8
def clsRefs (s : State) (pool : Pool) (c : Nat) : Nat := ldNat s (clsAddr pool c + 24) 8

/-- Row bytes rb of R168. -/
def Pool.rowBytes (pool : Pool) : Nat := pool.hdim * pool.fmt.bits / 8 + (if pool.fmt.isBlock then pool.hdim / 32 else 0)

/-- Bytes of a page of 2^L positions, B(L). -/
def Pool.pageBytes (pool : Pool) (l : Nat) : Nat := alignUp (2 ^ l * (pool.heads * 2 * pool.rowBytes + 4)) 128

/-- Offset of the row of head h, part x (0 keys, 1 values) and slot sl in a page (R168). -/
def Pool.rowAt (pool : Pool) (l h x sl : Nat) : Nat := ((h * 2 + x) * 2 ^ l + sl) * pool.rowBytes

/-- Offset of a token identifier in a page. -/
def Pool.tokenAt (pool : Pool) (l sl : Nat) : Nat := pool.heads * 2 * 2 ^ l * pool.rowBytes + 4 * sl

/-- Total pages of a pool. -/
def poolPages (s : State) (pool : Pool) : Nat := ((List.range 9).map (clsPages s pool)).sum

/-- The address of page i of class c. -/
def pageAddr (s : State) (pool : Pool) (c i : Nat) : Nat := clsArena s pool c + i * pool.pageBytes (c + 4)

/-- The page index of an address in class c, if it lies at a page boundary of the arena. -/
def pageIndex (s : State) (pool : Pool) (c a : Nat) : Option Nat :=
  let arena := clsArena s pool c
  let b := pool.pageBytes (c + 4)
  if arena ≠ 0 ∧ arena ≤ a ∧ (a - arena) % b = 0 ∧ (a - arena) / b < clsPages s pool c then some ((a - arena) / b) else none

/-- The page that the next pop of a class gives, `n` pops later. -/
def stackPeek (s : State) (pool : Pool) (c n : Nat) : Nat := ldNat s (clsStack s pool c + 4 * (clsTop s pool c - 1 - n)) 4

/-- Pop a page of a class. -/
def popPage (s : State) (p c : Nat) : State :=
  match poolOf s p with
  | none => s
  | some pool => stWord s (clsAddr pool c + 8) 4 (clsTop s pool c - 1)

/-- Push a page back onto its stack. -/
def pushPage (s : State) (p c page : Nat) : State :=
  match poolOf s p with
  | none => s
  | some pool =>
    let top := clsTop s pool c
    stWord (stWord s (clsStack s pool c + 4 * top) 4 page) (clsAddr pool c + 8) 4 (top + 1)

/-- Push back reserved pages, the last reserved first. -/
def pushBack (s : State) : List PageRes → State
  | [] => s
  | r :: t => pushPage (pushBack s t) r.part r.cls r.page

/-- A page's reference count. -/
def refCount (s : State) (pool : Pool) (c page : Nat) : Nat := ldNat s (clsRefs s pool c + 4 * page) 4

def setRef (s : State) (pool : Pool) (c page n : Nat) : State := stWord s (clsRefs s pool c + 4 * page) 4 n

/-- The place of entry i of the deferred ring; the layout of an entry is the model's (log entry 12): tag, then class and
page index. -/
def deferAt (s : State) (pool : Pool) (i : Nat) : Nat := pool.defer + 16 * (i % max 1 (poolPages s pool))

/-- Where the indexes of the deferred ring wrap: at the last multiple of its entries that 32 bits hold, so that an index always names
the entry after the one before it (log entry 48). -/
def deferWrap (s : State) (pool : Pool) : Nat :=
  let n := max 1 (poolPages s pool)
  if 2 ^ 32 < n then 2 ^ 32 else 2 ^ 32 / n * n

/-- Enter a page into the deferred ring with tag E (R173). -/
def deferPage (s : State) (p c page : Nat) : State :=
  match poolOf s p with
  | none => s
  | some pool =>
    let a := deferAt s pool pool.tail
    let s := stWord (stWord s a 8 (kvGet s p 5)) (a + 8) 8 (c * 2 ^ 32 + page)
    stWord s (pool.base + 16) 4 ((pool.tail + 1) % deferWrap s pool)

/-- Pages in the deferred ring. -/
def deferredPages (s : State) (pool : Pool) : Nat :=
  (pool.tail + deferWrap s pool - pool.head) % deferWrap s pool

/-- Return the deferred pages whose tag the fence exceeds, in ring order (R174). -/
def returnPages (p fence : Nat) : Nat → State → State
  | 0, s => s
  | fuel + 1, s =>
    match poolOf s p with
    | none => s
    | some pool =>
      if pool.head = pool.tail then s
      else
        let a := deferAt s pool pool.head
        if ldNat s a 8 < fence then
          let w := ldNat s (a + 8) 8
          let s := pushPage s p (w / 2 ^ 32) (w % 2 ^ 32)
          let s := stWord s (pool.base + 20) 4 ((pool.head + 1) % deferWrap s pool)
          returnPages p fence fuel (countP s 0x3264 p 1)
        else s

/-- The smallest start epoch among a partition's active walks, or E (R174). -/
def fenceValue (s : State) (p : Nat) : Nat :=
  ((s.mem.walks.filter (fun w => w.1 == p)).map (fun w => w.2.2.2)).foldl min (kvGet s p 5)

/-- Raise the walk fence and return the pages it frees. -/
def updateFence (s : State) (p : Nat) : State :=
  let t := kvGet s p 4
  if t = 0xFFFF then s
  else
    let v := fenceValue s p
    let s := if tallyOf s t < v then putTally s t v else s
    match poolOf s p with
    | none => s
    | some pool => returnPages p (tallyOf s t) (deferredPages s pool) s

/-- A walk of a unit of a ring's command starts: it registers E (R169). A command that walks as a whole has unit 0. -/
def walkStart (s : State) (p ring unit : Nat) : State :=
  { s with mem := { s.mem with walks := s.mem.walks ++ [(p, ring, unit, kvGet s p 5)] } }

/-- The walk of a unit of a ring's command ends (R174). -/
def walkEnd (s : State) (p ring unit : Nat) : State :=
  updateFence { s with mem := { s.mem with
    walks := s.mem.walks.filter (fun w => !(w.2.1 == ring && w.2.2.1 == unit)) } } p

/-- Every walk of a ring's command ends with it. -/
def walksEnd (s : State) (p ring : Nat) : State :=
  if s.mem.walks.any (fun w => w.2.1 == ring) then
    updateFence { s with mem := { s.mem with walks := s.mem.walks.filter (fun w => w.2.1 != ring) } } p
  else s

end Sys2Proof.Machine
end

