-- ==== Sys2Proof/Machine/Operands.lean ====
section
/-! DEFINITION. Operands: tensor table entries (spec/02 "Tensor table entry", R35, R113), reading and writing tensor
elements, the plan of a command's effect and the one operation that carries a plan out. -/

namespace Sys2Proof.Machine

/-- A tensor table entry (spec/02 "Tensor table entry"). -/
structure Tens where
  idx       : Nat
  base      : Nat
  fmt       : Fmt
  rank      : Nat
  ext       : List Nat
  /-- strides of dimensions 0 to 5 in bytes; dimension 0 is contiguous -/
  str       : List Nat
  alt       : Nat
  cur       : Bool
  versioned : Bool
  version   : Nat
  rclass    : Nat
  timeAxis  : Nat
  changePeriod : Nat
  deriving DecidableEq, Repr

def Tens.extent (t : Tens) (i : Nat) : Nat := t.ext.getD i 0

/-- EXT0. -/
def Tens.cols (t : Tens) : Nat := t.extent 0

/-- Product of the outer planned extents: the number of rows (R103). -/
def Tens.rows (t : Tens) : Nat := (((List.range t.rank).drop 1).map t.extent).foldl (· * ·) 1

/-- Elements of the planned shape. -/
def Tens.count (t : Tens) : Nat := t.cols * t.rows

/-- Bytes of the element plane's span (spec/02 "Tensor table"). -/
def Tens.elemSpan (t : Tens) : Nat :=
  ((List.range t.rank).map (fun i => (t.extent i - 1) * t.str.getD i 0)).sum + t.fmt.bytes t.cols

/-- Scale bytes of a row, G (R113). -/
def Tens.blocks (t : Tens) : Nat := (t.cols + 31) / 32

/-- Span of a buffer; 0 when a planned extent is 0 (spec/02, R113). -/
def Tens.span (t : Tens) : Nat :=
  if (List.range t.rank).any (fun i => t.extent i == 0) then 0
  else if t.fmt.isBlock then alignUp t.elemSpan 16 + t.blocks * t.rows
  else t.elemSpan

/-- Device-virtual address of a buffer. -/
def Tens.buf (t : Tens) (second : Bool) : Nat := t.base + (if second then t.alt * 2 ^ 21 else 0)

/-- The buffer CUR selects, which is read (R41). -/
def Tens.inBuf (t : Tens) : Nat := t.buf t.cur

/-- The buffer an output is written to: the other one with VOUT = 1 (R40, R41). -/
def Tens.outBuf (t : Tens) (vout : Bool) : Nat := t.buf (if vout && t.versioned then !t.cur else t.cur)

/-- The byte offset of row r: mixed radix of the outer extents (R103). -/
def Tens.rowOffset (t : Tens) (r : Nat) : Nat :=
  (((List.range t.rank).drop 1).foldl
    (fun (acc : Nat × Nat) i => (acc.1 + (acc.2 % t.extent i) * t.str.getD i 0, acc.2 / t.extent i)) (0, r)).1

/-- The row number of an index vector of the outer dimensions. -/
def Tens.rowIndex (t : Tens) (outer : List Nat) : Nat :=
  ((List.range (t.rank - 1)).foldl
    (fun (acc : Nat × Nat) i => (acc.1 + acc.2 * outer.getD i 0, acc.2 * t.extent (i + 1))) (0, 1)).1

/-- Byte offset of the scale plane (R113). -/
def Tens.scalePlane (t : Tens) : Nat := alignUp t.elemSpan 16

/-- Words t0 to t7 of an entry. -/
def entryWords (s : State) (p idx : Nat) : List Nat :=
  let a := pGet s p 8 + 64 * idx
  (List.range 8).map (fun i => ldNat s (a + 8 * i) 8)

/-- The global address of an entry. -/
def entryAddr (s : State) (p idx : Nat) : Nat := pGet s p 8 + 64 * idx

/-- An entry can be read: it lies in the module's HBM and no lost line meets it (R35, R240). -/
def entryReadable (s : State) (p idx : Nat) : Bool :=
  inLocalHbm s (entryAddr s p idx) 64 && !lostIn s (entryAddr s p idx) 64

/-- Decode an entry; `none` where R35 or R109 refuses it. -/
def parseTens (idx : Nat) (w : List Nat) : Option Tens :=
  let t (i : Nat) : Nat := w.getD i 0
  let rank := bits (t 0) 63 61
  let ext := [bits (t 1) 31 0, bits (t 1) 63 32, bits (t 2) 31 0, bits (t 2) 63 32, bits (t 3) 31 0, bits (t 3) 63 32]
  let str := [0, bits (t 4) 31 0, bits (t 4) 63 32, bits (t 5) 31 0, bits (t 5) 63 32, bits (t 6) 31 0]
  let axis := bits (t 7) 2 0
  match Fmt.ofCode (bits (t 0) 60 56) with
  | none => none
  | some f =>
    if rank = 0 ∨ rank = 7 ∨ bits (t 7) 31 7 ≠ 0 ∨ bits (t 0) 3 0 ≠ 0 ∨ rank < axis ∨
        (ext.drop rank).any (· ≠ 0) ∨ (str.drop rank).any (· ≠ 0) then none
    else some
      { idx := idx, base := bits (t 0) 55 0, fmt := f, rank := rank, ext := ext, str := str.map (· * 16),
        alt := bits (t 6) 55 32, cur := bit (t 7) 6, versioned := bit (t 7) 5, version := bits (t 7) 63 32,
        rclass := bits (t 7) 4 3, timeAxis := axis, changePeriod := bits (t 6) 63 56 }

/-- The entry of an index in a partition's table; `none` when the index or the entry is refused. -/
def tensAt (s : State) (p idx : Nat) : Option Tens :=
  if idx < pGet s p 9 then parseTens idx (entryWords s p idx) else none

/-- A tensor that stands for a missing entry: commands reach it only when their checks have changed under them. -/
def Tens.none : Tens :=
  { idx := 0, base := 0, fmt := .i8, rank := 1, ext := [0], str := [0], alt := 0, cur := false, versioned := false,
    version := 0, rclass := 0, timeAxis := 0, changePeriod := 0 }

def tens (s : State) (p idx : Nat) : Tens := (tensAt s p idx).getD Tens.none

/-- Two byte ranges meet. -/
def rangesMeet (a b : Nat × Nat) : Bool := decide (a.1 < b.1 + b.2 ∧ b.1 < a.1 + a.2 ∧ 0 < a.2 ∧ 0 < b.2)

/-- The buffers of a versioned tensor overlap (R35). -/
def Tens.buffersOverlap (t : Tens) : Bool := rangesMeet (t.buf false, t.span) (t.buf true, t.span)

/-- Set CUR and VERSION in memory (R31, R43): the flip of a versioned output. -/
def flipEntry (s : State) (p idx : Nat) : State :=
  let a := entryAddr s p idx + 56
  let w := ldNat s a 8
  storeM s a (leBytes 8 (Nat.xor (w % 2 ^ 32) 64 + (bits w 63 32 + 1) % 2 ^ 32 * 2 ^ 32))

/-! ### Elements -/

/-- Who reads: the partition and ring of the command. -/
structure Who where
  part : Nat
  ring : Nat
  deriving DecidableEq, Repr

/-- The pattern of element (row, col) in a buffer at `b`. -/
def Tens.pat (s : State) (w : Who) (t : Tens) (b row col : Nat) : Nat :=
  let a := b + t.rowOffset row
  if t.fmt = .bs4 then (let v := (vaByte s w.part w.ring (a + col / 2)).toNat; if col % 2 = 0 then v % 16 else v / 16)
  else vaNat s w.part w.ring (a + t.fmt.bytes col) (t.fmt.bits / 8)

/-- The scale byte of element (row, col); 127 for a format without scales. -/
def Tens.scale (s : State) (w : Who) (t : Tens) (b row col : Nat) : Nat :=
  if t.fmt.isBlock then (vaByte s w.part w.ring (b + t.scalePlane + row * t.blocks + col / 32)).toNat else 127

/-- The exact value of element (row, col) of the buffer that CUR selects. -/
def Tens.val (s : State) (w : Who) (t : Tens) (row col : Nat) : FVal :=
  t.fmt.value (t.pat s w t.inBuf row col) (t.scale s w t.inBuf row col)

/-- The element as FP32, converted on read. -/
def Tens.f32 (s : State) (w : Who) (t : Tens) (row col : Nat) : F32 := r32 (t.val s w row col)

/-- The element of an integer tensor. -/
def Tens.int (s : State) (w : Who) (t : Tens) (row col : Nat) : Int :=
  signed t.fmt.bits (t.pat s w t.inBuf row col)

/-- Element i in the order of the planned shape, dimension 0 fastest. -/
def Tens.flatF32 (s : State) (w : Who) (t : Tens) (i : Nat) : F32 := t.f32 s w (i / t.cols) (i % t.cols)

/-- The unsigned word of element i of an INT32 tensor. -/
def Tens.flatNat (s : State) (w : Who) (t : Tens) (i : Nat) : Nat := t.pat s w t.inBuf (i / t.cols) (i % t.cols)

/-- Device-virtual ranges that hold elements [c0, c0 + n) of a row of a buffer, scales included. -/
def Tens.rowRange (t : Tens) (b row c0 n : Nat) : List (Nat × Nat) :=
  if n = 0 then [] else
  let a := b + t.rowOffset row
  let first := c0 * t.fmt.bits / 8
  (a + first, (c0 + n) * t.fmt.bits / 8 + (if (c0 + n) * t.fmt.bits % 8 = 0 then 0 else 1) - first) ::
  (if t.fmt.isBlock then [(b + t.scalePlane + row * t.blocks + c0 / 32, (c0 + n - 1) / 32 - c0 / 32 + 1)] else [])

/-- Ranges of rows [0, rows) × columns [0, cols) of the buffer that CUR selects. -/
def Tens.readRanges (t : Tens) (rows cols : Nat) : List (Nat × Nat) :=
  (List.range rows).flatMap (fun r => t.rowRange t.inBuf r 0 cols)

/-- A random stream of a descriptor (R124). -/
structure Rng where
  key    : Nat
  stream : Nat
  deriving DecidableEq, Repr

/-- What one written row holds: bytes by device-virtual address, the values as written, and counts. -/
structure RowOut where
  writes : List (Nat × List Byte)
  vals   : List FVal
  counts : NumCounts
  deriving DecidableEq, Repr

/-- The draw of an element of an output, indexed over its planned shape (R124). -/
def drawAt (t : Tens) (rng : Option Rng) (row col : Nat) : Option Nat :=
  rng.map (fun g => (philoxDraw g.key g.stream (row * t.cols + col)).1)

/-- Pack element patterns of a block row into bytes; `old` is the byte that holds a last odd nibble. -/
def packNibbles (old : Nat) : List Nat → List Byte
  | [] => []
  | [a] => [BitVec.ofNat 8 (a % 16 + old / 16 * 16)]
  | a :: b :: t => BitVec.ofNat 8 (a % 16 + b % 16 * 16) :: packNibbles old t

/-- One block g of a row of a block-format output: the written values, then +0 to the block's end (R125 to R128). -/
def writeBlock (s : State) (w : Who) (t : Tens) (b row g : Nat) (vs : List FVal) (rng : Option Rng) : RowOut :=
  let n := min 32 (t.cols - 32 * g)
  let draws := rng.map (fun _ => (List.range vs.length).map (fun i => (drawAt t rng row (32 * g + i)).getD 0))
  let e := encodeBlock t.fmt vs draws
  let pad := List.replicate (n - vs.length) 0
  let pats := e.2.1 ++ pad
  let a := b + t.rowOffset row
  let elems : Nat × List Byte :=
    if t.fmt = .bs4 then
      (a + 16 * g, packNibbles (vaByte s w.part w.ring (a + 16 * g + n / 2)).toNat pats)
    else (a + 32 * g, pats.map (BitVec.ofNat 8))
  { writes := [elems, (b + t.scalePlane + row * t.blocks + g, [BitVec.ofNat 8 e.1])],
    vals := e.2.1.map (fun p => t.fmt.value p e.1), counts := e.2.2 }

/-- Write values at columns from `c0` of a row; in block formats c0 is a multiple of 32. -/
def writeRow (s : State) (w : Who) (t : Tens) (b row c0 : Nat) (vs : List FVal) (sat : Bool) (rng : Option Rng) :
    RowOut :=
  if t.fmt.isBlock then
    let outs := (chunksOf 32 vs.length vs).zipIdx.map (fun x => writeBlock s w t b row (c0 / 32 + x.2) x.1 rng)
    { writes := outs.flatMap (·.writes), vals := outs.flatMap (·.vals), counts := (outs.map (·.counts)).foldl NumCounts.add NumCounts.zero }
  else
    let es := vs.zipIdx.map (fun x => narrowElem t.fmt sat (drawAt t rng row (c0 + x.2)) x.1)
    { writes := if vs.isEmpty then [] else
        [(b + t.rowOffset row + t.fmt.bytes c0, es.flatMap (fun e => leBytes (t.fmt.bits / 8) e.1))],
      vals := es.map (fun e => t.fmt.value e.1 127),
      counts := (es.map (·.2)).foldl NumCounts.add NumCounts.zero }

/-- Write element patterns bit for bit at columns from `c0` of a row of a format without scales. -/
def writePats (t : Tens) (b row c0 : Nat) (pats : List Nat) : List (Nat × List Byte) :=
  if pats.isEmpty then []
  else [(b + t.rowOffset row + t.fmt.bytes c0, pats.flatMap (leBytes (t.fmt.bits / 8)))]

/-- Rows of n elements end in half a byte, whose other half belongs to no element (R113). -/
def Tens.halfEnd (t : Tens) (n : Nat) : Bool := t.fmt == .bs4 && n % 2 == 1

/-- A byte whose lower half is taken from `new`, its upper half kept from `old`. -/
def lowNibble (old new : Byte) : Byte := BitVec.ofNat 8 (old.toNat / 16 * 16 + new.toNat % 16)

/-- The element bytes of a row of a buffer at `b`; the half of a last byte that belongs to no element is zero (R113, R292). -/
def Tens.rowBytes (s : State) (w : Who) (t : Tens) (b row : Nat) : List Byte :=
  let bs := vaBytes s w.part w.ring (b + t.rowOffset row) (t.fmt.bytes t.cols)
  if t.halfEnd t.cols then bs.dropLast ++ [lowNibble 0 (bs.getLastD 0)] else bs

/-- Write the element bytes of a row; the half of a last byte that belongs to no element keeps what it holds (R113). -/
def Tens.putRow (s : State) (w : Who) (t : Tens) (b row : Nat) (bs : List Byte) : Nat × List Byte :=
  let a := b + t.rowOffset row
  (a, if t.halfEnd t.cols then
      bs.dropLast ++ [lowNibble (vaByte s w.part w.ring (a + bs.length - 1)) (bs.getLastD 0)]
    else bs)

/-- Copy columns [0, n) of a row of one buffer to another, bit for bit, scales with their blocks; the rest of a block
that is written in part becomes +0 (R90, R128, R253). -/
def copyRow (s : State) (w : Who) (src : Tens) (bs rs : Nat) (dst : Tens) (bd rd n : Nat) : List (Nat × List Byte) :=
  if n = 0 then [] else
  let full := if src.fmt.isBlock then min (alignUp n 32) dst.cols else n
  let pats := (List.range n).map (fun i => src.pat s w bs rs i) ++ List.replicate (full - n) 0
  let a := bd + dst.rowOffset rd
  (a, if src.fmt = .bs4 then packNibbles (vaByte s w.part w.ring (a + full / 2)).toNat pats
      else pats.flatMap (leBytes (src.fmt.bits / 8))) ::
  (if src.fmt.isBlock then
    [(bd + dst.scalePlane + rd * dst.blocks,
      vaBytes s w.part w.ring (bs + src.scalePlane + rs * src.blocks) ((n + 31) / 32))]
   else [])

/-! ### Plans -/

/-- A move of bytes: source and destination, each a device-virtual or (`G`) a global address. -/
structure Move where
  src  : Nat
  srcG : Bool
  dst  : Nat
  dstG : Bool
  len  : Nat
  deriving DecidableEq, Repr

/-- The effect of one command's execution: its status, what it reads and writes, what it counts, and what it leaves to
its commit. Ranges and writes are device-virtual, `gwrites` by global address. -/
structure Plan where
  status  : Nat
  reads   : List (Nat × Nat)
  greads  : List (Nat × Nat)
  writes  : List (Nat × List Byte)
  gwrites : List (Nat × List Byte)
  undef   : List (Nat × Nat)
  counts  : List (Nat × Nat)
  acts    : List CommitAct
  /-- pages to pop from their stacks (R183) -/
  reserve : List PageRes
  /-- byte moves that may start or end on another node -/
  moves   : List Move
  /-- requests to other nodes -/
  asks    : List Ask
  /-- pages to map (R251) -/
  maps    : List Mapping
  /-- the command waits: nothing happens yet -/
  wait    : Bool
  /-- counter additions of single units: (unit, index, n) -/
  unitCounts : List (Nat × Nat × Nat)
  /-- ranges of other nodes' memory that its requests name -/
  far     : List (Nat × Nat)
  deriving DecidableEq, Repr

/-- A plan that does nothing and ends OK. -/
def Plan.ok : Plan :=
  { status := 0, reads := [], greads := [], writes := [], gwrites := [], undef := [], counts := [], acts := [],
    reserve := [], moves := [], asks := [], maps := [], wait := false, unitCounts := [], far := [] }

/-- A plan that only ends with a status. -/
def Plan.stop (st : Nat) : Plan := { Plan.ok with status := st }

/-- Counter additions of conversions into a tensor (R129, R130). -/
def numCounts (s : State) (part idx : Nat) (c : NumCounts) : List (Nat × Nat) :=
  let slots := (List.range 64).filter (fun k =>
    dGet s (dk 0x2301 (k + 1)) == 2 ^ 31 + part * 2 ^ 24 + idx && decide (idx < 2 ^ 24))
  (slots.map (fun k => (dk 0x3230 (k + 1), c.vanished))) ++
  [(dk 0x3230 (0x41 + part), c.vanished), (dk 0x3230 0xFF, c.vanished),
   (dk 0x3231 (part + 1), c.saturated), (dk 0x3231 0xFF, c.saturated),
   (dk 0x3232 (part + 1), c.overflowed), (dk 0x3232 0xFF, c.overflowed),
   (dk 0x3233 (part + 1), c.zeroBlocks), (dk 0x3233 0xFF, c.zeroBlocks),
   (dk 0x3234 (part + 1), c.nanBlocks), (dk 0x3234 0xFF, c.nanBlocks)]

/-- Counter additions under a partition and the total. -/
def pCounts (index part n : Nat) : List (Nat × Nat) := [(dk index (part + 1), n), (dk index 0xFF, n)]

/-- Insert by key into a list sorted by key. -/
def insertKey {α : Type} (k : Nat) (x : α) : List (Nat × α) → List (Nat × α)
  | [] => [(k, x)]
  | (k', y) :: t => if k < k' then (k, x) :: (k', y) :: t else (k', y) :: insertKey k x t

/-- A list in an order that nothing constrains (R132; log entry 4). -/
def freeOrder {α : Type} (n : Nat) (l : List α) : List α :=
  ((l.zipIdx.map (fun x => (Config.orderKey n x.2, x.1))).foldl (fun acc x => insertKey x.1 x.2 acc) []).map (·.2)

/-- The FP64 sum of squares of values, in no fixed order (R314). -/
def sumSquares64 (n : Nat) (vs : List FVal) : Nat :=
  (freeOrder n vs).foldl (fun acc v => fmtF64.round ((fmtF64.decode acc).add (fmtF64.decode (fmtF64.round (v.mul v))))) 0

/-- Taps of a source that watch a tensor: EN [31], SOURCE [30:29], PARTITION [27:24], TENSOR [23:0] (R314). -/
def tapsOf (s : State) (source part idx : Nat) : List Nat :=
  (List.range 256).filter (fun t =>
    let c := dGet s (dk (0x2830 + t / 128) (t % 128 + 1))
    bit c 31 && bits c 30 29 == source && bits c 27 24 == part && bits c 23 0 == idx)

/-- The commit acts that add the squares of values to the taps (R314). -/
def tapActs (s : State) (source part idx : Nat) (vs : List FVal) : List CommitAct :=
  if vs.isEmpty then []
  else (tapsOf s source part idx).map (fun t => .tapAdd t (BitVec.ofNat 64 (sumSquares64 s.fresh vs)))

/-- The flips of the versioned outputs of a VOUT = 1 command (R41). -/
def flipActs (s : State) (part : Nat) (vout : Bool) (outs : List Nat) : List CommitAct :=
  if vout then (outs.eraseDups.filter (fun i => (tens s part i).versioned)).map (.flip part) else []

/-- Every piece of a list of ranges, or the first address without a page. -/
def allPieces (s : State) (w : Who) : List (Nat × Nat) → Except Nat (List (Nat × Nat))
  | [] => .ok []
  | (va, n) :: t =>
    match rangePieces s w.part w.ring va n with
    | .error a => .error a
    | .ok p =>
      match allPieces s w t with
      | .error a => .error a
      | .ok q => .ok (p ++ q)

/-- Cut bytes along pieces. -/
def splitBytes : List (Nat × Nat) → List Byte → List (Nat × List Byte)
  | [], _ => []
  | (a, n) :: t, bs => (a, bs.take n) :: splitBytes t (bs.drop n)

/-- The global writes of a device-virtual write. -/
def globalWrites (s : State) (w : Who) (x : Nat × List Byte) : List (Nat × List Byte) :=
  match rangePieces s w.part w.ring x.1 x.2.length with
  | .error _ => []
  | .ok ps => splitBytes ps x.2

/-- Line accesses of ranges of global addresses. -/
def touchAll (part : Nat) (write : Bool) (s : State) : List (Nat × Nat) → State
  | [] => s
  | (a, n) :: t => touchAll part write (touchRange (some part) write s a n) t

/-- Put what a command has written into memory, where undefined content has stood since it ran (R34). -/
def applyResults (s : State) : List (Nat × List Byte) → State
  | [] => s
  | (a, bs) :: t => applyResults (stKey s (memKey s a) bs) t

/-- The state as a command in flight sees it: its own writes included. -/
def ownView (s : State) (c : InFlight) : State := applyResults s c.results

/-- One page looked up in the translation cache of an agent: a miss takes an entry (R223). -/
def xlatPage (agent part : Nat) (s : State) (m : Mapping) : State :=
  if s.mem.xlat.contains (agent, part, m.va) then s
  else
    let mine := s.mem.xlat.filter (fun x => x.1 == agent)
    let keep := if 1024 ≤ mine.length then
        (match mine.head? with
         | some v => s.mem.xlat.filter (fun x => x != v)
         | none => s.mem.xlat)
      else s.mem.xlat
    countP { s with mem := { s.mem with xlat := keep ++ [(agent, part, m.va)] } } 0x327C part 1

/-- Every page that device-virtual ranges of a partition meet. -/
def pagesMet (s : State) (part : Nat) (l : List (Nat × Nat)) : List Mapping :=
  l.flatMap (fun x => s.mem.maps.filter (fun m => m.part == part && rangesMeet x (m.va, m.size)))

/-- Translation-cache lookups of ranges (R223). -/
def xlatTouch (s : State) (agent part : Nat) (l : List (Nat × Nat)) : State :=
  (pagesMet s part l).foldl (xlatPage agent part) s

/-- The engine and context that a media command names. -/
def mediaName (d : List Word) : Option (Nat × Nat) :=
  match opcOf d with
  | 0x700 => some (bits (dw d 11) 18 16, bits (dw d 11) 27 19)
  | 0x701 => some (bits (dw d 9) 17 15, bits (dw d 9) 26 18)
  | 0x702 => some (bits (dw d 5) 11 9, bits (dw d 5) 8 0)
  | _ => none

/-- The engine whose translation cache a command without units uses: the copy engine's, a media engine's, the collective engine's,
the hash units', else the dispatcher's. -/
def xlatEngine (d : List Word) : Nat :=
  let o := opcOf d
  if o = 0x500 ∨ o = 0x503 ∨ o = 0x504 ∨ o = 0x600 ∨ o = 0x601 then 257
  else if o / 256 = 7 then 264 + ((mediaName d).map (·.1)).getD 0
  else if (0x602 ≤ o ∧ o ≤ 0x606) ∨ o = 0x801 ∨ (o = 0x803 ∧ bit (dw d 7) 2) then 258
  else if o = 0x800 ∨ o = 0x802 ∨ o = 0x803 ∨ o = 0x804 then 259
  else 256

/-- Whose translation caches a command's accesses go through: every agent that claimed one of its units, each for all its pages (DESIGN
CHOICE, log entry 67: the model does not part a command's pages by unit), else its engine's (R223). -/
def xlatAgents (c : InFlight) : List Nat :=
  match ((c.claims ++ c.unitsDone).map (·.agent)).eraseDups with
  | [] => [xlatEngine c.desc]
  | l => l

def addCounts (s : State) : List (Nat × Nat) → State
  | [] => s
  | (k, n) :: t => addCounts (dAdd s k n) t

/-- The weir bucket that meters a global address: 0 for T1 and T2, 1 for T3, 2 for T4 (R234). -/
def weirOf (s : State) (a : Nat) : Nat := if gaRegion a = 2 then 2 else if gaNode a = nodeId s then 0 else 1

/-- Bytes missing from full, in 25ths, in a bucket. -/
def weirMissing (s : State) (k : Nat) : Nat := ((s.mem.weirUsed.find? (fun u => u.1 == k)).map (·.2)).getD 0

/-- A bucket regulates: mode 0, and a rate other than all ones. -/
def weirOn (s : State) (part b : Nat) : Bool := dGet s (dk 0x2410 1) == 0 && pGet s part (0x17 + 2 * b) != 0xFFFFFFFF

/-- Burst depth of a bucket in 25ths of a byte. -/
def weirDepth (s : State) (part b : Nat) : Nat := pGet s part (0x18 + 2 * b) * 1024 * 25

/-- Bytes that ranges take from a bucket. -/
def weirBytes (s : State) (b : Nat) (l : List (Nat × Nat)) : Nat := ((l.filter (fun x => weirOf s x.1 == b)).map (·.2)).sum

/-- Bytes of a command's requests that have left a bucket. -/
def paidBytes (c : InFlight) (k : Nat) : Nat := ((c.weirPaid.find? (fun x => x.1 == k)).map (·.2)).getD 0

/-- Bytes of a command's requests that a bucket has still to let go. -/
def weirDue (s : State) (c : InFlight) (b : Nat) (l : List (Nat × Nat)) : Nat :=
  if weirOn s c.part b then weirBytes s b l - paidBytes c (3 * c.part + b) else 0

/-- Bytes whose requests a bucket lets go now: all that are due when it holds as many tokens, else whole requests of 128 bytes, the
model's size of a request (DESIGN CHOICE, log entry 9). -/
def weirLets (s : State) (c : InFlight) (b : Nat) (l : List (Nat × Nat)) : Nat :=
  let tokens := (weirDepth s c.part b - weirMissing s (3 * c.part + b)) / 25
  if weirDue s c b l ≤ tokens then weirDue s c b l else tokens / 128 * 128

/-- The buckets that withhold some of a command's requests (R234). -/
def weirsClosed (s : State) (c : InFlight) (l : List (Nat × Nat)) : List Nat :=
  ((List.range 3).filter (fun b => decide (weirLets s c b l < weirDue s c b l))).map (fun b => 3 * c.part + b)

/-- Tokens that the requests which may leave take from the buckets of a partition (R234). -/
def meter (c : InFlight) (l : List (Nat × Nat)) (s : State) : State :=
  (List.range 3).foldl (fun s b =>
    let n := weirLets s c b l
    let k := 3 * c.part + b
    if n = 0 then s
    else { s with mem := { s.mem with
      weirUsed := s.mem.weirUsed.filter (fun u => u.1 != k) ++ [(k, weirMissing s k + 25 * n)] } }) s

/-- Requests of the command in flight on a ring leave the weirs as far as tokens go; the buckets that withhold the rest are noted. -/
def payWeirs (s : State) (ring : Nat) (c : InFlight) (l : List (Nat × Nat)) : State :=
  let paid := (List.range 3).map (fun b => (3 * c.part + b, paidBytes c (3 * c.part + b) + weirLets s c b l))
  setFlight (meter c l s) ring (fun f => { f with weirPaid := paid, weirWait := weirsClosed s c l })

/-- The command in flight has run: its status, what it leaves to its commit, the ranges it wrote and what it wrote there. -/
def finishRun (s : State) (ring status : Nat) (acts : List CommitAct) (wrote : List (Nat × Nat))
    (results : List (Nat × List Byte)) (reserve : List PageRes) : State :=
  setFlight (tickFresh s) ring (fun f => { f with
    executed := true, status := BitVec.ofNat 8 status, acts := f.acts ++ acts, wrote := f.wrote ++ wrote,
    results := f.results ++ results, reserved := f.reserved ++ reserve })

/-- The command in flight fails before it has done anything; members of its collective are told (R288). -/
def failRun (s : State) (ring status : Nat) (wrote : List (Nat × Nat)) : State :=
  let s := match (flightOf s ring).bind (·.coll) with
    | some inst => collAbortAll s inst
    | none => s
  finishRun s ring status [] wrote [] []

/-- Pieces of one end of a move. -/
def endPieces (s : State) (w : Who) (a : Nat) (g : Bool) (n : Nat) : Except Nat (List (Nat × Nat)) :=
  if g then .ok (if n = 0 then [] else [(a, n)]) else rangePieces s w.part w.ring a n

/-- Cut source and destination pieces against each other: (source, destination, bytes). -/
def alignPieces : Nat → List (Nat × Nat) → List (Nat × Nat) → List (Nat × Nat × Nat)
  | 0, _, _ => []
  | _, [], _ => []
  | _, _, [] => []
  | fuel + 1, (a, n) :: t, (b, m) :: u =>
    let k := min n m
    (a, b, k) :: alignPieces fuel (if n = k then t else (a + k, n - k) :: t) (if m = k then u else (b + k, m - k) :: u)

/-- A plan's moves by global address, or the first address without a page. -/
def resolveMoves (s : State) (w : Who) : List Move → Except Nat (List (Nat × Nat × Nat))
  | [] => .ok []
  | m :: t =>
    match endPieces s w m.src m.srcG m.len, endPieces s w m.dst m.dstG m.len, resolveMoves s w t with
    | .error a, _, _ => .error a
    | _, .error a, _ => .error a
    | _, _, .error a => .error a
    | .ok p, .ok q, .ok r => .ok (alignPieces (p.length + q.length) p q ++ r)

/-- The writes of local moves, and the READ requests of those that start on another node. -/
def splitMoves (s : State) (pri : Bool) : List (Nat × Nat × Nat) → List (Nat × List Byte) × List Ask
  | [] => ([], [])
  | (a, b, n) :: t =>
    let r := splitMoves s pri t
    if remoteAddr s a then (r.1, readAsks pri a n b ++ r.2) else ((b, ldBytes s a n) :: r.1, r.2)

/-- What a plan touches by global address: reads, writes; or the first address without a page. -/
structure Touched where
  /-- reads of its own, without the sources of moves -/
  own    : List (Nat × Nat)
  reads  : List (Nat × Nat)
  writes : List (Nat × Nat)
  undefs : List (Nat × Nat)
  moves  : List (Nat × Nat × Nat)
  deriving DecidableEq, Repr

/-- The mappings of a plan are usable by its own command at once (R224). -/
def withMaps (s : State) (l : List Mapping) : State := { s with mem := { s.mem with maps := s.mem.maps ++ l } }

def touched (s : State) (w : Who) (p : Plan) : Except Nat Touched :=
  match allPieces s w p.reads, allPieces s w (p.writes.map (fun x => (x.1, x.2.length))), allPieces s w p.undef,
      resolveMoves s w p.moves with
  | .error va, _, _, _ => .error va
  | _, .error va, _, _ => .error va
  | _, _, .error va, _ => .error va
  | _, _, _, .error va => .error va
  | .ok rs, .ok ws, .ok us, .ok ms =>
    .ok { own := rs ++ p.greads, reads := rs ++ p.greads ++ ms.map (fun m => (m.1, m.2.2)),
          writes := ws ++ us ++ p.gwrites.map (fun x => (x.1, x.2.length)) ++ ms.map (fun m => (m.2.1, m.2.2)),
          undefs := us, moves := ms }

/-- The device-virtual ranges a plan names. -/
def Plan.ranges (p : Plan) : List (Nat × Nat) :=
  p.reads ++ p.writes.map (fun x => (x.1, x.2.length)) ++ p.undef ++
  p.moves.flatMap (fun m => (if m.srcG then [] else [(m.src, m.len)]) ++ (if m.dstG then [] else [(m.dst, m.len)]))

/-- What a plan writes, by global address, besides the data its READ requests bring. -/
def Plan.results (s : State) (w : Who) (p : Plan) (t : Touched) : List (Nat × List Byte) :=
  p.writes.flatMap (globalWrites s w) ++ p.gwrites ++ (splitMoves s false t.moves).1

/-- The stores of a plan: line accesses, counts, pages mapped and popped, and undefined content wherever it writes until the
command commits (R34); what goes to another node is sent there. -/
def planStores (s : State) (w : Who) (c : InFlight) (p : Plan) (t : Touched) : State :=
  let ws := p.results (withMaps s p.maps) w t
  let s := zeroPages (withMaps s p.maps) p.maps
  let s := (xlatAgents c).foldl (fun s a => xlatTouch s a c.part p.ranges) s
  let s := undefine (touchAll c.part true (touchAll c.part false s t.reads) t.writes) t.writes
  let s := addCounts (meter c (t.reads ++ t.writes ++ p.far) s) p.counts
  let s := p.reserve.foldl (fun s r => popPage s r.part r.cls) s
  asks (some w.ring) s ((ws.filter (fun x => remoteAddr s x.1)).flatMap (fun x => writeAsks false x.1 x.2) ++
    (splitMoves s c.pri t.moves).2 ++ p.asks)

/-- Ranges of other nodes' memory that a plan reads and that its READs have not fetched yet (R229). -/
def toFetch (s : State) (c : InFlight) (t : Touched) : List (Nat × Nat) :=
  t.own.filter (fun x => remoteAddr s x.1 && !c.fetched.contains x)

/-- Send the READs of operands that lie on other nodes: the command goes on once they have ended (R229, R171). -/
def fetchOperands (s : State) (ring : Nat) (c : InFlight) (l : List (Nat × Nat)) : State :=
  asks (some ring) (setFlight s ring (fun f => { f with fetched := f.fetched ++ l }))
    (l.flatMap (fun x => readAsks c.pri x.1 x.2 x.1))

/-- The READ or merge read of a plan that meets a lost line (R233, R240). -/
def planReads (t : Touched) : List (Nat × Nat) := t.reads ++ t.writes.flatMap (fun x => partialWords x.1 x.2)

/-- Carry out what a plan touches: an armed uncorrectable injection discards the command, else the plan's effect follows. -/
def carryOut (s : State) (ring : Nat) (c : InFlight) (p : Plan) (t : Touched) : State :=
  let w : Who := { part := c.part, ring := c.ring }
  if s.hlth.injections.any (fun i => (planReads t).any (fun x => armedAt s 6 x.1 x.2 i)) then
    fireInjection s c.part (fun i => (planReads t).any (fun x => armedAt s 6 x.1 x.2 i))
  else
    let s := fireInjection s c.part (fun i => (planReads t).any (fun x => armedAt s 5 x.1 x.2 i))
    let ws := p.results (withMaps s p.maps) w t
    let s := (t.reads.filter (fun x => hostRange x.1)).foldl (fun s x => hostFetch s x.1 x.2) s
    let s := finishRun (planStores s w c p t) ring p.status p.acts (if p.status < 0x10 then t.writes else t.undefs) ws p.reserve
    let s := setFlight s ring (fun f => { f with unitCounts := p.unitCounts, weirWait := [], weirPaid := [], hostWait := none })
    let all := t.reads ++ t.writes
    chargeUnits (fireInjection s c.part (fun i => all.any (fun x => armedWay s x.1 x.2 i))) ring

/-- Carry out a plan for the command in flight on a ring: faults first (R223, R240), then reads, writes, counts; the
command is executed and waits for its commit. What a plan with a failed status writes is durable; what it leaves
undefined is in `undef`. While Falyndi is not up, a plan that needs host memory waits (R347); one that needs a node known to be
absent fails; a weir may withhold the requests (R234), and operands on other nodes are fetched first (R229). -/
def runPlan (s : State) (ring : Nat) (c : InFlight) (p : Plan) : State :=
  match touched (withMaps s p.maps) { part := c.part, ring := c.ring } p with
  | .error va => (detectError s (translationFault c.part va) none).1
  | .ok t =>
    let all := t.reads ++ t.writes ++ p.far
    if p.wait || waitsTxn s ring || all.any (fun x => rowHeld s x.1 x.2) then s
    else if all.any (fun x => hostRange x.1) && !falyndiUp s then
      setFlight s ring (fun f => { f with hostWait := f.hostWait.orElse (fun _ => some (BitVec.ofNat 64 (now s))) })
    else
      match all.find? (fun x => remoteAddr s x.1 && nodeStatus s (gaNode x.1) != 0) with
      | some x => failRun s ring (nodeStatus s (gaNode x.1)) t.writes
      | none =>
        match lostRead s (planReads t) with
        | some l => (detectError s (uncorrectableRead s c.part l true) none).1
        | none =>
          if !(weirsClosed s c all).isEmpty then payWeirs s ring c all
          else if !(toFetch s c t).isEmpty then fetchOperands (payWeirs s ring c all) ring c (toFetch s c t)
          else carryOut s ring c p t

/-- The command in flight on a ring, when its opcode is the row's and it has yet to run. -/
def readyFlight (s : State) (ring opc : Nat) : Option InFlight :=
  match flightOf s ring with
  | some c => if opcOf c.desc = opc ∧ !c.executed ∧ !c.reading ∧ c.discard.isNone then some c else none
  | none => none

/-- The engine queue of a command: 3 the copy engine's, 5 the hash units', RECONSTRUCT with METHOD 0 among theirs (R307); 0 none
(R64). -/
def queueOf (d : List Word) : Nat :=
  let opc := opcOf d
  if opc = 0x500 ∨ opc = 0x503 ∨ opc = 0x504 ∨ opc = 0x600 ∨ opc = 0x601 then 3
  else if opc = 0x800 ∨ opc = 0x802 ∨ opc = 0x804 ∨ (opc = 0x803 ∧ !bit (dw d 7) 2) then 5
  else 0

/-- The engine has begun a command that has not run yet: it waits for a fetch, for host memory or for a weir. -/
def InFlight.begun (c : InFlight) : Bool := c.hostWait.isSome || !c.weirWait.isEmpty || !c.fetched.isEmpty

/-- A command that was dispatched before `order` stands in the queue of a command's engine, not yet begun (R64). -/
def queueAhead (s : State) (d : List Word) (order : Nat) : Bool :=
  queueOf d != 0 && s.hop.inflight.any (fun x =>
    queueOf x.desc == queueOf d && decide (x.order < order) && !x.executed && x.discard.isNone && !x.begun)

/-- The state by which a command's effect is worked out: its own writes, and default_span as it stood at its dispatch (R119). -/
def planView (s : State) (c : InFlight) : State := dSet s (dk 0x2300 1) c.spanDefault

/-- Run an opcode row: nothing happens when no such command waits to run on the ring (log entry 6), or when another comes first in its
engine's queue. -/
def runOp (s : State) (ring : RingId) (opc : Nat) (plan : State → InFlight → Plan) : State :=
  match readyFlight s ring.toNat opc with
  | some c => if queueAhead s c.desc c.order then s else runPlan s ring.toNat c (plan (planView s c) c)
  | none => s

/-! ### Acceptance -/

/-- What an opcode's chapter says of one descriptor: the bits of w4 to w15 that its field map defines, the tensors it
reads, writes, and both reads and writes, whether a check of the chapter refuses it, and whether two array operands
differ in compute format. -/
structure OpSpec where
  masks    : List Nat
  ins      : List Nat
  outs     : List Nat
  rws      : List Nat
  bad      : Bool
  mismatch : Bool
  deriving DecidableEq, Repr

def OpSpec.empty : OpSpec := { masks := [], ins := [], outs := [], rws := [], bad := false, mismatch := false }

/-- A run of field bits [hi:lo]. -/
def fld (hi lo : Nat) : Nat := (2 ^ (hi + 1 - lo) - 1) * 2 ^ lo

/-- All 64 bits. -/
def fldAll : Nat := 2 ^ 64 - 1

/-- A nonzero bit outside the field map of w4 to w15. -/
def reservedSet (masks : List Nat) (d : List Word) : Bool :=
  (List.range 12).any (fun i => Nat.land (dw d (4 + i)) (fldAll - masks.getD i 0) != 0)

/-- Compute formats of two operands differ (R114). -/
def computeDiffer (s : State) (p a b : Nat) : Bool :=
  decide ((tens s p a).fmt.compute ≠ (tens s p b).fmt.compute)

/-- An operand's format may feed an array or a quern engine (R108). -/
def arrayFmt (s : State) (p a : Nat) : Bool := (tens s p a).fmt.compute.isSome

/-- A format that the epilogue may write (R108). -/
def epilogueFmt (f : Fmt) : Bool := !f.isInt

end Sys2Proof.Machine
end

