-- ==== Sys2Proof/Machine/Arrays.lean ====
section
/-! DEFINITION. The arithmetic of the arrays and quern engines: cells, promotion taps, accumulation across K-tiles and the
epilogue (R117 to R122), and the checks of the checksum column and checksum row (R93 to R96, R131). -/

namespace Sys2Proof.Machine

/-- One cell (R117): s_out := round_A20(s_in + a × b). A zero product leaves s_in as it is, but for −0. -/
def cell (sIn : Nat) (ab : FVal × FVal) : Nat :=
  let p := ab.1.mul ab.2
  if p.isZero && sIn != fmtA20.pack true 0 then sIn else fmtA20.round ((fmtA20.decode sIn).add p)

/-- An A20 partial sum as FP32 (exact). -/
def a20ToF32 (x : Nat) : F32 := r32 (fmtA20.decode x)

/-- Products that stand for the zeros the feeders substitute (R91). -/
def zeroPair : FVal × FVal := (.fin false 0 0, .fin false 0 0)

/-- The column result of one tile of `depth` rows with promotion taps every `span` rows (R118). -/
def tileColumn (depth span : Nat) (ps : List (FVal × FVal)) : F32 :=
  let rows := ps ++ List.replicate (depth - ps.length) zeroPair
  let sums := (chunksOf span rows.length rows).map (fun ch => a20ToF32 (ch.foldl cell 0))
  match sums with
  | [] => 0
  | f :: t => t.foldl f32Add f

/-- The rows of a span code: 1 8 rows, 2 16, 3 32; 0 takes default_span (R119). -/
def spanRows (s : State) (code : Nat) : Nat :=
  let c := if code = 0 then dGet s (dk 0x2300 1) else code
  if c = 1 then 8 else if c = 2 then 16 else 32

/-- Accumulate tile results in ascending K-tile order, from D's value when ACC = 1 (R83, R120). -/
def accumulate (init : Option F32) (tiles : List F32) : F32 :=
  match init, tiles with
  | some d, ts => ts.foldl f32Add d
  | none, [] => 0
  | none, t :: ts => ts.foldl f32Add t

/-- The epilogue's arithmetic for one output (R121). -/
def epilogue (scale bias : Option F32) (act : Nat) (y : F32) : F32 :=
  let y := match scale, bias with
    | some a, some b => f32Fma y a b
    | some a, none => f32Mul y a
    | none, some b => f32Add y b
    | none, none => y
  activation act y

/-- FP32 sum in ascending order from +0 (R93). -/
def seqSum (l : List F32) : F32 := l.foldl f32Add 0

/-- What a check finds: it passes, is skipped, or mismatches (R94, R95, R131). -/
inductive Check where
  | pass
  | skip
  | fail
  deriving DecidableEq, Repr

/-- |c − s| is at most (L + 2) × 2⁻¹² × Q + 2⁻¹²⁶ (R131), compared exactly. -/
def withinTolerance (span : Nat) (c s q : F32) : Bool :=
  let bound := ((FVal.fin false (span + 2) (-12)).mul (f32 q)).add (.fin false 1 (-126))
  !(bound.lt ((f32 c).sub (f32 s)).abs)

/-- The comparison of a checksum result c with the sum s of the outputs it stands for, of absolute sum Q: skipped where c, an output
or s is not finite (R94); an infinite Q passes (R131). -/
def compareCheck (span : Nat) (c q : F32) (outs : List F32) : Check :=
  let s := seqSum outs
  if !(f32 c).isFinite || outs.any (fun o => !(f32 o).isFinite) || !(f32 s).isFinite then .skip
  else if !(f32 q).isFinite || withinTolerance span c s q then .pass
  else .fail

/-- A sum of products on the FP32 path: each exact product is rounded once, together with its addition (R93). -/
def dotF32 (l : List (FVal × FVal)) : F32 := l.foldl (fun acc x => r32 ((f32 acc).add (x.1.mul x.2))) 0

/-- The checksum column's check of a fed row and tile: c from the row sums r_k of the weights, Q in the same way from absolute
values (R93, R131). `b k` lists the tile's weights of K-row k. -/
def rowCheck (span : Nat) (a : List FVal) (b : List (List FVal)) (outs : List F32) : Check :=
  let dot (f : FVal → FVal) : F32 :=
    dotF32 (List.zip (a.map f) (b.map (fun ws => f32 (seqSum (ws.map (fun v => r32 (f v)))))))
  compareCheck span (dot id) (dot FVal.abs) outs

/-- The promoted result of column n of K-tile kt for a runner row. -/
def tileOut (depth span K : Nat) (a : Nat → FVal) (b : Nat → Nat → FVal) (kt n : Nat) : F32 :=
  tileColumn depth span ((List.range (min depth (K - kt * depth))).map (fun i =>
    (a (kt * depth + i), b (kt * depth + i) n)))

/-- One output row of a matrix product: runner elements `a k`, weights `b k n`, with `depth`-row tiles and column tiles
of `width`. Answers the banked sums and the check of every tile, with its column tile. -/
def productRow (depth width span K N : Nat) (a : Nat → FVal) (b : Nat → Nat → FVal) (init : Nat → Option F32) :
    List F32 × List (Nat × Check) :=
  let kts := (K + depth - 1) / depth
  let outs := (List.range kts).map (fun kt => (List.range N).map (tileOut depth span K a b kt))
  let sums := (List.range N).map (fun n => accumulate (init n) (outs.map (fun o => o.getD n 0)))
  let checks := outs.zipIdx.flatMap (fun x =>
    (chunksOf width N x.1).zipIdx.map (fun g =>
      let ks := List.range (min depth (K - x.2 * depth))
      (g.2, rowCheck span (ks.map (fun i => a (x.2 * depth + i)))
        (ks.map (fun i => (List.range g.1.length).map (fun j => b (x.2 * depth + i) (g.2 * width + j)))) g.1)))
  (sums, checks)

/-- The columns in which the checksum row over some runner rows mismatches: in each K-tile, the column's FP32-path result for the
rows' FP32 sum against the sum of the column's outputs for those rows, within the same tolerance (R96). -/
def columnFails (depth span K N : Nat) (rows : List (Nat → FVal)) (b : Nat → Nat → FVal) : List Nat :=
  (List.range N).filter (fun n => (List.range ((K + depth - 1) / depth)).any (fun kt =>
    let ks := (List.range (min depth (K - kt * depth))).map (fun i => kt * depth + i)
    let dot (f : FVal → FVal) : F32 :=
      dotF32 (ks.map (fun k => (f32 (seqSum (rows.map (fun a => r32 (f (a k))))), f (b k n))))
    compareCheck span (dot id) (dot FVal.abs) (rows.map (fun a => tileOut depth span K a b kt n)) == .fail))

/-- What the checks of one row add to a unit's counts: skips, and mismatches with their place, array × 2¹⁶ + row of the unit
(`unitError`). `unit` gives the unit of a column tile. -/
def checkCounts (unit : Nat → Nat) (place : Nat) (l : List (Nat × Check)) : List (Nat × Nat × Nat) :=
  l.filterMap (fun x => match x.2 with
    | .pass => none
    | .skip => some (unit x.1, 0x3227, 1)
    | .fail => some (unit x.1, 0x3226, place))

/-- The rank-1 vector element of a scale or bias. -/
def vecAt (s : State) (w : Who) (p : Nat) (en : Bool) (idx n : Nat) : Option F32 :=
  if en then some ((tens s p idx).f32 s w 0 n) else none

end Sys2Proof.Machine
end

