-- ==== Sys2Proof/Machine/Gemm.lean ====
section
/-! DEFINITION. GEMM, GEMM_BATCHED and GEMM_GROUPED (spec/04 "GEMM opcodes", R81 to R92, R106, R107). -/

namespace Sys2Proof.Machine

/-- The fields of a GEMM descriptor. -/
structure GemmFields where
  a       : Nat
  b       : Nat
  d       : Nat
  bias    : Nat
  scale   : Nat
  rowmask : Nat
  gtable  : Nat
  m       : Nat
  n       : Nat
  k       : Nat
  count   : Nat
  bBcast  : Bool
  chkrow  : Bool
  mode1   : Bool
  acc     : Bool
  maskEn  : Bool
  scaleEn : Bool
  biasEn  : Bool
  transB  : Bool
  transA  : Bool
  span    : Nat
  sat     : Bool
  sround  : Bool
  act     : Nat
  colsCode : Nat
  rowsCode : Nat
  key     : Nat
  stream  : Nat
  stageSize : Nat
  stageBase : Nat
  deriving DecidableEq, Repr

def gemmFields (d : List Word) : GemmFields :=
  let w := dw d
  { a := bits (w 4) 23 0, b := bits (w 4) 47 24, d := bits (w 5) 23 0, bias := bits (w 5) 47 24,
    scale := bits (w 6) 23 0, rowmask := bits (w 6) 47 24, gtable := bits (w 13) 23 0, m := bits (w 7) 31 0,
    n := bits (w 7) 63 32, k := bits (w 8) 31 0, count := bits (w 8) 63 32, bBcast := bit (w 9) 20,
    chkrow := bit (w 9) 19, mode1 := bit (w 9) 18, acc := bit (w 9) 17, maskEn := bit (w 9) 16, scaleEn := bit (w 9) 15,
    biasEn := bit (w 9) 14, transB := bit (w 9) 13, transA := bit (w 9) 12, span := bits (w 9) 11 10,
    sat := bit (w 9) 9, sround := bit (w 9) 8, act := bits (w 9) 7 4, colsCode := bits (w 9) 3 2,
    rowsCode := bits (w 9) 1 0, key := w 10, stream := bits (w 11) 31 0, stageSize := bits (w 12) 14 8,
    stageBase := bits (w 12) 5 0 }

/-- Unit rows R and column group width C. -/
def GemmFields.unitRows (g : GemmFields) : Nat := 512 * 2 ^ g.rowsCode
def GemmFields.unitCols (g : GemmFields) : Nat := 128 * 2 ^ g.colsCode

def GemmFields.rng (g : GemmFields) : Option Rng := if g.sround then some { key := g.key, stream := g.stream } else none

/-- The bits of w4 to w15 that the field map defines; M is reserved in GEMM_GROUPED. -/
def gemmMasks (opc : Nat) : List Nat :=
  [fld 47 0, fld 47 0, fld 47 0, if opc = 0x102 then fld 63 32 else fldAll, fldAll,
   fld 20 0, fldAll, fld 31 0, fld 14 8 + fld 5 0, fld 23 0, 0, 0]

/-- A staging window holds 2 × 128 × (R + C) × 2 bytes inside the operand store (R81). -/
def stageBad (rows cols size base : Nat) : Bool :=
  decide (size * 65536 < 512 * (rows + cols)) || decide (64 < base + size)

/-- The checks of R106 beyond the field map. A rank-2 ROWMASK, one row for each batch entry, is taken in GEMM_BATCHED only (DESIGN
CHOICE, log entry 64); B_BCAST may be 1 where MODE 1 gives it no effect (R92). -/
def gemmBad (s : State) (p opc : Nat) (g : GemmFields) : Bool :=
  let ta := tens s p g.a
  let tb := tens s p g.b
  let td := tens s p g.d
  (!g.biasEn && g.bias != 0) || (!g.scaleEn && g.scale != 0) || (!g.maskEn && g.rowmask != 0) ||
  (!g.sround && (g.key != 0 || g.stream != 0)) ||
  g.rowsCode == 3 || g.colsCode == 3 || decide (5 < g.act) ||
  decide (524288 < g.unitRows * g.unitCols) || stageBad g.unitRows g.unitCols g.stageSize g.stageBase ||
  !arrayFmt s p g.a || !arrayFmt s p g.b || !epilogueFmt td.fmt ||
  (g.scaleEn && (let t := tens s p g.scale; t.rank != 1 || t.fmt != .f32)) ||
  (g.biasEn && (let t := tens s p g.bias; t.rank != 1 || !(t.fmt == .f32 || t.fmt == .bf16 || t.fmt == .f16))) ||
  (g.maskEn && (let t := tens s p g.rowmask
    t.fmt != .i8 || !(t.rank == 1 || (t.rank == 2 && opc == 0x101)))) ||
  (opc == 0x102 && (let t := tens s p g.gtable; t.rank != 2 || t.fmt != .i32)) ||
  (opc != 0x102 && g.gtable != 0) || (opc == 0x100 && g.count != 0) ||
  (g.bBcast && opc != 0x101 && !(opc == 0x102 && g.mode1)) ||
  (g.mode1 && (g.k != g.n || g.transB || tb.rank != 1)) || decide (ta.rank = 0)

def gemmSpec (s : State) (p : Nat) (d : List Word) : OpSpec :=
  let g := gemmFields d
  let opc := opcOf d
  { masks := gemmMasks opc,
    ins := [g.a, g.b] ++ (if g.biasEn then [g.bias] else []) ++ (if g.scaleEn then [g.scale] else []) ++
      (if g.maskEn then [g.rowmask] else []) ++ (if opc = 0x102 then [g.gtable] else []),
    outs := [g.d], rws := if g.acc then [g.d] else [], bad := gemmBad s p opc g,
    mismatch := computeDiffer s p g.a g.b }

/-- One group of rows: how many, first rows in A and D, batch indexes. -/
structure GemmGroup where
  m    : Nat
  a0   : Nat
  d0   : Nat
  ab   : Nat
  bb   : Nat
  deriving DecidableEq, Repr

/-- The group table as the dispatcher reads it (R107): four words a row. -/
def groupWords (s : State) (w : Who) (g : GemmFields) : List Nat :=
  let t := tens s w.part g.gtable
  (List.range g.count).flatMap (fun r => (List.range 4).map (fun i => t.pat s w t.inBuf r i))

/-- The rows of the group table: M_g, first rows in A and D, and the fourth element. -/
def groupTable (words : List Nat) : List (List Nat) := chunksOf 4 words.length words

/-- The groups that a command computes: one, one a batch entry, or one a table row. -/
def gemmGroups (opc : Nat) (g : GemmFields) (table : List Nat) : List GemmGroup :=
  if opc = 0x100 then [{ m := g.m, a0 := 0, d0 := 0, ab := 0, bb := 0 }]
  else if opc = 0x101 then
    (List.range g.count).map (fun b =>
      { m := g.m, a0 := 0, d0 := 0, ab := b, bb := if g.bBcast || g.mode1 then 0 else b })
  else
    (groupTable table).zipIdx.map (fun x =>
      { m := x.1.getD 0 0, a0 := x.1.getD 1 0, d0 := x.1.getD 2 0, ab := 0, bb := if g.mode1 then 0 else x.2 })

/-- Runner element (m, k) of batch entry b. -/
def gemmA (s : State) (w : Who) (g : GemmFields) (b m k : Nat) : FVal :=
  let t := tens s w.part g.a
  if g.transA then t.val s w (t.rowIndex [k, b]) m else t.val s w (t.rowIndex [m, b]) k

/-- Bedstone element (k, n) of batch entry b; in MODE 1 the diagonal tile of R92. -/
def gemmB (s : State) (w : Who) (g : GemmFields) (b k n : Nat) : FVal :=
  let t := tens s w.part g.b
  if g.mode1 then (if k = n then t.val s w 0 n else .fin false 0 0)
  else if g.transB then t.val s w (t.rowIndex [n, b]) k else t.val s w (t.rowIndex [k, b]) n

/-- The row mask marks a runner row (0 masks it): in GEMM_GROUPED, whose M is reserved, element A_ROW + r marks row r of a group
(DESIGN CHOICE, log entry 64). -/
def gemmMasked (s : State) (w : Who) (g : GemmFields) (b row : Nat) : Bool :=
  g.maskEn && (let t := tens s w.part g.rowmask
    (if t.rank = 2 then t.int s w b row else t.int s w 0 row) == 0)

/-- One fed row: sums and checks. In MODE 1 each column has only its diagonal tile (R92). -/
def gemmSums (s : State) (w : Who) (g : GemmFields) (grp : GemmGroup) (row : Nat) : List F32 × List (Nat × Check) :=
  let td := tens s w.part g.d
  let init (n : Nat) : Option F32 :=
    if g.acc then some (td.f32 s w (td.rowIndex [grp.d0 + row, grp.ab]) n) else none
  let span := spanRows s g.span
  if g.mode1 then
    let outs := (List.range ((g.n + 127) / 128)).map (fun t =>
      let len := min 128 (g.n - 128 * t)
      productRow 128 128 span len len (fun k => gemmA s w g grp.ab (grp.a0 + row) (128 * t + k))
        (fun k n => gemmB s w g grp.bb (128 * t + k) (128 * t + n)) (fun n => init (128 * t + n)))
    (outs.flatMap (·.1), outs.zipIdx.flatMap (fun x => x.1.2.map (fun y => (x.2, y.2))))
  else
    productRow 128 128 span g.k g.n (gemmA s w g grp.ab (grp.a0 + row)) (gemmB s w g grp.bb) init

/-- Output rows of a group that the command covers: rows of its bands inside D's planned extent. A row beyond M_g that is another
group's row is that group's to write: R90's zero or copy is left out there, since two units' writes to one row have no order
(DEDUCED, log entry 64). -/
def gemmRows (td : Tens) (g : GemmFields) (groups : List GemmGroup) (opc : Nat) (grp : GemmGroup) : List Nat :=
  let bands := (grp.m + g.unitRows - 1) / g.unitRows
  (List.range (bands * g.unitRows)).filter (fun r =>
    decide (grp.d0 + r < td.extent 1) &&
    (decide (r < grp.m) || opc != 0x102 ||
      groups.all (fun o => decide (grp.d0 + r < o.d0 ∨ o.d0 + o.m ≤ grp.d0 + r))))

/-- The output of one row of a group: computed, zero, copied or left (R89, R90). -/
def gemmRow (s : State) (w : Who) (d : List Word) (g : GemmFields) (grp : GemmGroup) (row : Nat) :
    RowOut × List (Nat × Check) :=
  let td := tens s w.part g.d
  let dr := td.rowIndex [grp.d0 + row, grp.ab]
  let out := td.outBuf (voutOf d)
  if decide (row < grp.m) && !gemmMasked s w g grp.ab (grp.a0 + row) then
    let r := gemmSums s w g grp row
    let ys := r.1.zipIdx.map (fun x => f32 (epilogue (vecAt s w w.part g.scaleEn g.scale x.2)
      (vecAt s w w.part g.biasEn g.bias x.2) g.act x.1))
    (writeRow s w td out dr 0 ys g.sat g.rng, r.2)
  else if zwriteOf d then
    let z := writeRow s w td out dr 0 (List.replicate g.n (.fin false 0 0)) false none
    ({ z with counts := NumCounts.zero }, [])
  else if voutOf d && td.versioned then
    ({ writes := copyRow s w td td.inBuf dr td out dr g.n, vals := [], counts := NumCounts.zero }, [])
  else ({ writes := [], vals := [], counts := NumCounts.zero }, [])

/-- Bands of a group, and column groups of the grid (R134). -/
def GemmFields.bandsOf (g : GemmFields) (grp : GemmGroup) : Nat := (grp.m + g.unitRows - 1) / g.unitRows
def GemmFields.colGroups (g : GemmFields) : Nat := (g.n + g.unitCols - 1) / g.unitCols

/-- Groups with the number of their first unit (R134, R138). -/
def gemmUnits (g : GemmFields) : Nat → List GemmGroup → List (Nat × GemmGroup)
  | _, [] => []
  | u, grp :: t => (u, grp) :: gemmUnits g (u + g.bandsOf grp * g.colGroups) t

/-- The fed rows of an array in a band of a group. -/
def gemmFed (s : State) (w : Who) (g : GemmFields) (grp : GemmGroup) (band a : Nat) : List Nat :=
  ((List.range (g.unitRows / 4)).map (fun i => band * g.unitRows + a * (g.unitRows / 4) + i)).filter (fun r =>
    decide (r < grp.m) && !gemmMasked s w g grp.ab (grp.a0 + r))

/-- The columns of a unit's column group `cg` that mismatch in a checksum row over some fed rows (R96); in MODE 1 each column tile has only
its diagonal tile (R92). -/
def gemmColumnFails (s : State) (w : Who) (g : GemmFields) (grp : GemmGroup) (cg : Nat) (rows : List Nat) : List Nat :=
  let span := spanRows s g.span
  let first := cg * g.unitCols
  let width := min g.unitCols (g.n - first)
  let runners (at' : Nat) : List (Nat → FVal) := rows.map (fun r k => gemmA s w g grp.ab (grp.a0 + r) (at' + k))
  if g.mode1 then
    (List.range ((width + 127) / 128)).flatMap (fun t =>
      let at' := first + 128 * t
      let len := min 128 (g.n - at')
      (columnFails 128 span len len (runners at') (fun k n => gemmB s w g grp.bb (at' + k) (at' + n))).map (128 * t + ·))
  else columnFails 128 span g.k width (runners 0) (fun k n => gemmB s w g grp.bb k (first + n))

/-- Counts of a group's units beside its checks: masked rows of every unit (R89), and with CHKROW the columns that mismatch in a
checksum row over each 127 fed rows of an array (R96). -/
def gemmUnitCounts (s : State) (w : Who) (g : GemmFields) (u : Nat) (grp : GemmGroup) : List (Nat × Nat × Nat) :=
  (List.range (g.bandsOf grp)).flatMap (fun band =>
    let fed := (List.range 4).map (gemmFed s w g grp band)
    (List.range g.colGroups).flatMap (fun cg =>
      let unit := u + band * g.colGroups + cg
      (unit, 0x3228, g.unitRows - (fed.map List.length).sum) ::
      (if g.chkrow then
        fed.zipIdx.flatMap (fun a => (chunksOf 127 a.1.length a.1).flatMap (fun rows =>
          (gemmColumnFails s w g grp cg rows).map (fun n => (unit, columnMismatch, a.2 * 65536 + n % 128))))
       else [])))

/-- Counts of the checks of a group's rows. -/
def gemmCheckCounts (g : GemmFields) (u row : Nat) (l : List (Nat × Check)) : List (Nat × Nat × Nat) :=
  checkCounts (fun ct => u + row / g.unitRows * g.colGroups + ct * 128 / g.unitCols)
    (row % g.unitRows / (g.unitRows / 4) * 65536 + row % g.unitRows) l

/-- What a command reads. -/
def gemmReads (s : State) (w : Who) (g : GemmFields) (opc : Nat) (groups : List GemmGroup) : List (Nat × Nat) :=
  let ta := tens s w.part g.a
  let tb := tens s w.part g.b
  let td := tens s w.part g.d
  (groups.flatMap (fun grp =>
    let fed := (List.range grp.m).filter (fun r => !gemmMasked s w g grp.ab (grp.a0 + r))
    (if g.transA then (List.range g.k).flatMap (fun k => ta.rowRange ta.inBuf (ta.rowIndex [k, grp.ab]) grp.a0 grp.m)
     else fed.flatMap (fun r => ta.rowRange ta.inBuf (ta.rowIndex [grp.a0 + r, grp.ab]) 0 g.k)) ++
    (if g.mode1 then tb.rowRange tb.inBuf 0 0 g.n
     else if g.transB then (List.range g.n).flatMap (fun n => tb.rowRange tb.inBuf (tb.rowIndex [n, grp.bb]) 0 g.k)
     else (List.range g.k).flatMap (fun k => tb.rowRange tb.inBuf (tb.rowIndex [k, grp.bb]) 0 g.n)) ++
    (if g.acc then fed.flatMap (fun r => td.rowRange td.inBuf (td.rowIndex [grp.d0 + r, grp.ab]) 0 g.n) else []) ++
    (if g.maskEn then
      (let t := tens s w.part g.rowmask
       t.rowRange t.inBuf (if t.rank = 2 then grp.ab else 0) grp.a0 grp.m) else []))) ++
  (if g.scaleEn then (tens s w.part g.scale).readRanges 1 g.n else []) ++
  (if g.biasEn then (tens s w.part g.bias).readRanges 1 g.n else []) ++
  (if opc = 0x102 then (tens s w.part g.gtable).readRanges g.count 4 else [])

/-- The plan of a GEMM command. The columns that a checksum row names are charged before the rows of the checksum column, so that the
record they share names the column (R96; DESIGN CHOICE, log entry 62). -/
def gemmPlan (s : State) (c : InFlight) : Plan :=
  let w : Who := { part := c.part, ring := c.ring }
  let g := gemmFields c.desc
  let opc := opcOf c.desc
  let td := tens s c.part g.d
  let groups := gemmGroups opc g c.latched
  let units := gemmUnits g 0 groups
  let outs := units.flatMap (fun x => (gemmRows td g groups opc x.2).map (fun row => (x.1, row, gemmRow s w c.desc g x.2 row)))
  { Plan.ok with
    reads := gemmReads s w g opc groups
    writes := outs.flatMap (fun o => o.2.2.1.writes)
    counts := numCounts s c.part g.d ((outs.map (fun o => o.2.2.1.counts)).foldl NumCounts.add NumCounts.zero)
    unitCounts := units.flatMap (fun x => gemmUnitCounts s w g x.1 x.2) ++
      outs.flatMap (fun o => gemmCheckCounts g o.1 o.2.1 o.2.2.2)
    acts := flipActs s c.part (voutOf c.desc) [g.d] ++ tapActs s 0 c.part g.d (outs.flatMap (fun o => o.2.2.1.vals)) }

/-- R52 for a GEMM command (spec/04 "Planned extents checked for GEMM operands", R107): 0 runs, else the status. -/
def gemmDims (s : State) (w : Who) (d : List Word) : Nat :=
  let p := w.part
  let g := gemmFields d
  let opc := opcOf d
  let ta := tens s p g.a
  let tb := tens s p g.b
  let td := tens s p g.d
  let beyond (n lim : Nat) : Bool := decide (lim < n)
  let grouped := opc == 0x102
  let batched := opc == 0x101
  let exceeds :=
    beyond g.k (ta.extent (if g.transA then 1 else 0)) ||
    (!grouped && beyond g.m (ta.extent (if g.transA then 0 else 1))) ||
    (batched && beyond g.count (ta.extent 2)) ||
    beyond g.n (tb.extent (if g.transB then 1 else 0)) ||
    (!g.mode1 && beyond g.k (tb.extent (if g.transB then 0 else 1))) ||
    ((grouped || (batched && !g.bBcast)) && !g.mode1 && beyond g.count (tb.extent 2)) ||
    beyond g.n (td.extent 0) || (!grouped && beyond g.m (td.extent 1)) || (batched && beyond g.count (td.extent 2)) ||
    (g.maskEn && (let t := tens s p g.rowmask
      (!grouped && beyond g.m (t.extent 0)) || (t.rank == 2 && beyond g.count (t.extent 1)))) ||
    (g.scaleEn && beyond g.n ((tens s p g.scale).extent 0)) || (g.biasEn && beyond g.n ((tens s p g.bias).extent 0)) ||
    (grouped && (let t := tens s p g.gtable; beyond 4 (t.extent 0) || beyond g.count (t.extent 1)))
  if exceeds then 0x23
  else if g.n = 0 ∨ g.k = 0 ∨ (!grouped && g.m == 0) ∨ (opc ≠ 0x100 ∧ g.count = 0) then 0x01
  else 0

/-- The group table (R107): where several groups are at fault, a nonzero fourth element comes first, then a group beyond an
extent, then an overlap (DESIGN CHOICE, log entry 64: the spec gives no order). A group that passes ROWMASK's extent is one of
those. -/
def gemmShape (s : State) (w : Who) (d : List Word) : Nat :=
  let p := w.part
  let g := gemmFields d
  let opc := opcOf d
  let ta := tens s p g.a
  let td := tens s p g.d
  let beyond (n lim : Nat) : Bool := decide (lim < n)
  if gemmDims s w d ≠ 0 then gemmDims s w d
  else if opc = 0x102 then
    let rows := groupTable (groupWords s w g)
    let grp := gemmGroups opc g (groupWords s w g)
    if rows.any (fun r => r.getD 3 0 != 0) then 0x20
    else if grp.any (fun x => x.m != 0 && (beyond (x.a0 + x.m) (ta.extent (if g.transA then 0 else 1)) ||
        beyond (x.d0 + x.m) (td.extent 1) || (g.maskEn && beyond (x.a0 + x.m) ((tens s p g.rowmask).extent 0)))) then 0x23
    else if grp.zipIdx.any (fun x => grp.zipIdx.any (fun y =>
        x.2 != y.2 && rangesMeet (x.1.d0, x.1.m) (y.1.d0, y.1.m))) then 0x20
    else if grp.all (fun x => x.m == 0) then 0x01
    else 0
  else 0

/-- Units of a GEMM command in its grid: (rows, columns) of blocks, summed over batch entries or groups by their row
bands (R91, R107). -/
def gemmGrid (s : State) (w : Who) (d : List Word) : Nat × Nat × Nat :=
  let g := gemmFields d
  let opc := opcOf d
  let cols := (g.n + g.unitCols - 1) / g.unitCols
  if opc = 0x102 then
    (((gemmGroups opc g (groupWords s w g)).map (fun x => (x.m + g.unitRows - 1) / g.unitRows)).sum, cols, 1)
  else ((g.m + g.unitRows - 1) / g.unitRows, cols, if opc = 0x101 then g.count else 1)

/-- What the dispatcher latches for a GEMM command (R107). -/
def gemmLatch (s : State) (w : Who) (d : List Word) : List Nat :=
  if opcOf d = 0x102 then groupWords s w (gemmFields d) else []

/-- GEMM: D := epilogue(A × B [+ D]). -/
def execGemm (ring : RingId) (s : State) : Host.Outcome State Fault Refusal := .next (runOp s ring 0x100 gemmPlan)

/-- GEMM_BATCHED: the same for each batch entry along dimension 2. -/
def execGemmBatched (ring : RingId) (s : State) : Host.Outcome State Fault Refusal := .next (runOp s ring 0x101 gemmPlan)

/-- GEMM_GROUPED: rows of A times B[g] into rows of D, by the group table. -/
def execGemmGrouped (ring : RingId) (s : State) : Host.Outcome State Fault Refusal := .next (runOp s ring 0x102 gemmPlan)

end Sys2Proof.Machine
end

