-- ==== Sys2Proof/Machine/Conv.lean ====
section
/-! DEFINITION. CONV, CONV_DW, the quern commands and POOL (spec/06, R140 to R157). -/

namespace Sys2Proof.Machine

/-- Size, kernel, stride, dilation and pads of one spatial axis (R141). -/
structure Axis where
  size   : Nat
  kernel : Nat
  stride : Nat
  dil    : Nat
  lo     : Nat
  hi     : Nat
  deriving DecidableEq, Repr

/-- Output size of an axis (R141); δ × (k − 1) is −δ for a kernel of 0. -/
def Axis.out (a : Axis) : Nat :=
  if a.dil * a.kernel + 1 ≤ a.size + a.lo + a.hi + a.dil ∧ 0 < a.stride then
    (a.size + a.lo + a.hi + a.dil - a.dil * a.kernel - 1) / a.stride + 1
  else 0

/-- The index that a padded index reads (R143); `none` reads the pad value. -/
def padIndex (pmode size : Nat) (i : Int) : Option Nat :=
  if 0 ≤ i ∧ i < size then some i.toNat
  else if pmode = 2 then
    if size ≤ 1 then some 0
    else
      let m := (i % (2 * ((size : Int) - 1))).toNat
      some (if size ≤ m then 2 * (size - 1) - m else m)
  else if pmode = 3 then some (min (max i 0) ((size : Int) - 1)).toNat
  else none

/-- The input index of an output coordinate and kernel index (R142). -/
def Axis.index (a : Axis) (pmode o k : Nat) : Option Nat :=
  padIndex pmode a.size ((o * a.stride : Nat) - (a.lo : Int) + (k * a.dil : Nat))

/-- Input indexes that an axis touches. -/
def Axis.touched (a : Axis) (pmode : Nat) : List Nat :=
  ((List.range a.out).flatMap (fun o => (List.range a.kernel).filterMap (a.index pmode o))).eraseDups

/-- The fields of a convolution descriptor. -/
structure ConvFields where
  opc    : Nat
  x      : Nat
  wt     : Nat
  bias   : Nat
  y      : Nat
  w2     : Nat
  scale  : Nat
  nb     : Nat
  cMid   : Nat
  groups : Nat
  cOut   : Nat
  cIn    : Nat
  pmode  : Nat
  dims   : Nat
  aw     : Axis
  ah     : Axis
  at'    : Axis
  poolfn : Nat
  act2   : Nat
  fuse   : Bool
  acc    : Bool
  chkrow : Bool
  biasEn : Bool
  scaleEn : Bool
  sround : Bool
  sat    : Bool
  act    : Nat
  span   : Nat
  colsCode : Nat
  rowsCode : Nat
  padValue : Nat
  midSize : Nat
  midBase : Nat
  stageSize : Nat
  stageBase : Nat
  key    : Nat
  bias2  : Nat
  stream : Nat
  bias2En : Bool
  k2t    : Nat
  k2h    : Nat
  k2w    : Nat
  deriving DecidableEq, Repr

def convFields (d : List Word) : ConvFields :=
  let w := dw d
  { opc := opcOf d, x := bits (w 4) 23 0, wt := bits (w 4) 47 24, bias := bits (w 5) 47 24, y := bits (w 5) 23 0,
    w2 := bits (w 6) 47 24, scale := bits (w 6) 23 0, nb := bits (w 7) 63 48, cMid := bits (w 8) 63 48,
    groups := bits (w 8) 47 32, cOut := bits (w 8) 31 16, cIn := bits (w 8) 15 0, pmode := bits (w 9) 54 53,
    dims := bits (w 9) 52 51,
    aw := { size := bits (w 7) 15 0, kernel := bits (w 9) 5 0, stride := bits (w 9) 21 18, dil := bits (w 9) 36 30,
            lo := bits (w 10) 9 0, hi := bits (w 10) 19 10 },
    ah := { size := bits (w 7) 31 16, kernel := bits (w 9) 11 6, stride := bits (w 9) 25 22, dil := bits (w 9) 43 37,
            lo := bits (w 10) 29 20, hi := bits (w 10) 39 30 },
    at' := { size := bits (w 7) 47 32, kernel := bits (w 9) 17 12, stride := bits (w 9) 29 26, dil := bits (w 9) 50 44,
             lo := bits (w 10) 49 40, hi := bits (w 10) 59 50 },
    poolfn := bits (w 11) 55 53, act2 := bits (w 11) 52 49, fuse := bit (w 11) 48, acc := bit (w 11) 47,
    chkrow := bit (w 11) 46, biasEn := bit (w 11) 45, scaleEn := bit (w 11) 44, sround := bit (w 11) 43,
    sat := bit (w 11) 42, act := bits (w 11) 41 38, span := bits (w 11) 37 36, colsCode := bits (w 11) 35 34,
    rowsCode := bits (w 11) 33 32, padValue := bits (w 11) 31 0, midSize := bits (w 12) 30 24,
    midBase := bits (w 12) 21 16, stageSize := bits (w 12) 14 8, stageBase := bits (w 12) 5 0, key := w 13,
    bias2 := bits (w 14) 55 32, stream := bits (w 14) 31 0, bias2En := bit (w 15) 3, k2t := bits (w 15) 2 2,
    k2h := bits (w 15) 1 1, k2w := bits (w 15) 0 0 }

def convMasks : List Nat :=
  [fld 47 0, fld 47 0, fld 47 0, fldAll, fldAll, fld 54 0, fld 59 0, fld 55 0,
   fld 30 24 + fld 21 16 + fld 14 8 + fld 5 0, fldAll, fld 55 0, fld 3 0]

def ConvFields.isQuern (f : ConvFields) : Bool := decide (0x202 ≤ f.opc ∧ f.opc ≤ 0x204)
def ConvFields.isPool (f : ConvFields) : Bool := f.opc == 0x205
def ConvFields.unpatch (f : ConvFields) : Bool := f.opc == 0x204

/-- Rows and columns of a unit (R133). -/
def ConvFields.unitRows (f : ConvFields) : Nat := if f.isQuern then 1024 else 512 * 2 ^ f.rowsCode
def ConvFields.unitCols (f : ConvFields) : Nat := if f.isQuern then 64 else 128 * 2 ^ f.colsCode

/-- GROUPS in force: C_IN for CONV_DW (R147). -/
def ConvFields.groupCount (f : ConvFields) : Nat := if f.opc = 0x201 then f.cIn else f.groups

def ConvFields.taps (f : ConvFields) : Nat := f.at'.kernel * f.ah.kernel * f.aw.kernel

/-- Columns of the first stage's weights. -/
def ConvFields.stageCols (f : ConvFields) : Nat := if f.fuse then f.cMid else f.cOut

def ConvFields.cg (f : ConvFields) : Nat := f.cIn / max 1 f.groupCount
def ConvFields.ng (f : ConvFields) : Nat := f.stageCols / max 1 f.groupCount

/-- The smallest power of two not below n. -/
def ceilPow2 (n : Nat) : Nat := if n ≤ 1 then 1 else 2 ^ (Nat.log2 (n - 1) + 1)

/-- Groups packed to a column tile (R146). -/
def ConvFields.pack (f : ConvFields) : Nat :=
  if f.groupCount ≤ 1 then 1 else 128 / min 128 (ceilPow2 f.ng)

def ConvFields.oW (f : ConvFields) : Nat := if f.unpatch then f.aw.size else f.aw.out
def ConvFields.oH (f : ConvFields) : Nat := if f.unpatch then f.ah.size else f.ah.out
def ConvFields.oT (f : ConvFields) : Nat := if f.unpatch then f.at'.size else f.at'.out

/-- Positions of a frame and frames (R140). -/
def ConvFields.positions (f : ConvFields) : Nat := f.oH * f.oW
def ConvFields.frames (f : ConvFields) : Nat := f.nb * f.oT
def ConvFields.bands (f : ConvFields) : Nat := (f.positions + f.unitRows - 1) / f.unitRows

/-- Column groups of the grid (R134, R146). -/
def ConvFields.colGroups (f : ConvFields) : Nat :=
  if f.unpatch then (f.taps * f.cOut + 63) / 64
  else if 1 < f.groupCount then
    if 1 < f.pack then (f.groupCount + f.pack - 1) / f.pack else f.groupCount * ((f.ng + 127) / 128)
  else (f.cOut + f.unitCols - 1) / f.unitCols

/-- Outer indexes of a layout of R140: the spatial ones that DIMS names, then the batch entry. -/
def spatial (dims w h t nb : Nat) : List Nat :=
  (if dims = 1 then [w] else if dims = 2 then [w, h] else [w, h, t]) ++ [nb]

/-- The coordinates (w, h, t, nb) of position p of frame fr. -/
def ConvFields.coords (f : ConvFields) (fr p : Nat) : Nat × Nat × Nat × Nat :=
  (p % f.oW, p / f.oW, fr % max 1 f.oT, fr / max 1 f.oT)

/-- PAD_VALUE in a compute format (R144). Its conversion adds to no num counter: R129's list does not name it (DESIGN CHOICE, log entry
64). -/
def padElem (fmt : Fmt) (v : F32) : FVal :=
  match fmt.compute with
  | some .bs8 =>
    let e := encodeBlock .bs8 [f32 v] none
    Fmt.bs8.value (e.2.1.headD 0) e.1
  | some g => g.value (narrowElem g true none (f32 v)).1 127
  | none => f32 v

/-- The pad value of PMODE 0 and 1. Its conversion adds to no num counter: R129's list does not name it (DESIGN CHOICE, log entry 64). -/
def ConvFields.pad (f : ConvFields) (fmt : Fmt) : FVal :=
  if f.pmode = 1 then padElem fmt f.padValue else .fin false 0 0

/-- X at a channel and three mapped axis indexes; `none` on an axis is padding. -/
def convX (s : State) (w : Who) (f : ConvFields) (pad : FVal) (nb ch : Nat) (iw ih it : Option Nat) : FVal :=
  let t := tens s w.part f.x
  match iw, ih, it with
  | some a, some b, some c =>
    if ch < f.cIn then t.val s w (t.rowIndex (spatial f.dims a b c nb)) ch else .fin false 0 0
  | _, _, _ => pad

/-- Kernel indexes (kt, kh, kw) of a tap (R142). -/
def tapIndex (kh kw tau : Nat) : Nat × Nat × Nat := (tau / (kw * kh), tau / kw % kh, tau % kw)

/-- The runner element κ of a column tile whose first group is `g0` (R142). -/
def convRunner (s : State) (w : Who) (f : ConvFields) (pad : FVal) (g0 : Nat) (pos : Nat × Nat × Nat × Nat) (kap : Nat) :
    FVal :=
  let per := f.pack * f.cg
  let k := tapIndex f.ah.kernel f.aw.kernel (kap / per)
  let q := kap % per / f.cg
  let ch := (g0 + q) * f.cg + kap % f.cg
  convX s w f pad pos.2.2.2 ch (f.aw.index f.pmode pos.1 k.2.2) (f.ah.index f.pmode pos.2.1 k.2.1)
    (f.at'.index f.pmode pos.2.2.1 k.1)

/-- The weight of output channel `co` at K element κ of its tile: zero outside its own group's rows (R146). -/
def convWeight (s : State) (w : Who) (f : ConvFields) (g0 co kap : Nat) : FVal :=
  let t := tens s w.part f.wt
  let per := f.pack * f.cg
  let k := tapIndex f.ah.kernel f.aw.kernel (kap / per)
  let q := kap % per / f.cg
  if g0 + q = co / max 1 f.ng then
    t.val s w (t.rowIndex ((kap % f.cg) :: (if f.dims = 1 then [k.2.2] else if f.dims = 2 then [k.2.2, k.2.1]
      else [k.2.2, k.2.1, k.1]))) co
  else .fin false 0 0

/-- The column tiles of a position: (first group, first output channel, columns). -/
def ConvFields.tiles (f : ConvFields) : List (Nat × Nat × Nat) :=
  if f.groupCount ≤ 1 then [(0, 0, f.stageCols)]
  else if 1 < f.pack then
    (List.range ((f.groupCount + f.pack - 1) / f.pack)).map (fun i =>
      (i * f.pack, i * f.pack * f.ng, min (f.pack * f.ng) (f.stageCols - i * f.pack * f.ng)))
  else (List.range f.groupCount).map (fun i => (i, i * f.ng, f.ng))

/-- Rows of a K-tile, which are also the columns of a column tile. -/
def ConvFields.depth (f : ConvFields) : Nat := if f.isQuern then 64 else 128

/-- Sums of every output channel at a position, and the checks by column tile. -/
def convSums (s : State) (w : Who) (f : ConvFields) (pad : FVal) (pos : Nat × Nat × Nat × Nat) (init : Nat → Option F32) :
    List F32 × List (Nat × Check) :=
  let outs := f.tiles.map (fun t =>
    productRow f.depth f.depth (spanRows s f.span) (f.taps * f.pack * f.cg) t.2.2 (convRunner s w f pad t.1 pos)
      (fun k n => convWeight s w f t.1 (t.2.1 + n) k) (fun n => init (t.2.1 + n)))
  (outs.flatMap (·.1), outs.zipIdx.flatMap (fun x => x.1.2.map (fun y => (x.2 * ((f.ng + 127) / 128) + y.1, y.2))))

/-- The first stage's epilogue at a position. -/
def convStage (s : State) (w : Who) (f : ConvFields) (ys : List F32) : List FVal :=
  ys.zipIdx.map (fun x => f32 (epilogue (vecAt s w w.part f.scaleEn f.scale x.2) (vecAt s w w.part f.biasEn f.bias x.2)
    f.act x.1))

/-- Values narrowed to a compute format as the MID window holds them (R149), or as the arrays take p and ds (R160), with their counts. The
32-element blocks of BS8 run along the positions that the product sums over, from the block's first one (DESIGN CHOICE, log entry 65: R160
names no dimension). -/
def midNarrow (fmt : Fmt) (sat : Bool) (vs : List FVal) : List FVal × NumCounts :=
  match fmt.compute with
  | some .bs8 =>
    let bs := (chunksOf 32 vs.length vs).map (fun b => encodeBlock .bs8 b none)
    (bs.flatMap (fun b => b.2.1.map (fun p => Fmt.bs8.value p b.1)), (bs.map (fun b => b.2.2)).foldl NumCounts.add NumCounts.zero)
  | some g =>
    let es := vs.map (narrowElem g sat none)
    (es.map (fun e => g.value e.1 127), (es.map (·.2)).foldl NumCounts.add NumCounts.zero)
  | none => (vs, NumCounts.zero)

/-- The stage-1 value list at a position (R149), what its narrowing counts, and its checks. -/
structure MidOut where
  vals   : List FVal
  counts : NumCounts
  checks : List (Nat × Check)
  deriving DecidableEq, Repr

def convMid (s : State) (w : Who) (f : ConvFields) (pos : Nat × Nat × Nat × Nat) : MidOut :=
  let sums := convSums s w f (f.pad (tens s w.part f.x).fmt) pos (fun _ => none)
  let m := midNarrow (tens s w.part f.w2).fmt f.sat (convStage s w f sums.1)
  { vals := m.1, counts := m.2, checks := sums.2 }

/-- A stage-2 axis: kernel 1 or 3, stride and dilation 1, pads (kernel − 1)/2 (R149). -/
def stage2Axis (size k2 : Nat) : Axis :=
  { size := size, kernel := 2 * k2 + 1, stride := 1, dil := 1, lo := k2, hi := k2 }

/-- The axes of stage 2. -/
def ConvFields.aw2 (f : ConvFields) : Axis := stage2Axis f.oW f.k2w
def ConvFields.ah2 (f : ConvFields) : Axis := stage2Axis f.oH f.k2h
def ConvFields.at2 (f : ConvFields) : Axis := stage2Axis f.oT f.k2t
def ConvFields.taps2 (f : ConvFields) : Nat := f.at2.kernel * f.ah2.kernel * f.aw2.kernel

/-- The stage-1 position that a tap of stage 2 reads; `none` in padding. -/
def ConvFields.tap2 (f : ConvFields) (pos : Nat × Nat × Nat × Nat) (tau : Nat) : Option (Nat × Nat × Nat × Nat) :=
  let k := tapIndex f.ah2.kernel f.aw2.kernel tau
  match f.aw2.index f.pmode pos.1 k.2.2, f.ah2.index f.pmode pos.2.1 k.2.1, f.at2.index f.pmode pos.2.2.1 k.1 with
  | some a, some b, some c => some (a, b, c, pos.2.2.2)
  | _, _, _ => none

/-- The stage-2 runner row of a position. The pad value is converted from FP32 to W2's compute format by the rule that R144 states
for X's (DEDUCED, log entry 64). -/
def stage2Runner (s : State) (w : Who) (f : ConvFields) (pos : Nat × Nat × Nat × Nat) : Nat → FVal :=
  let pad := f.pad (tens s w.part f.w2).fmt
  let mids := (List.range f.taps2).map (fun tau =>
    match f.tap2 pos tau with
    | some q => (convMid s w f q).vals
    | none => List.replicate f.cMid pad)
  fun kap => (mids.getD (kap / f.cMid) []).getD (kap % f.cMid) (.fin false 0 0)

/-- The stage-2 weight of output channel n at K element κ. -/
def stage2Weight (s : State) (w : Who) (f : ConvFields) (kap n : Nat) : FVal :=
  let t2 := tens s w.part f.w2
  let k := tapIndex f.ah2.kernel f.aw2.kernel (kap / f.cMid)
  t2.val s w (t2.rowIndex ((kap % f.cMid) :: (if f.dims = 2 then [k.2.2, k.2.1] else [k.2.2, k.2.1, k.1]))) n

/-- Stage 2 of a fused chain at an output position, and its checks (R149, R150). -/
def convFused (s : State) (w : Who) (f : ConvFields) (pos : Nat × Nat × Nat × Nat) : List FVal × List (Nat × Check) :=
  let sums := productRow 128 128 (spanRows s f.span) (f.taps2 * f.cMid) f.cOut (stage2Runner s w f pos)
    (stage2Weight s w f) (fun _ => none)
  (sums.1.zipIdx.map (fun x => f32 (epilogue none (vecAt s w w.part f.bias2En f.bias2 x.2) f.act2 x.1)), sums.2)

/-- POOL at a position and channel (R155). An average is the FP32 sum of its taps in ascending order from +0, divided by their number with
the approximate quotient (DESIGN CHOICE, log entry 64: R428 does not name POOL). -/
def poolValue (s : State) (w : Who) (f : ConvFields) (pos : Nat × Nat × Nat × Nat) (ch : Nat) : FVal :=
  let t := tens s w.part f.x
  let pad := f.pad t.fmt
  let vs := (List.range f.taps).map (fun tau =>
    let k := tapIndex f.ah.kernel f.aw.kernel tau
    let iw := f.aw.index f.pmode pos.1 k.2.2
    let ih := f.ah.index f.pmode pos.2.1 k.2.1
    let it := f.at'.index f.pmode pos.2.2.1 k.1
    (iw.isSome && ih.isSome && it.isSome, r32 (convX s w f pad pos.2.2.2 ch iw ih it)))
  let inc := (vs.filter (·.1)).map (·.2)
  if f.poolfn = 2 then (if vs.isEmpty then .fin false 0 0
    else f32 (fDiv (seqSum (vs.map (·.2))) (f32OfInt vs.length)))
  else if inc.isEmpty then .fin false 0 0
  else if f.poolfn = 1 then f32 (inc.tail.foldl f32Max (inc.headD 0))
  else f32 (fDiv (seqSum inc) (f32OfInt inc.length))

/-- Where the values of a position go: (row of Y, its values). QUERN_UNPATCH spreads them over the taps (R154). -/
def convTargets (f : ConvFields) (ty : Tens) (pos : Nat × Nat × Nat × Nat) (vs : List FVal) : List (Nat × List FVal) :=
  if f.unpatch then
    (List.range f.taps).map (fun tau =>
      let k := tapIndex f.ah.kernel f.aw.kernel tau
      (ty.rowIndex (spatial f.dims (pos.1 * f.aw.kernel + k.2.2) (pos.2.1 * f.ah.kernel + k.2.1)
        (pos.2.2.1 * f.at'.kernel + k.1) pos.2.2.2), (vs.drop (tau * f.cOut)).take f.cOut))
  else [(ty.rowIndex (spatial f.dims pos.1 pos.2.1 pos.2.2.1 pos.2.2.2), vs)]

/-- QUERN_UNPATCH's weight of column n at input channel k (R154). -/
def unpatchWeight (s : State) (w : Who) (f : ConvFields) (k n : Nat) : FVal :=
  let tw := tens s w.part f.wt
  let t := tapIndex f.ah.kernel f.aw.kernel (n / f.cOut)
  tw.val s w (tw.rowIndex ((if f.dims = 1 then [t.2.2] else if f.dims = 2 then [t.2.2, t.2.1] else [t.2.2, t.2.1, t.1]) ++
    [k])) (n % f.cOut)

/-- QUERN_UNPATCH: the sums of a position, K = C_IN, N = taps × C_OUT (R154), and its checks. -/
def unpatchSums (s : State) (w : Who) (f : ConvFields) (ty : Tens) (pos : Nat × Nat × Nat × Nat) :
    List F32 × List (Nat × Check) :=
  let tx := tens s w.part f.x
  let row := tx.rowIndex (spatial f.dims pos.1 pos.2.1 pos.2.2.1 pos.2.2.2)
  let init (n : Nat) : Option F32 :=
    if f.acc then
      (let tg := convTargets f ty pos (List.replicate (f.taps * f.cOut) (.fin false 0 0))
       some (ty.f32 s w (tg.getD (n / f.cOut) (0, [])).1 (n % f.cOut)))
    else none
  productRow 64 64 (spanRows s f.span) f.cIn (f.taps * f.cOut) (tx.val s w row) (unpatchWeight s w f) init

/-- The values of one output position, and its checks. -/
def convValues (s : State) (w : Who) (f : ConvFields) (ty : Tens) (pos : Nat × Nat × Nat × Nat) :
    List FVal × List (Nat × Check) :=
  if f.isPool then ((List.range f.cIn).map (poolValue s w f pos), [])
  else if f.fuse then convFused s w f pos
  else if f.unpatch then (let r := unpatchSums s w f ty pos; (convStage s w f r.1, r.2))
  else
    let row := ty.rowIndex (spatial f.dims pos.1 pos.2.1 pos.2.2.1 pos.2.2.2)
    let r := convSums s w f (f.pad (tens s w.part f.x).fmt) pos
      (fun n => if f.acc then some (ty.f32 s w row n) else none)
    (convStage s w f r.1, r.2)

def ConvFields.rng (f : ConvFields) : Option Rng := if f.sround then some { key := f.key, stream := f.stream } else none

/-- A position at or beyond P_f whose output row lies in Y's planned extent: zeroed, copied or left (R90). With DIMS = 1 a frame has
one image row, and a position beyond it is an output row of none: nothing is written there (DEDUCED, log entry 64). -/
def convMasked (s : State) (w : Who) (d : List Word) (f : ConvFields) (ty : Tens) (fr p : Nat) : RowOut :=
  let c := f.coords fr p
  let none' : RowOut := { writes := [], vals := [], counts := NumCounts.zero }
  let scaleH := if f.unpatch then f.ah.kernel else 1
  if f.dims = 1 ∨ ty.extent 2 < (c.2.1 + 1) * scaleH then none'
  else
    let tg := convTargets f ty c (List.replicate (if f.unpatch then f.taps * f.cOut else f.cOut) (.fin false 0 0))
    let out := ty.outBuf (voutOf d)
    if zwriteOf d then
      let outs := tg.map (fun t => writeRow s w ty out t.1 0 t.2 false none)
      { none' with writes := outs.flatMap (·.writes) }
    else if voutOf d && ty.versioned then
      { none' with writes := tg.flatMap (fun t => copyRow s w ty ty.inBuf t.1 ty out t.1 f.cOut) }
    else none'

/-- One position of a frame's bands. -/
def convPos (s : State) (w : Who) (d : List Word) (f : ConvFields) (ty : Tens) (fr p : Nat) :
    RowOut × List (Nat × Check) :=
  if p < f.positions then
    let c := f.coords fr p
    let v := convValues s w f ty c
    let outs := (convTargets f ty c v.1).map (fun t =>
      writeRow s w ty (ty.outBuf (voutOf d)) t.1 0 t.2 f.sat f.rng)
    ({ writes := outs.flatMap (·.writes), vals := outs.flatMap (·.vals),
       counts := (outs.map (·.counts)).foldl NumCounts.add NumCounts.zero }, v.2)
  else (convMasked s w d f ty fr p, [])

/-- Rows of X that the command reads. -/
def convReadsX (s : State) (w : Who) (f : ConvFields) : List (Nat × Nat) :=
  let t := tens s w.part f.x
  let axes (a : Axis) : List Nat := if f.unpatch then List.range a.size else a.touched f.pmode
  (List.range f.nb).flatMap (fun nb => (axes f.at').flatMap (fun c => (axes f.ah).flatMap (fun b =>
    (axes f.aw).flatMap (fun a => t.rowRange t.inBuf (t.rowIndex (spatial f.dims a b c nb)) 0 f.cIn))))

/-- Reads of weights (stage 1 and stage 2), scale, biases and, with ACC, Y. -/
def convReads (s : State) (w : Who) (f : ConvFields) : List (Nat × Nat) :=
  let p := w.part
  let wt := tens s p f.wt
  let w2 := tens s p f.w2
  let ty := tens s p f.y
  let kernels (a b c : Nat) : List (List Nat) :=
    (List.range c).flatMap (fun t => (List.range b).flatMap (fun h => (List.range a).map (fun v =>
      if f.dims = 1 then [v] else if f.dims = 2 then [v, h] else [v, h, t])))
  let ks := kernels f.aw.kernel f.ah.kernel f.at'.kernel
  let n := if f.unpatch then f.taps * f.cOut else f.stageCols
  convReadsX s w f ++
  (if f.isPool then []
   else if f.unpatch then
     (List.range f.cIn).flatMap (fun c => ks.flatMap (fun k => wt.rowRange wt.inBuf (wt.rowIndex (k ++ [c])) 0 f.cOut))
   else (List.range f.cg).flatMap (fun c => ks.flatMap (fun k =>
     wt.rowRange wt.inBuf (wt.rowIndex (c :: k)) 0 f.stageCols))) ++
  (if f.fuse then (List.range f.cMid).flatMap (fun c =>
     (kernels (2 * f.k2w + 1) (2 * f.k2h + 1) (2 * f.k2t + 1)).flatMap (fun k =>
       w2.rowRange w2.inBuf (w2.rowIndex (c :: k)) 0 f.cOut)) else []) ++
  (if f.scaleEn then (tens s p f.scale).readRanges 1 n else []) ++
  (if f.biasEn then (tens s p f.bias).readRanges 1 n else []) ++
  (if f.bias2En then (tens s p f.bias2).readRanges 1 f.cOut else []) ++
  (if f.acc then
    (List.range f.frames).flatMap (fun fr => (List.range f.positions).flatMap (fun q =>
      (convTargets f ty (f.coords fr q) []).flatMap (fun t => ty.rowRange ty.inBuf t.1 0 f.cOut))) else [])

/-! ### Units: what the feeders stream, and what they count -/

/-- The number of a unit in its grid: bands by frames, column groups innermost (R134, R138). -/
def ConvFields.unitNo (f : ConvFields) (fr band cg : Nat) : Nat := (band * f.frames + fr) * f.colGroups + cg

/-- The positions of a frame that a band feeds, array by array (R83, R89); a quern engine is one array. -/
def ConvFields.bandSlots (f : ConvFields) (fr band : Nat) : List (List (Nat × Nat × Nat × Nat)) :=
  let arrays := if f.isQuern then 1 else 4
  let rows := f.unitRows / arrays
  (List.range arrays).map (fun a =>
    ((List.range rows).map (fun i => band * f.unitRows + a * rows + i)).filterMap (fun p =>
      if p < f.positions then some (f.coords fr p) else none))

/-- First and last image row that stage 1 computes for a band (R150). -/
def ConvFields.midRows (f : ConvFields) (band : Nat) : Nat × Nat :=
  let p0 := band * f.unitRows
  let p1 := min f.positions (p0 + f.unitRows) - 1
  (p0 / max 1 f.oW - f.k2h, min (f.oH - 1) (p1 / max 1 f.oW + f.k2h))

/-- The stage-1 positions that a band computes: full-width rows, in the frames that its windows reach after the mapping (R150). -/
def ConvFields.midPositions (f : ConvFields) (fr band : Nat) : List (Nat × Nat × Nat × Nat) :=
  let c := f.coords fr 0
  let times := ((List.range f.at2.kernel).filterMap (f.at2.index f.pmode c.2.2.1)).eraseDups
  let r := f.midRows band
  times.flatMap (fun t => (List.range (r.2 + 1 - r.1)).flatMap (fun i =>
    (List.range f.oW).map (fun x => (x, r.1 + i, t, c.2.2.2))))

/-- The slots of stage 1 for a band: pieces of at most 524,288 outputs, each split over the four arrays by rows (R150; the split is
that of R83, log entry 64). -/
def ConvFields.midSlots (f : ConvFields) (fr band : Nat) : List (List (List (Nat × Nat × Nat × Nat))) :=
  let ps := f.midPositions fr band
  (chunksOf (max 1 (524288 / max 1 f.cMid)) ps.length ps).map (fun piece =>
    chunksOf (max 1 ((piece.length + 3) / 4)) piece.length piece)

/-- Runs in the taps of a row of a K-tile: neighbours that share a tap, or that both lie in padding (R145). -/
def runCount : List (Option Nat) → Nat
  | [] => 0
  | [_] => 1
  | a :: b :: t => (if a = b then 0 else 1) + runCount (b :: t)

/-- Cycles that the runs beyond the feeder's add to one streaming of every K-tile: in each row slot the arrays wait for the one with
the most runs (R86, R145). `per` elements belong to a tap; `tap` answers the tap of a position, none in padding. -/
def runCycles (depth perCycle per K : Nat) (slots : List (List (Nat × Nat × Nat × Nat)))
    (tap : Nat × Nat × Nat × Nat → Nat → Option Nat) : Nat :=
  let per := max 1 per
  let extra (kt : Nat) (p : Nat × Nat × Nat × Nat) : Nat :=
    let first := kt * depth / per
    let last := (min K ((kt + 1) * depth) - 1) / per
    (runCount ((List.range (last + 1 - first)).map (fun i => tap p (first + i))) + perCycle - 1) / perCycle - 1
  let most := (slots.map List.length).foldl max 0
  ((List.range ((K + depth - 1) / depth)).map (fun kt => ((List.range most).map (fun i =>
    (slots.filterMap (fun a => (a[i]?).map (extra kt))).foldl max 0)).sum)).sum

/-- The tap that a position's window reads; `none` in padding under PMODE 0 or 1. -/
def ConvFields.tap1 (f : ConvFields) (pos : Nat × Nat × Nat × Nat) (tau : Nat) : Option Nat :=
  let k := tapIndex f.ah.kernel f.aw.kernel tau
  if (f.aw.index f.pmode pos.1 k.2.2).isSome && (f.ah.index f.pmode pos.2.1 k.2.1).isSome &&
    (f.at'.index f.pmode pos.2.2.1 k.1).isSome then some tau else none

/-- Cycles that runs beyond the feeder's add to a unit (R145): each column tile streams the band's rows again (R83). A POOL unit's
windows are those of its own channels, fed once (DEDUCED, log entry 64). -/
def feedRunCycles (f : ConvFields) (fr band cg : Nat) : Nat :=
  let perCycle := if f.isQuern then 16 else 4
  let per := f.pack * f.cg
  let slots := f.bandSlots fr band
  if f.unpatch then 0
  else if f.isPool then
    (let chans := min f.unitCols (f.cIn - cg * f.unitCols)
     runCycles 128 perCycle chans (f.taps * chans) slots f.tap1)
  else if f.fuse then
    ((f.midSlots fr band).map (fun piece => runCycles 128 perCycle f.cIn (f.taps * f.cIn) piece f.tap1)).sum *
        ((f.cMid + 127) / 128) +
      runCycles 128 perCycle f.cMid (f.taps2 * f.cMid) slots (fun p tau => (f.tap2 p tau).map (fun _ => tau)) *
        (f.unitCols / 128)
  else runCycles f.depth perCycle per (f.taps * per) slots f.tap1 * (f.unitCols / f.depth)

/-- The array column of column n of a tile: group q of a packed tile begins at column q × Ng' (R146). -/
def ConvFields.arrayCol (f : ConvFields) (n : Nat) : Nat :=
  if 1 < f.pack then n / max 1 f.ng * ceilPow2 f.ng + n % max 1 f.ng else n % f.depth

/-- Places of the columns of one array that mismatch in a checksum row (R96), with their array columns. -/
def chkrowPlaces (depth span K N : Nat) (col : Nat → Nat) (slots : List (List (Nat × Nat × Nat × Nat)))
    (runner : Nat × Nat × Nat × Nat → Nat → FVal) (weight : Nat → Nat → FVal) : List Nat :=
  slots.zipIdx.flatMap (fun a => (chunksOf 127 a.1.length a.1).flatMap (fun rows =>
    (columnFails depth span K N (rows.map runner) weight).map (fun n => a.2 * 65536 + col n)))

/-- Columns of a unit's column group: the first group of its tile, its first output channel, and how many. -/
def ConvFields.unitTile (f : ConvFields) (cg : Nat) : Nat × Nat × Nat :=
  if f.groupCount ≤ 1 then (0, cg * f.unitCols, min f.unitCols (f.stageCols - cg * f.unitCols))
  else if 1 < f.pack then (cg * f.pack, cg * f.pack * f.ng, min (f.pack * f.ng) (f.stageCols - cg * f.pack * f.ng))
  else
    let per := (f.ng + 127) / 128
    (cg / per, cg / per * f.ng + cg % per * 128, min 128 (f.ng - cg % per * 128))

/-- The columns that a unit's checksum rows find (R96); for a fused chain in both stages (R150). -/
def convColumnFails (s : State) (w : Who) (f : ConvFields) (fr band cg : Nat) : List Nat :=
  let span := spanRows s f.span
  let pad := f.pad (tens s w.part f.x).fmt
  let slots := f.bandSlots fr band
  if !f.chkrow then []
  else if f.fuse then
    (f.midSlots fr band).flatMap (fun piece => chkrowPlaces 128 span (f.taps * f.cIn) f.cMid (· % 128) piece
      (convRunner s w f pad 0) (fun k n => convWeight s w f 0 n k)) ++
    chkrowPlaces 128 span (f.taps2 * f.cMid) f.cOut (· % 128) slots (stage2Runner s w f) (stage2Weight s w f)
  else if f.unpatch then
    (let tx := tens s w.part f.x
     chkrowPlaces 64 span f.cIn (min 64 (f.taps * f.cOut - cg * 64)) id slots
       (fun pos => tx.val s w (tx.rowIndex (spatial f.dims pos.1 pos.2.1 pos.2.2.1 pos.2.2.2)))
       (fun k n => unpatchWeight s w f k (cg * 64 + n)))
  else
    let t := f.unitTile cg
    chkrowPlaces f.depth span (f.taps * f.pack * f.cg) t.2.2 f.arrayCol slots (convRunner s w f pad t.1)
      (fun k n => convWeight s w f t.1 (t.2.1 + n) k)

/-- The counts of a unit beside its outputs' checks: masked rows (R89) and the mismatches of checksum rows; for a fused chain also the
checks of the stage-1 rows that its band computes (R150). -/
def convUnitCounts (s : State) (w : Who) (f : ConvFields) (fr band cg : Nat) : List (Nat × Nat × Nat) :=
  let unit := f.unitNo fr band cg
  (unit, 0x3228, (band + 1) * f.unitRows - max (band * f.unitRows) f.positions) ::
  ((convColumnFails s w f fr band cg).map (fun place => (unit, columnMismatch, place)) ++
   (if f.fuse then
     (f.midSlots fr band).flatMap (fun piece => piece.zipIdx.flatMap (fun a => a.1.zipIdx.flatMap (fun q =>
       checkCounts (fun _ => unit) (a.2 * 65536 + a.2 * (piece.headD []).length + q.2) (convMid s w f q.1).checks)))
    else []))

/-- Counts of the checks of an output position. -/
def convCheckCounts (f : ConvFields) (fr p : Nat) (l : List (Nat × Check)) : List (Nat × Nat × Nat) :=
  let row := p % f.unitRows
  let array := if f.isQuern then 0 else row / (f.unitRows / 4)
  checkCounts (fun ct => f.unitNo fr (p / f.unitRows) (ct * f.depth / f.unitCols)) (array * 65536 + row) l

/-- Recomputed stage-1 positions of a band (R151). -/
def bandHalo (f : ConvFields) (band : Nat) : Nat :=
  let r := f.midRows band
  let own := min f.positions ((band + 1) * f.unitRows) - band * f.unitRows
  ((r.2 + 1 - r.1) * f.oW - own) * (1 + 2 * f.k2t)

/-- Core cycles that a band's recomputed positions stream: four rows a cycle, once for each K-tile and column tile of stage 1,
rounded up for the band (R83, R151; the formula is DEDUCED, log entry 64). -/
def bandHaloCycles (f : ConvFields) (band : Nat) : Nat :=
  (bandHalo f band + 3) / 4 * ((f.taps * f.cIn + 127) / 128) * ((f.cMid + 127) / 128)

/-- What the narrowing of stage 1 counts: every conversion of every band (R129, R150). -/
def midCounts (s : State) (w : Who) (f : ConvFields) : NumCounts :=
  ((List.range f.frames).flatMap (fun fr => (List.range f.bands).flatMap (fun b =>
    (f.midPositions fr b).map (fun q => (convMid s w f q).counts)))).foldl NumCounts.add NumCounts.zero

/-- A sum over the bands of every frame. -/
def ConvFields.overBands (f : ConvFields) (g : Nat → Nat) : Nat := ((List.range f.bands).map g).sum * f.frames

/-- The counts of a fused chain alone (R129, R151). -/
def fuseCounts (s : State) (w : Who) (f : ConvFields) : List (Nat × Nat) :=
  if f.fuse then
    numCounts s w.part (2 ^ 24) (midCounts s w f) ++ pCounts 0x3242 w.part (f.overBands (bandHalo f)) ++
      pCounts 0x3243 w.part (f.overBands (bandHaloCycles f))
  else []

/-- Every unit of a command: (frame, band, column group). -/
def ConvFields.units (f : ConvFields) : List (Nat × Nat × Nat) :=
  (List.range f.frames).flatMap (fun fr => (List.range f.bands).flatMap (fun b =>
    (List.range f.colGroups).map (fun cg => (fr, b, cg))))

/-- The plan of a convolution, pooling or quern command. -/
def convPlan (s : State) (c : InFlight) : Plan :=
  let w : Who := { part := c.part, ring := c.ring }
  let f := convFields c.desc
  let ty := tens s c.part f.y
  let outs := (List.range f.frames).flatMap (fun fr =>
    (List.range (f.bands * f.unitRows)).map (fun p => (fr, p, convPos s w c.desc f ty fr p)))
  { Plan.ok with
    reads := convReads s w f
    writes := outs.flatMap (fun o => o.2.2.1.writes)
    counts := numCounts s c.part f.y ((outs.map (fun o => o.2.2.1.counts)).foldl NumCounts.add NumCounts.zero) ++
      fuseCounts s w f ++
      pCounts 0x3244 c.part ((f.units.map (fun u => feedRunCycles f u.1 u.2.1 u.2.2)).sum)
    unitCounts := f.units.flatMap (fun u => convUnitCounts s w f u.1 u.2.1 u.2.2) ++
      outs.flatMap (fun o => convCheckCounts f o.1 o.2.1 o.2.2.2)
    acts := flipActs s c.part (voutOf c.desc) [f.y] ++ tapActs s 0 c.part f.y (outs.flatMap (fun o => o.2.2.1.vals)) }

/-- The axes of a descriptor by number. -/
def ConvFields.axes (f : ConvFields) : List Axis := [f.aw, f.ah, f.at']

/-- An axis is outside its field's range, or beyond DIMS and not trivial (R141, R156). The range of a stride, 1 to 8, holds for
QUERN_PATCH too, so a patch above 8, which R153 speaks of, is refused: its stride has no legal code (DEDUCED, log entry 64). -/
def axisBad (f : ConvFields) (i : Nat) (a : Axis) : Bool :=
  if f.dims ≤ i then a.size != 1 || a.kernel != 1 || a.stride != 1 || a.dil != 1 || a.lo != 0 || a.hi != 0
  else decide (32 < a.kernel) || decide (a.stride < 1 ∨ 8 < a.stride ∨ a.dil < 1 ∨ 64 < a.dil)

/-- Bytes that the MID window must hold, times 32 (R149). -/
def midNeed32 (f : ConvFields) (ext1 : Nat) (fmt : Fmt) : Nat :=
  (f.unitRows + 4 * ext1) * (1 + 2 * f.k2t) * f.cMid *
    (match fmt.compute with
     | some .bs8 => 33
     | some .e4m3 => 32
     | some .e5m2 => 32
     | _ => 64)

/-- R149's requirements of FUSE = 1. -/
def fuseBad (s : State) (p : Nat) (f : ConvFields) : Bool :=
  f.opc != 0x200 || f.dims == 1 || f.groups != 1 || decide (f.cMid < 1 ∨ 512 < f.cMid) ||
  decide ((f.cOut + f.unitCols - 1) / f.unitCols ≠ 1) || f.acc ||
  decide (f.midSize * 65536 * 32 < midNeed32 f ((tens s p f.y).extent 1) (tens s p f.w2).fmt) ||
  decide (64 < f.midBase + f.midSize) ||
  rangesMeet (f.midBase, f.midSize) (f.stageBase, f.stageSize) || (f.dims == 2 && f.k2t != 0) ||
  !arrayFmt s p f.w2 || (tens s p f.w2).rank != f.dims + 2 ||
  (if f.bias2En then (let t := tens s p f.bias2; t.rank != 1 || !(t.fmt == .f32 || t.fmt == .bf16 || t.fmt == .f16))
   else f.bias2 != 0)

/-- The checks of R156. A CONV_DW with C_IN = 0 has no channel multiplier and breaks R147 before R52 is looked at; a WT of planned
EXT1 above 1 holds more than R157 asks for and is taken (DEDUCED, log entry 64). QUERN_UNPATCH, which has no padding (R154), is refused with a PMODE
other than 0 (DESIGN CHOICE, log entry 64). -/
def convBad (s : State) (p : Nat) (f : ConvFields) : Bool :=
  let vec (en : Bool) (idx : Nat) (fmts : List Fmt) : Bool :=
    if en then (let t := tens s p idx; t.rank != 1 || !fmts.contains t.fmt) else idx != 0
  f.dims == 0 || axisBad f 0 f.aw || axisBad f 1 f.ah || axisBad f 2 f.at' ||
  (!f.sround && (f.key != 0 || f.stream != 0)) || (f.pmode != 1 && f.padValue != 0) || decide (5 < f.act ∨ 5 < f.act2) ||
  (tens s p f.x).rank != f.dims + 2 || (tens s p f.y).rank != f.dims + 2 ||
  (!f.isPool && (tens s p f.wt).rank != f.dims + 2) ||
  !arrayFmt s p f.x || !epilogueFmt (tens s p f.y).fmt || (!f.isPool && !arrayFmt s p f.wt) ||
  vec f.scaleEn f.scale [.f32] || vec f.biasEn f.bias [.f32, .bf16, .f16] ||
  (if f.fuse then fuseBad s p f
   else f.w2 != 0 || f.cMid != 0 || f.act2 != 0 || f.midSize != 0 || f.midBase != 0 || f.bias2 != 0 || f.bias2En ||
     f.k2t != 0 || f.k2h != 0 || f.k2w != 0) ||
  (if f.opc = 0x201 then f.groups != 0 || f.cIn == 0 || decide (f.cOut % max 1 f.cIn ≠ 0 ∨ f.cOut / max 1 f.cIn < 1 ∨
      128 < f.cOut / max 1 f.cIn)
   else f.groups == 0 || decide (f.cIn % max 1 f.groups ≠ 0 ∨ f.cOut % max 1 f.groups ≠ 0)) ||
  (decide (f.opc = 0x201 ∨ (f.opc = 0x200 ∧ 1 < f.groups)) && f.colsCode != 0) ||
  (if f.isQuern then
    f.rowsCode != 0 || f.colsCode != 0 || f.stageBase != 0 || f.stageSize != 0 || f.groups != 1 ||
    (f.opc == 0x202 && decide (16 < f.cIn ∧ 16 < f.cOut)) ||
    (f.opc == 0x203 && (decide (16 < f.cIn) || f.axes.any (fun a => a.stride != a.kernel || a.dil != 1 || a.lo != 0 ||
      a.hi != 0 || decide (a.size % max 1 a.kernel ≠ 0)))) ||
    (f.opc == 0x204 && (decide (16 < f.cOut) || f.axes.any (fun a => a.stride != 1 || a.dil != 1 || a.lo != 0 ||
      a.hi != 0) || f.pmode != 0))
   else f.rowsCode == 3 || f.colsCode == 3 || decide (524288 < f.unitRows * f.unitCols) ||
     stageBad f.unitRows f.unitCols f.stageSize f.stageBase) ||
  (if f.isPool then
    decide (f.poolfn < 1 ∨ 3 < f.poolfn) || f.wt != 0 || f.scaleEn || f.biasEn || f.act != 0 || f.fuse || f.acc ||
    f.chkrow || f.groups != 1 || f.cOut != f.cIn
   else f.poolfn != 0)

def convSpec (s : State) (p : Nat) (d : List Word) : OpSpec :=
  let f := convFields d
  { masks := convMasks,
    ins := [f.x] ++ (if f.isPool then [] else [f.wt]) ++ (if f.biasEn then [f.bias] else []) ++
      (if f.scaleEn then [f.scale] else []) ++ (if f.fuse then [f.w2] else []) ++ (if f.bias2En then [f.bias2] else []),
    outs := [f.y], rws := if f.acc then [f.y] else [], bad := convBad s p f,
    mismatch := !f.isPool && computeDiffer s p f.x f.wt }

/-- R52 for the convolution family (R141, R157): 0 runs, else the status. -/
def convShape (s : State) (w : Who) (d : List Word) : Nat :=
  let p := w.part
  let f := convFields d
  let tx := tens s p f.x
  let ty := tens s p f.y
  let tw := tens s p f.wt
  let t2 := tens s p f.w2
  let beyond (t : Tens) (dims : List Nat) : Bool := dims.zipIdx.any (fun x => decide (t.extent x.2 < x.1))
  let k (a b c : Nat) : List Nat := if f.dims = 1 then [a] else if f.dims = 2 then [a, b] else [a, b, c]
  let up (a : Axis) : Nat := if f.unpatch then a.size * a.kernel else a.out
  let n := if f.unpatch then f.taps * f.cOut else f.stageCols
  let kern := k f.aw.kernel f.ah.kernel f.at'.kernel
  let exceeds :=
    beyond tx (f.cIn :: (k f.aw.size f.ah.size f.at'.size ++ [f.nb])) ||
    (!f.isPool && (if f.unpatch then beyond tw (f.cOut :: (kern ++ [f.cIn]))
      else beyond tw (f.stageCols :: f.cg :: kern))) ||
    beyond ty (f.cOut :: (k (up f.aw) (up f.ah) (up f.at') ++ [f.nb])) ||
    (f.fuse && beyond t2 (f.cOut :: f.cMid :: k (2 * f.k2w + 1) (2 * f.k2h + 1) (2 * f.k2t + 1))) ||
    (f.scaleEn && decide ((tens s p f.scale).extent 0 < n)) || (f.biasEn && decide ((tens s p f.bias).extent 0 < n)) ||
    (f.bias2En && decide ((tens s p f.bias2).extent 0 < f.cOut))
  if exceeds then 0x23
  else if [f.aw.size, f.ah.size, f.at'.size, f.nb, f.cIn, f.cOut, f.aw.kernel, f.ah.kernel, f.at'.kernel, f.oW, f.oH,
      f.oT].any (· == 0) then 0x01
  else 0

/-- The unit grid (R134). -/
def convGrid (d : List Word) : Nat × Nat × Nat :=
  let f := convFields d
  (f.bands, f.frames, f.colGroups)

/-- CONV: convolution on the arrays, fused with a second one when FUSE = 1. -/
def execConv (ring : RingId) (s : State) : Host.Outcome State Fault Refusal := .next (runOp s ring 0x200 convPlan)

/-- CONV_DW: depthwise convolution (R147). -/
def execConvDw (ring : RingId) (s : State) : Host.Outcome State Fault Refusal := .next (runOp s ring 0x201 convPlan)

/-- QUERN_CONV: convolution on the quern engines (R152). -/
def execQuernConv (ring : RingId) (s : State) : Host.Outcome State Fault Refusal := .next (runOp s ring 0x202 convPlan)

/-- QUERN_PATCH: patch embedding (R153). -/
def execQuernPatch (ring : RingId) (s : State) : Host.Outcome State Fault Refusal := .next (runOp s ring 0x203 convPlan)

/-- QUERN_UNPATCH: unpatchify (R154). -/
def execQuernUnpatch (ring : RingId) (s : State) : Host.Outcome State Fault Refusal := .next (runOp s ring 0x204 convPlan)

/-- POOL: pooling on the vector units (R155). -/
def execPool (ring : RingId) (s : State) : Host.Outcome State Fault Refusal := .next (runOp s ring 0x205 convPlan)

end Sys2Proof.Machine
end

