-- ==== Sys2Proof/Machine/Vector.lean ====
section
/-! DEFINITION. The vector unit: ELEMWISE, REDUCE, NORM, SOFTMAX (spec/04 "Vector opcodes", R102 to R104, R428), and
OPTIM_STEP and RNG_FILL (spec/11, R309 to R311, R316 to R318). -/

namespace Sys2Proof.Machine

/-- The fields of a vector descriptor. -/
structure VecFields where
  x      : Nat
  y      : Nat
  w      : Nat
  z      : Nat
  st     : Nat
  sat    : Bool
  sround : Bool
  sEn    : Bool
  wEn    : Bool
  yEn    : Bool
  func   : Nat
  rows   : Nat
  cols   : Nat
  imm0   : F32
  imm1   : F32
  key    : Nat
  stream : Nat
  deriving DecidableEq, Repr

def vecFields (d : List Word) : VecFields :=
  let w := dw d
  { x := bits (w 4) 23 0, y := bits (w 4) 47 24, z := bits (w 5) 23 0, w := bits (w 5) 47 24, st := bits (w 6) 47 24,
    sat := bit (w 6) 12, sround := bit (w 6) 11, sEn := bit (w 6) 10, wEn := bit (w 6) 9, yEn := bit (w 6) 8,
    func := bits (w 6) 7 0, rows := bits (w 7) 63 32, cols := bits (w 7) 31 0, imm0 := bits (w 8) 31 0,
    imm1 := bits (w 8) 63 32, key := w 9, stream := bits (w 10) 31 0 }

/-- The random stream of a descriptor with stochastic rounding. -/
def rngOf (sround : Bool) (key stream : Nat) : Option Rng := if sround then some { key := key, stream := stream } else none

def VecFields.rng (f : VecFields) : Option Rng := rngOf f.sround f.key f.stream

/-- ELEMWISE functions on integers. -/
def intFunc (func : Nat) : Bool := decide (0x20 ≤ func ∧ func ≤ 0x23)

/-- ELEMWISE functions that need Y. -/
def needsY (func : Nat) : Bool := decide (1 ≤ func ∧ func ≤ 6) || intFunc func

/-- The enables and function codes of R104. -/
def vecFuncBad (opc : Nat) (f : VecFields) : Bool :=
  if opc = 0x400 then
    !(decide (1 ≤ f.func ∧ f.func ≤ 0x10) || intFunc f.func) || f.yEn != needsY f.func || f.wEn != (f.func == 4) || f.sEn
  else if opc = 0x401 then decide (f.func = 0 ∨ 5 < f.func) || f.yEn || f.wEn || f.sEn
  else if opc = 0x402 then decide (f.func = 0 ∨ 2 < f.func)
  else decide (f.func = 0 ∨ 2 < f.func) || f.yEn || f.wEn || f.sEn != (f.func == 2)

/-- The checks of R104 beyond the field map. S must be FP32 as the field map says; that a command with another S is returned with
BAD_DESCRIPTOR is the model's reading (DEDUCED, log entry 64). -/
def vecBad (s : State) (p opc : Nat) (f : VecFields) : Bool :=
  let isInt (i : Nat) : Bool := (tens s p i).fmt.isInt
  vecFuncBad opc f || (!f.yEn && f.y != 0) || (!f.wEn && f.w != 0) || (!f.sEn && f.st != 0) ||
  (!f.sround && (f.key != 0 || f.stream != 0)) ||
  (opc != 0x400 && decide (262144 < f.cols)) ||
  (if opc = 0x400 ∧ intFunc f.func then !(isInt f.x && isInt f.y && isInt f.z)
   else isInt f.z && !(opc == 0x400 && f.func == 0x10)) ||
  (f.sEn && (tens s p f.st).fmt != .f32)

def vecSpec (s : State) (p : Nat) (d : List Word) : OpSpec :=
  let f := vecFields d
  { masks := [fld 47 0, fld 47 0, fld 47 24 + fld 12 0, fldAll, fldAll, fldAll, fld 31 0, 0, 0, 0, 0, 0],
    ins := [f.x] ++ (if f.yEn then [f.y] else []) ++ (if f.wEn then [f.w] else []),
    outs := [f.z] ++ (if f.sEn then [f.st] else []), rws := [], bad := vecBad s p (opcOf d) f, mismatch := false }

/-- ROWS × COLS exceeds a full-shape operand (R103). -/
def exceedsView (t : Tens) (rows cols : Nat) : Bool := decide (t.cols < cols) || decide (t.rows < rows)

/-- ROWS × COLS exceeds a second or third input: one of rank 1 is broadcast over rows. The field map says so of Y and of NORM's gain;
that a rank-1 W is broadcast as the addend of FMA as well is DEDUCED (log entry 64). -/
def exceedsBroadcast (t : Tens) (rows cols : Nat) : Bool :=
  decide (t.cols < cols) || (t.rank != 1 && decide (t.rows < rows))

/-- R52 and R103 for ELEMWISE, REDUCE, NORM and SOFTMAX. -/
def vecShape (s : State) (w : Who) (d : List Word) : Nat :=
  let f := vecFields d
  let p := w.part
  let opc := opcOf d
  let z := tens s p f.z
  let st := tens s p f.st
  if exceedsView (tens s p f.x) f.rows f.cols ||
      (f.yEn && exceedsBroadcast (tens s p f.y) f.rows f.cols) ||
      (f.wEn && exceedsBroadcast (tens s p f.w) f.rows f.cols) ||
      (if opc = 0x401 then decide (z.count < f.rows) else exceedsView z f.rows f.cols) ||
      (f.sEn && (if opc = 0x402 then exceedsView st f.rows 2 else decide (st.count < f.rows))) then 0x23
  else if f.rows = 0 ∨ f.cols = 0 then 0x01
  else 0

/-- Units of an ELEMWISE split (R103). -/
def elemUnits (rows cols : Nat) : Nat :=
  if cols ≤ 65536 then (rows + 65536 / cols - 1) / (65536 / cols) else rows * ((cols + 65535) / 65536)

/-- Units of whole rows (R103). -/
def rowUnits (rows cols : Nat) : Nat :=
  let k := max 1 (65536 / cols)
  (rows + k - 1) / k

def vecGrid (d : List Word) : Nat × Nat × Nat :=
  let f := vecFields d
  (if opcOf d = 0x400 then elemUnits f.rows f.cols else rowUnits f.rows f.cols, 1, 1)

/-- The row of an operand that row r reads: rank-1 inputs are broadcast (field map, R103). -/
def bcRow (t : Tens) (r : Nat) : Nat := if t.rank = 1 then 0 else r

/-- A floating ELEMWISE function (spec/04 "Function codes"). FUNC 0x07, IMM0 × X + IMM1, is one fused multiply-add, as 0x04 is (DESIGN
CHOICE, log entry 64: the table does not say whether it rounds once or twice). -/
def elemFunc (f : VecFields) (x y w : F32) : F32 :=
  match f.func with
  | 1 => f32Add x y
  | 2 => f32Sub x y
  | 3 => f32Mul x y
  | 4 => f32Fma x y w
  | 5 => f32Max x y
  | 6 => f32Min x y
  | 7 => f32Fma f.imm0 x f.imm1
  | 8 => fExp x
  | 9 => fRecip x
  | 10 => fRsqrt x
  | 11 => activation 2 x
  | 12 => activation 3 x
  | 13 => activation 4 x
  | 14 => activation 5 x
  | 15 => activation 1 x
  | _ => x

/-- An integer ELEMWISE function, exact; the write wraps. -/
def elemInt (func : Nat) (x y : Int) : Int :=
  if func = 0x20 then x + y else if func = 0x21 then x * y else if func = 0x22 then max x y else min x y

/-- rc of R428 times a tree sum. -/
def rowMean (cols : Nat) (t : F32) : F32 := f32Mul t (f32RecipExact (f32OfInt cols))

/-- Σ round(v × v) in the pairwise tree. -/
def treeSquares (l : List F32) : F32 := treeSum (l.map (fun v => f32Mul v v))

/-- One REDUCE value (R428). -/
def reduceRow (func cols : Nat) (l : List F32) : F32 :=
  match func with
  | 1 => treeSum l
  | 2 => treeSquares l
  | 3 => tree f32Max 0 l
  | 4 => tree f32Min 0 l
  | _ => rowMean cols (treeSum l)

/-- NORM of a row (spec/04; R428): values before W and Y, mean, 1/σ. Layer norm takes the mean of the squared
differences from the mean; RMS norm takes no mean, and the mean it writes to S is a free value. The spec gives no formula: each operation
is rounded on its own, and a value is multiplied by the approximate 1/σ (DESIGN CHOICE, log entry 64). -/
def normRow (s : State) (func : Nat) (eps : F32) (cols : Nat) (l : List F32) : List F32 × F32 × F32 :=
  if func = 1 then
    let mu := rowMean cols (treeSum l)
    let ds := l.map (fun v => f32Sub v mu)
    let inv := fRsqrt (f32Add (rowMean cols (treeSquares ds)) eps)
    (ds.map (fun v => f32Mul v inv), mu, inv)
  else
    let inv := fRsqrt (f32Add (rowMean cols (treeSquares l)) eps)
    (l.map (fun v => f32Mul v inv), (Config.freeWord s.fresh).toNat % 2 ^ 32, inv)

/-- ln x as m × round(ln 2): the vector unit's table has no natural logarithm, so it is the approximate one (log
entry 5). -/
def fLn (x : F32) : F32 :=
  match f32 x with
  | .nan => f32Nan
  | .inf s => if s then f32Nan else f32Inf
  | .fin s m _ => if m = 0 then f32NegInf else if s then f32Nan else fLnRng x

/-- SOFTMAX of a row: values and log-sum-exp. The scale is rounded before the maximum is taken, and each exponential is divided by the
sum (DESIGN CHOICE, log entry 64: the spec gives the formula, R428, and no order of its FP32 operations). -/
def softmaxRow (scale : F32) (l : List F32) : List F32 × F32 :=
  let vs := l.map (fun v => f32Mul scale v)
  let m := tree f32Max 0 vs
  let es := vs.map (fun v => fExp (f32Sub v m))
  let t := treeSum es
  (es.map (fun e => fDiv e t), f32Add m (fLn t))

/-- A row of an operand as FP32. -/
def rowF32 (s : State) (w : Who) (t : Tens) (r cols : Nat) : List F32 :=
  (List.range cols).map (fun c => t.f32 s w (bcRow t r) c)

/-- The written row of ELEMWISE. -/
def elemRow (s : State) (w : Who) (f : VecFields) (vout : Bool) (r : Nat) : RowOut :=
  let x := tens s w.part f.x
  let y := tens s w.part f.y
  let wt := tens s w.part f.w
  let z := tens s w.part f.z
  let b := z.outBuf vout
  if intFunc f.func then
    let vs := (List.range f.cols).map (fun c => elemInt f.func (x.int s w r c) (y.int s w (bcRow y r) c))
    let ps := vs.map (unsigned z.fmt.bits)
    { writes := writePats z b r 0 ps, vals := ps.map (fun p => z.fmt.value p 127), counts := NumCounts.zero }
  else
    writeRow s w z b r 0 ((List.range f.cols).map (fun c =>
      f32 (elemFunc f (x.f32 s w r c) (if f.yEn then y.f32 s w (bcRow y r) c else 0)
        (if f.wEn then wt.f32 s w (bcRow wt r) c else 0)))) f.sat f.rng

/-- Values at elements 0, 1, … of a tensor in the order of its planned shape (R103). -/
def writeFlat (s : State) (w : Who) (t : Tens) (b : Nat) (vs : List FVal) (sat : Bool) (rng : Option Rng) : List RowOut :=
  (chunksOf t.cols vs.length vs).zipIdx.map (fun x => writeRow s w t b x.2 0 x.1 sat rng)

/-- The rows written to Z and to S. NORM's product by W and sum with Y are two operations, each rounded (DESIGN CHOICE, log entry 64). -/
def vecOuts (s : State) (w : Who) (opc : Nat) (f : VecFields) (vout : Bool) : List RowOut × List RowOut :=
  let x := tens s w.part f.x
  let z := tens s w.part f.z
  let st := tens s w.part f.st
  let rows := List.range f.rows
  let row (r : Nat) : List F32 := rowF32 s w x r f.cols
  if opc = 0x400 then (rows.map (elemRow s w f vout), [])
  else if opc = 0x401 then
    (writeFlat s w z (z.outBuf vout) (rows.map (fun r => f32 (reduceRow f.func f.cols (row r)))) f.sat f.rng, [])
  else if opc = 0x402 then
    let ns := rows.map (fun r => (r, normRow s f.func f.imm0 f.cols (row r)))
    let gain := tens s w.part f.w
    let bias := tens s w.part f.y
    (ns.map (fun n => writeRow s w z (z.outBuf vout) n.1 0 (n.2.1.zipIdx.map (fun v =>
        let a := if f.wEn then f32Mul v.1 (gain.f32 s w (bcRow gain n.1) v.2) else v.1
        f32 (if f.yEn then f32Add a (bias.f32 s w (bcRow bias n.1) v.2) else a))) f.sat f.rng),
     if f.sEn then ns.map (fun n => writeRow s w st (st.outBuf vout) n.1 0 [f32 n.2.2.1, f32 n.2.2.2] false none) else [])
  else
    let ns := rows.map (fun r => (r, softmaxRow f.imm0 (row r)))
    (ns.map (fun n => writeRow s w z (z.outBuf vout) n.1 0 (n.2.1.map f32) f.sat f.rng),
     if f.sEn then writeFlat s w st (st.outBuf vout) (ns.map (fun n => f32 n.2.2)) false none else [])

/-- Sum of the counts of rows. -/
def sumCounts (outs : List RowOut) : NumCounts := (outs.map (·.counts)).foldl NumCounts.add NumCounts.zero

/-- Ranges that a broadcast operand reads. -/
def bcRanges (t : Tens) (rows cols : Nat) : List (Nat × Nat) := t.readRanges (if t.rank = 1 then 1 else rows) cols

/-- The plan of ELEMWISE, REDUCE, NORM and SOFTMAX. -/
def vecPlan (s : State) (c : InFlight) : Plan :=
  let w : Who := { part := c.part, ring := c.ring }
  let f := vecFields c.desc
  let vout := voutOf c.desc
  let o := vecOuts s w (opcOf c.desc) f vout
  { Plan.ok with
    reads := (tens s c.part f.x).readRanges f.rows f.cols ++
      (if f.yEn then bcRanges (tens s c.part f.y) f.rows f.cols else []) ++
      (if f.wEn then bcRanges (tens s c.part f.w) f.rows f.cols else [])
    writes := (o.1 ++ o.2).flatMap (·.writes)
    counts := numCounts s c.part f.z (sumCounts o.1)
    acts := flipActs s c.part vout ([f.z] ++ (if f.sEn then [f.st] else [])) ++
      tapActs s 0 c.part f.z (o.1.flatMap (·.vals)) ++ tapActs s 0 c.part f.st (o.2.flatMap (·.vals)) }

/-! ### RNG_FILL -/

/-- The fields of RNG_FILL. -/
structure RngFields where
  out     : Nat
  key     : Nat
  stream  : Nat
  p0      : F32
  p1      : F32
  rows    : Nat
  cols    : Nat
  sat     : Bool
  advance : Bool
  dist    : Nat
  deriving DecidableEq, Repr

def rngFields (d : List Word) : RngFields :=
  let w := dw d
  { out := bits (w 4) 23 0, key := w 5, stream := bits (w 6) 31 0, p0 := bits (w 7) 31 0, p1 := bits (w 7) 63 32,
    rows := bits (w 8) 63 32, cols := bits (w 8) 31 0, sat := bit (w 9) 3, advance := bit (w 9) 2, dist := bits (w 9) 1 0 }

def rngSpec (s : State) (p : Nat) (d : List Word) : OpSpec :=
  let f := rngFields d
  { masks := [fld 23 0, fldAll, fld 31 0, fldAll, fldAll, fld 3 0, 0, 0, 0, 0, 0, 0], ins := [], outs := [f.out], rws := [],
    bad := (tens s p f.out).fmt == .i32 || f.dist == 3 || (f.advance && decide (64 ≤ f.stream)), mismatch := false }

def rngShape (s : State) (w : Who) (d : List Word) : Nat :=
  let f := rngFields d
  if exceedsView (tens s w.part f.out) f.rows f.cols then 0x23 else if f.rows = 0 ∨ f.cols = 0 then 0x01 else 0

def rngGrid (d : List Word) : Nat × Nat × Nat := (elemUnits (rngFields d).rows (rngFields d).cols, 1, 1)

/-- n × 2^−24 as FP32 (exact for n ≤ 2^24). -/
def turn24 (n : Nat) : F32 := r32 (.fin false n (-24))

/-- The value of a draw (R311). -/
def rngValue (s : State) (f : RngFields) (w0 w1 : Nat) : F32 :=
  if f.dist = 0 then f32Add f.p0 (f32Mul (turn24 (w0 / 256)) (f32Sub f.p1 f.p0))
  else if f.dist = 1 then
    let r := fSqrtRng (f32Mul (fmtF32.pack true 0x40000000) (fLnRng (turn24 (w0 / 256 + 1))))
    f32Add f.p0 (f32Mul (f32Mul f.p1 r) (fCosRng (w1 / 256)))
  else
    let keep := match f32 f.p0 with
      | .nan => bit (Config.freeWord s.fresh).toNat 0
      | .inf neg => !neg
      | .fin neg m e => !neg && decide (w0 / 256 < (scaleTo m e (-24)).1)
    if keep then f.p1 else 0

/-- The commit acts of RNG_FILL (R310). -/
def rngActs (part : Nat) (d : List Word) : List CommitAct :=
  let f := rngFields d
  if f.advance then [.streamAdvance part f.stream] else []

/-- The plan of RNG_FILL. -/
def rngPlan (s : State) (c : InFlight) : Plan :=
  let w : Who := { part := c.part, ring := c.ring }
  let f := rngFields c.desc
  let t := tens s c.part f.out
  let outs := (List.range f.rows).map (fun r => writeRow s w t (t.outBuf (voutOf c.desc)) r 0
    ((List.range f.cols).map (fun k =>
      let v := philoxDraw f.key f.stream (r * t.cols + k)
      f32 (rngValue s f v.1 v.2))) f.sat none)
  { Plan.ok with
    writes := outs.flatMap (·.writes)
    counts := numCounts s c.part f.out (sumCounts outs)
    acts := flipActs s c.part (voutOf c.desc) [f.out] ++ rngActs c.part c.desc ++
      tapActs s 0 c.part f.out (outs.flatMap (·.vals)) }

/-! ### OPTIM_STEP -/

/-- The fields of OPTIM_STEP. -/
structure OptFields where
  p      : Nat
  g      : Nat
  m1     : Nat
  m2     : Nat
  clipf  : Nat
  plow   : Nat
  lr     : F32
  b1     : F32
  b2     : F32
  eps    : F32
  wd     : F32
  t      : Nat
  key    : Nat
  stream : Nat
  rows   : Nat
  cols   : Nat
  clipEn : Bool
  plowEn : Bool
  sround : Bool
  sat    : Bool
  algo   : Bool
  deriving DecidableEq, Repr

def optFields (d : List Word) : OptFields :=
  let w := dw d
  { p := bits (w 4) 23 0, g := bits (w 4) 47 24, m1 := bits (w 5) 23 0, m2 := bits (w 5) 47 24, clipf := bits (w 6) 23 0,
    plow := bits (w 6) 47 24, lr := bits (w 7) 31 0, b1 := bits (w 7) 63 32, b2 := bits (w 8) 31 0, eps := bits (w 8) 63 32,
    wd := bits (w 9) 63 32, t := bits (w 9) 31 0, key := w 10, stream := bits (w 11) 31 0, rows := bits (w 12) 63 32,
    cols := bits (w 12) 31 0, clipEn := bit (w 13) 4, plowEn := bit (w 13) 3, sround := bit (w 13) 2, sat := bit (w 13) 1,
    algo := bit (w 13) 0 }

def OptFields.rng (f : OptFields) : Option Rng := rngOf f.sround f.key f.stream

/-- Tensors that OPTIM_STEP updates. -/
def OptFields.updated (f : OptFields) : List Nat := [f.p, f.m1] ++ (if f.algo then [f.m2] else [])

/-- The checks of R318 and the field map. -/
def optBad (s : State) (p : Nat) (f : OptFields) : Bool :=
  ([f.p, f.g, f.m1] ++ (if f.algo then [f.m2] else [])).any (fun i =>
    !((tens s p i).fmt == .f32 || (tens s p i).fmt == .bf16)) ||
  (!f.algo && (f.m2 != 0 || f.eps != 0 || f.b2 != 0)) || (!f.plowEn && f.plow != 0) || (!f.clipEn && f.clipf != 0) ||
  (!f.sround && (f.key != 0 || f.stream != 0)) ||
  (f.clipEn && (let t := tens s p f.clipf; t.fmt != .f32 || t.count != 4)) || (f.algo && f.t == 0)

def optSpec (s : State) (p : Nat) (d : List Word) : OpSpec :=
  let f := optFields d
  { masks := [fld 47 0, fld 47 0, fld 47 0, fldAll, fldAll, fldAll, fldAll, fld 31 0, fldAll, fld 4 0, 0, 0],
    ins := f.updated ++ [f.g] ++ (if f.clipEn then [f.clipf] else []),
    outs := f.updated ++ (if f.plowEn then [f.plow] else []), rws := f.updated, bad := optBad s p f, mismatch := false }

def optShape (s : State) (w : Who) (d : List Word) : Nat :=
  let f := optFields d
  if (f.updated ++ [f.g] ++ (if f.plowEn then [f.plow] else [])).any (fun i =>
      exceedsView (tens s w.part i) f.rows f.cols) then 0x23
  else if f.rows = 0 ∨ f.cols = 0 then 0x01
  else 0

def optGrid (d : List Word) : Nat × Nat × Nat := (elemUnits (optFields d).rows (optFields d).cols, 1, 1)

/-- What the dispatcher reads of CLIPF (R316): f and the not-finite flag. -/
def optLatch (s : State) (w : Who) (d : List Word) : List Nat :=
  let f := optFields d
  if f.clipEn then
    let t := tens s w.part f.clipf
    [t.flatF32 s w 2, t.flatF32 s w 3]
  else [f32One, 0]

/-- 1 / (1 − b^t) of the bias correction. -/
def biasCorrection (b : F32) (t : Nat) : F32 :=
  fRecip (f32Sub f32One (fExp2 (f32Mul (f32OfInt t) (fLog2 b))))

/-- One element: the new p, m and v (R316). -/
def optElement (f : OptFields) (c1 c2 clip p m v gIn : F32) : F32 × F32 × F32 :=
  let g := f32Mul gIn clip
  if f.algo then
    let m := f32Add (f32Mul f.b1 m) (f32Mul (f32Sub f32One f.b1) g)
    let v := f32Add (f32Mul f.b2 v) (f32Mul (f32Mul (f32Sub f32One f.b2) g) g)
    let d := f32Add (f32Sqrt (f32Mul v c2)) f.eps
    (f32Sub p (f32Mul f.lr (f32Add (f32Mul (f32Mul m c1) (fRecip d)) (f32Mul f.wd p))), m, v)
  else
    let m := f32Add (f32Mul f.b1 m) g
    (f32Sub p (f32Mul f.lr (f32Add m (f32Mul f.wd p))), m, v)

/-- The new values of one row. -/
def optRow (s : State) (w : Who) (f : OptFields) (clip c1 c2 : F32) (r : Nat) : List (F32 × F32 × F32) :=
  let at' (i c : Nat) : F32 := (tens s w.part i).f32 s w r c
  (List.range f.cols).map (fun c =>
    optElement f c1 c2 clip (at' f.p c) (at' f.m1 c) (if f.algo then at' f.m2 c else 0) (at' f.g c))

/-- An output left as it was: its buffer copied bit for bit where the write goes to the other one (R317). -/
def keepRows (s : State) (w : Who) (t : Tens) (vout : Bool) (rows cols : Nat) : List (Nat × List Byte) :=
  if vout && t.versioned then (List.range rows).flatMap (fun r => copyRow s w t t.inBuf r t (t.outBuf vout) r cols) else []

/-- The plan of OPTIM_STEP. -/
def optPlan (s : State) (c : InFlight) : Plan :=
  let w : Who := { part := c.part, ring := c.ring }
  let f := optFields c.desc
  let vout := voutOf c.desc
  let outIdx := f.updated ++ (if f.plowEn then [f.plow] else [])
  let flips := flipActs s c.part vout outIdx
  let reads := (f.updated).flatMap (fun i => (tens s c.part i).readRanges f.rows f.cols)
  if f.clipEn && c.latched.getD 1 0 == f32One then
    let ws := outIdx.flatMap (fun i => keepRows s w (tens s c.part i) vout f.rows f.cols)
    let vals (i : Nat) : List FVal := (List.range f.rows).flatMap (fun r =>
      (List.range f.cols).map (fun k => (tens s c.part i).val s w r k))
    { Plan.ok with
      reads := reads
      writes := ws
      counts := pCounts 0x32A3 c.part 1
      acts := flips ++ outIdx.flatMap (fun i => tapActs s 0 c.part i (vals i)) }
  else
    let clip := if f.clipEn then c.latched.getD 0 f32One else f32One
    let c1 := biasCorrection f.b1 f.t
    let c2 := biasCorrection f.b2 f.t
    let news := (List.range f.rows).map (fun r => (r, optRow s w f clip c1 c2 r))
    let out (i : Nat) (sel : F32 × F32 × F32 → F32) (rng : Option Rng) : List RowOut :=
      let t := tens s c.part i
      news.map (fun x => writeRow s w t (t.outBuf vout) x.1 0 (x.2.map (fun e => f32 (sel e))) f.sat rng)
    let po := out f.p (·.1) f.rng
    let mo := out f.m1 (·.2.1) none
    let vo := if f.algo then out f.m2 (·.2.2) none else []
    let lo := if f.plowEn then out f.plow (·.1) f.rng else []
    let vals (o : List RowOut) : List FVal := o.flatMap (·.vals)
    let olds := (List.range f.rows).flatMap (fun r => (List.range f.cols).map (fun k => (tens s c.part f.p).val s w r k))
    let grads := (List.range f.rows).flatMap (fun r => (List.range f.cols).map (fun k => (tens s c.part f.g).val s w r k))
    { Plan.ok with
      reads := reads ++ (tens s c.part f.g).readRanges f.rows f.cols
      writes := (po ++ mo ++ vo ++ lo).flatMap (·.writes)
      counts := numCounts s c.part f.p (sumCounts po) ++ numCounts s c.part f.m1 (sumCounts mo) ++
        (if f.algo then numCounts s c.part f.m2 (sumCounts vo) else []) ++
        (if f.plowEn then numCounts s c.part f.plow (sumCounts lo) else [])
      acts := flips ++ tapActs s 0 c.part f.p (vals po) ++ tapActs s 0 c.part f.m1 (vals mo) ++
        tapActs s 0 c.part f.m2 (vals vo) ++ tapActs s 0 c.part f.plow (vals lo) ++ tapActs s 1 c.part f.g grads ++
        tapActs s 2 c.part f.p (List.zipWith (fun a b => a.sub b) (vals po) olds) }

/-- ELEMWISE: an elementwise function of X, Y and W into Z. -/
def execElemwise (ring : RingId) (s : State) : Host.Outcome State Fault Refusal := .next (runOp s ring 0x400 vecPlan)

/-- REDUCE: one value per row. -/
def execReduce (ring : RingId) (s : State) : Host.Outcome State Fault Refusal := .next (runOp s ring 0x401 vecPlan)

/-- NORM: layer norm or RMS norm of each row. -/
def execNorm (ring : RingId) (s : State) : Host.Outcome State Fault Refusal := .next (runOp s ring 0x402 vecPlan)

/-- SOFTMAX of each row. -/
def execSoftmax (ring : RingId) (s : State) : Host.Outcome State Fault Refusal := .next (runOp s ring 0x403 vecPlan)

/-- OPTIM_STEP: one optimizer update (R316, R317). -/
def execOptimStep (ring : RingId) (s : State) : Host.Outcome State Fault Refusal := .next (runOp s ring 0x404 optPlan)

/-- RNG_FILL: draws of a counter-based stream (R309 to R311). -/
def execRngFill (ring : RingId) (s : State) : Host.Outcome State Fault Refusal := .next (runOp s ring 0x405 rngPlan)

end Sys2Proof.Machine
end

