-- ==== Sys2Proof/Machine/Kv.lean ====
section
/-! DEFINITION. The paged key-value cache: KV_APPEND, KV_TABLE_SWAP, PREFIX_LOOKUP, PREFIX_INSERT and PREFIX_RELEASE
(spec/07, R167 to R187). -/

namespace Sys2Proof.Machine

/-! ### Sequences and page tables -/

/-- A snapshot of a sequence's root, with the record's q2 (R169). -/
structure Snap where
  addr   : Nat
  table  : Nat
  length : Nat
  cap    : Nat
  count  : Nat
  grow   : Nat
  maxL   : Nat
  minL   : Nat
  deriving DecidableEq, Repr

/-- The address of a sequence's record, and its words q0 to q2. -/
def rootAddr (s : State) (p sid : Nat) : Nat := kvGet s p 1 + 64 * sid
def rootWords (s : State) (p sid : Nat) : List Nat := (List.range 3).map (fun i => ldNat s (rootAddr s p sid + 8 * i) 8)

/-- The snapshot that words q0 to q2 of a record make. -/
def Snap.ofWords (addr : Nat) (ws : List Nat) : Snap :=
  let q1 := ws.getD 1 0
  let q2 := ws.getD 2 0
  { addr := addr, table := ws.getD 0 0, length := bits q1 63 32, cap := bits q1 31 16, count := bits q1 15 0,
    grow := bits q2 8 8, maxL := bits q2 7 4, minL := bits q2 3 0 }

/-- A sequence's snapshot as it is now. -/
def snapOf (s : State) (p sid : Nat) : Snap := Snap.ofWords (rootAddr s p sid) (rootWords s p sid)

/-- The snapshot a command took: at its dispatch, or at a unit's claim (R169, R176, R184). -/
def keptSnap (s : State) (c : InFlight) (unit : Option Nat) (sid : Nat) : Snap :=
  match c.roots.find? (fun r => r.1 == unit && r.2.1 == sid) with
  | some r => Snap.ofWords (rootAddr s c.part sid) r.2.2
  | none => snapOf s c.part sid

/-- A page table entry. -/
structure PageEnt where
  page : Nat
  log2 : Nat
  base : Nat
  deriving DecidableEq, Repr

def PageEnt.fin (e : PageEnt) : Nat := e.base + 2 ^ e.log2

/-- Entry i of a table at a global address. -/
def entAt (s : State) (table i : Nat) : PageEnt :=
  let e1 := ldNat s (table + 16 * i + 8) 8
  { page := ldNat s (table + 16 * i) 8, log2 := bits e1 51 48, base := bits e1 47 0 }

def entries (s : State) (table n : Nat) : List PageEnt := (List.range n).map (entAt s table)

/-- The bytes of an entry. -/
def PageEnt.toBytes (e : PageEnt) : List Byte := leBytes 8 e.page ++ leBytes 8 (e.log2 * 2 ^ 48 + e.base)

/-- BASE of each entry is the end of the one before (R167). -/
def basesChain : Nat → List PageEnt → Bool
  | _, [] => true
  | b, e :: t => e.base == b && basesChain e.fin t

/-- R167 for a list of entries and a length. -/
def validEntries (s : State) (pool : Option Pool) (es : List PageEnt) (length : Nat) : Bool :=
  match es.getLast? with
  | none => length == 0
  | some l =>
    basesChain 0 es && decide (l.base < length ∧ length ≤ l.fin) &&
    (match pool with
     | none => false
     | some pool => es.all (fun e => decide (4 ≤ e.log2 ∧ e.log2 ≤ 12) && (pageIndex s pool (e.log2 - 4) e.page).isSome))

/-- A snapshot that R167 accepts; TABLE 0 or LENGTH 0 is an empty sequence. -/
def Snap.valid (s : State) (p : Nat) (q : Snap) : Bool :=
  if q.table = 0 then q.length == 0 && q.count == 0
  else q.table % 16 == 0 && validEntries s (poolOf s p) (entries s q.table q.count) q.length

/-- The visible entries of a snapshot. -/
def Snap.ents (s : State) (q : Snap) : List PageEnt :=
  if q.table = 0 ∨ q.length = 0 then [] else entries s q.table q.count

/-- The entry that covers position k. -/
def coverEnt (es : List PageEnt) (k : Nat) : Option PageEnt := es.find? (fun e => decide (e.base ≤ k ∧ k < e.fin))

/-- The bytes of a root: TABLE, then LENGTH, CAP and COUNT. -/
def rootBytes (table length cap count : Nat) : List Byte :=
  leBytes 8 table ++ leBytes 8 (length * 2 ^ 32 + cap * 2 ^ 16 + count)

/-- The bytes of one row of a page from exact values (R168), with the counts of their conversion. -/
def kvRow (pool : Pool) (vs : List FVal) (sat : Bool) : List Byte × NumCounts :=
  if pool.fmt.isBlock then
    let bs := (chunksOf 32 vs.length vs).map (fun b => encodeBlock pool.fmt b none)
    (bs.flatMap (fun b => b.2.1.map (BitVec.ofNat 8)) ++ bs.map (fun b => BitVec.ofNat 8 b.1),
     (bs.map (fun b => b.2.2)).foldl NumCounts.add NumCounts.zero)
  else
    let es := vs.map (narrowElem pool.fmt sat none)
    (es.flatMap (fun e => leBytes (pool.fmt.bits / 8) e.1), (es.map (·.2)).foldl NumCounts.add NumCounts.zero)

/-- The value of element d of the row of head h, part x, in a page slot. -/
def kvElem (s : State) (pool : Pool) (e : PageEnt) (h x sl d : Nat) : FVal :=
  let a := e.page + pool.rowAt e.log2 h x sl
  let w := pool.fmt.bits / 8
  pool.fmt.value (ldNat s (a + w * d) w)
    (if pool.fmt.isBlock then (ldByte s (a + pool.hdim + d / 32)).toNat else 127)

/-! ### KV_APPEND -/

/-- The fields of KV_APPEND. -/
structure AppendFields where
  knew   : Nat
  vnew   : Nat
  seqids : Nat
  tokens : Nat
  n      : Nat
  nb     : Nat
  sat    : Bool
  tokEn  : Bool
  deriving DecidableEq, Repr

def appendFields (d : List Word) : AppendFields :=
  let w := dw d
  { knew := bits (w 4) 23 0, vnew := bits (w 4) 47 24, seqids := bits (w 5) 23 0, tokens := bits (w 5) 47 24,
    n := bits (w 6) 31 0, nb := bits (w 7) 47 32, sat := bit (w 7) 1, tokEn := bit (w 7) 0 }

def appendSpec (s : State) (p : Nat) (d : List Word) : OpSpec :=
  let f := appendFields d
  { masks := [fld 47 0, fld 47 0, fld 31 0, fld 47 32 + fld 1 0, 0, 0, 0, 0, 0, 0, 0, 0],
    ins := [f.knew, f.vnew, f.seqids] ++ (if f.tokEn then [f.tokens] else []), outs := [], rws := [],
    bad := (!f.tokEn && f.tokens != 0) || (tens s p f.seqids).fmt != .i32 ||
      (f.tokEn && (tens s p f.tokens).fmt != .i32) || (poolOf s p).isNone, mismatch := false }

/-- The sequences a KV_APPEND names. -/
def appendSeqs (s : State) (w : Who) (f : AppendFields) : List Nat :=
  (List.range f.nb).map ((tens s w.part f.seqids).flatNat s w)

/-- LOG2 of the new pages: sizes from `l` on until `need` positions are held (R175). -/
def growPages (q : Snap) : Nat → Nat → Nat → List Nat
  | 0, _, _ => []
  | fuel + 1, l, need => if need = 0 then [] else l :: growPages q fuel (min q.maxL (l + q.grow)) (need - 2 ^ l)

/-- The pages one sequence needs for n new positions (R175). -/
def newPages (s : State) (q : Snap) (n : Nat) : List Nat :=
  match (q.ents s).getLast? with
  | none => growPages q n q.minL n
  | some e => growPages q n (min q.maxL (e.log2 + q.grow)) (n - (e.fin - q.length))

/-- Pages popped for a list of classes, in order, with the pops each class has given already. -/
def reserveList (s : State) (p : Nat) (pool : Pool) : List Nat → List Nat → Option (List PageRes)
  | _, [] => some []
  | taken, c :: t =>
    let k := (taken.filter (· == c)).length
    if k < clsTop s pool c then
      (reserveList s p pool (c :: taken) t).map (fun r => { part := p, cls := c, page := stackPeek s pool c k } :: r)
    else none

/-- The classes a KV_APPEND needs, sequence by sequence. -/
def appendClasses (s : State) (w : Who) (f : AppendFields) : List (List Nat) :=
  (appendSeqs s w f).map (fun sid => (newPages s (snapOf s w.part sid) f.n).map (fun l => l - 4))

/-- R52 and the dispatch steps of R176: 0 runs, else the status. -/
def appendDims (s : State) (w : Who) (d : List Word) : Nat :=
  let f := appendFields d
  match poolOf s w.part with
  | none => 0x20
  | some pool =>
    let beyond (t : Nat) : Bool :=
      let t := tens s w.part t
      decide (t.extent 0 < pool.hdim) || decide (t.extent 1 < f.n) || decide (t.extent 2 < pool.heads) ||
      decide (t.extent 3 < f.nb)
    if beyond f.knew || beyond f.vnew || decide ((tens s w.part f.seqids).cols < f.nb) ||
        (f.tokEn && (let t := tens s w.part f.tokens; decide (t.extent 0 < f.n) || decide (t.extent 1 < f.nb))) then 0x23
    else if f.n = 0 ∨ f.nb = 0 then 0x01
    else 0

/-- The checks of R175 to R177 at dispatch, and whether the pool can give the pages. -/
def appendShape (s : State) (w : Who) (d : List Word) : Nat :=
  let f := appendFields d
  match poolOf s w.part with
  | none => 0x20
  | some pool =>
    if appendDims s w d ≠ 0 then appendDims s w d
    else
      let ids := appendSeqs s w f
      let snaps := ids.map (snapOf s w.part)
      if ids.eraseDups.length ≠ ids.length ∨ ids.any (fun i => decide (kvGet s w.part 2 ≤ i)) ∨
          snaps.any (fun q => !q.valid s w.part || decide (q.minL < 4 ∨ q.maxL < q.minL ∨ 12 < q.maxL)) then 0x20
      else if snaps.any (fun q => decide (q.cap < q.count + (newPages s q f.n).length)) then 0x23
      else match reserveList s w.part pool [] (appendClasses s w f).flatten with
        | none => 0x31
        | some _ => 0

/-- The pages a KV_APPEND reserves at its dispatch. -/
def appendReserve (s : State) (w : Who) (d : List Word) : List PageRes :=
  match poolOf s w.part with
  | none => []
  | some pool => (reserveList s w.part pool [] (appendClasses s w (appendFields d)).flatten).getD []

/-- New entries from a start position. -/
def newEntries (s : State) (pool : Pool) : Nat → List PageRes → List PageEnt
  | _, [] => []
  | base, r :: t =>
    let e : PageEnt := { page := pageAddr s pool r.cls r.page, log2 := r.cls + 4, base := base }
    e :: newEntries s pool e.fin t

/-- Cut a list into pieces of given lengths. -/
def cutList {α : Type} : List Nat → List α → List (List α)
  | [], _ => []
  | n :: t, l => l.take n :: cutList t (l.drop n)

/-- What a KV_APPEND writes for sequence b: position rows, token strip, table slots; its commit acts; its counts. -/
def appendSeq (s : State) (w : Who) (f : AppendFields) (pool : Pool) (b : Nat) (q : Snap) (res : List PageRes) :
    List (Nat × List Byte) × List CommitAct × NumCounts :=
  let old := q.ents s
  let fin := match old.getLast? with
    | some e => e.fin
    | none => 0
  let new := newEntries s pool fin res
  let row (t h n : Nat) : List FVal :=
    let t := tens s w.part t
    (List.range pool.hdim).map (fun d => t.val s w (t.rowIndex [n, h, b]) d)
  let perPos : List (List (Nat × List Byte) × NumCounts) := (List.range f.n).map (fun n =>
    match coverEnt (old ++ new) (q.length + n) with
    | none => (([], NumCounts.zero) : List (Nat × List Byte) × NumCounts)
    | some e =>
      let sl := q.length + n - e.base
      let rows : List ((Nat × List Byte) × NumCounts) := (List.range pool.heads).flatMap (fun h => [0, 1].map (fun (x : Nat) =>
        let r := kvRow pool (row (if x = 0 then f.knew else f.vnew) h n) f.sat
        ((e.page + pool.rowAt e.log2 h x sl, r.1), r.2)))
      let tok := if f.tokEn then (let t := tens s w.part f.tokens; t.pat s w t.inBuf b n) else 0
      (rows.map (·.1) ++ [(e.page + pool.tokenAt e.log2 sl, leBytes 4 tok)],
       (rows.map (·.2)).foldl NumCounts.add NumCounts.zero))
  let slots := new.zipIdx.map (fun (x : PageEnt × Nat) => (q.table + 16 * (q.count + x.2), x.1.toBytes))
  (perPos.flatMap (·.1) ++ slots,
   .write q.addr (rootBytes q.table (q.length + f.n) q.cap (q.count + new.length)) ::
     res.map (fun r => .refSet r.part r.cls r.page),
   (perPos.map (·.2)).foldl NumCounts.add NumCounts.zero)

/-- The index in numCounts that no watch slot names: an output that is no tensor. -/
def noTensor : Nat := 2 ^ 24

/-- The plan of KV_APPEND (R177). -/
def appendPlan (s : State) (c : InFlight) : Plan :=
  let w : Who := { part := c.part, ring := c.ring }
  let f := appendFields c.desc
  match poolOf s c.part with
  | none => Plan.stop 0x20
  | some pool =>
    let ids := appendSeqs s w f
    let snaps := ids.map (keptSnap s c none)
    let cuts := cutList ((appendClasses s w f).map (·.length)) c.reserved
    let outs := (List.zip snaps cuts).zipIdx.map (fun x => appendSeq s w f pool x.2 x.1.1 x.1.2)
    let tk := tens s c.part f.tokens
    let rows (t : Nat) : List (Nat × Nat) :=
      let t := tens s c.part t
      (List.range f.nb).flatMap (fun b => (List.range pool.heads).flatMap (fun h => (List.range f.n).flatMap (fun n =>
        t.rowRange t.inBuf (t.rowIndex [n, h, b]) 0 pool.hdim)))
    { Plan.ok with
      reads := rows f.knew ++ rows f.vnew ++ (tens s c.part f.seqids).readRanges 1 f.nb ++
        (if f.tokEn then tk.readRanges f.nb f.n else [])
      greads := snaps.flatMap (fun q => [(q.addr, 24)] ++ (if q.table = 0 then [] else [(q.table, 16 * q.count)]))
      gwrites := outs.flatMap (·.1)
      counts := numCounts s c.part noTensor ((outs.map (·.2.2)).foldl NumCounts.add NumCounts.zero)
      acts := outs.flatMap (·.2.1) }

/-! ### KV_TABLE_SWAP -/

/-- The fields of KV_TABLE_SWAP. -/
structure SwapFields where
  newtable : Nat
  retire   : Nat
  result   : Nat
  length   : Nat
  count    : Nat
  rcount   : Nat
  seqId    : Nat
  expect   : Nat
  retireEn : Bool
  deriving DecidableEq, Repr

def swapFields (d : List Word) : SwapFields :=
  let w := dw d
  { newtable := bits (w 4) 23 0, retire := bits (w 4) 47 24, result := bits (w 5) 23 0, length := bits (w 6) 63 32,
    count := bits (w 6) 15 0, rcount := bits (w 7) 63 32, seqId := bits (w 7) 19 0, expect := w 8, retireEn := bit (w 9) 0 }

def swapSpec (s : State) (p : Nat) (d : List Word) : OpSpec :=
  let f := swapFields d
  { masks := [fld 47 0, fld 23 0, fld 63 32 + fld 15 0, fld 63 32 + fld 19 0, fldAll, fld 0 0, 0, 0, 0, 0, 0, 0],
    ins := (if f.count = 0 then [] else [f.newtable]) ++ (if f.retireEn then [f.retire] else []), outs := [f.result],
    rws := [],
    bad := (!f.retireEn && f.retire != 0) || (f.count == 0 && f.newtable != 0) ||
      (f.count != 0 && (tens s p f.newtable).fmt != .i32) || (f.retireEn && (tens s p f.retire).fmt != .i32) ||
      (let t := tens s p f.result; t.fmt != .i32 || decide (t.cols < 2)), mismatch := false }

/-- The entries of a table tensor, as read. -/
def tensEntries (s : State) (w : Who) (t : Tens) (n : Nat) : List PageEnt :=
  (List.range n).map (fun i =>
    let e1 := vaNat s w.part w.ring (t.inBuf + 16 * i + 8) 8
    { page := vaNat s w.part w.ring (t.inBuf + 16 * i) 8, log2 := bits e1 51 48, base := bits e1 47 0 })

/-- R52 for KV_TABLE_SWAP: its retire list (R188). -/
def swapDims (s : State) (w : Who) (d : List Word) : Nat :=
  let f := swapFields d
  if f.retireEn && decide ((tens s w.part f.retire).cols / 4 < f.rcount) then 0x23
  else if f.retireEn && f.rcount == 0 then 0x01
  else 0

/-- R52 and the dispatch checks of R178. -/
def swapShape (s : State) (w : Who) (d : List Word) : Nat :=
  let f := swapFields d
  let t := tens s w.part f.newtable
  if swapDims s w d ≠ 0 then swapDims s w d
  else if kvGet s w.part 2 ≤ f.seqId ∨ (snapOf s w.part f.seqId).table ≠ f.expect then 0x20
  else if f.count = 0 then (if f.length = 0 then 0 else 0x20)
  else if t.cols / 4 < f.count then 0x20
  else if validEntries s (poolOf s w.part) (tensEntries s w t f.count) f.length then 0
  else 0x20

/-- Decrements of a retire list (R172, R178). -/
def retireActs (s : State) (p : Nat) (es : List PageEnt) : List CommitAct :=
  match poolOf s p with
  | none => []
  | some pool => es.filterMap (fun e =>
      (pageIndex s pool (e.log2 - 4) e.page).map (fun i => .refDec p (e.log2 - 4) i))

/-- Where the reference count of an entry's page is held. -/
def countRange (s : State) (p : Nat) (e : PageEnt) : List (Nat × Nat) :=
  match poolOf s p with
  | none => []
  | some pool =>
    match pageIndex s pool (e.log2 - 4) e.page with
    | some i => [(clsRefs s pool (e.log2 - 4) + 4 * i, 4)]
    | none => []

/-- The plan of KV_TABLE_SWAP: everything happens at its commit. CAP is EXT0/4, at most the 65,535 that its field holds (DESIGN
CHOICE, log entry 65). -/
def swapPlan (s : State) (c : InFlight) : Plan :=
  let w : Who := { part := c.part, ring := c.ring }
  let f := swapFields c.desc
  let q := snapOf s c.part f.seqId
  let t := tens s c.part f.newtable
  let r := tens s c.part f.result
  let b := r.outBuf (voutOf c.desc)
  let at' (va : Nat) : Nat := (translate s c.part c.ring va).getD 0
  let root := if f.count = 0 then rootBytes 0 0 0 0 else rootBytes (at' t.inBuf) f.length (min (t.cols / 4) 65535) f.count
  let retired := if f.retireEn then tensEntries s w (tens s c.part f.retire) f.rcount else []
  { Plan.ok with
    reads := (if f.count = 0 then [] else [(t.inBuf, 16 * f.count)]) ++
      (if f.retireEn then [((tens s c.part f.retire).inBuf, 16 * f.rcount)] else [])
    greads := (q.addr, 16) :: retired.flatMap (countRange s c.part)
    undef := [(b, 8)]
    acts := flipActs s c.part (voutOf c.desc) [f.result] ++ [.write q.addr root] ++ retireActs s c.part retired ++
      [.freeEpoch c.part (at' b) (at' (b + 4)), .kvEpoch c.part true] }

/-! ### The prefix tree -/

/-- No node. -/
def noNode : Nat := 0xFFFFFFFF

/-- The granule G of a partition. -/
def granule (s : State) (p : Nat) : Nat := 2 ^ kvGet s p 9

def bucketAddr (s : State) (p key : Nat) : Nat := kvGet s p 6 + 4 * (key % 2 ^ kvGet s p 7)

def nodeAddr (s : State) (p i : Nat) : Nat := alignUp (kvGet s p 6 + 4 * 2 ^ kvGet s p 7) 64 + 64 * i

/-- A prefix node's fields. -/
structure PNode where
  key      : Nat
  parent   : Nat
  next     : Nat
  page     : Nat
  log2     : Nat
  off      : Nat
  children : Nat
  inUse    : Bool
  kind     : Nat
  hits     : Nat
  deriving DecidableEq, Repr

def nodeOf (s : State) (p i : Nat) : PNode :=
  let a := nodeAddr s p i
  let n1 := ldNat s (a + 8) 8
  let n3 := ldNat s (a + 24) 8
  let n4 := ldNat s (a + 32) 8
  { key := ldNat s a 8, parent := bits n1 63 32, next := bits n1 31 0, page := ldNat s (a + 16) 8, log2 := bits n3 51 48,
    off := bits n3 15 0, children := bits n4 63 32, inUse := bit n4 1, kind := bits n4 0 0, hits := ldNat s (a + 40) 8 }

/-- Words n0 to n5 of a node; USER is the driver's. -/
def PNode.toBytes (n : PNode) : List Byte :=
  leBytes 8 n.key ++ leBytes 8 (n.parent * 2 ^ 32 + n.next) ++ leBytes 8 n.page ++
  leBytes 8 (n.log2 * 2 ^ 48 + n.off) ++
  leBytes 8 (n.children * 2 ^ 32 + (if n.inUse then 2 else 0) + n.kind) ++ leBytes 8 n.hits

/-- Head and count of a partition's free list. -/
def freeList (s : State) (p : Nat) : Nat × Nat :=
  match s.mem.prefixFree.find? (fun x => x.1 == p) with
  | some x => x.2
  | none => (noNode, 0)

def setFreeList (s : State) (p head count : Nat) : State :=
  { s with mem := { s.mem with prefixFree := s.mem.prefixFree.filter (fun x => x.1 != p) ++ [(p, head, count)] } }

/-- The chained key of a block (R180). -/
def blockKey (prev kind : Nat) (payload : List Byte) : Nat :=
  leNat ((sha256 (leBytes 8 prev ++ [BitVec.ofNat 8 kind] ++ payload)).take 8)

/-- The payload held in a page at OFF (R180). -/
def pagePayload (s : State) (pool : Pool) (g kind : Nat) (page l off : Nat) : List Byte :=
  if kind = 0 then ldBytes s (page + pool.tokenAt l off) (4 * g)
  else (List.range pool.heads).flatMap (fun h => ldBytes s (page + pool.rowAt l h 0 off) (g * pool.rowBytes))

/-- What a search along a bucket chain finds: the node, the collisions met, and what was read on the way, by global address. -/
structure Search where
  node  : Option Nat
  coll  : Nat
  reads : List (Nat × Nat)
  deriving DecidableEq, Repr

/-- Follow a bucket chain to the first match (R181). -/
def findNode (s : State) (p : Nat) (pool : Pool) (kind key parent : Nat) (payload : List Byte) : Nat → Nat → Search
  | 0, _ => { node := none, coll := 0, reads := [] }
  | fuel + 1, i =>
    if i = noNode then { node := none, coll := 0, reads := [] }
    else
      let n := nodeOf s p i
      let same := n.inUse && n.key == key && n.parent == parent
      let reads := (nodeAddr s p i, 48) :: (if same then [(n.page, pool.pageBytes n.log2)] else [])
      if same && pagePayload s pool (granule s p) kind n.page n.log2 n.off == payload then
        { node := some i, coll := 0, reads := reads }
      else
        let r := findNode s p pool kind key parent payload fuel n.next
        { r with coll := r.coll + (if same then 1 else 0), reads := reads ++ r.reads }

/-- The node that matches a block. -/
def matchNode (s : State) (p : Nat) (pool : Pool) (kind key parent : Nat) (payload : List Byte) : Search :=
  let r := findNode s p pool kind key parent payload (kvGet s p 8 + 1) (ldNat s (bucketAddr s p key) 4)
  { r with reads := (bucketAddr s p key, 4) :: r.reads }

/-- The blocks matched in turn: their nodes, the collisions, whether a miss ended it, and what was read. -/
structure Matched where
  nodes : List Nat
  coll  : Nat
  miss  : Bool
  reads : List (Nat × Nat)
  deriving DecidableEq, Repr

def matchBlocks (s : State) (p : Nat) (pool : Pool) (kind : Nat) : Nat → Nat → List (List Byte) → Matched
  | _, _, [] => { nodes := [], coll := 0, miss := false, reads := [] }
  | prev, parent, b :: t =>
    let key := blockKey prev kind b
    let x := matchNode s p pool kind key parent b
    match x.node with
    | none => { nodes := [], coll := x.coll, miss := true, reads := x.reads }
    | some n =>
      let r := matchBlocks s p pool kind key n t
      { r with nodes := n :: r.nodes, coll := r.coll + x.coll, reads := x.reads ++ r.reads }

/-- The fields of the prefix commands. -/
structure PrefixFields where
  src     : Nat
  out     : Nat
  result  : Nat
  node    : Nat
  count   : Nat
  seqId   : Nat
  cascade : Bool
  kind    : Nat
  deriving DecidableEq, Repr

def prefixFields (d : List Word) : PrefixFields :=
  let w := dw d
  { src := bits (w 4) 23 0, out := bits (w 4) 47 24, result := bits (w 5) 23 0, node := bits (w 6) 63 32,
    count := bits (w 6) 31 0, seqId := bits (w 7) 21 2, cascade := bit (w 7) 1, kind := bits (w 7) 0 0 }

/-- Acceptance of the prefix commands (field map, R183). -/
def prefixSpec (s : State) (p : Nat) (d : List Word) : OpSpec :=
  let f := prefixFields d
  let opc := opcOf d
  let absent := kvGet s p 8 == 0 || (poolOf s p).isNone
  let isI32 (t n : Nat) : Bool := (tens s p t).fmt == .i32 && decide (n ≤ (tens s p t).cols)
  let poolF := ((poolOf s p).map (·.fmt)).getD .bf16
  { masks := [fld 47 0, fld 23 0, fldAll, fld 21 0, 0, 0, 0, 0, 0, 0, 0, 0],
    ins := if opc = 0x304 then [f.src] else [],
    outs := if opc = 0x304 then [f.out, f.result] else if opc = 0x305 then [f.result] else [],
    rws := [],
    bad := absent ||
      (if opc = 0x304 then
        f.seqId != 0 || f.cascade || f.node != 0 || !isI32 f.out 0 || !isI32 f.result 8 ||
        (f.kind == 0 && !isI32 f.src 0)
       else if opc = 0x305 then
        f.src != 0 || f.out != 0 || f.node != 0 || f.cascade || !isI32 f.result 2
       else f.src != 0 || f.out != 0 || f.result != 0 || f.count != 0 || f.seqId != 0),
    mismatch := opc == 0x304 && f.kind == 1 && (tens s p f.src).fmt != poolF }

/-- R52 for N and BLOCKS of the prefix commands (R188): N against SRC, or zero. -/
def prefixDims (s : State) (w : Who) (d : List Word) : Nat :=
  let f := prefixFields d
  let t := tens s w.part f.src
  if opcOf d = 0x304 ∧ (if f.kind = 0 then t.cols else t.extent 1) < f.count then 0x23
  else if f.count = 0 then 0x01 else 0

/-- R52 and the dispatch checks of R183 to R185. -/
def prefixShape (s : State) (w : Who) (d : List Word) : Nat :=
  let f := prefixFields d
  let p := w.part
  let opc := opcOf d
  if opc = 0x304 then
    let t := tens s p f.src
    let bad := match poolOf s p with
      | none => true
      | some pool => f.kind == 1 && (decide (t.extent 0 < pool.hdim) || decide (t.extent 2 < pool.heads))
    if prefixDims s w d ≠ 0 then prefixDims s w d else if bad then 0x23 else 0
  else if opc = 0x305 then
    let q := snapOf s p f.seqId
    if prefixDims s w d ≠ 0 then prefixDims s w d
    else if kvGet s p 2 ≤ f.seqId ∨ !q.valid s p then 0x20
    else if (q.ents s).any (fun e => decide (2 ^ e.log2 < granule s p)) then 0x20
    else 0
  else if kvGet s p 8 ≤ f.node then 0x20
  else
    let n := nodeOf s p f.node
    if !n.inUse then 0x01 else if n.children ≠ 0 then 0x20 else 0

/-- The payload of block b of a lookup's SRC. -/
def srcPayload (s : State) (w : Who) (pool : Pool) (f : PrefixFields) (b : Nat) : List Byte :=
  let g := granule s w.part
  let t := tens s w.part f.src
  if f.kind = 0 then (List.range g).flatMap (fun i => leBytes 4 (t.pat s w t.inBuf 0 (b * g + i)))
  else (List.range pool.heads).flatMap (fun h => (List.range g).flatMap (fun i =>
    let row := t.rowIndex [b * g + i, h]
    (List.range pool.hdim).flatMap (fun d => leBytes (t.fmt.bits / 8) (t.pat s w t.inBuf row d)) ++
    (if t.fmt.isBlock then
      (List.range (pool.hdim / 32)).map (fun k => vaByte s w.part w.ring (t.inBuf + t.scalePlane + row * t.blocks + k))
     else [])))

/-- Shared pages from position `pos` on: the page of the first matched block that ends its page and whose page begins at
`pos` (R183). -/
def emitShared (g : Nat) (ns : List (PNode × Nat)) : Nat → Nat → List PageEnt
  | 0, _ => []
  | fuel + 1, pos =>
    match ns.find? (fun x => x.2 * g == pos + x.1.off && x.1.off + g == 2 ^ x.1.log2) with
    | none => []
    | some x =>
      { page := x.1.page, log2 := x.1.log2, base := pos } :: emitShared g ns fuel (pos + 2 ^ x.1.log2)

/-- What a lookup emits: shared entries and the class, start and length of a copy. -/
def lookupEmit (g cap : Nat) (ns : List (PNode × Nat)) : List PageEnt × Option (Nat × Nat × Nat) :=
  let shared := (emitShared g ns ns.length 0).take cap
  let pos := match shared.getLast? with
    | some e => e.fin
    | none => 0
  match ns.getLast? with
  | none => ([], none)
  | some x =>
    if shared.length < cap ∧ pos < (x.2 + 1) * g then
      (shared, some (x.1.log2, pos, min ((x.2 + 1) * g - pos) (2 ^ x.1.log2)))
    else (shared, none)

/-- Copy one matched block into a fresh page at an offset (R183). -/
def copyBlock (s : State) (pool : Pool) (g : Nat) (dst l off : Nat) (n : PNode) : List (Nat × List Byte) :=
  (List.range pool.heads).flatMap (fun h => [0, 1].map (fun x =>
    (dst + pool.rowAt l h x off, ldBytes s (n.page + pool.rowAt n.log2 h x n.off) (g * pool.rowBytes)))) ++
  [(dst + pool.tokenAt l off, ldBytes s (n.page + pool.tokenAt n.log2 n.off) (4 * g))]

/-- The plan of PREFIX_LOOKUP (R183). -/
def lookupPlan (s : State) (c : InFlight) : Plan :=
  let w : Who := { part := c.part, ring := c.ring }
  let p := c.part
  let f := prefixFields c.desc
  match poolOf s p with
  | none => Plan.stop 0x20
  | some pool =>
    let g := granule s p
    let m := matchBlocks s p pool f.kind (kvGet s p 10) noNode ((List.range (f.count / g)).map (srcPayload s w pool f))
    let all := m.nodes.zipIdx.map (fun x => (nodeOf s p x.1, x.2))
    let tOut := tens s p f.out
    let tr := tens s p f.result
    let e := lookupEmit g (tOut.cols / 4) all
    let len := match e.2 with
      | some x => x.2.1 + x.2.2
      | none => (e.1.getLast?.map PageEnt.fin).getD 0
    let nodes := m.nodes.take (len / g)
    let full := e.1.any (fun x => (pageIndex s pool (x.log2 - 4) x.page).any (fun i =>
      refCount s pool (x.log2 - 4) i == 2 ^ 32 - 1))
    let short := match e.2 with
      | some x => clsTop s pool (x.1 - 4) == 0
      | none => false
    let reads := if f.kind = 0 then t0 f s p f.count else t1 f s p pool f.count
    if full || short then { Plan.stop 0x31 with reads := reads, greads := m.reads, counts := pCounts 0x3265 p 1 }
    else
      let copy := e.2.map (fun x =>
        ({ part := p, cls := x.1 - 4, page := stackPeek s pool (x.1 - 4) 0 : PageRes }, x.2.1, x.2.2))
      let copyEnt := copy.toList.map (fun x =>
        ({ page := pageAddr s pool x.1.cls x.1.page, log2 := x.1.cls + 4, base := x.2.1 } : PageEnt))
      let ents := e.1 ++ copyEnt
      let ob := tOut.outBuf (voutOf c.desc)
      { Plan.ok with
        reads := reads
        greads := m.reads ++ ents.flatMap (countRange s p)
        writes := ents.zipIdx.map (fun x => (ob + 16 * x.2, x.1.toBytes)) ++
          writePats tr (tr.outBuf (voutOf c.desc)) 0 0
            [len, ents.length, nodes.getLast?.getD noNode, copy.toList.length, 0, 0, 0, 0]
        gwrites := copy.toList.flatMap (fun x =>
          (all.filter (fun n => decide (x.2.1 ≤ n.2 * g ∧ n.2 * g < x.2.1 + x.2.2))).flatMap (fun n =>
            copyBlock s pool g (pageAddr s pool x.1.cls x.1.page) (x.1.cls + 4) (n.2 * g - x.2.1) n.1))
        counts := pCounts 0x3268 p nodes.length ++ pCounts 0x3269 p (if m.miss then 1 else 0) ++
          pCounts 0x326A p m.coll ++ pCounts 0x3267 p copy.toList.length
        acts := flipActs s p (voutOf c.desc) [f.out, f.result] ++
          nodes.map (fun i => .write (nodeAddr s p i + 40) (leBytes 8 (min ((nodeOf s p i).hits + 1) (2 ^ 64 - 1)))) ++
          e.1.filterMap (fun x => (pageIndex s pool (x.log2 - 4) x.page).map (fun i => .refInc p (x.log2 - 4) i)) ++
          copy.toList.map (fun x => .refSet p x.1.cls x.1.page)
        reserve := copy.toList.map (·.1) }
where
  t0 (f : PrefixFields) (s : State) (p n : Nat) : List (Nat × Nat) := (tens s p f.src).readRanges 1 n
  t1 (f : PrefixFields) (s : State) (p : Nat) (pool : Pool) (n : Nat) : List (Nat × Nat) :=
    let t := tens s p f.src
    (List.range pool.heads).flatMap (fun h => (List.range n).flatMap (fun i =>
      t.rowRange t.inBuf (t.rowIndex [i, h]) 0 pool.hdim))

/-- A state to which intended node changes are applied while later ones are worked out, with the change list (R182). -/
structure Intent where
  s     : State
  acts  : List CommitAct
  last  : Nat
  made  : Nat
  hits  : Nat
  coll  : Nat
  full  : Bool
  reads : List (Nat × Nat)
  deriving DecidableEq, Repr

/-- No change intended. -/
def Intent.start (s : State) : Intent :=
  { s := s, acts := [], last := noNode, made := 0, hits := 0, coll := 0, full := false, reads := [] }

/-- Intend a write. -/
def Intent.write (i : Intent) (a : Nat) (bs : List Byte) : Intent :=
  { i with s := store i.s a bs, acts := i.acts ++ [.write a bs] }

/-- Rewrite a node. -/
def Intent.node (i : Intent) (p n : Nat) (x : PNode) : Intent := i.write (nodeAddr i.s p n) x.toBytes

/-- Take a node off the free list. -/
def Intent.takeNode (i : Intent) (p : Nat) : Nat × Intent :=
  let fl := freeList i.s p
  let nx := (nodeOf i.s p fl.1).next
  (fl.1, { i with s := setFreeList i.s p nx (fl.2 - 1), acts := i.acts ++ [.prefixFree p (BitVec.ofNat 32 nx) (BitVec.ofNat 32 (fl.2 - 1))] })

/-- Insert one block of a sequence: the matching node, or a new one at the head of its bucket chain (R184). -/
def insertBlock (p kind : Nat) (pool : Pool) (es : List PageEnt) (x : Intent × Nat) (b : Nat) : Intent × Nat :=
  let i := x.1
  let g := granule i.s p
  match coverEnt es (b * g) with
  | none => x
  | some e =>
    let payload := pagePayload i.s pool g kind e.page e.log2 (b * g - e.base)
    let key := blockKey x.2 kind payload
    let m := matchNode i.s p pool kind key i.last payload
    let i := { i with coll := i.coll + m.coll, reads := i.reads ++ (e.page, pool.pageBytes e.log2) :: m.reads }
    match m.node with
    | some n => ({ i with last := n, hits := i.hits + 1 }, key)
    | none =>
      if (freeList i.s p).2 = 0 then ({ i with full := true }, key)
      else
        let pg := (pageIndex i.s pool (e.log2 - 4) e.page).getD 0
        let t := i.takeNode p
        let i1 := t.2
        let i2 := i1.node p t.1
          { key := key, parent := i.last, next := ldNat i1.s (bucketAddr i1.s p key) 4, page := e.page, log2 := e.log2,
            off := b * g - e.base, children := 0, inUse := true, kind := kind, hits := 0 }
        let i3 := i2.write (bucketAddr i2.s p key) (leBytes 4 t.1)
        let i4 := if i.last = noNode then i3 else
          (let par := nodeOf i3.s p i.last
           i3.node p i.last { par with children := par.children + 1 })
        let beyond := refCount i4.s pool (e.log2 - 4) pg == 2 ^ 32 - 1
        ({ i4 with s := setRef i4.s pool (e.log2 - 4) pg (refCount i4.s pool (e.log2 - 4) pg + 1),
                   acts := i4.acts ++ [.refInc p (e.log2 - 4) pg], last := t.1, made := i.made + 1,
                   reads := i4.reads ++ [(nodeAddr i.s p t.1, 48), (clsRefs i.s pool (e.log2 - 4) + 4 * pg, 4)],
                   full := i.full || beyond }, key)

/-- The plan of PREFIX_INSERT (R184). -/
def insertPlan (s : State) (c : InFlight) : Plan :=
  let p := c.part
  let f := prefixFields c.desc
  match poolOf s p with
  | none => Plan.stop 0x20
  | some pool =>
    let q := keptSnap s c none f.seqId
    let es := q.ents s
    let n := min f.count (q.length / granule s p)
    let r := ((List.range n).foldl (insertBlock p f.kind pool es) (Intent.start s, kvGet s p 10)).1
    let tr := tens s p f.result
    let greads := [(q.addr, 16)] ++ (if es.isEmpty then [] else [(q.table, 16 * q.count)]) ++ r.reads
    if r.full then { Plan.stop 0x31 with greads := greads, counts := pCounts 0x3265 p 1 }
    else
      { Plan.ok with
        greads := greads
        writes := writePats tr (tr.outBuf (voutOf c.desc)) 0 0 [r.made, r.last]
        counts := pCounts 0x3268 p r.hits ++ pCounts 0x326A p r.coll
        acts := flipActs s p (voutOf c.desc) [f.result] ++ r.acts }

/-- Unlink a node from its bucket chain: follow the chain from `at'`, the address of the link that names node `i`. -/
def unlinkNode (p n next : Nat) : Nat → Nat → Intent → Intent
  | 0, _, i => i
  | fuel + 1, link, i =>
    let cur := ldNat i.s link 4
    let i := { i with reads := i.reads ++ [(link, 4)] }
    if cur = n then i.write link (leBytes 4 next)
    else if cur = noNode then i
    else unlinkNode p n next fuel (nodeAddr i.s p cur + 8) i

/-- Remove a node without children, then with CASCADE its parents while they become childless (R185). -/
def removeNode (p : Nat) (pool : Pool) (cascade : Bool) : Nat → Nat → Intent → Intent
  | 0, _, i => i
  | fuel + 1, n, i =>
    let x := nodeOf i.s p n
    let i1 := unlinkNode p n x.next (kvGet i.s p 8 + 1) (bucketAddr i.s p x.key) i
    let fl := freeList i1.s p
    let i2 := i1.node p n { x with inUse := false, next := fl.1 }
    let i3 : Intent := { i2 with
      s := setFreeList i2.s p n (fl.2 + 1)
      reads := i2.reads ++ (nodeAddr i2.s p n, 48) ::
        ((pageIndex i2.s pool (x.log2 - 4) x.page).map (fun k => (clsRefs i2.s pool (x.log2 - 4) + 4 * k, 4))).toList
      acts := i2.acts ++ [.prefixFree p (BitVec.ofNat 32 n) (BitVec.ofNat 32 (fl.2 + 1))] ++
        ((pageIndex i2.s pool (x.log2 - 4) x.page).map (fun k => CommitAct.refDec p (x.log2 - 4) k)).toList }
    if x.parent = noNode then i3
    else
      let par := nodeOf i3.s p x.parent
      let i4 := i3.node p x.parent { par with children := par.children - 1 }
      if cascade && par.children == 1 then removeNode p pool cascade fuel x.parent i4 else i4

/-- The plan of PREFIX_RELEASE (R185, R173). -/
def prefixReleasePlan (s : State) (c : InFlight) : Plan :=
  let p := c.part
  let f := prefixFields c.desc
  match poolOf s p with
  | none => Plan.stop 0x20
  | some pool =>
    let r := removeNode p pool f.cascade (kvGet s p 8 + 1) f.node (Intent.start s)
    { Plan.ok with greads := r.reads, acts := r.acts ++ [.kvEpoch p false] }

/-- KV_APPEND: new positions for each sequence; the roots change at its commit. -/
def execKvAppend (ring : RingId) (s : State) : Host.Outcome State Fault Refusal := .next (runOp s ring 0x302 appendPlan)

/-- KV_TABLE_SWAP: a new root for a sequence. -/
def execKvTableSwap (ring : RingId) (s : State) : Host.Outcome State Fault Refusal := .next (runOp s ring 0x303 swapPlan)

/-- PREFIX_LOOKUP: the longest shared prefix of SRC. -/
def execPrefixLookup (ring : RingId) (s : State) : Host.Outcome State Fault Refusal := .next (runOp s ring 0x304 lookupPlan)

/-- PREFIX_INSERT: nodes for the leading blocks of a sequence. -/
def execPrefixInsert (ring : RingId) (s : State) : Host.Outcome State Fault Refusal := .next (runOp s ring 0x305 insertPlan)

/-- PREFIX_RELEASE: remove a node, and its childless parents with CASCADE. -/
def execPrefixRelease (ring : RingId) (s : State) : Host.Outcome State Fault Refusal :=
  .next (runOp s ring 0x306 prefixReleasePlan)

end Sys2Proof.Machine
end

