-- ==== Sys2Proof/Machine/Attn.lean ====
section
/-! DEFINITION. ATTN_FWD and ATTN_BWD (spec/07, R159 to R166, R188 to R190). -/

namespace Sys2Proof.Machine

/-- The fields of an attention descriptor. -/
structure AttnFields where
  bwd    : Bool
  q      : Nat
  k      : Nat
  v      : Nat
  o      : Nat
  bitmap : Nat
  stats  : Nat
  lq     : Nat
  lk     : Nat
  nb     : Nat
  h      : Nat
  hkv    : Nat
  sat    : Bool
  statsEn : Bool
  paged  : Bool
  hdim   : Nat
  pack   : Bool
  mask   : Nat
  scale  : F32
  mparam : Nat
  qpos0  : Nat
  seqids : Nat
  delta  : Nat
  dk'    : Nat
  dq     : Nat
  do'    : Nat
  dv     : Nat
  stageSize : Nat
  stageBase : Nat
  deriving DecidableEq, Repr

def attnFields (d : List Word) : AttnFields :=
  let w := dw d
  { bwd := opcOf d == 0x301, q := bits (w 4) 23 0, k := bits (w 4) 47 24, v := bits (w 5) 23 0, o := bits (w 5) 47 24,
    bitmap := bits (w 6) 23 0, stats := bits (w 6) 47 24, lq := bits (w 7) 31 0, lk := bits (w 7) 63 32,
    nb := bits (w 8) 63 48, h := bits (w 8) 47 40, hkv := bits (w 8) 39 32, sat := bit (w 8) 10, statsEn := bit (w 8) 9,
    paged := bit (w 8) 8, hdim := bits (w 8) 5 4, pack := bit (w 8) 3, mask := bits (w 8) 2 0, scale := bits (w 9) 63 32,
    mparam := bits (w 9) 31 0, qpos0 := bits (w 10) 31 0, seqids := bits (w 11) 47 24, delta := bits (w 11) 23 0,
    dk' := bits (w 12) 47 24, dq := bits (w 12) 23 0, do' := bits (w 13) 47 24, dv := bits (w 13) 23 0,
    stageSize := bits (w 14) 14 8, stageBase := bits (w 14) 5 0 }

/-- The head dimension D. -/
def AttnFields.d (f : AttnFields) : Nat := headDim f.hdim

/-- Positions of a key block: 128, or 64 with packed heads (R163). -/
def AttnFields.kb (f : AttnFields) : Nat := if f.pack then 64 else 128

/-- Units across the heads. -/
def AttnFields.cols (f : AttnFields) (heads : Nat) : Nat := if f.pack then heads / 2 else heads

/-- The KV head of a query head: H is a multiple of HKV. -/
def AttnFields.kvHead (f : AttnFields) (h : Nat) : Nat := h / max 1 (f.h / max 1 f.hkv)

/-- The query heads that run as one unit with head h, and which of them h is. -/
def AttnFields.pair (f : AttnFields) (h : Nat) : List Nat := if f.pack then [h / 2 * 2, h / 2 * 2 + 1] else [h]
def AttnFields.half (f : AttnFields) (h : Nat) : Nat := if f.pack then h % 2 else 0

/-- The field limits and R189, R190. -/
def attnBad (s : State) (p : Nat) (f : AttnFields) : Bool :=
  let fmtOf (i : Nat) : Fmt := (tens s p i).fmt
  let noArray (i : Nat) : Bool := !arrayFmt s p i
  let d' := if f.pack then 128 else f.d
  let need := if f.bwd then 8192 * d' + 262144 else 4096 * d' + 131072
  decide (4 < f.mask) || f.h == 0 || f.hkv == 0 || f.h % max 1 f.hkv != 0 || f.hdim == 3 ||
  (f.pack && (f.hdim != 0 || f.h % 2 == 1 || f.hkv % 2 == 1)) ||
  !(f32 f.scale).isFinite || (f32 f.scale).isZero ||
  (if f.mask = 2 ∨ f.mask = 3 then f.mparam == 0 else f.mparam != 0) ||
  (if f.mask = 4 then fmtOf f.bitmap != .i8 else f.bitmap != 0) ||
  (if f.paged then f.k != 0 || f.v != 0 || f.lk != 0 || f.bwd || kvGet s p 4 == 0xFFFF || fmtOf f.seqids != .i32 ||
      (match poolOf s p with
       | none => true
       | some pool => pool.hdim != f.d || pool.heads != f.hkv)
   else f.seqids != 0 || noArray f.k || noArray f.v) ||
  noArray f.q || (fmtOf f.o).isInt ||
  (if f.statsEn then fmtOf f.stats != .f32 else f.bwd) ||
  (if f.bwd then fmtOf f.delta != .f32 || noArray f.do' || (fmtOf f.dq).isInt || (fmtOf f.dk').isInt || (fmtOf f.dv).isInt
   else f.delta != 0 || f.dk' != 0 || f.dq != 0 || f.do' != 0 || f.dv != 0) ||
  decide (f.stageSize * 65536 < need) || decide (64 < f.stageBase + f.stageSize)

/-- A compute format other than a tensor's. -/
def computeIs (s : State) (p i : Nat) (g : Option Fmt) : Bool := decide ((tens s p i).fmt.compute = g)

def attnSpec (s : State) (p : Nat) (d : List Word) : OpSpec :=
  let f := attnFields d
  { masks := [fld 47 0, fld 47 0, fld 47 0, fldAll, fld 63 32 + fld 10 8 + fld 5 0, fldAll, fld 31 0, fld 47 0, fld 47 0,
      fld 47 0, fld 14 8 + fld 5 0, 0],
    ins := [f.q] ++ (if f.paged then [f.seqids] else [f.k, f.v]) ++ (if f.mask = 4 then [f.bitmap] else []) ++
      (if f.bwd then [f.o, f.stats, f.do'] else []),
    outs := if f.bwd then [f.delta, f.dk', f.dq, f.dv] else [f.o] ++ (if f.statsEn then [f.stats] else []), rws := [],
    bad := attnBad s p f,
    mismatch :=
      if f.paged then (match poolOf s p with
        | none => false
        | some pool => !computeIs s p f.q pool.fmt.compute)
      else computeDiffer s p f.q f.k || (f.bwd && computeDiffer s p f.do' f.v) }

/-- A tensor is too small for the given extents. -/
def tooSmall (s : State) (p i : Nat) (ext : List Nat) : Bool :=
  ext.zipIdx.any (fun x => decide ((tens s p i).extent x.2 < x.1))

/-- R52 and R188. -/
def attnShape (s : State) (w : Who) (d : List Word) : Nat :=
  let f := attnFields d
  let small (i : Nat) (ext : List Nat) : Bool := tooSmall s w.part i ext
  let qs := [f.d, f.lq, f.h, f.nb]
  let ks := [f.d, f.lk, f.hkv, f.nb]
  if small f.q qs || small f.o qs || (!f.paged && (small f.k ks || small f.v ks)) ||
      (f.statsEn && small f.stats [2, f.lq, f.h, f.nb]) ||
      (f.mask == 4 && small f.bitmap [if f.paged then 0 else ((f.lk + 127) / 128 + 7) / 8, (f.lq + 127) / 128]) ||
      (f.paged && small f.seqids [f.nb]) ||
      (f.bwd && (small f.delta [f.lq, f.h, f.nb] || small f.dq qs || small f.do' qs || small f.dk' ks || small f.dv ks)) then
    0x23
  else if f.lq = 0 ∨ f.nb = 0 ∨ (!f.paged && f.lk == 0) then 0x01
  else 0

/-- Bands of 512 rows. -/
def bands (n : Nat) : Nat := (n + 511) / 512

/-- The grid: of R159, or the units of the three stages of R166 in one column. -/
def attnGrid (d : List Word) : Nat × Nat × Nat :=
  let f := attnFields d
  if f.bwd then (f.nb * (2 * bands f.lq * f.cols f.h + bands f.lk * f.cols f.hkv), 1, 1)
  else (bands f.lq, f.cols f.h, f.nb)

/-- Units of a stage over query rows, and over key rows. -/
def AttnFields.queryUnits (f : AttnFields) : Nat := f.nb * bands f.lq * f.cols f.h
def AttnFields.keyUnits (f : AttnFields) : Nat := f.nb * bands f.lk * f.cols f.hkv

/-- Unit counts at which a stage of ATTN_BWD begins: every unit below has completed by then (R166). -/
def attnBarriers (d : List Word) : List Nat :=
  let f := attnFields d
  if f.bwd then [f.queryUnits, f.queryUnits + f.keyUnits] else []

/-- The unit of batch entry b, row band u and head column h in a stage whose first unit is `base`: entries outermost, heads innermost,
as R134 and R138 number ATTN_FWD's (for ATTN_BWD DEDUCED, log entry 65). -/
def attnUnit (base rows cols b u h : Nat) : Nat := base + (b * bands rows + u) * cols + h

/-- Where a batch entry's keys and values come from. -/
inductive KvFrom where
  | tensors
  | pages (pool : Pool) (ents : List PageEnt)
  deriving DecidableEq, Repr

/-- Keys a unit of a batch entry has, and where: paged ones by the snapshot it took at its claim (R169). -/
def kvFrom (s : State) (c : InFlight) (f : AttnFields) (nb unit : Nat) : Nat × KvFrom :=
  if f.paged then
    match poolOf s c.part with
    | none => (0, .tensors)
    | some pool =>
      let q := keptSnap s c (some unit) ((tens s c.part f.seqids).flatNat s { part := c.part, ring := c.ring } nb)
      (if q.table = 0 then 0 else q.length, .pages pool (q.ents s))
  else (f.lk, .tensors)

/-- The snapshot that a unit of a paged ATTN_FWD takes when a core claims it (R169); `c` with the ATTN_FWD as its descriptor. -/
def claimRoot (s : State) (c : InFlight) (unit : Nat) : Option Nat × Nat × List Nat :=
  let f := attnFields c.desc
  let sid := (tens s c.part f.seqids).flatNat s { part := c.part, ring := c.ring } (unit / max 1 (bands f.lq * f.cols f.h))
  (some unit, sid, rootWords s c.part sid)

/-- A zero operand. -/
def fzero : FVal := .fin false 0 0

/-- Element d of the key (x = 0) or value (x = 1) of a KV head at a position; zero beyond the key length. -/
def kvValue (s : State) (w : Who) (f : AttnFields) (src : Nat × KvFrom) (nb x h pos d : Nat) : FVal :=
  if src.1 ≤ pos then fzero
  else match src.2 with
    | .tensors =>
      let t := tens s w.part (if x = 0 then f.k else f.v)
      t.val s w (t.rowIndex [pos, h, nb]) d
    | .pages pool ents =>
      match coverEnt ents pos with
      | none => fzero
      | some e => kvElem s pool e h x (pos - e.base) d

/-- R164: key k is visible from query row i. -/
def visible (s : State) (w : Who) (f : AttnFields) (len i k : Nat) : Bool :=
  let qp := f.qpos0 + i
  decide (k < len) &&
  (if f.mask = 0 then true
   else if f.mask = 1 then decide (k ≤ qp)
   else if f.mask = 2 then decide (k / max 1 f.mparam ≤ qp / max 1 f.mparam)
   else if f.mask = 3 then decide (qp < k + f.mparam ∧ k ≤ qp)
   else (let t := tens s w.part f.bitmap
         bit (t.pat s w t.inBuf (i / 128) (k / 128 / 8)) (k / 128 % 8)))

/-- One runner row times a block of rows, packed block-diagonally over `nh` heads (R163): score columns of each head. -/
def dotRow (span d kb nh : Nat) (a : Nat → Nat → FVal) (b : Nat → Nat → Nat → FVal) :
    List F32 × List (Nat × Check) :=
  productRow 128 128 span (nh * d) (nh * kb) (fun x => a (x / d) (x % d))
    (fun x n => if x / d = n / kb then b (n / kb) (n % kb) (x % d) else fzero) (fun _ => none)

/-- One runner row of narrowed coefficients times a block's rows: D columns of each head. Rows that `vis` hides enter as
zeros (R165). -/
def mixRow (span d kb nh : Nat) (vis : Nat → Bool) (p : List (List FVal)) (b : Nat → Nat → Nat → FVal) :
    List F32 × List (Nat × Check) :=
  productRow 128 128 span (nh * kb) (nh * d) (fun x => if vis (x % kb) then (p.getD (x / kb) []).getD (x % kb) fzero else fzero)
    (fun x n => if x / kb = n / d ∧ vis (x % kb) then b (n / d) (x % kb) (n % d) else fzero) (fun _ => none)

/-- The streamed statistics of one head of one row (R160). -/
structure HeadAcc where
  m   : F32
  l   : F32
  acc : List F32
  deriving DecidableEq, Repr

/-- scale × log2(e), rounded once (R160). -/
def scaleLog2e (scale : F32) : F32 := r32 ((f32 scale).mul ((f32 f32One).div (ofFix fixLn2)))

/-- The probabilities of one head for a block: the new maximum, alpha and p; `none` when m_new is −∞. -/
def headStep (ts : List F32) (h : HeadAcc) : Option (F32 × F32 × List F32) :=
  let m := f32Max h.m (tree f32Max f32NegInf ts)
  if m = f32NegInf then none
  else some (m, if h.m = f32NegInf then 0 else fExp2 (f32Sub h.m m), ts.map (fun t => fExp2 (f32Sub t m)))

/-- Running totals of a row of ATTN_FWD. -/
structure RowAcc where
  heads   : List HeadAcc
  checks  : List (Nat × Check)
  counts  : NumCounts
  deriving DecidableEq, Repr

/-- Some row of the array that holds row r, of `rows` rows in units of 512, sees something of block j: the array is fed (R159, R165). -/
def arrayFed (rows kb : Nat) (vis : Nat → Nat → Bool) (r j : Nat) : Bool :=
  (List.range 128).any (fun i => decide (r / 128 * 128 + i < rows) &&
    (List.range kb).any (fun k => vis (r / 128 * 128 + i) (kb * j + k)))

/-- The format of the values. -/
def valueFmt (s : State) (w : Who) (f : AttnFields) (src : Nat × KvFrom) : Fmt :=
  match src.2 with
  | .tensors => (tens s w.part f.v).fmt
  | .pages pool _ => pool.fmt

/-- One key block for one query row (R160, R165): a block the row sees nothing of changes nothing. A row of a fed array is fed and
checked all the same, and its probabilities, all 0, are narrowed where m_new is not −∞ (R129). -/
def fwdBlock (s : State) (w : Who) (f : AttnFields) (src : Nat × KvFrom) (nb : Nat) (pair : List Nat) (i : Nat) (r : RowAcc)
    (j : Nat) : RowAcc :=
  let kb := f.kb
  let nh := pair.length
  let vis (x : Nat) : Bool := visible s w f src.1 i (kb * j + x)
  let span := spanRows s 0
  let tq := tens s w.part f.q
  let key (x : Nat) (h pos d : Nat) : FVal :=
    kvValue s w f src nb x (f.kvHead (pair.getD h 0)) (kb * j + pos) d
  let sc := dotRow span f.d kb nh (fun h d => tq.val s w (tq.rowIndex [i, pair.getD h 0, nb]) d) (key 0)
  if !arrayFed f.lq kb (visible s w f src.1) i j then r
  else if (List.range kb).any vis then
    let c := scaleLog2e f.scale
    let steps := r.heads.zipIdx.map (fun x =>
      headStep ((List.range kb).map (fun k => if vis k then f32Mul (sc.1.getD (x.2 * kb + k) 0) c else f32NegInf)) x.1)
    let vf := valueFmt s w f src
    let narrowed := steps.map (fun st => match st with
      | none => (List.replicate kb fzero, NumCounts.zero)
      | some x => midNarrow vf f.sat (x.2.2.map f32))
    let pv := mixRow span f.d kb nh vis (narrowed.map (·.1)) (key 1)
    { heads := (List.zip r.heads steps).zipIdx.map (fun x =>
        match x.1.2 with
        | none => x.1.1
        | some st =>
          { m := st.1, l := f32Fma x.1.1.l st.2.1 (treeSum st.2.2),
            acc := x.1.1.acc.zipIdx.map (fun a => f32Add (f32Mul a.1 st.2.1) (pv.1.getD (x.2 * f.d + a.2) 0)) }),
      checks := r.checks ++ sc.2 ++ pv.2,
      counts := (narrowed.map (·.2)).foldl NumCounts.add r.counts }
  else
    let zeros := r.heads.map (fun h => if h.m = f32NegInf then NumCounts.zero
      else (midNarrow (valueFmt s w f src) f.sat (List.replicate kb fzero)).2)
    { r with checks := r.checks ++ sc.2, counts := zeros.foldl NumCounts.add r.counts }

/-- The outputs of one head of a row: o, and the two statistics. -/
def headOut (h : HeadAcc) : List F32 × F32 × F32 :=
  if (f32 h.l).isZero then (h.acc.map (fun _ => 0), f32NegInf, f32NegInf)
  else (h.acc.map (fun a => f32Mul a (fRecip h.l)), h.m, f32Add h.m (fLog2 h.l))

/-- One query row of a unit. -/
def fwdRow (s : State) (w : Who) (f : AttnFields) (src : Nat × KvFrom) (nb : Nat) (pair : List Nat) (i : Nat) : RowAcc :=
  (List.range ((src.1 + f.kb - 1) / f.kb)).foldl (fwdBlock s w f src nb pair i)
    { heads := pair.map (fun _ => { m := f32NegInf, l := 0, acc := List.replicate f.d 0 }), checks := [],
      counts := NumCounts.zero }

/-- The blocks of one unit of 512 rows: skipped, partial, full, and masked rows over its fed blocks (R165). -/
structure BlockCounts where
  skipped : Nat
  part    : Nat
  full    : Nat
  masked  : Nat
  deriving DecidableEq, Repr

def BlockCounts.add (a b : BlockCounts) : BlockCounts :=
  { skipped := a.skipped + b.skipped, part := a.part + b.part, full := a.full + b.full, masked := a.masked + b.masked }

/-- The class of each block for unit u. A block of which every row of the arrays it feeds sees every key counts as full, also where it is
empty for other arrays (DESIGN CHOICE, log entry 65: R165 names only the three cases). -/
def blockCounts (rows cols kb : Nat) (vis : Nat → Nat → Bool) (u : Nat) : BlockCounts :=
  let one (j : Nat) : BlockCounts :=
    let arrays := (List.range 4).map (fun a => (List.range 128).filterMap (fun r =>
      if 512 * u + 128 * a + r < rows then some (512 * u + 128 * a + r) else none))
    let fed := arrays.filter (fun rs => rs.any (fun r => (List.range kb).any (fun k => vis r (kb * j + k))))
    let masked := 512 - fed.flatten.length
    if fed.isEmpty then { skipped := 1, part := 0, full := 0, masked := 0 }
    else if fed.flatten.any (fun r => (List.range kb).any (fun k => !vis r (kb * j + k))) then
      { skipped := 0, part := 1, full := 0, masked := masked }
    else { skipped := 0, part := 0, full := 1, masked := masked }
  ((List.range ((cols + kb - 1) / kb)).map one).foldl BlockCounts.add { skipped := 0, part := 0, full := 0, masked := 0 }

/-- Counter additions of classified blocks. -/
def blockCounters (part : Nat) (l : List (Nat × BlockCounts)) : List (Nat × Nat) :=
  pCounts 0x3260 part (l.map (·.2.skipped)).sum ++ pCounts 0x3261 part (l.map (·.2.part)).sum ++
  pCounts 0x3262 part (l.map (·.2.full)).sum

/-- The masked rows of units (R89, R165). -/
def maskedCounts (l : List (Nat × BlockCounts)) : List (Nat × Nat × Nat) := l.map (fun x => (x.1, 0x3228, x.2.masked))

/-- What the checks of a row of a unit count. -/
def rowChecks (unit row : Nat) (l : List (Nat × Check)) : List (Nat × Nat × Nat) :=
  checkCounts (fun _ => unit) (row % 512 / 128 * 65536 + row % 512) l

/-- Key blocks that are fed for some of the query rows `rows`: no other block's keys are read (R165). -/
def fedBlocks (f : AttnFields) (len : Nat) (rows : List Nat) (vis : Nat → Nat → Bool) : List Nat :=
  (List.range ((len + f.kb - 1) / f.kb)).filter (fun j =>
    rows.any (fun i => (List.range f.kb).any (fun k => vis i (f.kb * j + k))))

/-- Ranges read of keys and values of KV heads `hks` for query rows `rows`: device-virtual, or by global address. -/
def kvRanges (s : State) (w : Who) (f : AttnFields) (nb : Nat) (hks rows : List Nat) (src : Nat × KvFrom) :
    List (Nat × Nat) × List (Nat × Nat) :=
  let ps := (fedBlocks f src.1 rows (visible s w f src.1)).flatMap (fun j =>
    (List.range f.kb).filterMap (fun k => if f.kb * j + k < src.1 then some (f.kb * j + k) else none))
  match src.2 with
  | .tensors =>
    ([f.k, f.v].flatMap (fun i =>
      let t := tens s w.part i
      hks.flatMap (fun h => ps.flatMap (fun p => t.rowRange t.inBuf (t.rowIndex [p, h, nb]) 0 f.d))), [])
  | .pages pool ents =>
    ([], ps.flatMap (fun p => match coverEnt ents p with
      | none => []
      | some e => hks.flatMap (fun h => [0, 1].map (fun x =>
          (e.page + pool.rowAt e.log2 h x (p - e.base), pool.rowBytes)))))

/-- Rows of a tensor of queries' shape. -/
def qRanges (s : State) (w : Who) (f : AttnFields) (i n : Nat) : List (Nat × Nat) :=
  let t := tens s w.part i
  (List.range f.nb).flatMap (fun b => (List.range f.h).flatMap (fun h => (List.range f.lq).flatMap (fun r =>
    t.rowRange t.inBuf (t.rowIndex [r, h, b]) 0 n)))

/-- The block bitmap's ranges. -/
def bitmapRanges (s : State) (w : Who) (f : AttnFields) (len : Nat) : List (Nat × Nat) :=
  if f.mask = 4 then (tens s w.part f.bitmap).readRanges ((f.lq + 127) / 128) (((len + 127) / 128 + 7) / 8) else []

/-- A unit of ATTN_FWD: its number, batch entry, row band, query heads, and where its keys come from. -/
structure FwdUnit where
  unit : Nat
  nb   : Nat
  band : Nat
  pair : List Nat
  src  : Nat × KvFrom
  deriving DecidableEq, Repr

def fwdUnits (s : State) (c : InFlight) (f : AttnFields) : List FwdUnit :=
  (List.range f.nb).flatMap (fun b => (List.range (bands f.lq)).flatMap (fun u => (List.range (f.cols f.h)).map (fun h =>
    let unit := attnUnit 0 f.lq (f.cols f.h) b u h
    { unit := unit, nb := b, band := u, pair := f.pair (if f.pack then 2 * h else h), src := kvFrom s c f b unit })))

/-- The query rows of a band. -/
def bandRows (n u : Nat) : List Nat := (List.range (min 512 (n - 512 * u))).map (fun i => 512 * u + i)

/-- Every unit of a paged ATTN_FWD has taken its snapshot. -/
def snapsTaken (c : InFlight) (f : AttnFields) : Bool :=
  !f.paged || decide (f.queryUnits ≤ (c.roots.filter (fun r => r.1.isSome)).length)

/-- The plan of ATTN_FWD. With paged keys each unit reads by its own snapshot, and every unit's walk lasts until the values have been
worked out, which is once the last unit has been claimed (R169; log entry 65). -/
def fwdPlan (s : State) (c : InFlight) : Plan :=
  let w : Who := { part := c.part, ring := c.ring }
  let f := attnFields c.desc
  let vout := voutOf c.desc
  let tOut := tens s c.part f.o
  let ts := tens s c.part f.stats
  let units := fwdUnits s c f
  let rows := units.flatMap (fun u => (bandRows f.lq u.band).map (fun i => (u, i, fwdRow s w f u.src u.nb u.pair i)))
  let outs := rows.flatMap (fun u => (List.zip u.1.pair u.2.2.heads).map (fun x =>
    let r := headOut x.2
    (writeRow s w tOut (tOut.outBuf vout) (tOut.rowIndex [u.2.1, x.1, u.1.nb]) 0 (r.1.map f32) f.sat none,
     if f.statsEn then
       (writeRow s w ts (ts.outBuf vout) (ts.rowIndex [u.2.1, x.1, u.1.nb]) 0 [f32 r.2.1, f32 r.2.2] false none)
     else { writes := [], vals := [], counts := NumCounts.zero })))
  let kv := units.map (fun u => kvRanges s w f u.nb ((u.pair.map f.kvHead).eraseDups) (bandRows f.lq u.band) u.src)
  let blocks := units.map (fun u => (u.unit, blockCounts f.lq u.src.1 f.kb (visible s w f u.src.1) u.band))
  { Plan.ok with
    wait := !snapsTaken c f
    reads := qRanges s w f f.q f.d ++ kv.flatMap (·.1) ++ units.flatMap (fun u => bitmapRanges s w f u.src.1) ++
      (if f.paged then (tens s c.part f.seqids).readRanges 1 f.nb else [])
    greads := kv.flatMap (·.2)
    writes := outs.flatMap (fun o => o.1.writes ++ o.2.writes)
    counts := numCounts s c.part f.o ((outs.map (·.1.counts)).foldl NumCounts.add NumCounts.zero) ++
      numCounts s c.part noTensor ((rows.map (·.2.2.counts)).foldl NumCounts.add NumCounts.zero) ++
      blockCounters c.part blocks
    unitCounts := maskedCounts blocks ++ rows.flatMap (fun u => rowChecks u.1.unit u.2.1 u.2.2.checks)
    acts := flipActs s c.part vout ([f.o] ++ (if f.statsEn then [f.stats] else [])) ++
      tapActs s 0 c.part f.o (outs.flatMap (·.1.vals)) ++ tapActs s 0 c.part f.stats (outs.flatMap (·.2.vals)) }

/-! ### Backward (R166) -/

/-- A row's element of a tensor of queries' shape. -/
def qElem (s : State) (w : Who) (i row h nb d : Nat) : FVal :=
  let t := tens s w.part i
  t.val s w (t.rowIndex [row, h, nb]) d

/-- delta[i] of a head. -/
def deltaOf (s : State) (w : Who) (f : AttnFields) (nb h i : Nat) : F32 :=
  treeSum ((List.range f.d).map (fun d =>
    f32Mul (r32 (qElem s w f.do' i h nb d)) (r32 (qElem s w f.o i h nb d))))

/-- p and ds of a query row and key of a head (R166); both 0 where hidden. -/
def bwdElem (s : State) (w : Who) (f : AttnFields) (nb h i k : Nat) : F32 × F32 :=
  let src : Nat × KvFrom := (f.lk, .tensors)
  if visible s w f f.lk i k then
    let kb := f.kb
    let pair := f.pair h
    let span := spanRows s 0
    let col (a x : Nat) : F32 :=
      (dotRow span f.d kb pair.length (fun e d => qElem s w a i (pair.getD e 0) nb d)
        (fun e pos d => kvValue s w f src nb x (f.kvHead (pair.getD e 0)) (k / kb * kb + pos) d)).1.getD
        (f.half h * kb + k % kb) 0
    let lse := (tens s w.part f.stats).f32 s w ((tens s w.part f.stats).rowIndex [i, h, nb]) 1
    let p := if lse = f32NegInf then 0 else fExp2 (f32Sub (f32Mul (col f.q 0) (scaleLog2e f.scale)) lse)
    (p, f32Mul p (f32Sub (col f.do' 1) (deltaOf s w f nb h i)))
  else (0, 0)

/-- Coefficients of a block for the heads of a unit, narrowed; the descriptor's SAT governs p and ds as it does the outputs (DESIGN
CHOICE, log entry 65: R166 does not name it). -/
def bwdCoef (fmt : Fmt) (sat : Bool) (kb : Nat) (pair : List Nat) (el : Nat → Nat → F32) : List (List FVal × NumCounts) :=
  pair.map (fun h => midNarrow fmt sat ((List.range kb).map (fun x => f32 (el h x))))

/-- What one accumulation of a gradient row gives: the sums added, counts, and the checks of the product. -/
structure MixOut where
  sums   : List F32
  counts : NumCounts
  checks : List (Nat × Check)
  deriving DecidableEq, Repr

/-- One accumulation of a gradient row of head h over a block; ds is narrowed with the descriptor's SAT (DESIGN CHOICE, log entry 65: R166
names no SAT for it). -/
def bwdMix (s : State) (f : AttnFields) (fmt : Fmt) (h : Nat) (vis : Nat → Bool) (el : Nat → Nat → F32)
    (b : Nat → Nat → Nat → FVal) : MixOut :=
  let pair := f.pair h
  let co := bwdCoef fmt f.sat f.kb pair el
  let r := mixRow (spanRows s 0) f.d f.kb pair.length vis (co.map (·.1)) b
  { sums := (List.range f.d).map (fun d => r.1.getD (f.half h * f.d + d) 0),
    counts := (co.getD (f.half h) ([], NumCounts.zero)).2, checks := r.2 }

/-- Add a block's contribution; the first one is banked as it is. -/
def addRow (acc : Option (List F32)) (x : List F32) : Option (List F32) :=
  match acc with
  | none => some x
  | some a => some (List.zipWith f32Add a x)

/-- The query heads of a KV head, ascending. -/
def AttnFields.group (f : AttnFields) (hk : Nat) : List Nat := (List.range f.h).filter (fun h => f.kvHead h == hk)

/-- A query row of a block is seen by a key row. -/
def queryVis (s : State) (w : Who) (f : AttnFields) (k i : Nat) : Bool := decide (i < f.lq) && visible s w f f.lk i k

/-- The products of stage 2 for query head h, key row k and query block j: into dV and into dK. -/
def stage2Mix (s : State) (w : Who) (f : AttnFields) (nb h k j : Nat) : MixOut × MixOut :=
  let vis (i : Nat) : Bool := queryVis s w f k (f.kb * j + i)
  let el (sel : F32 × F32 → F32) (h' i : Nat) : F32 := if vis i then sel (bwdElem s w f nb h' (f.kb * j + i) k) else 0
  let row (t e i d : Nat) : FVal := if vis i then qElem s w t (f.kb * j + i) ((f.pair h).getD e 0) nb d else fzero
  (bwdMix s f (tens s w.part f.do').fmt h vis (el (·.1)) (row f.do'),
   bwdMix s f (tens s w.part f.q).fmt h vis (el (·.2)) (row f.q))

/-- dV and dK of one key row of a KV head (stage 2): query heads ascending, and the query blocks of each ascending (DESIGN CHOICE, log
entry 65: R166 does not order the heads). A key row of a fed array that a block hides is narrowed all the same (R129). -/
def stage2Row (s : State) (w : Who) (f : AttnFields) (nb hk k : Nat) : List F32 × List F32 × NumCounts :=
  let steps := (f.group hk).flatMap (fun h => (List.range ((f.lq + f.kb - 1) / f.kb)).map (fun j => (h, j)))
  let r := steps.foldl (fun (a : Option (List F32) × Option (List F32) × NumCounts) x =>
    if arrayFed f.lk f.kb (queryVis s w f) k x.2 then
      let m := stage2Mix s w f nb x.1 k x.2
      let n := (a.2.2.add m.1.counts).add m.2.counts
      if (List.range f.kb).any (fun i => queryVis s w f k (f.kb * x.2 + i)) then (addRow a.1 m.1.sums, addRow a.2.1 m.2.sums, n)
      else (a.1, a.2.1, n)
    else a) (none, none, NumCounts.zero)
  let z := List.replicate f.d 0
  (r.1.getD z, (r.2.1.getD z).map (fun x => f32Mul x f.scale), r.2.2)

/-- The passes of a stage-2 unit over KV heads `hks`: one query head of each packed pair that meets them. -/
def AttnFields.passes (f : AttnFields) (hks : List Nat) : List Nat :=
  ((hks.flatMap f.group).map (fun h => (f.pair h).headD h)).eraseDups

/-- The checks of a key row of a stage-2 unit: four products for every query block that its array is fed (R93, R166). -/
def stage2Checks (s : State) (w : Who) (f : AttnFields) (nb : Nat) (hks : List Nat) (k : Nat) : List (Nat × Check) :=
  let span := spanRows s 0
  (f.passes hks).flatMap (fun h => (List.range ((f.lq + f.kb - 1) / f.kb)).flatMap (fun j =>
    let pair := f.pair h
    let dot (kv q : Nat) : List (Nat × Check) :=
      (dotRow span f.d f.kb pair.length
        (fun e d => kvValue s w f (f.lk, .tensors) nb kv (f.kvHead (pair.getD e 0)) k d)
        (fun e i d => if f.kb * j + i < f.lq then qElem s w q (f.kb * j + i) (pair.getD e 0) nb d else fzero)).2
    let m := stage2Mix s w f nb h k j
    if arrayFed f.lk f.kb (queryVis s w f) k j then dot 0 f.q ++ dot 1 f.do' ++ m.1.checks ++ m.2.checks else []))

/-- The product of stage 3 for head h, query row i and key block j. -/
def stage3Mix (s : State) (w : Who) (f : AttnFields) (nb h i j : Nat) : MixOut :=
  bwdMix s f (tens s w.part f.q).fmt h (fun k => visible s w f f.lk i (f.kb * j + k))
    (fun h' k => (bwdElem s w f nb h' i (f.kb * j + k)).2)
    (fun e k d => kvValue s w f (f.lk, .tensors) nb 0 (f.kvHead ((f.pair h).getD e 0)) (f.kb * j + k) d)

/-- dQ of one query row (stage 3). -/
def stage3Row (s : State) (w : Who) (f : AttnFields) (nb h i : Nat) : List F32 × NumCounts :=
  let r := (List.range ((f.lk + f.kb - 1) / f.kb)).foldl (fun (a : Option (List F32) × NumCounts) j =>
    if arrayFed f.lq f.kb (visible s w f f.lk) i j then
      let x := stage3Mix s w f nb h i j
      (if (List.range f.kb).any (fun k => visible s w f f.lk i (f.kb * j + k)) then addRow a.1 x.sums else a.1, a.2.add x.counts)
    else a) (none, NumCounts.zero)
  ((r.1.getD (List.replicate f.d 0)).map (fun x => f32Mul x f.scale), r.2)

/-- The checks of a query row of a stage-3 unit: three products for every key block that its array is fed. -/
def stage3Checks (s : State) (w : Who) (f : AttnFields) (nb h i : Nat) : List (Nat × Check) :=
  let span := spanRows s 0
  let pair := f.pair h
  (List.range ((f.lk + f.kb - 1) / f.kb)).flatMap (fun j =>
    let dot (q kv : Nat) : List (Nat × Check) :=
      (dotRow span f.d f.kb pair.length (fun e d => qElem s w q i (pair.getD e 0) nb d)
        (fun e k d => kvValue s w f (f.lk, .tensors) nb kv (f.kvHead (pair.getD e 0)) (f.kb * j + k) d)).2
    if arrayFed f.lq f.kb (visible s w f f.lk) i j then dot f.q 0 ++ dot f.do' 1 ++ (stage3Mix s w f nb h i j).checks
    else [])

/-- What the units of stages 2 and 3 count: blocks by unit, and the checks of their rows. -/
def bwdBlocks (s : State) (w : Who) (f : AttnFields) : List (Nat × BlockCounts) :=
  (List.range f.nb).flatMap (fun b =>
    (List.range (bands f.lk)).flatMap (fun u => (List.range (f.cols f.hkv)).map (fun h =>
      (attnUnit f.queryUnits f.lk (f.cols f.hkv) b u h, blockCounts f.lk f.lq f.kb (queryVis s w f) u))) ++
    (List.range (bands f.lq)).flatMap (fun u => (List.range (f.cols f.h)).map (fun h =>
      (attnUnit (f.queryUnits + f.keyUnits) f.lq (f.cols f.h) b u h,
       blockCounts f.lq f.lk f.kb (visible s w f f.lk) u))))

def bwdChecks (s : State) (w : Who) (f : AttnFields) : List (Nat × Nat × Nat) :=
  let first (h : Nat) : Nat := if f.pack then 2 * h else h
  (List.range f.nb).flatMap (fun b =>
    (List.range (f.cols f.hkv)).flatMap (fun h => (List.range f.lk).flatMap (fun k =>
      rowChecks (attnUnit f.queryUnits f.lk (f.cols f.hkv) b (k / 512) h) k
        (stage2Checks s w f b (f.pair (first h)) k))) ++
    (List.range (f.cols f.h)).flatMap (fun h => (List.range f.lq).flatMap (fun i =>
      rowChecks (attnUnit (f.queryUnits + f.keyUnits) f.lq (f.cols f.h) b (i / 512) h) i
        (stage3Checks s w f b (first h) i))))

/-- The plan of ATTN_BWD. -/
def bwdPlan (s : State) (c : InFlight) : Plan :=
  let w : Who := { part := c.part, ring := c.ring }
  let f := attnFields c.desc
  let vout := voutOf c.desc
  let t (i : Nat) : Tens := tens s c.part i
  let out (i row : Nat) (vs : List F32) : RowOut := writeRow s w (t i) ((t i).outBuf vout) row 0 (vs.map f32) f.sat none
  let heads := (List.range f.nb).flatMap (fun b => (List.range f.h).map (fun h => (b, h)))
  let kvs := (List.range f.nb).flatMap (fun b => (List.range f.hkv).map (fun h => (b, h)))
  let delta := heads.map (fun x => out f.delta ((t f.delta).rowIndex [x.2, x.1])
    ((List.range f.lq).map (deltaOf s w f x.1 x.2)))
  let s2 := kvs.flatMap (fun x => (List.range f.lk).map (fun k =>
    let r := stage2Row s w f x.1 x.2 k
    (out f.dv ((t f.dv).rowIndex [k, x.2, x.1]) r.1, out f.dk' ((t f.dk').rowIndex [k, x.2, x.1]) r.2.1, r.2.2)))
  let s3 := heads.flatMap (fun x => (List.range f.lq).map (fun i =>
    let r := stage3Row s w f x.1 x.2 i
    (out f.dq ((t f.dq).rowIndex [i, x.2, x.1]) r.1, r.2)))
  let sum (l : List NumCounts) : NumCounts := l.foldl NumCounts.add NumCounts.zero
  let kv := (List.range f.nb).map (fun b => (kvRanges s w f b (List.range f.hkv) (List.range f.lq) (f.lk, .tensors)).1)
  { Plan.ok with
    reads := qRanges s w f f.q f.d ++ qRanges s w f f.o f.d ++ qRanges s w f f.do' f.d ++ qRanges s w f f.stats 2 ++
      kv.flatten ++ bitmapRanges s w f f.lk
    writes := delta.flatMap (·.writes) ++ s2.flatMap (fun x => x.1.writes ++ x.2.1.writes) ++ s3.flatMap (·.1.writes)
    counts := numCounts s c.part f.dv (sum (s2.map (·.1.counts))) ++
      numCounts s c.part f.dk' (sum (s2.map (·.2.1.counts))) ++ numCounts s c.part f.dq (sum (s3.map (·.1.counts))) ++
      numCounts s c.part noTensor (sum (s2.map (·.2.2) ++ s3.map (·.2))) ++ blockCounters c.part (bwdBlocks s w f)
    unitCounts := maskedCounts (bwdBlocks s w f) ++ bwdChecks s w f
    acts := flipActs s c.part vout [f.delta, f.dk', f.dq, f.dv] ++
      tapActs s 0 c.part f.delta (delta.flatMap (·.vals)) ++ tapActs s 0 c.part f.dv (s2.flatMap (·.1.vals)) ++
      tapActs s 0 c.part f.dk' (s2.flatMap (·.2.1.vals)) ++ tapActs s 0 c.part f.dq (s3.flatMap (·.1.vals)) }

/-- ATTN_BWD: the gradients of attention. -/
def execAttnBwd (ring : RingId) (s : State) : Host.Outcome State Fault Refusal := .next (runOp s ring 0x301 bwdPlan)

end Sys2Proof.Machine
end

