-- ==== Sys2Proof/Machine/Bolter.lean ====
section
/-! DEFINITION. The bolters: stores, their coding and the commands SAVE_ACT and LOAD_ACT, with the copies SPILL and FETCH
(spec/08, R191 to R215). -/

namespace Sys2Proof.Machine

/-! ### The binary coder (R200, R201) -/

/-- A bin: its context (`none` bypass) and its value. -/
abbrev Bin := Option Nat × Bool

/-- Contexts by number. -/
def ctxD (i : Nat) : Nat := i
def ctxS : Nat := 16
def ctxF (k m : Nat) : Nat := 32 + 4 * k + m
def ctxZ (i : Nat) : Nat := 200 + i
def ctxSign : Nat := 202
def ctxG (i : Nat) : Nat := 210 + i

/-- Every context starts at 1,024. -/
def ctxInit (_ : Nat) : Nat := 1024

/-- The probability after a bin. -/
def adapt (p : Nat) (b : Bool) : Nat := if b then p - p / 32 else p + (2048 - p) / 32

/-- The coder's interval: low end and range over all the bytes read so far, and the contexts. -/
structure Coder where
  low   : Nat
  range : Nat
  bytes : Nat
  ctx   : List (Nat × Nat)
  deriving DecidableEq, Repr

def Coder.start : Coder := { low := 0, range := 0xFFFFFFFF, bytes := 4, ctx := [] }

/-- Shift while the range is below 2^24. -/
def Coder.norm : Nat → Coder → Coder
  | 0, c => c
  | fuel + 1, c =>
    if c.range < 2 ^ 24 then Coder.norm fuel { c with low := c.low * 256, range := c.range * 256, bytes := c.bytes + 1 }
    else c

/-- Code one bin. -/
def Coder.bin (c : Coder) (b : Bin) : Coder :=
  let p := match b.1 with
    | some i => tableGet ctxInit c.ctx i
    | none => 1024
  let bound := c.range / 2048 * p
  let ctx := match b.1 with
    | some i => tableSet ctxInit i (adapt p b.2) c.ctx
    | none => c.ctx
  Coder.norm 4 (if b.2 then { c with low := c.low + bound, range := c.range - bound, ctx := ctx }
    else { c with range := bound, ctx := ctx })

/-- Bytes that a value needs when zeros beyond the end are left out. -/
def trimmed : Nat → Nat → Nat
  | 0, _ => 0
  | n + 1, v => if v % 256 = 0 then trimmed n (v / 256) else n + 1

/-- The payload of a list of bins: any value in the final interval decodes to them, and the bytes read past the end are
zeros (R200). Which of those payloads the encoder writes is a fixed function of the bins (Config.coderPick). -/
def codeBins (bins : List Bin) : List Byte :=
  let c := bins.foldl Coder.bin Coder.start
  let vals := bins.map (·.2)
  let v := c.low + Config.coderPick vals % max 1 c.range
  let least := trimmed c.bytes v
  let len := least + Config.coderPick (true :: vals) % (c.bytes - least + 1)
  (beBytes c.bytes v).take len

/-- The decoder's state. -/
structure Decoder where
  code  : Nat
  range : Nat
  rest  : List Byte
  ctx   : List (Nat × Nat)
  deriving DecidableEq, Repr

def Decoder.start (payload : List Byte) : Decoder :=
  { code := beNat (padTo 4 payload), range := 0xFFFFFFFF, rest := payload.drop 4, ctx := [] }

def Decoder.norm : Nat → Decoder → Decoder
  | 0, c => c
  | fuel + 1, c =>
    if c.range < 2 ^ 24 then
      Decoder.norm fuel { c with range := c.range * 256, code := (c.code * 256 + (c.rest.headD 0).toNat) % 2 ^ 32,
                                 rest := c.rest.drop 1 }
    else c

/-- Decode one bin in a context, or a bypass bin. -/
def Decoder.bin (c : Decoder) (ctx : Option Nat) : Bool × Decoder :=
  let p := match ctx with
    | some i => tableGet ctxInit c.ctx i
    | none => 1024
  let bound := c.range / 2048 * p
  let b := decide (bound ≤ c.code)
  let t := match ctx with
    | some i => tableSet ctxInit i (adapt p b) c.ctx
    | none => c.ctx
  (b, Decoder.norm 4 (if b then { c with code := c.code - bound, range := c.range - bound, ctx := t }
    else { c with range := bound, ctx := t }))

/-- n bypass bins, most significant first. -/
def Decoder.bypass : Nat → Decoder → Nat × Decoder
  | 0, c => (0, c)
  | n + 1, c =>
    let r := c.bin none
    let t := Decoder.bypass n r.2
    ((if r.1 then 2 ^ n else 0) + t.1, t.2)

/-- Count ones in contexts `ctx 0`, `ctx 1`, … up to a limit. -/
def Decoder.unary (ctx : Nat → Nat) : Nat → Nat → Decoder → Nat × Decoder
  | 0, i, c => (i, c)
  | fuel + 1, i, c =>
    let r := c.bin (some (ctx i))
    if r.1 then Decoder.unary ctx fuel (i + 1) r.2 else (i, r.2)

/-- Bypass bins of a value. -/
def bypassBins (n v : Nat) : List Bin := (List.range n).map (fun i => (none, bit v (n - 1 - i)))

/-! ### Lossless (R194 to R196) -/

/-- Exponent field and fraction of a pattern. -/
def expOf (f : FFmt) (pat : Nat) : Nat := pat % 2 ^ (f.eb + f.fb) / 2 ^ f.fb
def fracOf (f : FFmt) (pat : Nat) : Nat := pat % 2 ^ f.fb
def signOf (f : FFmt) (pat : Nat) : Bool := bit pat (f.eb + f.fb)

/-- Bins of the distance of pass 1. -/
def distBins (d : Nat) : List Bin :=
  (List.range (min d 15)).map (fun i => (some (ctxD i), true)) ++
  (if d < 15 then [(some (ctxD d), false)] else bypassBins 8 (d - 15))

/-- The three passes of R196. -/
def losslessBins (f : FFmt) (pats : List Nat) : Nat × List Bin :=
  let b := (pats.map (expOf f)).foldl max 0
  let d (p : Nat) : Nat := b - expOf f p
  (b, pats.flatMap (fun p => distBins (d p)) ++ pats.map (fun p => (some ctxS, signOf f p)) ++
    ((List.range f.fb).reverse).flatMap (fun k => pats.map (fun p => (some (ctxF k (min (d p) 3)), bit (fracOf f p) k))))

/-- Decode the distances of n elements. -/
def readDists : Nat → Decoder → List Nat × Decoder
  | 0, c => ([], c)
  | n + 1, c =>
    let u := Decoder.unary ctxD 15 0 c
    let x := if u.1 = 15 then Decoder.bypass 8 u.2 else (0, u.2)
    let r := readDists n x.2
    ((u.1 + x.1) :: r.1, r.2)

/-- Decode one bin for each context of a list. -/
def readBits : List Nat → Decoder → List Bool × Decoder
  | [], c => ([], c)
  | i :: t, c =>
    let b := c.bin (some i)
    let r := readBits t b.2
    (b.1 :: r.1, r.2)

/-- Decode the fraction planes from plane n − 1 down. -/
def readPlanes (ds : List Nat) : Nat → Decoder → List Nat × Decoder
  | 0, c => (ds.map (fun _ => 0), c)
  | n + 1, c =>
    let b := readBits (ds.map (fun d => ctxF n (min d 3))) c
    let r := readPlanes ds n b.2
    (List.zipWith (fun x f => (if x then 2 ^ n else 0) + f) b.1 r.1, r.2)

/-- The patterns of a LOSSLESS payload of n elements; a damaged payload gives wrong values only (R200). -/
def losslessDecode (f : FFmt) (b n : Nat) (payload : List Byte) : List Nat :=
  let d := readDists n (Decoder.start payload)
  let s := readBits (d.1.map (fun _ => ctxS)) d.2
  let fr := readPlanes d.1 f.fb s.2
  (List.zip d.1 (List.zip s.1 fr.1)).map (fun x =>
    f.pack x.2.1 (((b + 2 ^ f.eb - x.1 % 2 ^ f.eb) % 2 ^ f.eb) * 2 ^ f.fb + x.2.2))

/-! ### Bounded-lossy (R197, R198) -/

/-- Bins of one index, with `prev`. -/
def indexBins (prev : Bool) (n : Int) : List Bin :=
  (some (ctxZ (if prev then 1 else 0)), n != 0) ::
  (if n = 0 then []
   else
     let a := n.natAbs - 1
     let p := Nat.log2 (a + 1)
     (some ctxSign, decide (n < 0)) :: (List.range p).map (fun i => (some (ctxG (min i 15)), true)) ++
       (some (ctxG (min p 15)), false) :: bypassBins p (a + 1 - 2 ^ p))

def boundedBins : Bool → List Int → List Bin
  | _, [] => []
  | prev, n :: t => indexBins prev n ++ boundedBins (n != 0) t

/-- Decode n indexes. -/
def readIndexes : Nat → Bool → Decoder → List Int
  | 0, _, _ => []
  | k + 1, prev, c =>
    let z := c.bin (some (ctxZ (if prev then 1 else 0)))
    if !z.1 then 0 :: readIndexes k false z.2
    else
      let sg := z.2.bin (some ctxSign)
      let u := Decoder.unary (fun i => ctxG (min i 15)) 64 0 sg.2
      let x := Decoder.bypass u.1 u.2
      let m : Int := ((2 ^ u.1 + x.1 : Nat) : Int)
      (if sg.1 then -m else m) :: readIndexes k true x.2

/-- e_big of R197. -/
def bigExp (vs : List FVal) : Int :=
  match amax vs with
  | .fin _ m e => if m = 0 then -127 else max ((FVal.fin false m e).log2 + 1) (-127)
  | _ => -127

/-- The quantised indexes for one choice of predictions (R197): round to nearest even of (v − pred) / Δ. -/
def quantise (ebig : Int) (q : Nat) (vs : List FVal) (preds : List F32) : List Int :=
  List.zipWith (fun v p => toIntSat (-(2 ^ 400 : Nat)) (2 ^ 400 : Nat) ((v.sub (f32 p)).scale (-(ebig - q + 1)))) vs preds

/-- Reconstruction of an element: round_fp32(pred + n × Δ). -/
def reconBounded (ebig : Int) (q : Nat) (p : F32) (n : Int) : F32 :=
  r32 ((f32 p).add (ofSigned n (ebig - q + 1) false))

/-! ### Fixed-rate (R199) -/

/-- Group values: the element at each of 256 positions, absent ones +0. -/
def fixedBlock (vs : List FVal) : List (Nat × List Nat) :=
  (chunksOf 32 256 vs).map (fun g => let e := encodeBlock .bs4 g none; (e.1, e.2.1))

def fixedBytes (gs : List (Nat × List Nat)) : List Byte :=
  gs.map (fun g => BitVec.ofNat 8 g.1) ++ gs.flatMap (fun g => packNibbles 0 g.2)

/-- The value at each of 256 positions of a FIXED payload. -/
def fixedDecode (payload : List Byte) : List FVal :=
  (List.range 256).map (fun i =>
    let b := (payload.getD (8 + i / 2) 0).toNat
    Fmt.bs4.value (if i % 2 = 0 then b % 16 else b / 16) (payload.getD (i / 32) 0).toNat)

/-! ### Geometry (R191, R192) -/

/-- The shape of a store: run-time extents, rank, format, time axis when predicted. -/
structure Shape where
  ext   : List Nat
  fmt   : Fmt
  /-- dimension of the time axis, when TPRED = 1 -/
  tdim  : Option Nat
  deriving DecidableEq, Repr

def Shape.e (h : Shape) (i : Nat) : Nat := h.ext.getD i 1
def Shape.times (h : Shape) : Nat := match h.tdim with
  | some d => h.e d
  | none => 1
def Shape.outer (h : Shape) : List Nat := [2, 3, 4, 5].filter (fun d => h.tdim != some d)
def Shape.g0 (h : Shape) : Nat := (h.e 0 + 255) / 256
def Shape.g1 (h : Shape) : Nat := (h.e 1 + 255) / 256
def Shape.units (h : Shape) : Nat := h.g0 * h.g1 * ((h.outer).map h.e).foldl (· * ·) 1

/-- Elements of dimensions 0 and 1 of unit u. -/
def Shape.n0 (h : Shape) (u : Nat) : Nat := min 256 (h.e 0 - 256 * (u % h.g0))
def Shape.n1 (h : Shape) (u : Nat) : Nat := min 256 (h.e 1 - 256 * (u / h.g0 % h.g1))
def Shape.bCols (h : Shape) (u : Nat) : Nat := (h.n0 u + 15) / 16
def Shape.bRows (h : Shape) (u : Nat) : Nat := (h.n1 u + 15) / 16
def Shape.unitBlocks (h : Shape) (u : Nat) : Nat := h.times * h.bRows u * h.bCols u
def Shape.unitBytes (h : Shape) (u : Nat) : Nat := h.times * h.n0 u * h.n1 u * (h.fmt.bits / 8)
def Shape.blocks (h : Shape) : Nat := ((List.range h.units).map h.unitBlocks).sum
def Shape.bytes (h : Shape) : Nat := ((List.range h.units).map h.unitBytes).sum

/-- Index vector of dimensions 1 to 5 for row j of unit u at time t. -/
def Shape.index (h : Shape) (u t j : Nat) : List Nat :=
  let o := h.outer
  let w := u / (h.g0 * h.g1)
  let at' (d : Nat) : Nat :=
    if h.tdim = some d then t
    else w / ((o.takeWhile (· != d)).map h.e).foldl (· * ·) 1 % h.e d
  (256 * (u / h.g0 % h.g1) + j) :: [2, 3, 4, 5].map at'

/-- PLANE and PAYLOAD of the store layout. -/
def Shape.plane (h : Shape) : Nat := alignUp (64 + 16 * h.units) 128
def Shape.payload (h : Shape) : Nat := alignUp (h.plane + 4 * h.blocks) 128

/-- CAP and SHARE_u (R192). -/
def Shape.cap (h : Shape) (mode budget : Nat) : Nat :=
  if mode = 2 then h.blocks * 136 else if budget ≠ 0 then budget else h.bytes
def Shape.share (h : Shape) (mode budget u : Nat) : Nat :=
  if mode = 2 then h.unitBlocks u * 136
  else if budget ≠ 0 then h.unitBlocks u * 136 + (budget - h.blocks * 136) * h.unitBlocks u / max 1 h.blocks
  else h.unitBytes u

/-- The places of block k of unit u: time, first row, first column. -/
def Shape.blockAt (h : Shape) (u k : Nat) : Nat × Nat × Nat :=
  let per := h.bRows u * h.bCols u
  (k / per, 16 * (k % per / h.bCols u), 16 * (k % h.bCols u))

/-- Present positions of a block: (raster position, row in unit, column in unit). -/
def Shape.present (h : Shape) (u k : Nat) : List (Nat × Nat × Nat) :=
  let b := h.blockAt u k
  (List.range 256).filterMap (fun x =>
    if b.2.1 + x / 16 < h.n1 u ∧ b.2.2 + x % 16 < h.n0 u then some (x, b.2.1 + x / 16, b.2.2 + x % 16) else none)

/-! ### Coding a unit -/

/-- How a store is coded. -/
structure Coding where
  mode    : Nat
  q       : Nat
  osearch : Bool
  budget  : Nat
  deriving DecidableEq, Repr

/-- A coded block. -/
structure Block where
  kind    : Nat
  offset  : Nat
  exp     : Nat
  payload : List Byte
  deriving DecidableEq, Repr

def Block.header (b : Block) : List Byte :=
  leBytes 4 (b.kind * 2 ^ 29 + b.payload.length * 2 ^ 18 + b.offset * 2 ^ 13 + b.exp)

/-- Not predicted. -/
def noPred : Nat := 0x10

/-- An offset in its five bits. -/
def offBits (o : Int) : Nat := unsigned 5 o

/-- Offsets in the order of the search (R198). -/
def offsetOrder (osearch : Bool) : List Int :=
  if osearch then 0 :: (List.range 8).flatMap (fun (i : Nat) => [-((i : Int) + 1), (i : Int) + 1]) else [0]

/-- What a block is predicted from at an offset: elements of the frame before, a row-major list (R197). -/
def predsAt {α : Type} (h : Shape) (u : Nat) (ref : List α) (zero : α) (pos : List (Nat × Nat × Nat)) (o : Int) : List α :=
  pos.map (fun x =>
    let j := (max 0 (min ((x.2.1 : Int) + o) ((h.n1 u : Int) - 1))).toNat
    ref.getD (j * h.n0 u + x.2.2) zero)

/-- A candidate: its offset field, predictions and indexes. -/
structure Cand where
  offset : Nat
  preds  : List F32
  ns     : List Int
  deriving DecidableEq, Repr

def Cand.cost (c : Cand) : Nat := (c.ns.map (fun n => min n.natAbs 4096)).sum
/-- R198's test. A prediction that is not finite, out of a RAW block of the frame before, gives no index, so such a candidate is not valid
(DEDUCED, log entry 66). -/
def Cand.valid (c : Cand) : Bool :=
  c.offset == noPred || (c.preds.all (fun p => (f32 p).isFinite) && c.ns.all (fun n => decide (n.natAbs ≤ 4095)))

/-- The first valid candidate with the least cost. -/
def bestCand : List Cand → Option Cand
  | [] => none
  | c :: t =>
    match bestCand t with
    | none => if c.valid then some c else none
    | some d => if c.valid && decide (c.cost ≤ d.cost) then some c else some d

/-- RAW: the stored patterns. -/
def rawBlock (fmt : Fmt) (pats : List Nat) : Block :=
  { kind := 1, offset := noPred, exp := 0, payload := pats.flatMap (leBytes (fmt.bits / 8)) }

/-- A block coded in the command's mode, and its FP32 reconstruction (R193). -/
def codeBlock (h : Shape) (c : Coding) (u : Nat) (ref : Option (List F32)) (pos : List (Nat × Nat × Nat))
    (pats : List Nat) : Block × List F32 :=
  let vs := pats.map (fun p => h.fmt.value p 127)
  let raw := rawBlock h.fmt pats
  let exact := vs.map r32
  if c.mode = 0 then
    if pats.all (· == 0) then ({ kind := 0, offset := noPred, exp := 0, payload := [] }, exact)
    else
      let l := losslessBins h.fmt.elem pats
      let b := codeBins l.2
      if raw.payload.length < b.length then (raw, exact)
      else ({ kind := 2, offset := noPred, exp := l.1, payload := b }, exact)
  else if c.mode = 1 then
    if vs.any (fun v => !v.isFinite) then (raw, exact)
    else
      let eb := bigExp vs
      let un : Cand := { offset := noPred, preds := vs.map (fun _ => 0), ns := quantise eb c.q vs (vs.map (fun _ => 0)) }
      let cands := (match ref with
        | none => []
        | some r => (offsetOrder c.osearch).map (fun o =>
            let ps := predsAt h u r 0 pos o
            { offset := offBits o, preds := ps, ns := quantise eb c.q vs ps })) ++ [un]
      let best := (bestCand cands).getD un
      let rec' := List.zipWith (reconBounded eb c.q) best.preds best.ns
      if best.ns.all (· == 0) then
        ({ kind := 0, offset := best.offset, exp := 0, payload := [] }, best.preds)
      else
        let b := codeBins (boundedBins false best.ns)
        if raw.payload.length < b.length then (raw, exact)
        else ({ kind := 3, offset := best.offset, exp := (eb + 127).toNat, payload := b }, rec')
  else
    let gs := fixedBlock ((List.range 256).map (fun x =>
      match (List.zip pos vs).find? (fun y => y.1.1 == x) with
      | some y => y.2
      | none => .fin false 0 0))
    let p := fixedBytes gs
    let dec := fixedDecode p
    ({ kind := 4, offset := noPred, exp := 0, payload := p }, pos.map (fun x => r32 (dec.getD x.1 (.fin false 0 0))))

/-- A unit being coded: blocks so far, bytes spent, whether it fell back, the frame being built and the one before. -/
structure UnitCode where
  blocks : List Block
  spent  : Nat
  fallen : Bool
  frame  : List F32
  prev   : List F32
  deriving DecidableEq, Repr

/-- Put reconstructed values at their places in a frame. -/
def putFrame (n0 : Nat) (frame : List F32) (pos : List (Nat × Nat × Nat)) (vs : List F32) : List F32 :=
  (List.zip pos vs).foldl (fun f x => f.set (x.1.2.1 * n0 + x.1.2.2) x.2) frame

/-- Code block k of unit u (R202); `pat j i t` is the source pattern at row j, column i of the unit at time t. -/
def codeStep (h : Shape) (c : Coding) (u : Nat) (pat : Nat → Nat → Nat → Nat) (x : UnitCode) (k : Nat) : UnitCode :=
  let b := h.blockAt u k
  let first := b.2.1 == 0 && b.2.2 == 0
  let prev := if first then x.frame else x.prev
  let frame := if first then List.replicate (h.n0 u * h.n1 u) 0 else x.frame
  let pos := h.present u k
  let pats := pos.map (fun p => pat p.2.1 p.2.2 b.1)
  let ref := if h.tdim.isSome ∧ 0 < b.1 then some prev else none
  let reserve := 136 * (h.unitBlocks u - 1 - k)
  let r := codeBlock h c u ref pos pats
  let fallen := x.fallen ||
    (c.budget != 0 && decide (h.share c.mode c.budget u < x.spent + r.1.payload.length + reserve))
  let r := if fallen then codeBlock h { c with mode := 2 } u none pos pats else r
  { blocks := x.blocks ++ [r.1], spent := x.spent + r.1.payload.length, fallen := fallen,
    frame := putFrame (h.n0 u) frame pos r.2, prev := prev }

def codeUnit (h : Shape) (c : Coding) (u : Nat) (pat : Nat → Nat → Nat → Nat) : UnitCode :=
  (List.range (h.unitBlocks u)).foldl (codeStep h c u pat)
    { blocks := [], spent := 0, fallen := false, frame := [], prev := [] }

/-! ### SAVE_ACT -/

/-- The fields of SAVE_ACT and LOAD_ACT (LOAD: STORE in w4[23:0], DST in w4[47:24]). -/
structure SaveFields where
  src     : Nat
  store   : Nat
  coding  : Coding
  tpred   : Bool
  ext     : List Nat
  size    : Nat
  base    : Nat
  deriving DecidableEq, Repr

def saveFields (d : List Word) : SaveFields :=
  let w := dw d
  { src := bits (w 4) 23 0, store := bits (w 4) 47 24,
    coding := { mode := bits (w 6) 1 0, q := bits (w 6) 11 8, osearch := bit (w 6) 14, budget := w 5 }, tpred := bit (w 6) 15,
    ext := [bits (w 7) 31 0, bits (w 7) 63 32, bits (w 8) 31 0, bits (w 8) 63 32, bits (w 9) 31 0, bits (w 9) 63 32],
    size := bits (w 12) 14 8, base := bits (w 12) 5 0 }

/-- Formats a store may be made of. -/
def storeFmt (f : Fmt) : Bool := f == .f32 || f == .f16 || f == .bf16 || f == .e4m3 || f == .e5m2

/-- The code of a source format. -/
def Fmt.code : Fmt → Nat
  | .f32 => 1
  | .f16 => 2
  | .bf16 => 3
  | .e4m3 => 4
  | .e5m2 => 5
  | .bs8 => 6
  | .bs4 => 7
  | .i8 => 8
  | .i32 => 9

/-- INT8 of rank 1. -/
def isBytes (s : State) (p i : Nat) : Bool := (tens s p i).fmt == .i8 && (tens s p i).rank == 1

/-- The shape of a source with given extents. -/
def srcShape (t : Tens) (tpred : Bool) (ext : List Nat) : Shape :=
  { ext := ext, fmt := t.fmt, tdim := if tpred then some (t.timeAxis - 1) else none }

/-- The planned shape: 1 beyond the rank. -/
def plannedShape (t : Tens) (tpred : Bool) : Shape :=
  srcShape t tpred ((List.range 6).map (fun i => if i < t.rank then t.extent i else 1))

/-- A staging window of at least `n` units inside the operand store. -/
def windowBad (n size base : Nat) : Bool := decide (size < n) || decide (64 < base + size)

/-- The checks of R203 and R209. -/
def saveBad (s : State) (p : Nat) (f : SaveFields) : Bool :=
  let t := tens s p f.src
  let h := plannedShape t f.tpred
  let c := f.coding
  !storeFmt t.fmt || !isBytes s p f.store || c.mode == 3 ||
  (if c.mode = 1 then decide (c.q < 3 ∨ 12 < c.q) else c.q != 0) || (f.tpred && c.mode != 1) || (c.osearch && !f.tpred) ||
  (f.tpred && decide (t.timeAxis < 3 ∨ 6 < t.timeAxis)) ||
  (if c.mode = 2 then c.budget != 0 else c.budget != 0 && decide (c.budget < 136 * h.blocks)) ||
  ((List.range 6).any (fun i => decide (t.rank ≤ i) && f.ext.getD i 1 != 1)) ||
  windowBad (if f.tpred then 16 else 8) f.size f.base ||
  decide ((tens s p f.store).cols < h.payload + h.cap c.mode c.budget)

def saveSpec (s : State) (p : Nat) (d : List Word) : OpSpec :=
  let f := saveFields d
  { masks := [fld 47 0, fldAll, fld 15 14 + fld 11 8 + fld 1 0, fldAll, fldAll, fldAll, 0, 0, fld 14 8 + fld 5 0, 0, 0, 0],
    ins := [f.src], outs := [f.store], rws := [], bad := saveBad s p f, mismatch := false }

def saveShape (s : State) (w : Who) (d : List Word) : Nat :=
  let f := saveFields d
  let t := tens s w.part f.src
  if (List.range t.rank).any (fun i => decide (t.extent i < f.ext.getD i 1)) then 0x23
  else if (List.range t.rank).any (fun i => f.ext.getD i 1 == 0) then 0x01
  else 0

def saveGrid (s : State) (w : Who) (d : List Word) : Nat × Nat × Nat :=
  let f := saveFields d
  ((srcShape (tens s w.part f.src) f.tpred f.ext).units, 1, 1)

/-- The header of a store. -/
def headerBytes (h : Shape) (rank taxis : Nat) (c : Coding) (fallback compact : Bool) (used : Nat) : List Byte :=
  let b (x : Bool) (i : Nat) : Nat := if x then 2 ^ i else 0
  leBytes 8 (0xB017 * 2 ^ 48 + 1 * 2 ^ 40 + h.fmt.code * 2 ^ 35 + rank * 2 ^ 32 + c.mode * 2 ^ 30 + c.q * 2 ^ 26 +
    b h.tdim.isSome 25 + b c.osearch 24 + b fallback 23 + b compact 22 + taxis * 2 ^ 19) ++
  leBytes 4 (h.e 0) ++ leBytes 4 (h.e 1) ++ leBytes 4 (h.e 2) ++ leBytes 4 (h.e 3) ++ leBytes 4 (h.e 4) ++
  leBytes 4 (h.e 5) ++ leBytes 8 h.units ++ leBytes 8 h.blocks ++ leBytes 8 c.budget ++ leBytes 8 used

/-- A directory entry. -/
def dirBytes (offset : Nat) (fallback : Bool) (len : Nat) : List Byte :=
  leBytes 8 offset ++ leBytes 8 ((if fallback then 2 ^ 63 else 0) + len)

/-- Running sums: the sum before each element. -/
def prefixSums : Nat → List Nat → List Nat
  | _, [] => []
  | a, x :: t => a :: prefixSums (a + x) t

/-- The plan of SAVE_ACT. The BS4 encoding of FIXED groups (R199) adds to no num counter: R129's list does not name it (DESIGN CHOICE, log
entry 64). -/
def savePlan (s : State) (c : InFlight) : Plan :=
  let w : Who := { part := c.part, ring := c.ring }
  let f := saveFields c.desc
  let t := tens s c.part f.src
  let st := tens s c.part f.store
  let h := srcShape t f.tpred f.ext
  let b := st.outBuf (voutOf c.desc)
  let us := (List.range h.units).map (fun u =>
    codeUnit h f.coding u (fun j i tm => t.pat s w t.inBuf (t.rowIndex (h.index u tm j)) (256 * (u % h.g0) + i)))
  let offs := prefixSums 0 ((List.range h.units).map (h.share f.coding.mode f.coding.budget))
  let firsts := prefixSums 0 ((List.range h.units).map h.unitBlocks)
  let fell := us.any (·.fallen)
  let all := us.flatMap (·.blocks)
  let used := (us.map (·.spent)).sum
  { Plan.ok with
    status := if fell then 0x05 else 0
    reads := (List.range h.units).flatMap (fun u => (List.range h.times).flatMap (fun tm => (List.range (h.n1 u)).flatMap
      (fun j => t.rowRange t.inBuf (t.rowIndex (h.index u tm j)) (256 * (u % h.g0)) (h.n0 u))))
    writes := [(b, headerBytes h t.rank t.timeAxis f.coding fell false used),
        (b + 64, (List.zip offs us).flatMap (fun x => dirBytes x.1 x.2.fallen x.2.spent))] ++
      (List.zip firsts us).map (fun x => (b + h.plane + 4 * x.1, x.2.blocks.flatMap Block.header)) ++
      (List.zip offs us).map (fun x => (b + h.payload + x.1, x.2.blocks.flatMap (·.payload)))
    counts := pCounts 0x3250 c.part h.bytes ++ pCounts 0x3251 c.part used ++
      pCounts 0x3252 c.part (if f.coding.mode = 2 then 0 else (all.filter (fun x => x.kind == 4)).length) ++
      pCounts 0x3253 c.part (all.filter (fun x => x.kind == 1)).length
    acts := flipActs s c.part (voutOf c.desc) [f.store] }

/-! ### LOAD_ACT -/

/-- A store's header as read. -/
structure StoreHead where
  magic    : Nat
  layout   : Nat
  srcFmt   : Nat
  rank     : Nat
  mode     : Nat
  q        : Nat
  tpred    : Bool
  osearch  : Bool
  fallback : Bool
  taxis    : Nat
  reserved : Nat
  ext      : List Nat
  units    : Nat
  unitsHi  : Nat
  blocks   : Nat
  used     : Nat
  deriving DecidableEq, Repr

def readHead (s : State) (w : Who) (b : Nat) : StoreHead :=
  let n (o k : Nat) : Nat := vaNat s w.part w.ring (b + o) k
  let h0 := n 0 8
  { magic := bits h0 63 48, layout := bits h0 47 40, srcFmt := bits h0 39 35, rank := bits h0 34 32, mode := bits h0 31 30,
    q := bits h0 29 26, tpred := bit h0 25, osearch := bit h0 24, fallback := bit h0 23, taxis := bits h0 21 19,
    reserved := bits h0 18 0, ext := (List.range 6).map (fun i => n (8 + 4 * i) 4), units := n 32 4, unitsHi := n 36 4,
    blocks := n 40 8, used := n 56 8 }

def StoreHead.shape (x : StoreHead) : Shape :=
  { ext := x.ext, fmt := (Fmt.ofCode x.srcFmt).getD .f32, tdim := if x.tpred then some (x.taxis - 1) else none }

/-- The header's own checks (R211, R193, R197, R191). -/
def StoreHead.good (x : StoreHead) : Bool :=
  x.magic == 0xB017 && x.layout == 1 && decide (1 ≤ x.srcFmt ∧ x.srcFmt ≤ 5) && decide (1 ≤ x.rank ∧ x.rank ≤ 6) &&
  x.mode != 3 && x.reserved == 0 && x.unitsHi == 0 &&
  (if x.mode = 1 then decide (3 ≤ x.q ∧ x.q ≤ 12) else x.q == 0) && (!x.tpred || x.mode == 1) && (!x.osearch || x.tpred) &&
  (!x.tpred || decide (3 ≤ x.taxis ∧ x.taxis ≤ 6)) && (x.ext.drop x.rank).all (· == 1) && x.ext.all (· != 0) &&
  x.units == x.shape.units && x.blocks == x.shape.blocks

/-- A unit directory entry: offset, fallback, length, reserved bits. -/
def readDir (s : State) (w : Who) (b u : Nat) : Nat × Bool × Nat × Nat :=
  let u0 := vaNat s w.part w.ring (b + 64 + 16 * u) 8
  let u1 := vaNat s w.part w.ring (b + 72 + 16 * u) 8
  (bits u0 47 0, bit u1 63, bits u1 31 0, bits u0 63 48 + bits u1 62 32)

/-- A block header: kind, length, offset, reserved bits, EXP. -/
def readBlock (s : State) (w : Who) (a : Nat) : Nat × Nat × Nat × Nat × Nat :=
  let v := vaNat s w.part w.ring a 4
  (bits v 31 29, bits v 28 18, bits v 17 13, bits v 12 8, bits v 7 0)

/-- KIND, LEN, OFFSET and EXP are allowed for a block of `size` present bytes. -/
def blockGood (x : StoreHead) (fallen : Bool) (size time : Nat) (b : Nat × Nat × Nat × Nat × Nat) : Bool :=
  let k := b.1
  let predOk := b.2.2.1 == noPred ||
    (x.tpred && decide (0 < time) && (if x.osearch then decide (b.2.2.1 ≤ 8 ∨ 24 ≤ b.2.2.1) else b.2.2.1 == 0))
  b.2.2.2.1 == 0 &&
  (if k = 0 then b.2.1 == 0 && x.mode != 2 && predOk && b.2.2.2.2 == 0
   else if k = 1 then b.2.1 == size && x.mode != 2 && b.2.2.1 == noPred && b.2.2.2.2 == 0
   else if k = 2 then x.mode == 0 && decide (b.2.1 ≤ size) && b.2.2.1 == noPred &&
     decide (b.2.2.2.2 < 2 ^ ((Fmt.ofCode x.srcFmt).getD .f32).elem.eb)
   else if k = 3 then x.mode == 1 && decide (b.2.1 ≤ size) && predOk
   else k == 4 && b.2.1 == 136 && (x.mode == 2 || fallen) && b.2.2.1 == noPred && b.2.2.2.2 == 0)

/-- Stage 1 of LOAD_ACT (R211) for a store in a buffer at `b` of `cap` bytes. -/
def storeGood (s : State) (w : Who) (b cap : Nat) : Bool :=
  let x := readHead s w b
  x.good && decide (64 ≤ cap) &&
  (let h := x.shape
   let firsts := prefixSums 0 ((List.range h.units).map h.unitBlocks)
   decide (h.payload ≤ cap) &&
   (List.zip (List.range h.units) firsts).all (fun u =>
     let d := readDir s w b u.1
     let bs := (List.range (h.unitBlocks u.1)).map (fun k => (k, readBlock s w (b + h.plane + 4 * (u.2 + k))))
     d.2.2.2 == 0 && decide (d.1 + d.2.2.1 ≤ cap - h.payload) && (bs.map (fun y => y.2.2.1)).sum == d.2.2.1 &&
     bs.all (fun y => blockGood x d.2.1 ((h.present u.1 y.1).length * (h.fmt.bits / 8)) (h.blockAt u.1 y.1).1 y.2)))

/-- Where a store's directory and header plane are read in stage 1: only once the header has passed, and inside STORE (R211). -/
def stage1Reads (s : State) (w : Who) (b cap : Nat) : List (Nat × Nat) :=
  let x := readHead s w b
  (b, min 64 cap) ::
    (if x.good && decide (x.shape.payload ≤ cap) then
      [(b + 64, 16 * x.shape.units), (b + x.shape.plane, 4 * x.shape.blocks)] else [])

/-- The reconstructed values of a block, and the source patterns where no block is BOUNDED or FIXED: those of a predicted ZERO block
are its reference's. -/
def decodeBlock (h : Shape) (q u : Nat) (ref : Option (List (F32 × Nat))) (pos : List (Nat × Nat × Nat))
    (b : Nat × Nat × Nat × Nat × Nat) (payload : List Byte) : List (F32 × Nat) :=
  let n := pos.length
  let preds := match ref with
    | some r => if b.2.2.1 = noPred then pos.map (fun _ => (0, 0)) else predsAt h u r (0, 0) pos (signed 5 b.2.2.1)
    | none => pos.map (fun _ => (0, 0))
  let ofPats (ps : List Nat) : List (F32 × Nat) := ps.map (fun p => (r32 (h.fmt.value p 127), p))
  if b.1 = 0 then preds
  else if b.1 = 1 then ofPats ((chunksOf (h.fmt.bits / 8) n payload).map leNat)
  else if b.1 = 2 then ofPats (losslessDecode h.fmt.elem b.2.2.2.2 n payload)
  else if b.1 = 3 then
    (List.zipWith (reconBounded ((b.2.2.2.2 : Int) - 127) q) (preds.map (·.1)) (readIndexes n false (Decoder.start payload))).map
      (fun v => (v, 0))
  else
    let dec := fixedDecode payload
    pos.map (fun x => (r32 (dec.getD x.1 (.fin false 0 0)), 0))

/-- A unit being decoded: frames of earlier times, the frame being built, its patterns, the payload bytes left. -/
structure UnitDecode where
  done : List (List (F32 × Nat))
  frame : List (F32 × Nat)
  rest : List Byte
  deriving DecidableEq, Repr

def decodeStep (h : Shape) (q u : Nat) (x : UnitDecode) (kb : Nat × (Nat × Nat × Nat × Nat × Nat)) : UnitDecode :=
  let p := h.blockAt u kb.1
  let first := p.2.1 == 0 && p.2.2 == 0
  let done := if first && decide (0 < kb.1) then x.done ++ [x.frame] else x.done
  let frame := if first then List.replicate (h.n0 u * h.n1 u) (0, 0) else x.frame
  let ref := if h.tdim.isSome ∧ 0 < p.1 then done.getLast? else none
  let pos := h.present u kb.1
  let vs := decodeBlock h q u ref pos kb.2 (x.rest.take kb.2.2.1)
  { done := done, rest := x.rest.drop kb.2.2.1,
    frame := (List.zip pos vs).foldl (fun f y => f.set (y.1.2.1 * h.n0 u + y.1.2.2) y.2) frame }

/-- The frames of a unit, one for each time index. -/
def decodeUnit (s : State) (w : Who) (b : Nat) (x : StoreHead) (u first : Nat) : List (List (F32 × Nat)) :=
  let h := x.shape
  let d := readDir s w b u
  let bs := (List.range (h.unitBlocks u)).map (fun k => (k, readBlock s w (b + h.plane + 4 * (first + k))))
  let r := bs.foldl (decodeStep h x.q u)
    { done := [], frame := [], rest := vaBytes s w.part w.ring (b + h.payload + d.1) d.2.2.1 }
  r.done ++ [r.frame]

/-- The fields of LOAD_ACT. -/
structure LoadFields where
  store : Nat
  dst   : Nat
  sat   : Bool
  size  : Nat
  base  : Nat
  deriving DecidableEq, Repr

def loadFields (d : List Word) : LoadFields :=
  let w := dw d
  { store := bits (w 4) 23 0, dst := bits (w 4) 47 24, sat := bit (w 6) 0, size := bits (w 12) 14 8, base := bits (w 12) 5 0 }

/-- R210, and the window of the field map. -/
def loadSpec (s : State) (p : Nat) (d : List Word) : OpSpec :=
  let f := loadFields d
  { masks := [fld 47 0, 0, fld 0 0, 0, 0, 0, 0, 0, fld 14 8 + fld 5 0, 0, 0, 0], ins := [f.store], outs := [f.dst],
    rws := [], bad := !isBytes s p f.store || (tens s p f.dst).fmt.isInt || windowBad 8 f.size f.base, mismatch := false }

/-- Units that the header names; the checks of R211 are stage 1 of the command itself. -/
def loadGrid (s : State) (w : Who) (d : List Word) : Nat × Nat × Nat :=
  let f := loadFields d
  let t := tens s w.part f.store
  let x := readHead s w t.inBuf
  (if x.good then x.units else 0, 1, 1)

/-- The plan of LOAD_ACT: stage 1, then every unit (R206, R211). -/
def loadPlan (s : State) (c : InFlight) : Plan :=
  let w : Who := { part := c.part, ring := c.ring }
  let f := loadFields c.desc
  let st := tens s c.part f.store
  let b := st.inBuf
  let t := tens s c.part f.dst
  let x := readHead s w b
  let h := x.shape
  if !storeGood s w b st.cols || (x.tpred && windowBad 16 f.size f.base) then
    { Plan.stop 0x20 with reads := stage1Reads s w b st.cols }
  else if (List.range 6).any (fun i => decide ((if i < t.rank then t.extent i else 1) < h.e i)) then
    { Plan.stop 0x23 with reads := stage1Reads s w b st.cols }
  else
    let firsts := prefixSums 0 ((List.range h.units).map h.unitBlocks)
    let frames := (List.zip (List.range h.units) firsts).map (fun u => decodeUnit s w b x u.1 u.2)
    let dirs := (List.range h.units).map (readDir s w b)
    let exact := (List.range h.blocks).all (fun k => (readBlock s w (b + h.plane + 4 * k)).1 < 3)
    let ob := t.outBuf (voutOf c.desc)
    -- the rows of the tensor: each from its g0 units, left to right
    let outs := (List.range (h.units / max 1 h.g0)).flatMap (fun v => (List.range h.times).flatMap (fun tm =>
      (List.range (h.n1 (v * h.g0))).map (fun j =>
        let els := (List.range h.g0).flatMap (fun g =>
          let u := v * h.g0 + g
          (((frames.getD u []).getD tm []).drop (j * h.n0 u)).take (h.n0 u))
        let row := t.rowIndex (h.index (v * h.g0) tm j)
        if t.fmt = h.fmt ∧ exact then
          { writes := writePats t ob row 0 (els.map (fun e =>
              if (h.fmt.value e.2 127).isNan then h.fmt.elem.nanBits else e.2)), vals := [], counts := NumCounts.zero }
        else writeRow s w t ob row 0 (els.map (fun e => f32 e.1)) f.sat none)))
    { Plan.ok with
      reads := [(b, 64 + 16 * h.units), (b + h.plane, 4 * h.blocks)] ++
        dirs.map (fun d => (b + h.payload + d.1, d.2.2.1))
      writes := outs.flatMap (·.writes)
      counts := numCounts s c.part f.dst (sumCounts outs)
      acts := flipActs s c.part (voutOf c.desc) [f.dst] }

/-! ### SPILL and FETCH -/

/-- The fields of SPILL and FETCH. -/
structure SpillFields where
  src     : Nat
  dst     : Nat
  len     : Nat
  isStore : Bool
  alloc   : Bool
  unmap   : Bool
  tier    : Nat
  deriving DecidableEq, Repr

def spillFields (d : List Word) : SpillFields :=
  let w := dw d
  { src := bits (w 4) 23 0, dst := bits (w 4) 47 24, len := w 5, isStore := bit (w 6) 7, alloc := bit (w 6) 6,
    unmap := bit (w 6) 5, tier := bits (w 6) 2 0 }

/-- R215; ALLOC and UNMAP inside a replay segment are refused with the other such opcodes at acceptance. -/
def spillSpec (s : State) (p : Nat) (d : List Word) : OpSpec :=
  let f := spillFields d
  { masks := [fld 47 0, fldAll, fld 7 5 + fld 2 0, 0, 0, 0, 0, 0, 0, 0, 0, 0], ins := [f.src], outs := [f.dst], rws := [],
    bad := !isBytes s p f.src || !isBytes s p f.dst ||
      (if f.alloc then f.tier != 3 && f.tier != 4 else f.tier != 0) ||
      (if opcOf d = 0x504 then f.alloc else f.unmap) ||
      (f.alloc && (tens s p f.dst).base % 65536 != 0) || (f.isStore && f.len != 0), mismatch := false }

/-- Bytes of the copy (R212). -/
def spillBytes (s : State) (w : Who) (f : SpillFields) : Nat :=
  if f.isStore then
    let x := readHead s w (tens s w.part f.src).inBuf
    x.shape.payload + x.used
  else f.len

/-- R52 and R212 at dispatch; a mapping that R213 makes is made with the dispatch. -/
def spillShape (s : State) (w : Who) (d : List Word) : Nat :=
  let f := spillFields d
  let src := tens s w.part f.src
  if f.isStore && opcOf d == 0x503 && !storeGood s w src.inBuf src.cols then 0x20
  else
    let n := spillBytes s w f
    if src.cols < n ∨ (tens s w.part f.dst).cols < n then 0x23 else if n = 0 then 0x01 else 0

/-- A compacted store's directory (R212). -/
def compactDir (s : State) (w : Who) (b : Nat) (x : StoreHead) : List Byte :=
  let ds := (List.range x.shape.units).map (readDir s w b)
  (List.zip (prefixSums 0 (ds.map (·.2.2.1))) ds).flatMap (fun y => dirBytes y.1 y.2.2.1 y.2.2.2.1)

/-- The moves and writes of a SPILL of a store. -/
def compactMoves (s : State) (w : Who) (b o : Nat) : List (Nat × List Byte) × List Move :=
  let x := readHead s w b
  let h := x.shape
  let ds := (List.range h.units).map (readDir s w b)
  let offs := prefixSums 0 (ds.map (·.2.2.1))
  let h0 := vaNat s w.part w.ring b 8
  let mv (src dst n : Nat) : Move := { src := src, srcG := false, dst := dst, dstG := false, len := n }
  ([(o, leBytes 8 (Nat.lor h0 (2 ^ 22))), (o + 64, compactDir s w b x)],
   [mv (b + 8) (o + 8) 56, mv (b + 64 + 16 * h.units) (o + 64 + 16 * h.units) (h.payload - 64 - 16 * h.units)] ++
    (List.zip offs ds).map (fun y => mv (b + h.payload + y.2.1) (o + h.payload + y.1) y.2.2.2.1))

/-- The pages of 64 KiB that SPILL maps or FETCH unmaps: device-virtual page addresses. -/
def spillPages (base n : Nat) : List Nat := (List.range ((n + 65535) / 65536)).map (fun i => base + 65536 * i)

/-- The pages of a partition that [va, va + n) touches. -/
def coveredPages (s : State) (part va n : Nat) : List Nat :=
  (s.mem.maps.filter (fun m => m.part == part && rangesMeet (m.va, m.size) (va, n))).map (·.va)

/-- The plan of SPILL and FETCH. -/
def spillPlan (s : State) (c : InFlight) : Plan :=
  let w : Who := { part := c.part, ring := c.ring }
  let f := spillFields c.desc
  let fetch := opcOf c.desc == 0x504
  let b := (tens s c.part f.src).inBuf
  let t := tens s c.part f.dst
  let o := t.outBuf (voutOf c.desc)
  let n := spillBytes s w f
  let m := if f.isStore && !fetch then compactMoves s w b o
    else ([], [{ src := b, srcG := false, dst := o, dstG := false, len := n }])
  { Plan.ok with
    reads := if f.isStore && !fetch then [(b, 64 + 16 * (readHead s w b).shape.units)] else []
    writes := m.1
    moves := m.2
    counts := pCounts (if fetch then 0x325D else 0x325C) c.part n
    acts := flipActs s c.part (voutOf c.desc) [f.dst] ++
      (if f.alloc then (spillPages t.base n).map (.mapDone c.part) else []) ++
      (if f.unmap then (coveredPages s c.part b n).map (.unmap c.part) else []) }

/-- SAVE_ACT: code SRC into a store. -/
def execSaveAct (ring : RingId) (s : State) : Host.Outcome State Fault Refusal := .next (runOp s ring 0x501 savePlan)

/-- LOAD_ACT: check and decode a store. -/
def execLoadAct (ring : RingId) (s : State) : Host.Outcome State Fault Refusal := .next (runOp s ring 0x502 loadPlan)

/-- SPILL: copy a store or bytes down a tier. -/
def execSpill (ring : RingId) (s : State) : Host.Outcome State Fault Refusal := .next (runOp s ring 0x503 spillPlan)

/-- FETCH: bring them back. -/
def execFetch (ring : RingId) (s : State) : Host.Outcome State Fault Refusal := .next (runOp s ring 0x504 spillPlan)

end Sys2Proof.Machine
end

