-- ==== Sys2Proof/Machine/Media.lean ====
section
/-! DEFINITION. The media engines: stream contexts, DECODE with its tensor egress, ENCODE with its rate control, and the
watchdog (spec/12). What a standard's decoder or encoder makes of a bitstream is Config's. -/

namespace Sys2Proof.Machine

/-! ### Contexts (R321 to R325) -/

def findCtx (s : State) (engine ctx : Nat) : Option MediaCtx :=
  s.media.contexts.find? (fun c => c.engine == engine && c.ctx == ctx)

def setCtx (s : State) (engine ctx : Nat) (f : MediaCtx → MediaCtx) : State :=
  { s with media := { s.media with contexts := modifyFirst (fun c => c.engine == engine && c.ctx == ctx) f s.media.contexts } }

/-- The copy the current bit selects (R323). -/
def MediaCtx.now (c : MediaCtx) : StreamCopy := if c.cur then c.copyB else c.copyA

/-- Write the other copy. -/
def MediaCtx.putOther (c : MediaCtx) (x : StreamCopy) : MediaCtx := if c.cur then { c with copyA := x } else { c with copyB := x }

/-- A stream's start: the next picture decoded must be a random access point (R325; for a CREATE as for a RESET, DEDUCED, log entry
14). -/
def startCopy (codec : Nat) : StreamCopy :=
  { token := Config.mediaStart codec, pictures := 0, taken := 0, slots := [], refs := [], waiting := [], due := 0, good := none,
    lost := [], needRap := true }

/-- Bytes of a context store (R321). -/
def storeBytes (maxW maxH slots : Nat) (deep : Bool) : Nat :=
  let wa := alignUp maxW 64
  let ha := alignUp maxH 64
  let raw := wa * ha * 3 / 2 * (if deep then 2 else 1)
  65536 + slots * (alignUp raw 4096 + alignUp (raw / 128) 4096 + alignUp (wa * ha / 16) 4096)

def MediaCtx.bytes (c : MediaCtx) : Nat := storeBytes c.maxW c.maxH c.slots c.deep

/-- engine_state 3 or 5 of an engine. -/
def engineWithheld (s : State) (e : Nat) : Nat :=
  match s.media.withheld.find? (fun x => x.1 == e) with
  | some x => x.2
  | none => 0

/-- The hold of a context (R324). -/
def ctxHold (engine ctx : Nat) : Nat × Nat := (1, 512 * engine + ctx)

/-- The context changes of a commit (R323, R325). -/
def ctxFlip (s : State) (engine ctx : Nat) : State := setCtx s engine ctx (fun c => { c with cur := !c.cur })

def ctxReset (s : State) (engine ctx : Nat) : State :=
  setCtx s engine ctx (fun c => (c.putOther (startCopy c.codec)) |> fun c => { c with cur := !c.cur })

def ctxFree (s : State) (engine ctx : Nat) : State :=
  { s with media := { s.media with contexts := s.media.contexts.filter (fun c => !(c.engine == engine && c.ctx == ctx)) } }

def ctxCreate (s : State) (c : MediaCtx) : State :=
  { s with media := { s.media with contexts := s.media.contexts ++ [c] } }

/-! ### STREAM_CTX -/

structure CtxFields where
  store  : Nat
  maxW   : Nat
  maxH   : Nat
  slots  : Nat
  deep   : Bool
  encode : Bool
  codec  : Nat
  op     : Nat
  engine : Nat
  ctx    : Nat
  deriving DecidableEq, Repr

def ctxFields (d : List Word) : CtxFields :=
  let v := dw d 5
  { store := bits (dw d 4) 23 0, maxW := bits v 47 32, maxH := bits v 63 48, slots := bits v 31 24, deep := bit v 17,
    encode := bit v 16, codec := bits v 15 14, op := bits v 13 12, engine := bits v 11 9, ctx := bits v 8 0 }

/-- R322 and the field map. -/
def ctxSpec (s : State) (p : Nat) (d : List Word) : OpSpec :=
  let f := ctxFields d
  let t := tens s p f.store
  let dimBad (n : Nat) : Bool := n == 0 || decide (8192 < n) || n % 2 == 1
  { masks := [fld 23 0, fld 63 24 + fld 17 0, 0, 0, 0, 0, 0, 0, 0, 0, 0, 0], ins := [],
    outs := if f.op = 1 then [f.store] else [], rws := [],
    bad := f.op == 0 || f.codec == 3 || (f.codec == 0 && (f.encode || f.deep)) || (f.encode && decide (3 < f.engine)) ||
      (if f.op = 1 then
        (findCtx s f.engine f.ctx).isSome || dimBad f.maxW || dimBad f.maxH ||
        decide (f.slots < (if f.encode then 2 else if f.codec = 2 then 9 else 17)) ||
        t.fmt != .i8 || t.rank != 1 || decide (t.cols < storeBytes f.maxW f.maxH f.slots f.deep)
       else f.store != 0 || bits (dw d 5) 63 16 != 0),
    mismatch := false }

/-- A device-virtual range is mapped wholly in T2. -/
def inT2 (s : State) (w : Who) (va n : Nat) : Bool :=
  match rangePieces s w.part w.ring va n with
  | .error _ => false
  | .ok ps => ps.all (fun x => s.mem.maps.any (fun m => m.part == w.part && m.tier == 2 &&
      decide (m.addr ≤ x.1 ∧ x.1 + x.2 ≤ m.addr + m.size)))

/-- The context a command names is missing, of another partition, of another role, or its engine is retired (R322). -/
def ctxBad (s : State) (part : Nat) (d : List Word) : Bool :=
  match mediaName d with
  | none => false
  | some (e, i) =>
    engineWithheld s e == 5 ||
    (match findCtx s e i with
     | none => true
     | some c => c.part != part || (opcOf d == 0x700 && c.encode) || (opcOf d == 0x701 && !c.encode))

/-- R322 at dispatch: the whole of STORE, in the buffer that the context takes, is mapped in T2. -/
def ctxShape (s : State) (w : Who) (d : List Word) : Nat :=
  let f := ctxFields d
  if f.op = 1 then
    let t := tens s w.part f.store
    if engineWithheld s f.engine = 5 ∨ (findCtx s f.engine f.ctx).isSome ∨ !inT2 s w (t.outBuf (voutOf d)) t.cols then 0x20
    else 0
  else if ctxBad s w.part d then 0x20
  else 0

/-- The plan of STREAM_CTX: it writes only the store's header, whose layout is the engine's own (R321). -/
def ctxPlan (s : State) (c : InFlight) : Plan :=
  let f := ctxFields c.desc
  let t := tens s c.part f.store
  let store := if f.op = 1 then t.outBuf (voutOf c.desc) else ((findCtx s f.engine f.ctx).map (·.store)).getD 0
  { Plan.ok with
    undef := [(store, 65536)]
    acts := (match f.op with
      | 1 => [CommitAct.ctxCreate f.engine f.ctx c.part store f.codec f.encode f.deep f.maxW f.maxH f.slots]
      | 2 => [.ctxReset f.engine f.ctx]
      | _ => [.ctxFree f.engine f.ctx]) ++ flipActs s c.part (voutOf c.desc) (if f.op = 1 then [f.store] else [])
    wait := engineWithheld s f.engine == 3 }

/-! ### Egress (R329) -/

structure DecFields where
  bs     : Nat
  out    : Nat
  dmap   : Nat
  result : Nat
  grain  : Nat
  start  : Nat
  len    : Nat
  cropX  : Nat
  cropY  : Nat
  cropW  : Nat
  cropH  : Nat
  frame0 : Nat
  frames : Nat
  wOut   : Nat
  hOut   : Nat
  engine : Nat
  ctx    : Nat
  sat    : Bool
  eos    : Bool
  range  : Nat
  matrix : Nat
  resize : Nat
  dmapEn : Bool
  grainEn : Bool
  outEn  : Bool
  mean   : List F32
  istd   : List F32
  deriving DecidableEq, Repr

/-- The three means and inverse deviations of three words. -/
def normFields (a b c : Nat) : List F32 × List F32 :=
  ([bits a 31 0, bits a 63 32, bits b 31 0], [bits b 63 32, bits c 31 0, bits c 63 32])

def decFields (d : List Word) : DecFields :=
  let w := dw d
  let m := normFields (w 12) (w 13) (w 14)
  { bs := bits (w 4) 47 24, out := bits (w 4) 23 0, dmap := bits (w 5) 47 24, result := bits (w 5) 23 0,
    grain := bits (w 6) 23 0, start := w 7, len := bits (w 8) 31 0, cropX := bits (w 9) 15 0, cropY := bits (w 9) 31 16,
    cropW := bits (w 9) 47 32, cropH := bits (w 9) 63 48, frame0 := bits (w 10) 63 48, frames := bits (w 10) 47 32,
    wOut := bits (w 10) 15 0, hOut := bits (w 10) 31 16, engine := bits (w 11) 18 16, ctx := bits (w 11) 27 19,
    sat := bit (w 11) 9, eos := bit (w 11) 8, range := bits (w 11) 7 6, matrix := bits (w 11) 5 4,
    resize := bits (w 11) 3 2, dmapEn := bit (w 11) 1, grainEn := bit (w 11) 0, outEn := bit (w 15) 0, mean := m.1,
    istd := m.2 }

/-- An ISTD is zero or not finite (R340). -/
def istdBad (l : List F32) : Bool := l.any (fun x => (f32 x).isZero || !(f32 x).isFinite)

/-- R340 and the field map. -/
def decSpec (s : State) (p : Nat) (d : List Word) : OpSpec :=
  let f := decFields d
  let t (i : Nat) : Tens := tens s p i
  let egress (x : Fmt) : Bool := x == .f32 || x == .bf16 || x == .e4m3 || x == .e5m2
  { masks := [fld 47 0, fld 47 0, fld 23 0, fldAll, fld 31 0, fldAll, fldAll, fld 27 16 + fld 9 0, fldAll, fldAll, fldAll,
      fld 0 0],
    ins := [f.bs],
    outs := [f.result] ++ (if f.outEn then [f.out] else []) ++ (if f.dmapEn then [f.dmap] else []) ++
      (if f.grainEn then [f.grain] else []),
    rws := [],
    bad := (t f.bs).fmt != .i8 || (t f.bs).rank != 1 || (t f.result).fmt != .i32 || (t f.result).rank != 1 ||
      (if f.outEn then !egress (t f.out).fmt || (t f.out).rank != 4 else f.out != 0) ||
      (if f.dmapEn then (t f.dmap).fmt != .i8 || (t f.dmap).rank != 3 else f.dmap != 0) ||
      (if f.grainEn then (t f.grain).fmt != .i8 || (t f.grain).rank != 2 else f.grain != 0) ||
      decide (1024 < f.frames) || f.wOut == 0 || decide (8192 < f.wOut) || f.hOut == 0 || decide (8192 < f.hOut) ||
      f.range == 3 || f.cropX % 2 == 1 || f.cropY % 2 == 1 ||
      (f.resize == 0 && ((f.cropW != 0 && f.cropW != f.wOut) || (f.cropH != 0 && f.cropH != f.hOut))) ||
      (f.resize == 2 && ((f.cropW != 0 && decide (f.cropW < f.wOut)) || (f.cropH != 0 && decide (f.cropH < f.hOut)))) ||
      istdBad f.istd,
    mismatch := false }

def decShape (s : State) (w : Who) (d : List Word) : Nat :=
  let f := decFields d
  let t (i : Nat) : Tens := tens s w.part i
  if ctxBad s w.part d then 0x20
  else if (t f.bs).cols < f.start + f.len || decide ((t f.result).cols < 8) ||
      (f.outEn && (decide ((t f.out).cols < f.wOut) || decide ((t f.out).extent 1 < f.hOut) || decide ((t f.out).extent 2 < 3) ||
        decide ((t f.out).extent 3 < f.frame0 + f.frames))) ||
      (f.dmapEn && decide ((t f.dmap).extent 2 < f.frame0 + f.frames)) ||
      (f.grainEn && (decide ((t f.grain).cols < 512) || decide ((t f.grain).extent 1 < f.frame0 + f.frames))) then 0x23
  else if f.len = 0 ∨ f.frames = 0 then 0x01
  else 0

/-- A quotient of integers as an exact value. -/
def intRatio (num : Int) (den : Nat) : FVal := if num = 0 then .fin false 0 0 else ratio (decide (num < 0)) num.natAbs den 0

/-- Weights of a filter at source coordinate num/den of a line of n samples: (sample, weight) over a common
denominator. RESIZE 1 bilinear, 2 area average over the span num/den ± wide/den, 3 bicubic with a = −0.5. -/
def filterTaps (resize n : Nat) (num : Int) (den wide : Nat) : List (Nat × Int) × Nat :=
  let x := max 0 (min (((n : Int) - 1) * den) num)
  let i := x / den
  let r := x % den
  let clampIx (j : Int) : Nat := (max 0 (min ((n : Int) - 1) j)).toNat
  let dd : Int := den
  match resize with
  | 2 =>
    -- in units of 1/(2 den): sample j covers [2 j den, 2 (j + 1) den)
    let lo := max 0 (2 * x + dd - wide)
    let hi := min (2 * (n : Int) * dd) (2 * x + dd + wide)
    ((List.range n).filterMap (fun (j : Nat) =>
      let a := max lo (2 * (j : Int) * dd)
      let b := min hi (2 * ((j : Int) + 1) * dd)
      if a < b then some (j, b - a) else none), (hi - lo).toNat)
  | 3 =>
    -- cubic convolution kernel: inside 1.5 t³ − 2.5 t² + 1, outside −0.5 t³ + 2.5 t² − 4 t + 2; weights over 2 den³
    let inside (t : Int) : Int := 3 * t ^ 3 - 5 * t ^ 2 * dd + 2 * dd ^ 3
    let outside (t : Int) : Int := -(t ^ 3) + 5 * t ^ 2 * dd - 8 * t * dd ^ 2 + 4 * dd ^ 3
    ([(clampIx (i - 1), outside (r + dd)), (clampIx i, inside r), (clampIx (i + 1), inside (dd - r)),
      (clampIx (i + 2), outside (2 * dd - r))], 2 * den ^ 3)
  | _ => ([(clampIx i, dd - r), (clampIx (i + 1), r)], den)

/-- A plane's window: samples of a plane of a width and height from an origin, edges repeated. -/
structure Window where
  plane : List Nat
  pw    : Nat
  ph    : Nat
  x0    : Nat
  y0    : Nat
  w     : Nat
  h     : Nat
  deriving DecidableEq, Repr

def Window.at (v : Window) (x y : Nat) : Nat :=
  v.plane.getD (min (v.y0 + y) (v.ph - 1) * v.pw + min (v.x0 + x) (v.pw - 1)) 0

/-- Sample of a resized plane at (dx, dy); `off` is the chroma offset in eighths of a sample on each axis. Each filter
result is rounded to FP32 once (log entry 14). -/
def resample (resize wOut hOut : Nat) (offX offY : Int) (v : Window) (dx dy : Nat) : F32 :=
  let coord (d n out : Nat) (off : Int) : Int := 4 * ((2 * (d : Int) + 1) * n - out) + off * out
  let tx := filterTaps resize v.w (coord dx v.w wOut offX) (8 * wOut) (8 * v.w)
  let ty := filterTaps resize v.h (coord dy v.h hOut offY) (8 * hOut) (8 * v.h)
  let total := (ty.1.map (fun b => (tx.1.map (fun a => a.2 * b.2 * (v.at a.1 b.1 : Int))).sum)).sum
  r32 (intRatio total (tx.2 * ty.2))

/-- (Kr, Kb) of a matrix in units of 10⁻⁴ (R329). -/
def matrixK (m : Nat) : Int × Int := if m = 1 then (2990, 1140) else if m = 3 then (2627, 593) else (2126, 722)

/-- A constant quotient as FP32. -/
def constF32 (num : Int) (den : Nat) : F32 := r32 (intRatio num den)

/-- Map a code to Y′ or to a colour difference (R329 step 3). -/
def mapCode (b : Nat) (limited chroma : Bool) (v : F32) : F32 :=
  let k : Int := 2 ^ (b - 8)
  let zero : Int := if chroma then 128 * k else if limited then 16 * k else 0
  let span : Int := if limited then (if chroma then 224 * k else 219 * k) else 2 ^ b - 1
  r32 (((f32 v).sub (f32 (f32OfInt zero))).div (f32 (f32OfInt span)))

def clamp01 (x : F32) : F32 := f32Min f32One (f32Max 0 x)

/-- R′, G′, B′ from Y′, Cb, Cr. -/
def toRgb (m : Nat) (y cb cr : F32) : List F32 :=
  let k := matrixK m
  let kg := 10000 - k.1 - k.2
  let r := f32Add y (f32Mul (constF32 (2 * (10000 - k.1)) 10000) cr)
  let b := f32Add y (f32Mul (constF32 (2 * (10000 - k.2)) 10000) cb)
  let g := f32Sub (f32Sub y (f32Mul (constF32 (2 * k.2 * (10000 - k.2)) (10000 * kg.toNat)) cb))
    (f32Mul (constF32 (2 * k.1 * (10000 - k.1)) (10000 * kg.toNat)) cr)
  [clamp01 r, clamp01 g, clamp01 b]

/-- The matrix and range in force: the descriptor's, the stream's, or BT.709 and limited (R329). -/
def pickCode (field stream dflt : Nat) : Nat := if field ≠ 0 then field else if stream ≠ 0 then stream else dflt

/-- The crop window of R329: origin and size on each axis. A size of 0 takes the whole axis (log entry 14). -/
def cropOf (f : DecFields) (p : Config.Picture) : (Nat × Nat) × (Nat × Nat) :=
  (if f.cropW = 0 then (0, p.width) else (f.cropX, f.cropW), if f.cropH = 0 then (0, p.height) else (f.cropY, f.cropH))

/-- The crop reaches outside the picture. -/
def cropClips (f : DecFields) (p : Config.Picture) : Bool :=
  let c := cropOf f p
  decide (p.width < c.1.1 + c.1.2) || decide (p.height < c.2.1 + c.2.2)

/-- The chroma sample location in quarter luma samples: the stream's, or the codec's default, which all three codecs put level with the
left luma column and half way between two luma rows (R329; PRESUMED from their standards, log entry 14). -/
def chromaLocation (p : Config.Picture) : Int × Int := p.chroma.getD (0, 2)

/-- Channel values of position (x, y) of an emitted picture after normalising. -/
def egressAt (f : DecFields) (p : Config.Picture) (x y : Nat) : List F32 :=
  let c := cropOf f p
  let luma : Window :=
    { plane := p.luma, pw := p.width, ph := p.height, x0 := c.1.1, y0 := c.2.1, w := c.1.2, h := c.2.2 }
  let chroma (l : List Nat) : Window :=
    { plane := l, pw := (p.width + 1) / 2, ph := (p.height + 1) / 2, x0 := c.1.1 / 2, y0 := c.2.1 / 2,
      w := (c.1.2 + 1) / 2, h := (c.2.2 + 1) / 2 }
  let limited := pickCode f.range p.range 1 == 1
  let yy := if f.resize = 0 then f32OfInt (luma.at x y) else resample f.resize f.wOut f.hOut 0 0 luma x y
  let loc := chromaLocation p
  let cc (l : List Nat) : F32 :=
    let v := chroma l
    if f.resize = 0 then
      f32OfInt (Config.chromaUnfiltered x y loc.1 loc.2 v.w v.h
        ((List.range (v.w * v.h)).map (fun k => v.at (k % v.w) (k / v.w))) % 2 ^ p.bitDepth)
    else resample f.resize f.wOut f.hOut (2 - loc.1) (2 - loc.2) v x y
  let rgb := toRgb (pickCode f.matrix p.matrix 2) (mapCode p.bitDepth limited false yy) (mapCode p.bitDepth limited true (cc p.cb))
    (mapCode p.bitDepth limited true (cc p.cr))
  rgb.zipIdx.map (fun v => f32Mul (f32Sub v.1 (f.mean.getD v.2 0)) (f.istd.getD v.2 0))

/-- The rows of OUT that one emitted picture writes. -/
def egressRows (s : State) (w : Who) (f : DecFields) (t : Tens) (b k : Nat) (p : Config.Picture) : List RowOut :=
  (List.range 3).flatMap (fun ch => (List.range f.hOut).map (fun y =>
    writeRow s w t b (t.rowIndex [y, ch, f.frame0 + k]) 0
      ((List.range f.wOut).map (fun x => f32 ((egressAt f p x y).getD ch 0))) f.sat none))

/-- A sample of a rectangle of the picture was concealed. -/
def hiddenIn (p : Config.Picture) (x y w h : Nat) : Bool :=
  p.hidden.any (fun b => decide (b.x < min (x + w) p.width ∧ x < b.x + b.width ∧ b.y < min (y + h) p.height ∧ y < b.y + b.height))

/-- Some block of the picture was concealed. -/
def concealed (p : Config.Picture) : Bool := hiddenIn p 0 0 p.width p.height

/-- How many of its 64 × 64 luma blocks hold a concealed sample (R330). -/
def concealedBlocks (p : Config.Picture) : Nat :=
  ((List.range ((p.height + 63) / 64)).map (fun i => ((List.range ((p.width + 63) / 64)).filter (fun j =>
    hiddenIn p (64 * j) (64 * i) 64 64)).length)).sum

/-- DMAP of one picture (R330). -/
def dmapWrites (f : DecFields) (t : Tens) (b k : Nat) (p : Config.Picture) : List (Nat × List Byte) :=
  let cols := (p.width + 63) / 64
  let rows := (p.height + 63) / 64
  (List.range (min rows (t.extent 1))).map (fun i =>
    (b + t.rowOffset (t.rowIndex [i, f.frame0 + k]),
     (List.range (min ((cols + 7) / 8) t.cols)).map (fun j => BitVec.ofNat 8
       (((List.range 8).map (fun m => if hiddenIn p (64 * (8 * j + m)) (64 * i) 64 64 then 2 ^ m else 0)).sum))))

/-- GRAIN of one picture (R330). -/
def grainWrites (f : DecFields) (t : Tens) (b k : Nat) (p : Config.Picture) : List (Nat × List Byte) :=
  let g := p.grain.take 255
  [(b + t.rowOffset (t.rowIndex [f.frame0 + k]), leBytes 2 g.length ++ g.flatMap (fun v => leBytes 2 v.toNat))]

/-! ### DECODE -/

/-- Bit depth of a context. -/
def MediaCtx.depth (c : MediaCtx) : Nat := if c.deep then 10 else 8

/-- The "Decode support" table (R319): 4:2:0, progressive, a profile and a bit depth of the codec's row. -/
def supported (f : Config.CodedFormat) : Bool :=
  f.chroma == 1 && !f.fields && !f.extension &&
  (match f.codec with
   | 0 => (f.profile == .constrainedBaseline || f.profile == .main || f.profile == .high) && f.bitDepth == 8
   | 1 => (f.profile == .main || f.profile == .main10 || f.profile == .mainStill) && (f.bitDepth == 8 || f.bitDepth == 10)
   | _ => f.profile == .main && (f.bitDepth == 8 || f.bitDepth == 10))

/-- A coded picture is of the context's codec and bit depth, and within its maximum size (R328). -/
def fits (x : MediaCtx) (u : Config.CodedPicture) : Bool :=
  decide (u.picture.width ≤ x.maxW ∧ u.picture.height ≤ x.maxH) && u.format.bitDepth == x.depth && u.format.codec == x.codec

/-- A command's decoding so far: the stream state as it stands, bytes consumed, slots written, pictures decoded or concealed and
pictures emitted, in output order. -/
structure DecodeRun where
  copy     : StreamCopy
  pos      : Nat
  written  : List Nat
  made     : List Config.Picture
  out      : List Config.Picture
  /-- pictures taken, for the watchdog's count -/
  pics     : Nat
  units    : Nat
  resyncs  : Nat
  reason   : Nat
  noSlot   : Bool
  /-- no further complete unit -/
  ended    : Bool
  deriving DecidableEq, Repr

/-- Why nothing of a picture can be decoded, as R330's element 3 numbers it; 0: it can. A picture of another codec counts as one beyond
the context, and `blocked` is one that R333 conceals whole (DEDUCED, log entry 14). -/
def refusal (x : MediaCtx) (u : Config.CodedPicture) (blocked : Bool) : Nat :=
  if u.orphan then 1
  else if !supported u.format then 2
  else if !fits x u then 4
  else if u.damaged || blocked then 3
  else 0

/-- A picture is concealed whole until the next random access point: it follows a RESET, or depends on an undecodable one (R333). -/
def mustConceal (r : DecodeRun) (u : Config.CodedPicture) : Bool :=
  !u.access && (r.copy.needRap || u.refs.any r.copy.lost.contains)

/-- The picture with the blocks that were not decoded: all of one of which nothing can be decoded, and what was still undecoded of one
that the watchdog abandons (R331). Samples are of the context's depth; only AV1 has film grain (R330); a picture without parameter sets
has the last good one's size. -/
def shapePicture (x : MediaCtx) (r : DecodeRun) (u : Config.CodedPicture) (why : Nat) (abandoned : Bool) : Config.Picture :=
  let size := match u.orphan, r.copy.good with
    | true, some g => (g.width, g.height)
    | _, _ => (u.picture.width, u.picture.height)
  let codes (l : List Nat) : List Nat := l.map (· % 2 ^ x.depth)
  let p := u.picture
  { p with
    width := size.1, height := size.2, bitDepth := x.depth, luma := codes p.luma, cb := codes p.cb, cr := codes p.cr
    grain := if x.codec = 2 then p.grain else []
    hidden := if why ≠ 0 then [{ x := 0, y := 0, width := size.1, height := size.2 }]
      else if abandoned then p.hidden ++ u.undone else p.hidden }

/-- A sample of the most recently decoded good picture, or the middle level where there is none (R333). -/
def concealSample (depth : Nat) (good : Option Config.Picture) (plane px py : Nat) : Nat :=
  match good with
  | some g =>
    let half := if plane = 0 then 1 else 2
    let line := if plane = 0 then g.luma else if plane = 1 then g.cb else g.cr
    let w := (g.width + half - 1) / half
    line.getD (min py ((g.height + half - 1) / half - 1) * w + min px (w - 1)) 0
  | none => 2 ^ (depth - 1)

/-- Conceal the blocks of a picture that were not decoded correctly (R333). -/
def concealPicture (good : Option Config.Picture) (p : Config.Picture) : Config.Picture :=
  let plane (i half : Nat) (l : List Nat) : List Nat :=
    let w := (p.width + half - 1) / half
    (List.range (w * ((p.height + half - 1) / half))).map (fun k =>
      if hiddenIn p (half * (k % w)) (half * (k / w)) half half then concealSample p.bitDepth good i (k % w) (k / w) else l.getD k 0)
  if concealed p then { p with luma := plane 0 1 p.luma, cb := plane 1 2 p.cb, cr := plane 2 2 p.cr } else p

/-- A slot joins what waits for output, at its place in output order (R326). -/
def insertWaiting (x : Nat × Int) : List (Nat × Int) → List (Nat × Int)
  | [] => [x]
  | y :: t => if x.2 < y.2 then x :: y :: t else y :: insertWaiting x t

/-- A slot that is shown waits for output, and some of what waits is due. -/
def StreamCopy.shown (c : StreamCopy) (slot : Nat) (u : Config.CodedPicture) : StreamCopy :=
  let waiting := match u.place with
    | some k => insertWaiting (slot, k) c.waiting
    | none => c.waiting
  { c with waiting := waiting, due := min u.due waiting.length, refs := u.kept }

/-- Emit the pictures that are due, in output order, up to FRAMES (R326). -/
def emitDue (frames : Nat) (r : DecodeRun) : DecodeRun :=
  let n := min r.copy.due (frames - r.out.length)
  { r with
    out := r.out ++ (r.copy.waiting.take n).filterMap (fun y => (r.copy.slots.find? (fun p => p.1 == y.1)).map (·.2))
    copy := { r.copy with waiting := r.copy.waiting.drop n, due := r.copy.due - n } }

/-- A slot that the current copy does not reference and the command has not written (R323). -/
def freeSlot (x : MediaCtx) (r : DecodeRun) : Option Nat :=
  (List.range x.slots).find? (fun k => x.now.slots.all (fun y => y.1 != k) && !r.written.contains k)

/-- Take one picture: it goes to a slot with its damaged blocks concealed, and becomes a reference like any other. One of which nothing
can be decoded is concealed whole, and is left out where there is nothing to conceal from (R333, R334). -/
def takePicture (x : MediaCtx) (slot : Nat) (abandoned : Bool) (u : Config.CodedPicture) (r : DecodeRun) : DecodeRun :=
  let why := refusal x u (mustConceal r u)
  let c : StreamCopy := { r.copy with taken := r.copy.taken + 1, pictures := r.copy.pictures + 1 }
  let r := { r with pics := r.pics + 1 }
  if why ≠ 0 ∧ c.good.isNone then
    { r with copy := { c with needRap := true }, reason := if r.reason = 0 then why else r.reason }
  else
    let q := concealPicture c.good (shapePicture x r u why abandoned)
    let good := why == 0 && u.access
    let c : StreamCopy := { c with
      slots := c.slots.filter (fun (y : Nat × Config.Picture) => y.1 != slot) ++ [(slot, q)]
      good := if concealed q then c.good else some q
      lost := if why ≠ 0 then slot :: c.lost else if good then [] else c.lost.filter (· != slot)
      needRap := c.needRap && !good }
    { r with copy := c.shown slot u, written := r.written ++ [slot], made := r.made ++ [q] }

/-- The pictures of one unit, from the first that is not taken yet; a picture that is only shown needs no slot, and one that finds no
free slot stops the command at its boundary (R326, R327). -/
def unitRun (x : MediaCtx) (frames : Nat) (abandoned : List Nat) (bytes : List Byte) : Nat → DecodeRun → DecodeRun
  | 0, r => r
  | n + 1, r =>
    let slot := freeSlot x r
    let u := Config.mediaPicture x.codec r.copy.token r.copy.slots (slot.getD 0) bytes r.copy.taken
    match u.shows, slot with
    | some k, _ =>
      unitRun x frames abandoned bytes n (emitDue frames { r with copy := { r.copy.shown k u with taken := r.copy.taken + 1 } })
    | none, none => { r with noSlot := true }
    | none, some k =>
      unitRun x frames abandoned bytes n (emitDue frames (takePicture x k (abandoned.contains r.pics) u r))

/-- Decode unit after unit, in decoding order: to the end of the complete units, to FRAMES pictures, or to a picture that finds no slot
(R326, R327, R331). -/
def decodeUnits (x : MediaCtx) (bytes : List Byte) (frames : Nat) (abandoned : List Nat) : Nat → DecodeRun → DecodeRun
  | 0, r => { r with ended := true }
  | n + 1, r =>
    match Config.mediaUnit x.codec r.copy.token (bytes.drop r.pos) with
    | none => { r with ended := true }
    | some u =>
      let len := max 1 u.consumed
      if frames ≤ r.out.length then r
      else if bytes.length < r.pos + len then { r with ended := true }
      else
        let r := unitRun x frames abandoned ((bytes.drop r.pos).take len) (u.pictures - r.copy.taken) r
        if r.noSlot then r
        else decodeUnits x bytes frames abandoned n { r with
          pos := r.pos + len, units := r.units + 1, resyncs := r.resyncs + u.resyncs
          copy := { r.copy with token := u.next, taken := 0 } }

/-- What the command's bytes decode to; at the end of the stream everything that waits is emitted, up to FRAMES (R327). -/
def decodeRun (s : State) (w : Who) (c : InFlight) (f : DecFields) (x : MediaCtx) : DecodeRun :=
  let bs := tens s w.part f.bs
  let start : DecodeRun :=
    { copy := x.now, pos := 0, written := [], made := [], out := [], pics := 0, units := 0, resyncs := 0, reason := 0,
      noSlot := false, ended := false }
  let r := decodeUnits x (vaBytes s w.part w.ring (bs.inBuf + f.start) f.len) f.frames
    ((s.media.abandoned.filter (fun a => a.1 == c.ring)).map (·.2)) f.len (emitDue f.frames start)
  if f.eos && r.ended then emitDue f.frames { r with copy := { r.copy with due := r.copy.waiting.length } } else r

/-- The stream state that a DECODE commits: slots that nothing refers to or waits for are free; after EOS a new stream starts. -/
def DecodeRun.final (r : DecodeRun) (codec : Nat) (eos : Bool) : StreamCopy :=
  if eos && r.ended then startCopy codec
  else { r.copy with slots := r.copy.slots.filter (fun y =>
    r.copy.refs.contains y.1 || r.copy.waiting.any (fun v => v.1 == y.1)) }

/-- What a media command does: its plan, the context's other copy (R323), the pictures it processes. -/
structure MediaRun where
  plan     : Plan
  copy     : Option StreamCopy
  pictures : Nat
  deriving DecidableEq, Repr

/-- A media command that cannot run yet. -/
def MediaRun.waits : MediaRun := { plan := { Plan.ok with wait := true }, copy := none, pictures := 0 }

/-- Counter additions of a media counter for an engine. -/
def mCounts (index engine n : Nat) : List (Nat × Nat) := [(dk index (engine + 1), n), (dk index 0xFF, n)]

/-- The eight INT32 elements of a RESULT tensor. -/
def resultWrite (s : State) (part idx : Nat) (vout : Bool) (vs : List Nat) : List (Nat × List Byte) :=
  let t := tens s part idx
  [(t.outBuf vout, vs.flatMap (leBytes 4))]

/-- What DECODE does (R323, R326 to R334). -/
def decPlan (s : State) (c : InFlight) : MediaRun :=
  let f := decFields c.desc
  let w : Who := { part := c.part, ring := c.ring }
  let v := voutOf c.desc
  match findCtx s f.engine f.ctx with
  | none => MediaRun.waits
  | some x =>
    let o := decodeRun s w c f x
    let ps := o.out
    let made := o.made
    let dead := decide (0 < o.units) && made.isEmpty && ps.isEmpty && o.reason != 0
    let any := ps.any concealed
    let last := ps.getLast?
    let t (i : Nat) : Tens := tens s c.part i
    let rows := if f.outEn then ps.zipIdx.flatMap (fun y => egressRows s w f (t f.out) ((t f.out).outBuf v) y.2 y.1) else []
    let result := resultWrite s c.part f.result v
      [o.pos, ps.length, (ps.filter concealed).length, if dead then o.reason else 0,
       (last.map (·.width)).getD 0, (last.map (·.height)).getD 0, (last.map (·.bitDepth)).getD 0,
       (if f.eos && o.ended && !dead then 1 else 0) + (if o.noSlot then 2 else 0) + (if ps.any (fun p => !p.grain.isEmpty) then 4 else 0)]
    let outs := (if f.outEn then [f.out] else []) ++ (if f.dmapEn then [f.dmap] else []) ++ (if f.grainEn then [f.grain] else [])
    let eng := f.engine
    let counts := mCounts 0x32B0 eng made.length ++ mCounts 0x32B1 eng (made.filter concealed).length ++
      mCounts 0x32B2 eng (made.map concealedBlocks).sum ++
      mCounts 0x32B3 eng o.resyncs ++ mCounts 0x32B4 eng (if dead then 1 else 0) ++
      (if f.outEn then mCounts 0x32B6 eng ((ps.filter (cropClips f)).length) else [])
    let reads := [((t f.bs).inBuf + f.start, f.len)]
    let wait := engineWithheld s eng == 3
    if dead then
      { plan := { Plan.stop 0x42 with
          reads := reads
          writes := result
          undef := outs.map (fun i => ((t i).outBuf v, (t i).span))
          counts := counts
          wait := wait }
        copy := none, pictures := o.pics }
    else
      { plan := { Plan.ok with
          status := if any then 3 else 0
          reads := reads
          writes := rows.flatMap (·.writes) ++
            (if f.dmapEn then ps.zipIdx.flatMap (fun y => dmapWrites f (t f.dmap) ((t f.dmap).outBuf v) y.2 y.1) else []) ++
            (if f.grainEn then ps.zipIdx.flatMap (fun y => grainWrites f (t f.grain) ((t f.grain).outBuf v) y.2 y.1) else []) ++
            result
          undef := [(x.store, x.bytes)]
          counts := counts ++ numCounts s c.part f.out (sumCounts rows)
          acts := .ctxFlip eng f.ctx :: flipActs s c.part v (f.result :: outs)
          wait := wait }
        copy := some (o.final x.codec f.eos), pictures := o.pics }

/-! ### ENCODE -/

structure EncFields where
  bsout  : Nat
  inp    : Nat
  result : Nat
  offset : Nat
  bKey   : Nat
  bInter : Nat
  keyint : Nat
  frame0 : Nat
  frames : Nat
  engine : Nat
  ctx    : Nat
  force  : Bool
  range  : Nat
  matrix : Nat
  qp     : Nat
  mean   : List F32
  istd   : List F32
  deriving DecidableEq, Repr

def encFields (d : List Word) : EncFields :=
  let w := dw d
  let m := normFields (w 10) (w 11) (w 12)
  { bsout := bits (w 4) 47 24, inp := bits (w 4) 23 0, result := bits (w 5) 23 0, offset := w 6, bKey := bits (w 7) 31 0,
    bInter := bits (w 7) 63 32, keyint := bits (w 8) 47 32, frame0 := bits (w 8) 31 16, frames := bits (w 8) 15 0,
    engine := bits (w 9) 17 15, ctx := bits (w 9) 26 18, force := bit (w 9) 12, range := bits (w 9) 11 10,
    matrix := bits (w 9) 9 8, qp := bits (w 9) 5 0, mean := m.1, istd := m.2 }

/-- R338: a budget below the cost of the cheapest coding. -/
def budgetBad (f : EncFields) (c : MediaCtx) : Bool :=
  let u := (c.maxW + 63) / 64
  let n := (c.maxH + 63) / 64
  decide (f.bKey < 1024 + 12 * u * n) || decide (f.bInter < 128 + 2 * u * n)

def encSpec (s : State) (p : Nat) (d : List Word) : OpSpec :=
  let f := encFields d
  let t (i : Nat) : Tens := tens s p i
  let inFmt := (t f.inp).fmt
  { masks := [fld 47 0, fld 23 0, fldAll, fldAll, fld 47 0, fld 26 15 + fld 12 8 + fld 5 0, fldAll, fldAll, fldAll, 0, 0, 0],
    ins := [f.inp], outs := [f.bsout, f.result], rws := [],
    bad := (t f.bsout).fmt != .i8 || (t f.bsout).rank != 1 || (t f.result).fmt != .i32 || (t f.result).rank != 1 ||
      !(inFmt == .f32 || inFmt == .f16 || inFmt == .bf16) || (t f.inp).rank != 4 || decide (1024 < f.frames) ||
      f.keyint == 0 || decide (3 < f.engine) || f.range == 0 || f.range == 3 || f.matrix == 0 || istdBad f.istd ||
      (match findCtx s f.engine f.ctx with
       | some c => c.encode && budgetBad f c
       | none => false),
    mismatch := false }

def encShape (s : State) (w : Who) (d : List Word) : Nat :=
  let f := encFields d
  let t (i : Nat) : Tens := tens s w.part i
  match findCtx s f.engine f.ctx with
  | none => 0x20
  | some c =>
    if ctxBad s w.part d || budgetBad f c then 0x20
    else if decide ((t f.bsout).cols < f.offset + f.frames * max f.bKey f.bInter) || decide ((t f.result).cols < 8) ||
        decide ((t f.inp).cols < c.maxW) || decide ((t f.inp).extent 1 < c.maxH) || decide ((t f.inp).extent 2 < 3) ||
        decide ((t f.inp).extent 3 < f.frame0 + f.frames) then 0x23
    else if f.frames = 0 then 0x01
    else 0

/-- A component on the scale of the codes of a bit depth under RANGE, not yet rounded (R335 step 3). -/
def codeScale (b : Nat) (limited chroma : Bool) (v : F32) : F32 :=
  let k : Int := 2 ^ (b - 8)
  let zero : Int := if chroma then 128 * k else if limited then 16 * k else 0
  let span : Int := if limited then (if chroma then 224 * k else 219 * k) else 2 ^ b - 1
  f32Add (f32Mul v (f32OfInt span)) (f32OfInt zero)

/-- Y′, Cb, Cr of one position of IN, on the scale of the codes (R335 steps 1 to 3). -/
def ingestAt (s : State) (w : Who) (f : EncFields) (b frame x y : Nat) : F32 × F32 × F32 :=
  let t := tens s w.part f.inp
  let limited := f.range == 1
  let v (ch : Nat) : F32 :=
    clamp01 (f32Add (r32 ((f32 (t.f32 s w (t.rowIndex [y, ch, frame]) x)).div (f32 (f.istd.getD ch 0)))) (f.mean.getD ch 0))
  let k := matrixK f.matrix
  let yy := f32Add (f32Add (f32Mul (constF32 k.1 10000) (v 0)) (f32Mul (constF32 (10000 - k.1 - k.2) 10000) (v 1)))
    (f32Mul (constF32 k.2 10000) (v 2))
  (codeScale b limited false yy,
   codeScale b limited true (r32 ((f32 (f32Sub (v 2) yy)).div (f32 (constF32 (2 * (10000 - k.2)) 10000)))),
   codeScale b limited true (r32 ((f32 (f32Sub (v 0) yy)).div (f32 (constF32 (2 * (10000 - k.1)) 10000)))))

/-- A code of a bit depth (R335 step 5). -/
def toCode (b : Nat) (v : F32) : Nat := (toIntSat 0 (2 ^ b - 1) (f32 v)).toNat

/-- The sample planes of one picture of IN. -/
def ingest (s : State) (w : Who) (f : EncFields) (c : MediaCtx) (frame : Nat) : List Nat × List Nat × List Nat :=
  let b := if c.deep then 10 else 8
  let luma := (List.range c.maxH).flatMap (fun y => (List.range c.maxW).map (fun x =>
    toCode b (ingestAt s w f b frame x y).1))
  let quad (pick : F32 × F32 × F32 → F32) : List Nat :=
    (List.range (c.maxH / 2)).flatMap (fun y => (List.range (c.maxW / 2)).map (fun x =>
      let q (i j : Nat) : F32 := pick (ingestAt s w f b frame (2 * x + i) (2 * y + j))
      toCode b (f32Mul (f32Add (f32Add (q 0 0) (q 1 0)) (f32Add (q 0 1) (q 1 1))) (constF32 1 4))))
  (luma, quad (·.2.1), quad (·.2.2))

/-! #### Motion search (R336) -/

/-- A sample of the edge-extended reference, the previous coded picture (R320): positions beyond the plane read its nearest sample. -/
def referenceAt (job : Config.EncodeJob) (plane : Nat) (x y : Int) : Nat :=
  let half : Nat := if plane = 0 then 1 else 2
  let inside (v : Int) (size : Nat) : Nat := min v.toNat (size / half - 1)
  match job.reference with
  | none => 0
  | some p =>
    (if plane = 0 then p.luma else if plane = 1 then p.cb else p.cr).getD
      (inside y job.height * (job.width / half) + inside x job.width) 0

/-- Column `k` of the picture's columns of 64 luma samples, over the 192 luma rows of the window of unit row `row`. -/
def windowColumn (job : Config.EncodeJob) (row : Nat) (k : Int) : Config.WindowColumn :=
  let plane (i side : Nat) : List Nat := (List.range (3 * side)).flatMap (fun y => (List.range side).map (fun x =>
    referenceAt job i (k * side + x) ((row : Int) * side - side + y)))
  { luma := plane 0 64, cb := plane 1 32, cr := plane 2 32 }

/-- The window at the start of a row: two columns each side of the first coding tree unit, loaded afresh. -/
def freshWindow (job : Config.EncodeJob) (row : Nat) : List Config.WindowColumn :=
  [-2, -1, 0, 1, 2].map (windowColumn job row)

/-- The window slides to unit `col`: its leftmost column is dropped and one new column loaded. -/
def slideWindow (job : Config.EncodeJob) (row col : Nat) (win : List Config.WindowColumn) : List Config.WindowColumn :=
  win.drop 1 ++ [windowColumn job row (col + 2)]

/-- A predicted block lies within its coding tree unit of 64 × 64 luma samples. -/
def confine (b : Config.MotionBlock) : Config.MotionBlock :=
  { b with x := b.x % 64, y := b.y % 64, width := max 1 (min b.width (64 - b.x % 64)), height := max 1 (min b.height (64 - b.y % 64)) }

/-- The vector a search settles on, in quarter samples: of those that keep the block, which lies in its unit, inside the window, which
spans 128 samples left and right of the coding tree unit and 64 above and below it. -/
def searchVector (b : Config.MotionBlock) : Int × Int :=
  let among (reach start size pick : Nat) : Int :=
    (pick % (4 * (2 * reach + 64 - size) + 1) : Nat) - (4 * (reach + start) : Nat)
  (among 128 b.x b.width b.pickX, among 64 b.y b.height b.pickY)

/-- The searches of `n` coding tree units of a row, from unit `col` with its window. -/
def rowSearch (job : Config.EncodeJob) (row : Nat) : Nat → Nat → List Config.WindowColumn → List Config.UnitSearch
  | 0, _, _ => []
  | n + 1, col, win =>
    { window := win,
      vectors := (Config.mediaSearch job row col win).map (fun b => (confine b, searchVector (confine b))) } ::
      rowSearch job row n (col + 1) (slideWindow job row (col + 1) win)

/-- Where a picture's coding stands (R337). -/
structure RowState where
  bytes  : List Byte
  spent  : Nat
  reserve : Nat
  fallen : Bool
  rows   : Nat
  deriving DecidableEq, Repr

/-- Rows of a picture from row `i` (R337); a row that falls back is coded again from the saved coder state. -/
def codeRows (job : Config.EncodeJob) (bound : Nat) : Nat → Nat → RowState → RowState
  | 0, _, r => r
  | n + 1, i, r =>
    let reserve := r.reserve - bound
    let search := if job.key then [] else rowSearch job i ((job.width + 63) / 64) 0 (freshWindow job i)
    let row (fallen : Bool) : Config.RowCode := Config.mediaEncodeRow job search i fallen r.bytes
    let fallen := r.fallen || decide (job.budget < r.spent + (row r.fallen).normal.length + reserve)
    let out := if fallen then (row true).cheapest.take bound else (row r.fallen).normal
    codeRows job bound n (i + 1)
      { bytes := r.bytes ++ out, spent := r.spent + out.length, reserve := reserve, fallen := fallen,
        rows := r.rows + (if fallen then 1 else 0) }

/-- A size in groups of 7 bits, the last without its top bit (AV1's leb128). -/
def leb128 : Nat → Nat → List Byte
  | 0, _ => []
  | fuel + 1, n => if n < 128 then [BitVec.ofNat 8 n] else BitVec.ofNat 8 (n % 128 + 128) :: leb128 fuel (n / 128)

/-- A unit of the output stream (R320): a NAL unit behind a start code in an Annex B byte stream, or an OBU of a type with its size field
in the low-overhead format (byte values PRESUMED from the two standards, log entry 14). -/
def framed (codec type : Nat) (payload : List Byte) : List Byte :=
  if codec = 1 then [0, 0, 1] ++ payload else BitVec.ofNat 8 (8 * type + 2) :: leb128 8 payload.length ++ payload

/-- One coded picture: its bytes, and the rows that fell back. A key picture carries its three parameter sets or its sequence header
(R335), every picture is one slice or one tile group (R320), and what is no row fits the overhead bound of R337's table. -/
def codePicture (job : Config.EncodeJob) : List Byte × Nat :=
  let u := (job.width + 63) / 64
  let n := (job.height + 63) / 64
  let bound := u * (if job.key then 12 else 2)
  let sets := if !job.key then 0 else if job.codec = 1 then 3 else 1
  let heads := (List.range sets).flatMap (fun k => framed job.codec 1 ((Config.mediaEncodeHeader job k).take 240))
  let r := codeRows job bound n 0
    { bytes := [], spent := if job.key then 1024 else 128, reserve := n * bound, fallen := false, rows := 0 }
  (heads ++ framed job.codec 6 ((Config.mediaEncodeHeader job sets).take 100 ++ r.bytes), r.rows)

/-- The bundle that runs: that of the active slot. -/
def bootedBundle (s : State) : List Byte := if dGet s (dk 0x1300 1) = 1 then s.fw.slot1.bytes else s.fw.slot0.bytes

/-- What the coding of the next picture of a command depends on (R337). -/
def encodeJob (s : State) (f : EncFields) (c : MediaCtx) (copy : StreamCopy) (pl : List Nat × List Nat × List Nat) :
    Config.EncodeJob :=
  let key := f.force || copy.pictures % f.keyint == 0
  { codec := c.codec, state := copy.token, key := key, qp := f.qp, budget := if key then f.bKey else f.bInter, width := c.maxW,
    height := c.maxH, depth := c.depth, matrix := f.matrix, range := f.range, luma := pl.1, cb := pl.2.1, cr := pl.2.2,
    reference := copy.good, firmware := bootedBundle s }

/-- The picture that a coded picture decodes to, with the context's dimensions. -/
def rebuilt (job : Config.EncodeJob) (coded : List Byte) : Config.Picture :=
  let p := Config.mediaRebuilt job coded
  let codes (l : List Nat) : List Nat := l.map (· % 2 ^ job.depth)
  { p with width := job.width, height := job.height, bitDepth := job.depth, luma := codes p.luma, cb := codes p.cb, cr := codes p.cr }

/-- The pictures of a command, in order. -/
structure EncRun where
  bytes  : List Byte
  copy   : StreamCopy
  fallen : Nat
  rows   : Nat
  keys   : Nat
  deriving DecidableEq, Repr

/-- The slot that an ENCODE writes its pictures to: one that the current copy does not reference. Each picture takes the place of the one
before it, since only the previous picture is referred to and a context may have no more than two slots (DEDUCED, log entry 14). -/
def encodeSlot (x : MediaCtx) : Nat := ((List.range x.slots).find? (fun k => x.now.slots.all (fun y => y.1 != k))).getD 0

def encRun (s : State) (w : Who) (f : EncFields) (c : MediaCtx) : EncRun :=
  (List.range f.frames).foldl (fun r k =>
    let job := encodeJob s f c r.copy (ingest s w f c (f.frame0 + k))
    let p := codePicture job
    let q := rebuilt job p.1
    { bytes := r.bytes ++ p.1,
      copy := { r.copy with
        token := Config.mediaEncodeNext job p.1, pictures := r.copy.pictures + 1, slots := [(encodeSlot c, q)],
        refs := [encodeSlot c], good := some q, needRap := false },
      fallen := r.fallen + (if p.2 = 0 then 0 else 1), rows := r.rows + p.2, keys := r.keys + (if job.key then 1 else 0) })
    { bytes := [], copy := c.now, fallen := 0, rows := 0, keys := 0 }

/-- What ENCODE does (R335 to R338). -/
def encPlan (s : State) (c : InFlight) : MediaRun :=
  let f := encFields c.desc
  let w : Who := { part := c.part, ring := c.ring }
  let v := voutOf c.desc
  match findCtx s f.engine f.ctx with
  | none => MediaRun.waits
  | some x =>
    let r := encRun s w f x
    let t := tens s c.part f.bsout
    let inp := tens s c.part f.inp
    { plan := { Plan.ok with
        reads := (List.range f.frames).flatMap (fun k => (List.range 3).flatMap (fun ch => (List.range x.maxH).flatMap (fun y =>
          inp.rowRange inp.inBuf (inp.rowIndex [y, ch, f.frame0 + k]) 0 x.maxW)))
        writes := (t.outBuf v + f.offset, r.bytes) ::
          resultWrite s c.part f.result v [r.bytes.length, f.frames, r.fallen, r.keys, 0, 0, 0, 0]
        undef := [(x.store, x.bytes)]
        counts := mCounts 0x32B7 f.engine f.frames ++ mCounts 0x32B8 f.engine r.rows
        acts := .ctxFlip f.engine f.ctx :: flipActs s c.part v [f.bsout, f.result]
        wait := engineWithheld s f.engine == 3 }
      copy := some r.copy, pictures := f.frames }

/-! ### The rows -/

/-- Up to 8 commands are active on an engine at once (R324). -/
def engineFull (s : State) (c : InFlight) (engine : Nat) : Bool :=
  decide (8 ≤ (s.hop.inflight.filter (fun x => decide (x.order < c.order) && !x.executed &&
    (mediaName x.desc).any (fun n => n.1 == engine))).length)

/-- Another context of the engine has a DECODE or ENCODE that is active: the two take turns, a picture each (R324). -/
def othersActive (s : State) (engine ctx : Nat) : Bool :=
  s.hop.inflight.any (fun x => !x.executed && x.discard.isNone && opcOf x.desc != 0x702 &&
    (mediaName x.desc).any (fun n => n.1 == engine && n.2 != ctx))

/-- The engine has worked on pictures of a context: each that follows one of another context is a switch. While other contexts are
active every picture follows one of theirs (DESIGN CHOICE, log entry 14: a command runs in one step, so its turns are counted and not
interleaved). -/
def noteCtx (s : State) (engine ctx pictures : Nat) : State :=
  if pictures = 0 then s
  else
    let first := if s.media.lastCtx.contains (engine, ctx) then 0 else 1
    let s := count s 0x32B9 (engine + 1) (first + (if othersActive s engine ctx then pictures - 1 else 0))
    { s with media := { s.media with lastCtx := s.media.lastCtx.filter (fun x => x.1 != engine) ++ [(engine, ctx)] } }

/-- Run a media command, unless an armed injection of kind 10 fires at its picture (R430): the plan, then the context's other copy; the
current bit turns only at the commit (R323). -/
def runMedia (s : State) (ring opc : Nat) (f : State → InFlight → MediaRun) : State :=
  match readyFlight s ring opc with
  | none => s
  | some c =>
    match mediaName c.desc with
    | none => s
    | some (e, i) =>
      if engineFull s c e then s
      else if opc ≠ 0x702 ∧ engineWithheld s e = 0 ∧ s.hlth.injections.any (fun i => i.kind == 10 && i.unit.toNat == e) then
        fireInjection s c.part (fun i => i.kind == 10 && i.unit.toNat == e)
      else
        let r := f s c
        let s' := runPlan s ring c r.plan
        if (flightOf s' ring).any (fun x => x.executed) then
          let s' := noteCtx s' e i r.pictures
          let s' := { s' with media := { s'.media with abandoned := s'.media.abandoned.filter (fun a => a.1 != ring) } }
          match r.copy with
          | some x => setCtx s' e i (fun m => m.putOther x)
          | none => s'
        else s'

/-- STREAM_CTX runs only the row of its OP. -/
def ctxRowPlan (op : Nat) (s : State) (c : InFlight) : MediaRun :=
  if (ctxFields c.desc).op = op then { plan := ctxPlan s c, copy := none, pictures := 0 } else MediaRun.waits

/-- DECODE. -/
def execDecode (ring : RingId) (s : State) : Host.Outcome State Fault Refusal := .next (runMedia s ring.toNat 0x700 decPlan)

/-- ENCODE. -/
def execEncode (ring : RingId) (s : State) : Host.Outcome State Fault Refusal := .next (runMedia s ring.toNat 0x701 encPlan)

/-- STREAM_CTX, OP CREATE. -/
def execStreamCtxCreate (ring : RingId) (s : State) : Host.Outcome State Fault Refusal :=
  .next (runMedia s ring.toNat 0x702 (ctxRowPlan 1))

/-- STREAM_CTX, OP RESET. -/
def execStreamCtxReset (ring : RingId) (s : State) : Host.Outcome State Fault Refusal :=
  .next (runMedia s ring.toNat 0x702 (ctxRowPlan 2))

/-- STREAM_CTX, OP DESTROY. -/
def execStreamCtxDestroy (ring : RingId) (s : State) : Host.Outcome State Fault Refusal :=
  .next (runMedia s ring.toNat 0x702 (ctxRowPlan 3))

/-- A picture of the DECODE in flight on a ring has run too long: its undecoded blocks are concealed, and it counts once (R331). -/
def execMediaWatchdog (ring : RingId) (picture : BitVec 16) (s : State) : Host.Outcome State Fault Refusal :=
  .next (match readyFlight s ring.toNat 0x700 with
    | none => s
    | some c =>
      if s.media.abandoned.contains (ring.toNat, picture.toNat) then s
      else
      let s := { s with media := { s.media with abandoned := s.media.abandoned ++ [(ring.toNat, picture.toNat)] } }
      count s 0x32B5 ((decFields c.desc).engine + 1) 1)

end Sys2Proof.Machine
end

