-- ==== Sys2Proof/Machine/MemCmd.lean ====
section
/-! DEFINITION. MAP, UNMAP, COPY and CONVERT, and the allocation of pages (spec/09, R222 to R228, R251 to R254; R213). -/

namespace Sys2Proof.Machine

/-! ### Allocation -/

/-- Why pages could not be had. -/
inductive AllocFail where
  /-- the quota, or a backing pool without room (R225, R228) -/
  | quota
  /-- no free physical pages (R225) -/
  | phys
  /-- only unzeroed pages are free (R227) -/
  | wait
  deriving DecidableEq, Repr

/-- The lowest free offsets for n pages of region 0. -/
def lowestPages (limit size : Nat) : Nat → List (Nat × Nat) → Option (List Nat)
  | 0, _ => some []
  | n + 1, taken =>
    match lowestFree taken limit size with
    | none => none
    | some o => (lowestPages limit size n ((o, size) :: taken)).map (o :: ·)

/-- T2 pages from the lowest free address upward; freed ones only once they are zeroed (R227). -/
def allocT2 (s : State) (size n : Nat) : Except AllocFail (List Nat) :=
  let taken := region0Taken s
  match lowestPages (region0Size s) size n (taken ++ s.mem.unzeroed.map (fun u => (gaOffset u.1, u.2))) with
  | some os => .ok (os.map (gaMake (nodeId s) 0))
  | none => if (lowestPages (region0Size s) size n taken).isSome then .error .wait else .error .phys

/-- The windows of a partition's backing pool: base and bytes, in subindex order (R228). -/
def poolWindows (s : State) (part tier : Nat) : List (Nat × Nat) :=
  let ix := (if tier = 3 then 0x2430 else 0x2440) + part
  ((List.range 16).map (fun i => (dGet s (dk ix (i + 1)), dGet s (dk ix (i + 17))))).filter (fun w => w.2 != 0)

/-- First fit of a page in a window. -/
def fitWindow (taken : List (Nat × Nat)) (size : Nat) (w : Nat × Nat) : Option Nat :=
  leastBy id ((alignUp w.1 size :: (taken.map (fun t => alignUp (t.1 + t.2) size))).filter
    (fun a => decide (w.1 ≤ a ∧ a + size ≤ w.1 + w.2) && rangeFree taken a size))

/-- First fit of n pages in the pool. -/
def poolPagesFor (ws : List (Nat × Nat)) (size : Nat) : Nat → List (Nat × Nat) → Option (List Nat)
  | 0, _ => some []
  | n + 1, taken =>
    match ws.findSome? (fitWindow taken size) with
    | none => none
    | some a => (poolPagesFor ws size n ((a, size) :: taken)).map (a :: ·)

/-- Addresses for n pages of a tier: from region 0, at TARGET, or from the backing pool (R225 to R228). -/
def allocPages (s : State) (part tier size n target : Nat) (pool : Bool) : Except AllocFail (List Nat) :=
  if !quotaAllows s part tier (n * size) then .error .quota
  else if tier = 2 then allocT2 s size n
  else if pool then
    match poolPagesFor (poolWindows s part tier) size n
        ((s.mem.maps.filter (fun m => m.part == part && m.tier == tier)).map (fun m => (m.addr, m.size))) with
    | some l => .ok l
    | none => .error .quota
  else .ok ((List.range n).map (fun i => target + i * size))

/-- Mappings of pages from a device-virtual address, usable by one ring's command until it commits (R224). -/
def newMaps (part ring tier size va : Nat) (addrs : List Nat) : List Mapping :=
  addrs.zipIdx.map (fun x =>
    { part := part, va := va + x.2 * size, size := size, addr := x.1, tier := tier, owner := some ring })

/-- A page of the partition lies in the range. -/
def anyMapped (s : State) (part va n : Nat) : Bool :=
  s.mem.maps.any (fun m => m.part == part && rangesMeet (m.va, m.size) (va, n))

/-! ### MAP and UNMAP -/

/-- The fields of MAP and UNMAP. -/
structure MapFields where
  va       : Nat
  len      : Nat
  target   : Nat
  resultEn : Bool
  pool     : Bool
  result   : Nat
  psize    : Nat
  tier     : Nat
  deriving DecidableEq, Repr

def mapFields (d : List Word) : MapFields :=
  let w := dw d
  { va := bits (w 4) 55 0, len := w 5, target := w 6, resultEn := bit (w 7) 25, pool := bit (w 7) 24,
    result := bits (w 7) 23 0, psize := bits (w 8) 4 3, tier := bits (w 8) 2 0 }

/-- Page bytes. -/
def MapFields.size (f : MapFields) : Nat := if f.psize = 0 then 2 ^ 16 else if f.psize = 1 then 2 ^ 21 else 2 ^ 30

/-- A TARGET that R221 or its tier refuses. -/
def targetBad (s : State) (f : MapFields) : Bool :=
  !gaValid s f.target || (f.len != 0 && !gaValid s (f.target + f.len - 1)) || f.target % f.size != 0 ||
  (if f.tier = 3 then gaRegion f.target != 0 || gaNode f.target == nodeId s else gaRegion f.target != 2)

/-- R251 and the field map. -/
def mapSpec (s : State) (p : Nat) (d : List Word) : OpSpec :=
  let f := mapFields d
  let unmap := opcOf d == 0x506
  { masks := [fld 55 0, fldAll, fldAll, fld 25 0, fld 4 0, 0, 0, 0, 0, 0, 0, 0], ins := [],
    outs := if f.resultEn && !unmap then [f.result] else [], rws := [],
    bad := f.psize == 3 || f.va % f.size != 0 || f.len % f.size != 0 ||
      (if unmap then f.tier != 0 || f.target != 0 || f.pool || f.resultEn || f.result != 0
       else
        (if f.tier = 2 then f.target != 0 || f.pool
         else if f.tier = 3 ∨ f.tier = 4 then
          (if f.pool then f.target != 0 else f.target == 0 || targetBad s f)
         else true) ||
        (if f.resultEn then (tens s p f.result).fmt != .i32 || (tens s p f.result).rank != 1 else f.result != 0)),
    mismatch := false }

/-- A command of the partition that is in flight and has not run yet is to map pages of the range (R251: what one MAP installs is
mapped for the next; DEDUCED, log entry 67). -/
def mapsAhead (s : State) (part va n : Nat) : Bool :=
  s.hop.inflight.any (fun c => c.part == part && !c.executed && opcOf c.desc == 0x505 &&
    rangesMeet ((mapFields c.desc).va, (mapFields c.desc).len) (va, n))

/-- R52 and the dispatch checks of R251 and R252. -/
def mapShape (s : State) (w : Who) (d : List Word) : Nat :=
  let f := mapFields d
  let pages := f.len / f.size
  if f.len = 0 then 0x01
  else if opcOf d = 0x505 then
    if f.resultEn && decide ((tens s w.part f.result).cols < 2 * pages) then 0x23
    else if anyMapped s w.part f.va f.len || mapsAhead s w.part f.va f.len then 0x20
    else 0
  else
    let inside (m : Mapping) : Bool := decide (f.va ≤ m.va ∧ m.va + m.size ≤ f.va + f.len)
    let mine := s.mem.maps.filter (fun m => m.part == w.part && rangesMeet (m.va, m.size) (f.va, f.len))
    if mine.any (fun m => m.size != f.size && !inside m) then 0x20
    else if mine.all (fun m => m.size != f.size) then 0x01
    else 0

/-- The plan of MAP. -/
def mapPlan (s : State) (c : InFlight) : Plan :=
  let f := mapFields c.desc
  match allocPages s c.part f.tier f.size (f.len / f.size) f.target f.pool with
  | .error .quota => Plan.stop 0x30
  | .error .phys => { Plan.stop 0x30 with counts := pCounts 0x327E c.part 1 }
  | .error .wait => { Plan.ok with wait := true }
  | .ok addrs =>
    let maps := newMaps c.part c.ring f.tier f.size f.va addrs
    let r := tens s c.part f.result
    { Plan.ok with
      writes := if f.resultEn then addrs.zipIdx.map (fun x => (r.outBuf (voutOf c.desc) + 8 * x.2, leBytes 8 x.1)) else []
      maps := maps
      acts := maps.map (fun m => .mapDone c.part m.va) ++
        flipActs s c.part (voutOf c.desc) (if f.resultEn then [f.result] else []) }

/-- The plan of UNMAP: its pages go at its commit (R252). -/
def unmapPlan (s : State) (c : InFlight) : Plan :=
  let f := mapFields c.desc
  { Plan.ok with
    acts := (s.mem.maps.filter (fun m => m.part == c.part && m.size == f.size &&
      decide (f.va ≤ m.va ∧ m.va + m.size ≤ f.va + f.len))).map (fun m => .unmap c.part m.va) }

/-- Remove a page's translation from the module: its quota returns with it, and a T2 page awaits zeroing (R227, R252). What a command
still in flight wrote there goes with the page. -/
def unmapPage (s : State) (part va : Nat) : State :=
  match s.mem.maps.find? (fun m => m.part == part && m.va == va) with
  | none => s
  | some m =>
    { s with
     hop := { s.hop with inflight := s.hop.inflight.map (fun c =>
       { c with results := c.results.filter (fun x => !rangesMeet (x.1, x.2.length) (m.addr, m.size)) }) }
     mem := { s.mem with
      maps := s.mem.maps.filter (fun x => !(x.part == part && x.va == va))
      xlat := s.mem.xlat.filter (fun x => !(x.2.1 == part && x.2.2 == va))
      unzeroed := if m.tier = 2 then s.mem.unzeroed ++ [(m.addr, m.size)] else s.mem.unzeroed } }

/-- A command's installed pages become usable by others (R224). -/
def mapDone (s : State) (part va : Nat) : State :=
  { s with mem := { s.mem with
    maps := modifyFirst (fun m => m.part == part && m.va == va) (fun m => { m with owner := none }) s.mem.maps } }

/-- The pages that a ring's uncommitted command has installed leave (R224, R251). -/
def dropMaps (s : State) (part ring : Nat) : State :=
  ((s.mem.maps.filter (fun m => m.part == part && m.owner == some ring)).map (·.va)).foldl
    (fun s va => unmapPage s part va) s

/-- The mapping that SPILL with ALLOC makes at its dispatch (R213): a status, or the pages. -/
def spillMaps (s : State) (w : Who) (d : List Word) : Except Nat (List Mapping) :=
  let f := spillFields d
  if f.alloc then
    let base := (tens s w.part f.dst).base
    let n := (spillBytes s w f + 65535) / 65536
    if anyMapped s w.part base (65536 * n) || mapsAhead s w.part base (65536 * n) then .error 0x20
    else match allocPages s w.part f.tier 65536 n 0 true with
      | .ok addrs => .ok (newMaps w.part w.ring f.tier 65536 base addrs)
      | .error _ => .error 0x30
  else .ok []

/-! ### COPY and CONVERT -/

/-- The fields of COPY and CONVERT. -/
structure CopyFields where
  src    : Nat
  dst    : Nat
  ext    : List Nat
  sround : Bool
  sat    : Bool
  key    : Nat
  stream : Nat
  deriving DecidableEq, Repr

def copyFields (d : List Word) : CopyFields :=
  let w := dw d
  { src := bits (w 4) 23 0, dst := bits (w 4) 47 24,
    ext := [bits (w 5) 31 0, bits (w 5) 63 32, bits (w 6) 31 0, bits (w 6) 63 32, bits (w 7) 31 0, bits (w 7) 63 32],
    sround := bit (w 8) 1, sat := bit (w 8) 0, key := w 9, stream := bits (w 10) 31 0 }

/-- R253, R254 and the field map. -/
def copySpec (s : State) (p : Nat) (d : List Word) : OpSpec :=
  let f := copyFields d
  let a := tens s p f.src
  let b := tens s p f.dst
  let e0 := f.ext.getD 0 0
  { masks := [fld 47 0, fldAll, fldAll, fldAll, fld 1 0, fldAll, fld 31 0, 0, 0, 0, 0, 0], ins := [f.src], outs := [f.dst],
    rws := [],
    bad := a.rank != b.rank || (List.range 6).any (fun i => decide (a.rank ≤ i) && f.ext.getD i 1 != 1) ||
      (!f.sround && (f.key != 0 || f.stream != 0)) ||
      (if opcOf d = 0x500 then
        f.sround || f.sat || a.fmt != b.fmt || (a.fmt.isBlock && e0 % 32 != 0 && !(e0 == a.cols && e0 == b.cols))
       else (a.fmt.isInt && b.fmt != .f32) || (b.fmt.isInt && a.fmt != .f32)),
    mismatch := false }

def copyShape (s : State) (w : Who) (d : List Word) : Nat :=
  let f := copyFields d
  let a := tens s w.part f.src
  let b := tens s w.part f.dst
  if (List.range a.rank).any (fun i => decide (min (a.extent i) (b.extent i) < f.ext.getD i 1)) then 0x23
  else if (List.range a.rank).any (fun i => f.ext.getD i 1 == 0) then 0x01
  else 0

/-- Every outer index within run-time extents, dimension 1 fastest. -/
def outerIndexes : List Nat → List (List Nat)
  | [] => [[]]
  | n :: t => (outerIndexes t).flatMap (fun o => (List.range n).map (fun i => i :: o))

/-- The outer run-time extents. -/
def CopyFields.outer (f : CopyFields) (rank : Nat) : List Nat := (f.ext.take rank).drop 1

/-- Units of CONVERT: as ELEMWISE (R254). -/
def copyGrid (s : State) (w : Who) (d : List Word) : Nat × Nat × Nat :=
  let f := copyFields d
  (elemUnits ((f.outer (tens s w.part f.src).rank).foldl (· * ·) 1) (f.ext.getD 0 0), 1, 1)

/-- The plan of COPY: moves of bytes; the half byte that ends an odd row of BS4 is read and merged (R113, R253). -/
def copyPlan (s : State) (c : InFlight) : Plan :=
  let w : Who := { part := c.part, ring := c.ring }
  let f := copyFields c.desc
  let a := tens s c.part f.src
  let b := tens s c.part f.dst
  let n := f.ext.getD 0 0
  let o := b.outBuf (voutOf c.desc)
  let mv (src dst len : Nat) : Move := { src := src, srcG := false, dst := dst, dstG := false, len := len }
  let ixs := outerIndexes (f.outer a.rank)
  let whole := n * a.fmt.bits / 8
  let ends := if a.halfEnd n then
      ixs.map (fun ix => (a.inBuf + a.rowOffset (a.rowIndex ix) + whole, o + b.rowOffset (b.rowIndex ix) + whole))
    else []
  { Plan.ok with
    reads := ends.map (fun x => (x.1, 1))
    writes := ends.map (fun x =>
      (x.2, [lowNibble (vaByte s w.part w.ring x.2) (vaByte s w.part w.ring x.1)]))
    moves := ixs.flatMap (fun ix =>
      let ra := a.rowIndex ix
      let rb := b.rowIndex ix
      mv (a.inBuf + a.rowOffset ra) (o + b.rowOffset rb) whole ::
      (if a.fmt.isBlock then
        [mv (a.inBuf + a.scalePlane + ra * a.blocks) (o + b.scalePlane + rb * b.blocks) ((n + 31) / 32)] else []))
    acts := flipActs s c.part (voutOf c.desc) [f.dst] }

/-- The plan of CONVERT. -/
def convertPlan (s : State) (c : InFlight) : Plan :=
  let w : Who := { part := c.part, ring := c.ring }
  let f := copyFields c.desc
  let a := tens s c.part f.src
  let b := tens s c.part f.dst
  let n := f.ext.getD 0 0
  let ixs := outerIndexes (f.outer a.rank)
  let outs := ixs.map (fun ix =>
    writeRow s w b (b.outBuf (voutOf c.desc)) (b.rowIndex ix) 0
      ((List.range n).map (fun k => f32 (a.f32 s w (a.rowIndex ix) k))) f.sat (rngOf f.sround f.key f.stream))
  { Plan.ok with
    reads := ixs.flatMap (fun ix => a.rowRange a.inBuf (a.rowIndex ix) 0 n)
    writes := outs.flatMap (·.writes)
    counts := numCounts s c.part f.dst (sumCounts outs)
    acts := flipActs s c.part (voutOf c.desc) [f.dst] ++ tapActs s 0 c.part f.dst (outs.flatMap (·.vals)) }

/-- MAP: map pages of a tier. -/
def execMap (ring : RingId) (s : State) : Host.Outcome State Fault Refusal :=
  .next (runOp s ring 0x505 mapPlan)

/-- UNMAP: remove pages at the commit. -/
def execUnmap (ring : RingId) (s : State) : Host.Outcome State Fault Refusal := .next (runOp s ring 0x506 unmapPlan)

/-- COPY: elements bit for bit, within the module or across the fabric. -/
def execCopy (ring : RingId) (s : State) : Host.Outcome State Fault Refusal := .next (runOp s ring 0x500 copyPlan)

/-- CONVERT: elements narrowed to DST's format. -/
def execConvert (ring : RingId) (s : State) : Host.Outcome State Fault Refusal := .next (runOp s ring 0x507 convertPlan)

end Sys2Proof.Machine
end

