-- ==== Sys2Proof/Machine/FabricCmd.lean ====
section
/-! DEFINITION. The fabric opcodes: REMOTE_READ, REMOTE_WRITE with its atomic mode, and the collective engine's commands
(spec/10, R282 to R290). What a chunk carries is the model's reading (log entry 13). -/

namespace Sys2Proof.Machine

/-! ### REMOTE_READ and REMOTE_WRITE -/

/-- The fields of REMOTE_READ and REMOTE_WRITE. -/
structure RemFields where
  loc     : Nat
  remote  : Nat
  len     : Nat
  atop    : Nat
  w64     : Bool
  mode    : Nat
  operand : Nat
  compare : Nat
  deriving DecidableEq, Repr

def remFields (d : List Word) : RemFields :=
  let w := dw d
  { loc := bits (w 4) 23 0, remote := w 5, len := w 6, atop := bits (w 7) 7 4, w64 := bit (w 7) 3, mode := bits (w 7) 1 0,
    operand := w 8, compare := w 9 }

/-- Operand bytes of an atomic operation (spec/09 "Atomic operations"); 0 for a reserved code. -/
def atomicWidth (code : Nat) (w64 : Bool) : Nat :=
  match code with
  | 0 => if w64 then 8 else 4
  | 1 => 4
  | 2 => 8
  | 3 => 8
  | 4 => 4
  | 5 => 8
  | 6 => 8
  | 7 => 128
  | 8 => 128
  | _ => 0

/-- A scalar atomic operation. -/
def scalarAtomic (code : Nat) : Bool := decide (code < 7)

/-- The command is REMOTE_WRITE with MODE 1. -/
def isAtomic (d : List Word) : Bool := opcOf d == 0x601 && (remFields d).mode == 1

/-- R289, R237 and the field map. -/
def remoteBad (s : State) (d : List Word) : Bool :=
  let f := remFields d
  let width := atomicWidth f.atop f.w64
  !gaValid s f.remote || gaRegion f.remote != 0 || gaNode f.remote == nodeId s || !assignedNode s (gaNode f.remote) ||
  (if isAtomic d then
    width == 0 || (f.w64 && f.atop != 0) || (f.compare != 0 && f.atop != 6) ||
    (if scalarAtomic f.atop then f.len != width || f.remote % width != 0
     else f.len % 128 != 0 || f.remote % 128 != 0 || f.operand != 0)
   else f.mode != 0 || f.atop != 0 || f.w64 || f.operand != 0 || f.compare != 0)

def remoteSpec (s : State) (p : Nat) (d : List Word) : OpSpec :=
  let f := remFields d
  let toLocal := opcOf d == 0x600 || (isAtomic d && scalarAtomic f.atop)
  let t := tens s p f.loc
  { masks := [fld 23 0, fldAll, fldAll, fld 7 3 + fld 1 0, fldAll, fldAll, 0, 0, 0, 0, 0, 0],
    ins := if toLocal then [] else [f.loc], outs := if toLocal then [f.loc] else [], rws := [],
    bad := remoteBad s d || t.fmt != .i8 || t.rank != 1, mismatch := false }

/-- R52 on LEN (R289). -/
def remoteShape (s : State) (w : Who) (d : List Word) : Nat :=
  let f := remFields d
  let t := tens s w.part f.loc
  if t.cols < f.len || (isAtomic d && scalarAtomic f.atop && decide (t.cols < 8)) then 0x23
  else if f.len = 0 then 0x01
  else 0

/-- The plan of REMOTE_READ and of REMOTE_WRITE with MODE 0: bytes between LOCAL and the window. -/
def remotePlan (s : State) (c : InFlight) : Plan :=
  let f := remFields c.desc
  let t := tens s c.part f.loc
  if isAtomic c.desc then { Plan.ok with wait := true }
  else if opcOf c.desc = 0x600 then
    { Plan.ok with
      moves := [{ src := f.remote, srcG := true, dst := t.outBuf (voutOf c.desc), dstG := false, len := f.len }]
      acts := flipActs s c.part (voutOf c.desc) [f.loc] }
  else
    { Plan.ok with moves := [{ src := t.inBuf, srcG := false, dst := f.remote, dstG := true, len := f.len }] }

/-- The plan of REMOTE_WRITE with MODE 1: one ATOMIC, or one for each line of a vector add. The old value of a scalar
operation comes back with the response. -/
def remoteAtomicPlan (s : State) (c : InFlight) : Plan :=
  let f := remFields c.desc
  let t := tens s c.part f.loc
  let w : Who := { part := c.part, ring := c.ring }
  let o := t.outBuf (voutOf c.desc)
  let base : Ask := { Ask.plain kAtomic (gaNode f.remote) f.remote f.operand [] with code := f.atop, w64 := f.w64 }
  if !isAtomic c.desc then { Plan.ok with wait := true }
  else if scalarAtomic f.atop then
    let new := if f.atop = 6 then leBytes 8 f.operand else []
    { Plan.ok with
      far := [(f.remote, f.len)]
      undef := [(o, 8)]
      asks := [{ base with
        operand := if f.atop = 6 then f.compare else f.operand
        data := new
        len := new.length
        dst := translate s c.part c.ring o }]
      acts := flipActs s c.part (voutOf c.desc) [f.loc] }
  else
    { Plan.ok with
      reads := [(t.inBuf, f.len)]
      far := [(f.remote, f.len)]
      asks := (List.range (f.len / 128)).map (fun i =>
        { base with addr := f.remote + 128 * i, operand := 0, len := 128,
                    data := vaBytes s w.part w.ring (t.inBuf + 128 * i) 128 }) }

/-! ### Collectives: fields and checks -/

/-- The fields of the collective opcodes. -/
structure CollFields where
  src    : Nat
  dst    : Nat
  aux    : Nat
  auxOut : Nat
  group  : Nat
  collId : Nat
  count  : Nat
  waitMs : Nat
  cols   : Nat
  buddy  : Nat
  algo   : Nat
  rop    : Nat
  auxOutEn : Bool
  mirror : Bool
  sat    : Bool
  clip   : Nat
  deriving DecidableEq, Repr

def collFields (d : List Word) : CollFields :=
  let w := dw d
  { src := bits (w 4) 23 0, dst := bits (w 4) 47 24, aux := bits (w 5) 23 0, auxOut := bits (w 5) 47 24,
    group := bits (w 6) 23 0, collId := bits (w 7) 63 32, count := bits (w 7) 31 0, waitMs := bits (w 8) 63 48,
    cols := bits (w 8) 47 32, buddy := bits (w 8) 31 20, algo := bits (w 8) 9 8, rop := bits (w 8) 7 6,
    auxOutEn := bit (w 8) 5, mirror := bit (w 8) 4, sat := bit (w 8) 3, clip := bits (w 9) 31 0 }

/-- The AUX of the opcode is in use: an input of ATTN_MERGE, the mirror of ALLGATHER. -/
def auxUsed (opc : Nat) (f : CollFields) : Bool := opc == 0x606 || (opc == 0x604 && f.mirror)

/-- Formats and ranks of the "Collective operands" table. -/
def collOperandsBad (s : State) (p opc : Nat) (f : CollFields) : Bool :=
  let t (i : Nat) : Tens := tens s p i
  let flt (x : Tens) : Bool := x.fmt == .f32 || x.fmt == .bf16
  let r (i n : Nat) : Bool := (t i).rank == n
  (t f.group).fmt != .i32 || !r f.group 1 ||
  (match opc with
   | 0x602 => !(flt (t f.src) && flt (t f.dst) && r f.src 1 && r f.dst 1)
   | 0x603 => !(flt (t f.src) && flt (t f.dst) && r f.src 1 && r f.dst 1)
   | 0x604 => (t f.src).fmt != (t f.dst).fmt || !r f.src 1 || !r f.dst 1 ||
       (f.mirror && ((t f.aux).fmt != (t f.src).fmt || !r f.aux 1)) || ((t f.src).fmt.isBlock && f.count % 32 != 0)
   | 0x605 => (t f.src).fmt != .f32 || (t f.dst).fmt != .f32 || !r f.src 1 || !r f.dst 1
   | _ => (t f.src).fmt != .f32 || !r f.src 2 || !((t f.dst).fmt == .f16 || flt (t f.dst)) || !r f.dst 2 ||
       (t f.aux).fmt != .f32 || !r f.aux 2 ||
       (f.auxOutEn && ((t f.auxOut).fmt != .f32 || !r f.auxOut 2)))

/-- R290 and the field map. -/
def collBad (s : State) (p opc : Nat) (f : CollFields) : Bool :=
  f.algo == 3 ||
  (if opc = 0x602 ∨ opc = 0x603 then f.rop == 3 else f.rop != 0) ||
  (if opc = 0x606 then f.cols == 0 || decide (256 < f.cols) else f.cols != 0 || f.auxOutEn) ||
  (opc != 0x604 && f.mirror) ||
  (if f.mirror then f.buddy == 0 || decide ((tens s p f.group).cols ≤ f.buddy) else f.buddy != 0) ||
  (!auxUsed opc f && f.aux != 0) || (!f.auxOutEn && f.auxOut != 0) ||
  (if opc = 0x605 then !(f32 f.clip).isFinite || (f32 f.clip).sign else f.clip != 0) ||
  collOperandsBad s p opc f

def collSpec (s : State) (p : Nat) (d : List Word) : OpSpec :=
  let f := collFields d
  let opc := opcOf d
  { masks := [fld 47 0, fld 47 0, fld 23 0, fldAll, fld 63 20 + fld 9 3, fld 31 0, 0, 0, 0, 0, 0, 0],
    ins := [f.src, f.group] ++ (if opc = 0x606 then [f.aux] else []),
    outs := [f.dst] ++ (if opc = 0x604 && f.mirror then [f.aux] else []) ++ (if f.auxOutEn then [f.auxOut] else []),
    rws := [], bad := collBad s p opc f, mismatch := false }

/-- R282: the member list is refused. -/
def groupBad (s : State) (f : CollFields) (words : List Nat) : Bool :=
  let n := words.length
  decide (n < 2) || decide (4096 < n) || decide (words.eraseDups.length < n) ||
  words.any (fun x => decide (65535 < x) || x == 0xFFFF || !assignedNode s x) || !words.contains (nodeId s) ||
  (f.algo == 2 && decide (16 < n))

/-- The member list of GROUP (R282). -/
def groupList (s : State) (w : Who) (f : CollFields) : List Nat :=
  let t := tens s w.part f.group
  (List.range t.cols).map (t.flatNat s w)

/-- R52 on COUNT and COLS, then R282. -/
def collDims (s : State) (w : Who) (d : List Word) : Nat :=
  let f := collFields d
  let opc := opcOf d
  let t (i : Nat) : Tens := tens s w.part i
  let n := (t f.group).cols
  let beyond :=
    match opc with
    | 0x602 => decide ((t f.src).cols < f.count) || decide ((t f.dst).cols < f.count)
    | 0x603 => decide ((t f.src).cols < f.count * n) || decide ((t f.dst).cols < f.count)
    | 0x604 => decide ((t f.src).cols < f.count) || decide ((t f.dst).cols < f.count * n) ||
        (f.mirror && decide ((t f.aux).cols < f.count))
    | 0x605 => decide ((t f.src).cols < f.count) || decide ((t f.dst).cols < 4)
    | _ => exceedsView (t f.src) f.count f.cols || exceedsView (t f.dst) f.count f.cols ||
        exceedsView (t f.aux) f.count 2 || (f.auxOutEn && exceedsView (t f.auxOut) f.count 2)
  if beyond then 0x23
  else if f.count = 0 then 0x01
  else 0

/-- The shape, then the group list. -/
def collShape (s : State) (w : Who) (d : List Word) : Nat :=
  if collDims s w d ≠ 0 then collDims s w d
  else if groupBad s (collFields d) (groupList s w (collFields d)) then 0x20
  else 0

/-- The format code that enters the signature. -/
def Fmt.index : Fmt → Nat
  | .f32 => 1
  | .f16 => 2
  | .bf16 => 3
  | .e4m3 => 4
  | .e5m2 => 5
  | .bs8 => 6
  | .bs4 => 7
  | .i8 => 8
  | .i32 => 9

/-- The signature of a collective (R282): the CRC-32 of the fields named there, laid out as Config has it. -/
def collSignature (s : State) (w : Who) (d : List Word) : BitVec 32 :=
  let f := collFields d
  let g := groupList s w f
  crc32 (Config.signatureBytes ([opcOf d, f.count, f.cols, f.rop, f.algo, g.length, (tens s w.part f.src).fmt.index,
    (tens s w.part f.dst).fmt.index] ++ g))

/-- The instance that a dispatched collective has. -/
def collStart (s : State) (w : Who) (d : List Word) : CollInst :=
  let f := collFields d
  let g := groupList s w f
  { collId := BitVec.ofNat 32 f.collId, signature := collSignature s w d, nodes := g, rank := indexOf (nodeId s) g,
    sent := 0, used := [], lastTick := BitVec.ofNat 64 (now s) }

/-! ### Collectives: the schedule of messages (R283) -/

/-- The k-th bound of n segments of a number of elements. -/
def segBound (n count : Nat) : Nat → Nat
  | 0 => 0
  | k + 1 => if n ≤ k + 1 then count else min count (max (segBound n count k) (Config.segCut n count (k + 1)))

/-- Everything the schedule of one instance depends on. -/
structure CollCtx where
  inst    : CollInst
  algo    : Nat
  /-- a reduction comes first; a gather follows -/
  reduces : Bool
  gathers : Bool
  rop     : Nat
  sat     : Bool
  /-- elements to reduce, and how many a segment holds (0: segments by segBound) -/
  contrib : List F32
  segLen  : Nat
  /-- the member's own bytes where nothing is reduced -/
  own     : List Byte
  out     : Fmt
  deriving DecidableEq, Repr

def CollCtx.n (x : CollCtx) : Nat := x.inst.nodes.length

/-- The rank k places on in the direction of a half (half 1 travels against GROUP's order). -/
def CollCtx.ahead (x : CollCtx) (half r k : Nat) : Nat :=
  if half = 0 then (r + k) % x.n else (r + x.n - k % x.n) % x.n

/-- The rank k places back. -/
def CollCtx.back (x : CollCtx) (half r k : Nat) : Nat := x.ahead (1 - half) r k

def CollCtx.halves (x : CollCtx) : List Nat := if x.algo = 1 then [0, 1] else [0]

/-- A half of a list. -/
def CollCtx.half {α : Type} (x : CollCtx) (h : Nat) (l : List α) : List α :=
  if x.algo = 1 then
    (if h = 0 then l.take (segBound 2 l.length 1) else l.drop (segBound 2 l.length 1))
  else l

/-- Bounds of segment k in elements. -/
def CollCtx.lo (x : CollCtx) (k : Nat) : Nat :=
  if x.segLen = 0 then segBound x.n x.contrib.length k else k * x.segLen

/-- The member's own elements of segment k. -/
def CollCtx.seg (x : CollCtx) (k : Nat) : List F32 := (x.contrib.drop (x.lo k)).take (x.lo (k + 1) - x.lo k)

/-- One message: its step, half, peer rank and segment. -/
structure Msg where
  step : Nat
  half : Nat
  peer : Nat
  seg  : Nat
  deriving DecidableEq, Repr

/-- Steps of the reduction. -/
def CollCtx.base (x : CollCtx) : Nat := if !x.reduces then 0 else if x.algo = 2 then 1 else x.n - 1

def CollCtx.others (x : CollCtx) : List Nat := (List.range x.n).filter (· != x.inst.rank)

/-- The messages of the reduction that the member sends, and receives. -/
def CollCtx.reduceMsgs (x : CollCtx) (sends : Bool) : List Msg :=
  let r := x.inst.rank
  if x.algo = 2 then
    x.others.map (fun k => { step := 0, half := 0, peer := k, seg := if sends then k else r })
  else
    (List.range (x.n - 1)).flatMap (fun t => x.halves.map (fun h =>
      { step := t, half := h, peer := if sends then x.ahead h r 1 else x.back h r 1,
        seg := x.back h r (t + (if sends then 1 else 2)) }))

/-- The messages of the gather. -/
def CollCtx.gatherMsgs (x : CollCtx) (sends : Bool) : List Msg :=
  let r := x.inst.rank
  if x.algo = 2 then
    x.others.map (fun k => { step := x.base, half := 0, peer := k, seg := if sends then r else k })
  else
    (List.range (x.n - 1)).flatMap (fun t => x.halves.map (fun h =>
      { step := x.base + t, half := h, peer := if sends then x.ahead h r 1 else x.back h r 1,
        seg := x.back h r (t + (if sends then 0 else 1)) }))

/-- ROP of R284. -/
def ropFold (rop : Nat) (a b : F32) : F32 := if rop = 1 then f32Max a b else if rop = 2 then f32Min a b else f32Add a b

/-- Elements as they travel in a format. -/
def packElems (f : Fmt) (sat : Bool) (l : List F32) : List Byte :=
  l.flatMap (fun v => leBytes (f.bits / 8) (narrowElem f sat none (f32 v)).1)

def unpackElems (f : Fmt) (bs : List Byte) : List F32 :=
  (chunksOf (f.bits / 8) bs.length bs).map (fun c => r32 (f.value (leNat c) 127))

/-- The chunks a message of a length needs. -/
def chunkCount (len : Nat) : Nat := (len + 1023) / 1024

/-- Words of a chunk's header: chunk number with its half in bit 31, and the step. -/
def chunkNumber (half i : Nat) : Nat := half * 2 ^ 31 + i

/-- The i-th chunk of a message among those that have arrived, with its place in the order of arrival. -/
def CollCtx.found (x : CollCtx) (m : Msg) (i : Nat) : Option (Chunk × Nat) :=
  (x.inst.used.zipIdx.filter (fun c => c.1.node == x.inst.nodes.getD m.peer 0 &&
    c.1.pkt.addr % 2 ^ 32 == chunkNumber m.half i && bits c.1.pkt.operand 31 24 == m.step % 256))[m.step / 256]?

/-- Its bytes. -/
def CollCtx.chunk (x : CollCtx) (m : Msg) (i : Nat) : Option (List Byte) := (x.found m i).map (·.1.pkt.data)

/-- Where it stands in the order of arrival. -/
def CollCtx.arrival (x : CollCtx) (m : Msg) (i : Nat) : Nat := ((x.found m i).map (·.2)).getD x.inst.used.length

/-- Every element of a list is there. -/
def allSome {α : Type} : List (Option α) → Option (List α)
  | [] => some []
  | none :: _ => none
  | some a :: t => (allSome t).map (a :: ·)

/-- The bytes of a received message, once all of its chunks are there. -/
def CollCtx.received (x : CollCtx) (m : Msg) (len : Nat) : Option (List Byte) :=
  (allSome ((List.range (chunkCount len)).map (x.chunk m))).map (fun l => (l.flatMap id).take len)

/-- The received partial of a message of the reduction, in FP32 (R284). -/
def CollCtx.partialOf (x : CollCtx) (m : Msg) : Option (List F32) :=
  (x.received m ((x.half m.half (x.seg m.seg)).length * 4)).map (unpackElems .f32)

/-- Elements of FP32 in a chunk. -/
def chunkElems : Nat := 256

/-- What the member has reduced of a segment half once the received partials are in: each chunk adds in the order in which it
arrived (R283). -/
def CollCtx.combine (x : CollCtx) (half seg : Nat) (ms : List Msg) : Option (List F32) :=
  (allSome (ms.map (fun m => (x.partialOf m).map (fun p => (m, p))))).map (fun ps =>
    ((chunksOf chunkElems (x.half half (x.seg seg)).length (x.half half (x.seg seg))).zipIdx).flatMap (fun own =>
      let parts := (ps.foldl (fun l p => insertKey (x.arrival p.1 own.2) ((p.2.drop (chunkElems * own.2)).take chunkElems) l)
        ([] : List (Nat × List F32))).map (·.2)
      parts.foldl (fun acc p => List.zipWith (ropFold x.rop) acc p) own.1))

/-- The member's own reduced segment. -/
def CollCtx.reduced (x : CollCtx) : Option (List F32) :=
  (allSome (x.halves.map (fun h =>
    x.combine h x.inst.rank ((x.reduceMsgs false).filter (fun m => m.seg == x.inst.rank && m.half == h))))).map
      (fun l => l.flatMap id)

/-- The member's own bytes for the gather. -/
def CollCtx.ownBytes (x : CollCtx) : Option (List Byte) :=
  if x.reduces then x.reduced.map (packElems x.out x.sat) else some x.own

/-- Bytes of segment k in the gather. -/
def CollCtx.gatherLen (x : CollCtx) (k : Nat) : Nat :=
  if x.reduces then (x.seg k).length * (x.out.bits / 8) else x.own.length

def CollCtx.halfLen (x : CollCtx) (h len : Nat) : Nat := (x.half h (List.replicate len ())).length

/-- The bytes of a message to send, once what it depends on is there. -/
def CollCtx.payload (x : CollCtx) (m : Msg) : Option (List Byte) :=
  let h := m.half
  if m.step < x.base then
    let before := if x.algo = 2 ∨ m.step = 0 then [] else
      [{ step := m.step - 1, half := h, peer := x.back h x.inst.rank 1, seg := m.seg : Msg }]
    (x.combine h m.seg before).map (packElems .f32 false)
  else if m.seg = x.inst.rank then x.ownBytes.map (x.half h)
  else x.received { step := m.step - 1, half := h, peer := x.back h x.inst.rank 1, seg := m.seg } (x.halfLen h (x.gatherLen m.seg))

/-- Segment k after the gather. -/
def CollCtx.gathered (x : CollCtx) (k : Nat) : Option (List Byte) :=
  if k = x.inst.rank then x.ownBytes
  else
    (allSome (((x.gatherMsgs false).filter (fun m => m.seg == k)).map (fun m =>
      x.received m (x.halfLen m.half (x.gatherLen k))))).map (fun l => l.flatMap id)

/-- When a row of segment k of an ATTN_MERGE was there: 0 for the member's own, else 1 + the latest place, in the order of arrival, of the
chunks that hold bytes of it, of both halves where it lies in both. -/
def CollCtx.rowArrival (x : CollCtx) (cols r k : Nat) : Nat :=
  let first := 4 * (cols + 2) * r
  let last := 4 * (cols + 2) * (r + 1) - 1
  let cut := (x.half 0 (List.replicate x.own.length ())).length
  let parts : List (Nat × Nat × Nat) :=
    if x.algo = 1 then
      (if first < cut then [(0, first, min last (cut - 1))] else []) ++
      (if cut ≤ last then [(1, max first cut - cut, last - cut)] else [])
    else [(0, first, last)]
  (parts.flatMap (fun y =>
    match (x.gatherMsgs false).find? (fun m => m.seg == k && m.half == y.1) with
    | none => [0]
    | some m => (List.range (y.2.2 / 1024 + 1 - y.2.1 / 1024)).map (fun i => 1 + x.arrival m (y.2.1 / 1024 + i)))).foldl max 0

/-- Every message that the member sends, in order. -/
def CollCtx.sends (x : CollCtx) : List Msg :=
  (if x.reduces then x.reduceMsgs true else []) ++ (if x.gathers then x.gatherMsgs true else [])

/-- The requests of one message. -/
def CollCtx.chunkAsks (x : CollCtx) (m : Msg) (bs : List Byte) : List Ask :=
  (chunksOf 1024 bs.length bs).zipIdx.map (fun c =>
    Ask.plain kCollective (x.inst.nodes.getD m.peer 0) (x.inst.collId.toNat * 2 ^ 32 + chunkNumber m.half c.2)
      (x.inst.signature.toNat * 2 ^ 32 + m.step % 256 * 2 ^ 24) c.1)

/-- The messages from the next one on whose bytes are there. -/
def CollCtx.ready (x : CollCtx) : List Msg → List (Msg × List Byte)
  | [] => []
  | m :: t =>
    match x.payload m with
    | none => []
    | some bs => (m, bs) :: x.ready t

/-! ### Collectives: results -/

/-- The context of a command's instance. -/
def collCtx (s : State) (w : Who) (d : List Word) (inst : CollInst) : CollCtx :=
  let f := collFields d
  let opc := opcOf d
  let src := tens s w.part f.src
  let dst := tens s w.part f.dst
  let elems (n : Nat) : List F32 := (List.range n).map (fun i => src.f32 s w 0 i)
  { inst := inst, algo := f.algo, reduces := opc == 0x602 || opc == 0x603 || opc == 0x605, gathers := opc != 0x603,
    rop := f.rop, sat := f.sat,
    contrib := match opc with
      | 0x602 => elems f.count
      | 0x603 => elems (f.count * inst.nodes.length)
      | 0x605 => [treeSum (elems f.count)]
      | _ => []
    segLen := if opc = 0x603 then f.count else 0
    own := match opc with
      | 0x604 => vaBytes s w.part w.ring src.inBuf (src.fmt.bytes f.count) ++
          (if src.fmt.isBlock then vaBytes s w.part w.ring (src.inBuf + src.scalePlane) (f.count / 32) else [])
      | 0x606 =>
        let aux := tens s w.part f.aux
        (List.range f.count).flatMap (fun r =>
          (List.range f.cols).flatMap (fun k => leBytes 4 (src.pat s w src.inBuf r k)) ++
          (List.range 2).flatMap (fun k => leBytes 4 (aux.pat s w aux.inBuf r k)))
      | _ => []
    out := if opc = 0x605 then .f32 else dst.fmt }

/-- NORM_REDUCE's four results (R285). -/
def normResult (clip sum : F32) : List F32 :=
  let fin := (f32 sum).isFinite
  let f := if !fin then f32Nan
    else if (f32 clip).isZero || (f32 sum).isZero then f32One
    else f32Min f32One (f32Mul clip (fRsqrt sum))
  [sum, f32Sqrt sum, f, if fin then 0 else f32One]

/-- One row of ATTN_MERGE from the members' partials o_j, m_j and lse2_j, in the order in which they arrived (R186). -/
def mergeRow (cols : Nat) (parts : List (List F32)) : List F32 × F32 × F32 :=
  let lse (p : List F32) : F32 := p.getD (cols + 1) 0
  let lmax := parts.foldl (fun a p => f32Max a (lse p)) f32NegInf
  let mmax := parts.foldl (fun a p => f32Max a (p.getD cols 0)) f32NegInf
  if lmax = f32NegInf then (List.replicate cols 0, mmax, f32NegInf)
  else
    let ws := parts.map (fun p => fExp2 (f32Sub (lse p) lmax))
    let sum := ws.foldl f32Add 0
    let inv := fRecip sum
    ((List.range cols).map (fun k =>
        (List.zip ws parts).foldl (fun acc x => f32Add acc (f32Mul (f32Mul x.1 inv) (x.2.getD k 0))) 0),
      mmax, f32Add lmax (fLog2 sum))

/-- The values of a segment's bytes: elements, then scales (R113). -/
def segVals (f : Fmt) (n : Nat) (bs : List Byte) : List FVal :=
  (List.range n).map (fun i =>
    let p := if f = .bs4 then (let v := (bs.getD (i / 2) 0).toNat; if i % 2 = 0 then v % 16 else v / 16)
      else leNat ((bs.drop (i * (f.bits / 8))).take (f.bits / 8))
    f.value p (if f.isBlock then (bs.getD (f.bytes n + i / 32) 0).toNat else 127))

/-- What an instance writes once its messages are in, or nothing yet. -/
def collPlan (s : State) (w : Who) (c : InFlight) (x : CollCtx) : Option Plan :=
  let f := collFields c.desc
  let opc := opcOf c.desc
  let dst := tens s w.part f.dst
  let o := dst.outBuf (voutOf c.desc)
  let acts := flipActs s c.part (voutOf c.desc)
  let segs := allSome ((List.range x.n).map x.gathered)
  let reducedBytes := ((x.reduceMsgs false).map (fun m => (x.half m.half (x.seg m.seg)).length * 4)).sum
  let counts (l : List F32) (fm : Fmt) : List (Nat × Nat) :=
    numCounts s c.part f.dst ((l.map (fun v => (narrowElem fm f.sat none (f32 v)).2)).foldl NumCounts.add NumCounts.zero) ++
      [(dk 0x3295 0xFF, reducedBytes)]
  match opc with
  | 0x602 =>
    match segs, x.reduced with
    | some l, some mine => some { Plan.ok with
        writes := l.zipIdx.map (fun y => (o + x.lo y.2 * (x.out.bits / 8), y.1))
        counts := counts mine x.out
        acts := acts [f.dst] ++ tapActs s 0 c.part f.dst (l.flatMap (fun bs => (unpackElems x.out bs).map f32)) }
    | _, _ => none
  | 0x603 => x.reduced.map (fun mine =>
      let bs := packElems x.out x.sat mine
      { Plan.ok with
        writes := [(o, bs)]
        counts := counts mine x.out
        acts := acts [f.dst] ++ tapActs s 0 c.part f.dst ((unpackElems x.out bs).map f32) })
  | 0x604 => segs.map (fun l =>
      let n := dst.fmt.bytes f.count
      let put (t : Tens) (b i : Nat) (bs : List Byte) : List (Nat × List Byte) :=
        (b + i * n, bs.take n) :: (if t.fmt.isBlock then [(b + t.scalePlane + i * (f.count / 32), bs.drop n)] else [])
      let aux := tens s w.part f.aux
      { Plan.ok with
        writes := l.zipIdx.flatMap (fun y => put dst o y.2 y.1) ++
          (if f.mirror then put aux (aux.outBuf (voutOf c.desc)) 0 (l.getD ((x.inst.rank + f.buddy) % x.n) []) else [])
        acts := acts ([f.dst] ++ (if f.mirror then [f.aux] else [])) ++
          tapActs s 0 c.part f.dst (l.flatMap (segVals dst.fmt f.count)) ++
          (if f.mirror then tapActs s 0 c.part f.aux (segVals dst.fmt f.count (l.getD ((x.inst.rank + f.buddy) % x.n) []))
           else []) })
  | 0x605 =>
    match segs, x.reduced with
    | some l, some mine =>
      let sum := ((unpackElems .f32 (l.flatMap id)).headD 0)
      let r := writeRow s w dst o 0 0 ((normResult f.clip sum).map f32) f.sat none
      some { Plan.ok with
        writes := r.writes
        counts := counts mine .f32
        acts := acts [f.dst] ++ tapActs s 0 c.part f.dst r.vals }
    | _, _ => none
  | _ => segs.map (fun l =>
      let rows := l.zipIdx.map (fun m => (m.2, chunksOf (f.cols + 2) (m.1.length / 4) (unpackElems .f32 m.1)))
      let merged := (List.range f.count).map (fun r => mergeRow f.cols
        ((rows.foldl (fun a m => insertKey (x.rowArrival f.cols r m.1) (m.2.getD r []) a) ([] : List (Nat × List F32))).map (·.2)))
      let outs := merged.zipIdx.map (fun y => writeRow s w dst o y.2 0 (y.1.1.map f32) f.sat none)
      let ax := tens s w.part f.auxOut
      let stats := if f.auxOutEn then
          merged.zipIdx.map (fun y => writeRow s w ax (ax.outBuf (voutOf c.desc)) y.2 0 [f32 y.1.2.1, f32 y.1.2.2] f.sat none)
        else []
      { Plan.ok with
        writes := (outs ++ stats).flatMap (·.writes)
        counts := numCounts s c.part f.dst (sumCounts outs)
        acts := acts ([f.dst] ++ (if f.auxOutEn then [f.auxOut] else [])) ++
          tapActs s 0 c.part f.dst (outs.flatMap (·.vals)) ++
          (if f.auxOutEn then tapActs s 0 c.part f.auxOut (stats.flatMap (·.vals)) else []) })

/-- The ranges a collective reads. -/
def collReads (s : State) (w : Who) (d : List Word) : List (Nat × Nat) :=
  let f := collFields d
  let n := (tens s w.part f.group).cols
  let src := tens s w.part f.src
  if opcOf d = 0x606 then src.readRanges f.count f.cols ++ (tens s w.part f.aux).readRanges f.count 2
  else src.readRanges 1 (if opcOf d = 0x603 then f.count * n else f.count)

/-- The command is among the 16 instances that the engine holds: earlier collectives come first. -/
def collHeld (s : State) (c : InFlight) : Bool :=
  decide ((s.hop.inflight.filter (fun x => x.coll.isSome && !x.executed && decide (x.order < c.order))).length < 16)

/-- The tensors that an instance of the engine writes (R288, R300, R306). -/
def collOuts (d : List Word) : List Nat :=
  let f := collFields d
  match opcOf d with
  | 0x801 => if bits (dw d 7) 1 0 = 1 then [f.src] else []
  | 0x803 => if f.dst = 0 then [] else [f.dst]
  | _ => [f.dst] ++ (if opcOf d = 0x604 && f.mirror then [f.aux] else []) ++ (if f.auxOutEn then [f.auxOut] else [])

/-- COLL_WAIT_MS of a collective or of a parity command. -/
def collWaitMs (d : List Word) : Nat :=
  if opcOf d = 0x801 ∨ opcOf d = 0x803 then bits (dw d 7) 63 48 else bits (dw d 8) 63 48

/-- An instance fails: it is executed with a failed status; its unsent transactions go (R288). -/
def failInst (s : State) (ring status : Nat) : State :=
  match flightOf s ring with
  | none => s
  | some c =>
    if (c.executed && c.status != 0) || c.coll.isNone then s
    else
      let w : Who := { part := c.part, ring := ring }
      let ranges := (collOuts c.desc).map (fun i => let t := tens s c.part i; (t.outBuf (voutOf c.desc), t.span))
      let wrote := match allPieces s w ranges with
        | .ok l => l
        | .error _ => []
      let s := setFlight s ring (fun f => { f with
        executed := true, status := BitVec.ofNat 8 status, wrote := wrote, acts := [] })
      { s with fab := { s.fab with txns := s.fab.txns.filter (fun t => t.issued || t.ring != some ring) } }

/-- An instance fails and tells its members (R288). -/
def failColl (s : State) (ring status : Nat) : State :=
  match (flightOf s ring).bind (fun c => if c.executed && c.status != 0 then none else c.coll) with
  | none => s
  | some inst => collAbortAll (failInst s ring status) inst

/-- READs of a ring's command are outstanding. -/
def waitsRead (s : State) (ring : Nat) : Bool := s.fab.txns.any (fun t => t.ring == some ring && t.pkt.kind == kRead)

/-- What stands between an instance and its operands: a fault, a node that is absent, READs of other nodes' memory, or host memory
that cannot be reached; `none` once it can read them (R223, R229, R240, R347). -/
def collBlocked (s : State) (ring : Nat) (c : InFlight) (reads : List (Nat × Nat)) : Option State :=
  match touched s { part := c.part, ring := ring } { Plan.ok with reads := reads } with
  | .error va => some (detectError s (translationFault c.part va) none).1
  | .ok t =>
    if waitsRead s ring || (t.reads.any (fun x => hostRange x.1) && !falyndiUp s) then some s
    else match t.reads.find? (fun x => remoteAddr s x.1 && nodeStatus s (gaNode x.1) != 0), lostRead s t.reads with
      | some x, _ => some (failColl s ring (nodeStatus s (gaNode x.1)))
      | none, some l => some (detectError s (uncorrectableRead s c.part l true) none).1
      | none, none => if (toFetch s c t).isEmpty then none else some (fetchOperands s ring c (toFetch s c t))

/-- One run of the collective engine for an instance: it takes the chunks that have arrived, sends every message whose
bytes are there, and when all is sent and received it has its results (R283 to R288). -/
def runColl (s : State) (ring opc : Nat) : State :=
  match readyFlight s ring opc with
  | none => s
  | some c =>
    match c.coll with
    | none => s
    | some inst =>
      if !collHeld s c then s
      else match collBlocked s ring c (collReads s { part := c.part, ring := c.ring } c.desc) with
      | some s => s
      | none =>
        let w : Who := { part := c.part, ring := c.ring }
        let mine (k : Chunk) : Bool := k.pkt.addr / 2 ^ 32 == inst.collId.toNat
        let inst := { inst with used := inst.used ++ s.fab.staged.filter mine }
        let s := { s with fab := { s.fab with staged := s.fab.staged.filter (fun k => !mine k) } }
        let x := collCtx s w c.desc inst
        let out := x.ready (x.sends.drop inst.sent)
        let inst := { inst with sent := inst.sent + out.length }
        let s' := setFlight s ring (fun f => { f with coll := some inst })
        let reqs := out.flatMap (fun y => x.chunkAsks y.1 y.2)
        match (if inst.sent = x.sends.length then collPlan s w c x else none) with
        | none => asks (some ring) s' reqs
        | some p => runPlan (asks (some ring) s' reqs) ring { c with coll := some inst }
            { p with reads := collReads s w c.desc }

/-! ### The rows -/

/-- REMOTE_READ: bytes of another module's window into LOCAL. -/
def execRemoteRead (ring : RingId) (s : State) : Host.Outcome State Fault Refusal := .next (runOp s ring 0x600 remotePlan)

/-- REMOTE_WRITE, MODE 0: LOCAL's bytes into another module's window. -/
def execRemoteWrite (ring : RingId) (s : State) : Host.Outcome State Fault Refusal := .next (runOp s ring 0x601 remotePlan)

/-- REMOTE_WRITE, MODE 1: an atomic operation at another module's window. -/
def execRemoteAtomic (ring : RingId) (s : State) : Host.Outcome State Fault Refusal :=
  .next (runOp s ring 0x601 remoteAtomicPlan)

/-- ALLREDUCE. -/
def execAllreduce (ring : RingId) (s : State) : Host.Outcome State Fault Refusal := .next (runColl s ring.toNat 0x602)

/-- REDUCE_SCATTER. -/
def execReduceScatter (ring : RingId) (s : State) : Host.Outcome State Fault Refusal := .next (runColl s ring.toNat 0x603)

/-- ALLGATHER. -/
def execAllgather (ring : RingId) (s : State) : Host.Outcome State Fault Refusal := .next (runColl s ring.toNat 0x604)

/-- NORM_REDUCE. -/
def execNormReduce (ring : RingId) (s : State) : Host.Outcome State Fault Refusal := .next (runColl s ring.toNat 0x605)

/-- ATTN_MERGE. -/
def execAttnMerge (ring : RingId) (s : State) : Host.Outcome State Fault Refusal := .next (runColl s ring.toNat 0x606)

end Sys2Proof.Machine
end

