-- ==== Sys2Proof/Machine/Resil.lean ====
section
/-! DEFINITION. Surviving failure in training, and run measurement: digests, cuts, parity, reconstruction, phase marks and
norm taps (spec/11). -/

namespace Sys2Proof.Machine

/-! ### Packed images and digests (R292, R293) -/

/-- The packed image of a buffer at `b`. -/
def packedImage (s : State) (w : Who) (t : Tens) (b : Nat) : List Byte :=
  (List.range t.rows).flatMap (t.rowBytes s w b) ++
  (if t.fmt.isBlock then vaBytes s w.part w.ring (b + t.scalePlane) (t.rows * t.blocks) else [])

/-- Bytes of a packed image. -/
def Tens.packedLen (t : Tens) : Nat := t.rows * t.fmt.bytes t.cols + (if t.fmt.isBlock then t.rows * t.blocks else 0)

/-- A buffer holds an element. -/
def Tens.packedRanges (t : Tens) (b : Nat) : List (Nat × Nat) :=
  if t.span = 0 then [] else (List.range t.rows).flatMap (fun r => t.rowRange b r 0 t.cols)

/-- The writes that put a packed image into a buffer. -/
def unpackImage (s : State) (w : Who) (t : Tens) (b : Nat) (bs : List Byte) : List (Nat × List Byte) :=
  let n := t.fmt.bytes t.cols
  (List.range t.rows).map (fun r => t.putRow s w b r ((bs.drop (r * n)).take n)) ++
  (if t.fmt.isBlock then [(b + t.scalePlane, bs.drop (t.rows * n))] else [])

/-- The digest of an image (R293). -/
def imageDigest (bs : List Byte) : List Byte := sha256 ((chunksOf (2 ^ 24) bs.length bs).flatMap sha256)

/-- The resolved class of an entry (R294): 0 NONE, 1 MIRROR, 2 PARITY. -/
def resolvedClass (s : State) (t : Tens) : Nat :=
  if t.rclass = 3 then
    (if t.span < dGet s (dk 0x2800 1) * 2 ^ 20 ∧ max 1 t.changePeriod < dGet s (dk 0x2800 2) then 1 else 2)
  else t.rclass

/-- The buffer of a wanted version (R302): second buffer or first; none when the version is absent. -/
def versionBuf (t : Tens) (want : Nat) : Option Bool :=
  if t.version = want then some t.cur
  else if t.versioned ∧ t.version = want + 1 then some (!t.cur)
  else none

/-- Counter additions of hashed bytes. -/
def digestCounts (part n : Nat) : List (Nat × Nat) := pCounts 0x32A0 part n

/-! ### CUT (R295 to R297) -/

/-- The fields of CUT, RESTORE and DIGEST. -/
structure CutFields where
  out     : Nat
  tgt     : Nat
  token   : Nat
  step    : Nat
  wantEn  : Bool
  streams : Bool
  tensors : Bool
  deriving DecidableEq, Repr

def cutFields (d : List Word) : CutFields :=
  let w := dw d
  { out := bits (w 4) 47 24, tgt := bits (w 4) 23 0, token := w 5, step := w 6, wantEn := bit (w 7) 2,
    streams := bit (w 7) 1, tensors := bit (w 7) 0 }

/-- Seed and counter of a stream slot. -/
def streamSeed (s : State) (p slot : Nat) : Nat := dGet s (dk (0x2810 + p) (slot + 1))
def streamCtr (s : State) (p slot : Nat) : Nat := dGet s (dk (0x2820 + p) (slot + 1))

def int8Rank1 (s : State) (p i : Nat) : Bool := (tens s p i).fmt == .i8 && (tens s p i).rank == 1

def cutSpec (s : State) (p : Nat) (d : List Word) : OpSpec :=
  let f := cutFields d
  let cut := opcOf d == 0x800
  let res := opcOf d == 0x802
  { masks := [fld 47 0, fldAll, fldAll, fld 2 0, 0, 0, 0, 0, 0, 0, 0, 0],
    ins := if cut then [] else [f.tgt], outs := if cut then [f.tgt] else [f.out], rws := [],
    bad :=
      if cut then !int8Rank1 s p f.tgt || f.out != 0 || f.wantEn || f.streams || f.tensors
      else if res then !int8Rank1 s p f.tgt || !int8Rank1 s p f.out || f.token != 0 || f.step != 0 || f.wantEn
      else (tens s p f.out).fmt != .i8 || decide ((tens s p f.out).cols < 32) || f.token != 0 || (!f.wantEn && f.step != 0) ||
        f.streams || f.tensors,
    mismatch := false }

/-- The entry of an index as CUT reads it: its tensor, where its RANK is not 0. An entry that no command may name (R35, R109) is read
field by field all the same, one of a reserved format as one-byte elements (DESIGN CHOICE, log entry 66). -/
def cutEntry (s : State) (p idx : Nat) : Option Tens :=
  let t (i : Nat) : Nat := (entryWords s p idx).getD i 0
  if bits (t 0) 63 61 = 0 then none
  else some
    { idx := idx, base := bits (t 0) 55 0, fmt := (Fmt.ofCode (bits (t 0) 60 56)).getD .i8, rank := min 6 (bits (t 0) 63 61),
      ext := [bits (t 1) 31 0, bits (t 1) 63 32, bits (t 2) 31 0, bits (t 2) 63 32, bits (t 3) 31 0, bits (t 3) 63 32],
      str := [0, bits (t 4) 31 0, bits (t 4) 63 32, bits (t 5) 31 0, bits (t 5) 63 32, bits (t 6) 31 0].map (· * 16),
      alt := bits (t 6) 55 32, cur := bit (t 7) 6, versioned := bit (t 7) 5, version := bits (t 7) 63 32,
      rclass := bits (t 7) 4 3, timeAxis := bits (t 7) 2 0, changePeriod := bits (t 6) 63 56 }

/-- The version vector word of an entry. -/
def versionWord (s : State) (t : Option Tens) : Nat :=
  match t with
  | none => 0
  | some t => t.version * 2 ^ 32 + (if t.versioned then 8 else 0) + (if t.cur then 4 else 0) + resolvedClass s t

/-- The entries that have a digest. -/
def digested (s : State) (p : Nat) : List Tens :=
  (List.range (pGet s p 9)).filterMap (fun i =>
    match cutEntry s p i with
    | none => none
    | some t => if resolvedClass s t = 0 then none else some t)

/-- Bytes of a cut record. -/
def cutBytes (entries digests : Nat) : Nat := 1152 + 8 * entries + 40 * digests

/-- Words m0 to m7 and the body of a record with CUT_TICKS and RECORD_DIGEST put in. -/
def stampRecord (ticks : Nat) (head body : List Byte) : List Byte :=
  let head := head.take 40 ++ leBytes 8 ticks ++ (head.drop 48).take 16
  head ++ sha256 (head ++ body) ++ leBytes 32 0 ++ body

/-- The cut record (spec/11 "Cut record layout"). -/
def cutRecord (s : State) (w : Who) (f : CutFields) : List Byte :=
  let p := w.part
  let n := pGet s p 9
  let ts := digested s p
  let slots := List.range 64
  let mask := (slots.map (fun i => if streamSeed s p i = 0 then 0 else 2 ^ i)).sum
  let m0 := 0xC0A7 * 2 ^ 48 + 1 * 2 ^ 40 + p * 2 ^ 36 + dGet s (dk 0x2100 5) % 2 ^ 16 * 2 ^ 16 + nodeId s
  let head := [m0, f.step, f.token, ts.length * 2 ^ 32 + n, mask, 0, 0, 0].flatMap (leBytes 8)
  let body := slots.flatMap (fun i => leBytes 8 (streamSeed s p i) ++ leBytes 8 (streamCtr s p i)) ++
    (List.range n).flatMap (fun i => leBytes 8 (versionWord s (cutEntry s p i))) ++
    ts.flatMap (fun t => leBytes 8 t.idx ++ imageDigest (packedImage s w t t.inBuf))
  stampRecord (now s) head body

def cutShape (s : State) (w : Who) (d : List Word) : Nat :=
  let f := cutFields d
  if (tens s w.part f.tgt).cols < cutBytes (pGet s w.part 9) (digested s w.part).length then 0x23 else 0

/-- Places and lengths of a device-virtual range, by global address, in one list. -/
def placesOf (s : State) (w : Who) (va n : Nat) : List Nat :=
  match rangePieces s w.part w.ring va n with
  | .ok l => l.flatMap (fun x => [x.1, x.2])
  | .error _ => []

/-- The plan of CUT: the record is written, and its commit puts the tick count of the commit point into the header (R296, R297). -/
def cutPlan (s : State) (c : InFlight) : Plan :=
  let f := cutFields c.desc
  let w : Who := { part := c.part, ring := c.ring }
  let t := tens s c.part f.tgt
  let ts := digested s c.part
  let o := t.outBuf (voutOf c.desc)
  { Plan.ok with
    reads := ts.flatMap (fun x => x.packedRanges x.inBuf)
    greads := [(entryAddr s c.part 0, 64 * pGet s c.part 9)]
    writes := [(o, cutRecord s w f)]
    counts := digestCounts c.part (ts.map Tens.packedLen).sum
    acts := .cutStamp (placesOf s w o 128) (cutRecord s w f) :: flipActs s c.part (voutOf c.desc) [f.tgt] }

/-! ### RESTORE (R303, R304) -/

/-- Word i of the header of the record in CUTREC. -/
def recWord (s : State) (w : Who) (f : CutFields) (i : Nat) : Nat :=
  vaNat s w.part w.ring ((tens s w.part f.tgt).inBuf + 8 * i) 8

/-- Step 1 of R303, and the sizes. -/
def restoreShape (s : State) (w : Who) (d : List Word) : Nat :=
  let f := cutFields d
  let m (i : Nat) : Nat := recWord s w f i
  let n := pGet s w.part 9
  if (tens s w.part f.tgt).cols < 128 then 0x23
  else if bits (m 0) 63 48 ≠ 0xC0A7 ∨ bits (m 0) 47 40 ≠ 1 ∨ bits (m 0) 39 36 ≠ w.part ∨ bits (m 0) 35 32 ≠ 0 ∨
      bits (m 0) 15 0 ≠ nodeId s ∨ bits (m 3) 31 0 ≠ n ∨ [6, 7, 12, 13, 14, 15].any (fun i => m i != 0) then 0x20
  else if (tens s w.part f.tgt).cols < cutBytes n (bits (m 3) 63 32) ∨ (tens s w.part f.out).cols < n then 0x23
  else 0

/-- What RESTORE finds of one entry: its code, the buffer to make current and the recorded version. -/
structure Restored where
  idx     : Nat
  code    : Nat
  cur     : Bool
  version : Nat
  hashed  : Nat
  ranges  : List (Nat × Nat)
  deriving DecidableEq, Repr

/-- Step 3 of R303 for one entry. -/
def restoreEntry (s : State) (w : Who) (word : Nat) (digest : Option (List Byte)) (idx : Nat) : Restored :=
  let version := bits word 63 32
  match cutEntry s w.part idx with
  | none => { idx := idx, code := if word = 0 then 0 else 1, cur := false, version := version, hashed := 0, ranges := [] }
  | some t =>
    match versionBuf t version with
    | none => { idx := idx, code := 1, cur := t.cur, version := version, hashed := 0, ranges := [] }
    | some second =>
      match digest with
      | none => { idx := idx, code := 0, cur := second, version := version, hashed := 0, ranges := [] }
      | some g =>
        let ok := imageDigest (packedImage s w t (t.buf second)) == g
        { idx := idx, code := if ok then 0 else 2, cur := second, version := version, hashed := t.packedLen,
          ranges := t.packedRanges (t.buf second) }

/-- The difference between a recorded counter and STEP (R304). -/
def counterGap (ctr step : Nat) : Nat := max ctr step - min ctr step

/-- The plan of RESTORE. -/
def restorePlan (s : State) (c : InFlight) : Plan :=
  let f := cutFields c.desc
  let w : Who := { part := c.part, ring := c.ring }
  let t := tens s c.part f.tgt
  let out := tens s c.part f.out
  let n := pGet s c.part 9
  let m (i : Nat) : Nat := recWord s w f i
  let total := cutBytes n (bits (m 3) 63 32)
  let bs := vaBytes s w.part w.ring t.inBuf total
  let at8 (o : Nat) : Nat := leNat ((bs.drop o).take 8)
  let o := out.outBuf (voutOf c.desc)
  let rec0 := sha256 (bs.take 64 ++ bs.drop 128) == (bs.drop 64).take 32
  if !rec0 then
    { Plan.stop 0x40 with
      reads := [(t.inBuf, total)]
      writes := [(o, List.replicate n 0)] }
  else
    let digests := (List.range (bits (m 3) 63 32)).map (fun i =>
      (at8 (1152 + 8 * n + 40 * i) % 2 ^ 24, (bs.drop (1160 + 8 * n + 40 * i)).take 32))
    let es := if f.tensors then (List.range n).map (fun i =>
        restoreEntry s w (at8 (1152 + 8 * i)) ((digests.find? (fun g => g.1 == i)).map (·.2)) i)
      else []
    let step := m 1
    let slots := (List.range 64).map (fun i => (i, bit (m 4) i, at8 (128 + 16 * i), at8 (136 + 16 * i)))
    let gap (x : Nat × Bool × Nat × Nat) : Nat := counterGap x.2.2.2 step
    let named := if f.streams then slots.filter (fun x => x.2.1) else []
    let rederived := (named.filter (fun x => gap x == 1)).length
    let status :=
      if es.any (fun e => e.code == 1) || named.any (fun x => decide (1 < gap x)) then 0x41
      else if es.any (fun e => e.code == 2) then 0x40
      else if rederived ≠ 0 then 0x04
      else 0
    { Plan.ok with
      status := status
      reads := (t.inBuf, total) :: es.flatMap (·.ranges)
      writes := [(o, if f.tensors then es.map (fun e => BitVec.ofNat 8 e.code) else List.replicate n 0)]
      counts := digestCounts c.part (es.map (·.hashed)).sum ++ pCounts 0x32A4 c.part rederived
      acts := if 0x10 ≤ status then [] else
        ((es.filter (fun e => (cutEntry s c.part e.idx).isSome)).map (fun e =>
          CommitAct.setVersion c.part e.idx e.cur (BitVec.ofNat 32 e.version))) ++
        (if f.streams then slots.map (fun x =>
          if x.2.1 then CommitAct.streamSet c.part x.1 (BitVec.ofNat 64 x.2.2.1) (BitVec.ofNat 64 step)
          else .streamSet c.part x.1 0 0) else []) ++
        flipActs s c.part (voutOf c.desc) [f.out] }

/-- Set an entry's CUR and VERSION (RESTORE at its commit). -/
def setVersion (s : State) (p idx : Nat) (cur : Bool) (version : Nat) : State :=
  let a := entryAddr s p idx + 56
  let w := ldNat s a 8
  store s a (leBytes 8 (w % 64 + (if cur then 64 else 0) + bits w 31 7 * 128 + version % 2 ^ 32 * 2 ^ 32))

/-- Set a stream slot. -/
def setStream (s : State) (p slot seed ctr : Nat) : State := dSet (dSet s (dk (0x2810 + p) (slot + 1)) seed) (dk (0x2820 + p) (slot + 1)) ctr

/-- Advance a stream slot's counter (R310). -/
def advanceStream (s : State) (p slot : Nat) : State :=
  dSet s (dk (0x2820 + p) (slot + 1)) ((streamCtr s p slot + 1) % 2 ^ 64)

/-! ### DIGEST -/

def digestPlan (s : State) (c : InFlight) : Plan :=
  let f := cutFields c.desc
  let w : Who := { part := c.part, ring := c.ring }
  let t := tens s c.part f.tgt
  let o := tens s c.part f.out
  match (if f.wantEn then versionBuf t f.step else some t.cur) with
  | none => { Plan.stop 0x41 with undef := [(o.outBuf (voutOf c.desc), 32)] }
  | some second =>
    { Plan.ok with
      reads := t.packedRanges (t.buf second)
      writes := [(o.outBuf (voutOf c.desc), imageDigest (packedImage s w t (t.buf second)))]
      counts := digestCounts c.part t.packedLen
      acts := flipActs s c.part (voutOf c.desc) [f.out] }

/-! ### PARITY_UPDATE and RECONSTRUCT (R299 to R308) -/

/-- Their fields. -/
structure ParFields where
  dst    : Nat
  src    : Nat
  expect : Nat
  group  : Nat
  collId : Nat
  count  : Nat
  init   : Bool
  method : Nat
  role   : Nat
  want   : Nat
  deriving DecidableEq, Repr

def parFields (d : List Word) : ParFields :=
  let w := dw d
  { dst := bits (w 4) 47 24, src := bits (w 4) 23 0, expect := bits (w 5) 47 24, group := bits (w 5) 23 0,
    collId := bits (w 6) 63 32, count := bits (w 6) 31 0, init := bit (w 7) 3, method := bits (w 7) 2 2,
    role := bits (w 7) 1 0, want := w 8 }

/-- The command is a collective instance: PARITY_UPDATE, or RECONSTRUCT by METHOD 1. -/
def isParityColl (d : List Word) : Bool := opcOf d == 0x801 || (opcOf d == 0x803 && (parFields d).method == 1)

/-- EXPECT is in use. -/
def expectUsed (d : List Word) : Bool :=
  opcOf d == 0x803 && ((parFields d).method == 0 || (parFields d).role == 1)

/-- R299, R300, R305 to R308 at acceptance. -/
def parBad (s : State) (p : Nat) (d : List Word) : Bool :=
  let f := parFields d
  let t := tens s p f.src
  let x := tens s p f.dst
  let upd := opcOf d == 0x801
  let coll := isParityColl d
  decide (1 < f.role) || (f.role == 1 && !upd && (coll || f.dst != 0) && x.versioned && !voutOf d) ||
  (if coll then (tens s p f.group).fmt != .i32 || (tens s p f.group).rank != 1
   else f.group != 0 || f.collId != 0) ||
  (if expectUsed d then !int8Rank1 s p f.expect || decide ((tens s p f.expect).cols < 32) else f.expect != 0) ||
  (if upd then
    f.dst != 0 || f.method != 0 ||
    (if f.role = 0 then !t.versioned || resolvedClass s t != 2
     else !int8Rank1 s p f.src || !t.versioned || decide (t.cols < f.count * 1024) || !voutOf d)
   else
    f.init ||
    (if f.method = 0 then resolvedClass s t != 1 || (f.dst != 0 && (x.fmt != t.fmt || x.rank != t.rank || x.ext != t.ext))
     else if f.role = 0 then f.dst != 0 || resolvedClass s t != 2
     else !int8Rank1 s p f.src))

def parSpec (s : State) (p : Nat) (d : List Word) : OpSpec :=
  let f := parFields d
  let coll := isParityColl d
  { masks := [fld 47 0, fld 47 0, fldAll, fld 63 48 + fld 3 0, fldAll, 0, 0, 0, 0, 0, 0, 0],
    ins := [f.src] ++ (if coll then [f.group] else []) ++ (if expectUsed d then [f.expect] else []),
    outs := if opcOf d = 0x801 then (if f.role = 1 then [f.src] else [])
      else if coll then (if f.role = 1 then [f.dst] else []) else if f.dst = 0 then [] else [f.dst],
    rws := if opcOf d = 0x801 && f.role == 1 then [f.src] else [],
    bad := parBad s p d, mismatch := false }

/-- GROUP's words. -/
def parGroup (s : State) (w : Who) (d : List Word) : List Nat :=
  let t := tens s w.part (parFields d).group
  (List.range t.cols).map (t.flatNat s w)

/-- R282 for a parity command, its roles, and what R299 asks of a member. -/
def parGroupBad (s : State) (w : Who) (d : List Word) : Bool :=
  let f := parFields d
  let g := parGroup s w d
  let upd := opcOf d == 0x801
  decide (g.length < 2) || decide (4096 < g.length) || decide (g.eraseDups.length < g.length) ||
  g.any (fun x => decide (65535 < x) || x == 0xFFFF || !assignedNode s x) || !g.contains (nodeId s) ||
  (f.role == 1) != (g.getD 0 0 == nodeId s) || (upd && (decide (g.length < 5) || decide (17 < g.length)))

def parShape (s : State) (w : Who) (d : List Word) : Nat :=
  let f := parFields d
  let t := tens s w.part f.src
  if !isParityColl d then 0
  else if f.count = 0 then 0x01
  else if parGroupBad s w d then 0x20
  else if opcOf d = 0x801 ∧ f.role = 0 ∧ (t.version ≠ f.want ∨ f.count * 1024 < t.packedLen) then 0x20
  else if opcOf d = 0x803 ∧ f.role = 0 ∧ f.count * 1024 < t.packedLen then 0x23
  else if opcOf d = 0x803 ∧ f.role = 1 ∧ (t.cols < f.count * 1024 ∨ f.count * 1024 < (tens s w.part f.dst).packedLen) then 0x23
  else 0

/-- The instance of a dispatched parity command. -/
def parStart (s : State) (w : Who) (d : List Word) : CollInst :=
  let f := parFields d
  let g := parGroup s w d
  let round := if opcOf d = 0x801 then [f.want, if f.init then 1 else 0] else []
  { collId := BitVec.ofNat 32 f.collId,
    signature := crc32 (Config.signatureBytes ([opcOf d, f.count, 0, 0, 0, g.length] ++ g ++ round)), nodes := g,
    rank := indexOf (nodeId s) g, sent := 0, used := [], lastTick := BitVec.ofNat 64 (now s) }

/-- XOR of byte lists, as long as the first. -/
def xorBytes : List Byte → List Byte → List Byte
  | [], _ => []
  | a, [] => a
  | a :: t, b :: u => (a ^^^ b) :: xorBytes t u

/-- The image a member sends: a delta, or a whole image with INIT = 1 or for RECONSTRUCT (R299, R306). -/
def memberImage (s : State) (w : Who) (d : List Word) (second : Bool) : List Byte :=
  let f := parFields d
  let t := tens s w.part f.src
  let one := packedImage s w t (t.buf second)
  if opcOf d = 0x801 ∧ !f.init then xorBytes one (packedImage s w t (t.buf (!second))) else one

/-- A chunk of a member's image as a request on the background stream. -/
def memberAsk (inst : CollInst) (n : Nat) (bs : List Byte) : Ask :=
  { Ask.plain kCollective (inst.nodes.getD 0 0) (inst.collId.toNat * 2 ^ 32 + n) (inst.signature.toNat * 2 ^ 32) (padTo 1024 bs) with
    bg := true }

/-- The plan of a member or contributor. -/
def memberPlan (s : State) (c : InFlight) (inst : CollInst) : Plan :=
  let f := parFields c.desc
  let w : Who := { part := c.part, ring := c.ring }
  let t := tens s c.part f.src
  let upd := opcOf c.desc == 0x801
  match (if upd then some t.cur else versionBuf t f.want) with
  | none => Plan.stop 0x41
  | some second =>
    let img := memberImage s w c.desc second
    let chunks := (List.range f.count).map (fun i => (i, padTo 1024 ((img.drop (1024 * i)).take 1024)))
    let sent := if upd then chunks.filter (fun x => x.2.any (· != 0)) else chunks
    let closing := if upd then [memberAsk inst 0xFFFFFFFF (leBytes 4 sent.length)] else []
    { Plan.ok with
      reads := t.packedRanges (t.buf second) ++ (if upd && !f.init then t.packedRanges (t.buf (!second)) else [])
      asks := sent.map (fun x => memberAsk inst x.1 x.2) ++ closing
      counts := pCounts 0x32A1 c.part (1024 * sent.length) }

/-- The chunks that have come from one member, closing chunk apart. -/
def fromMember (inst : CollInst) (node : Nat) : List Chunk :=
  inst.used.filter (fun k => k.node == node && k.pkt.addr % 2 ^ 32 != 0xFFFFFFFF)

/-- Every member has sent all of its chunks (R300, R306). -/
def membersDone (d : List Word) (inst : CollInst) : Bool :=
  (inst.nodes.drop 1).all (fun n =>
    let got := (fromMember inst n).length
    if opcOf d = 0x801 then
      (inst.used.find? (fun k => k.node == n && k.pkt.addr % 2 ^ 32 == 0xFFFFFFFF)).any
        (fun k => leNat (k.pkt.data.take 4) == got)
    else got == (parFields d).count)

/-- XOR a chunk into an image. -/
def xorChunk (img : List Byte) (k : Chunk) : List Byte :=
  let o := 1024 * (k.pkt.addr % 2 ^ 32)
  img.take o ++ xorBytes (img.drop o) k.pkt.data

/-- The image after every member's chunks. -/
def xorMembers (inst : CollInst) (img : List Byte) : List Byte :=
  ((inst.nodes.drop 1).flatMap (fromMember inst)).foldl xorChunk img

/-- A holder instance of PARITY_UPDATE. -/
def isHolder (d : List Word) : Bool := opcOf d == 0x801 && (parFields d).role == 1

/-- What the copy engine reads and writes for a holder at its dispatch: the current buffer, not with INIT = 1, and the alternate
buffer (R300). -/
def holderReads (s : State) (p : Nat) (d : List Word) : List (Nat × Nat) :=
  let t := tens s p (parFields d).src
  if isHolder d && !(parFields d).init then [(t.inBuf, t.cols)] else []

def holderWrites (s : State) (w : Who) (d : List Word) : List (Nat × List Byte) :=
  let t := tens s w.part (parFields d).src
  if isHolder d then
    [(t.outBuf true, if (parFields d).init then List.replicate t.cols 0 else vaBytes s w.part w.ring t.inBuf t.cols)]
  else []

/-- XOR bytes into written pieces from an offset on. -/
def xorPieces : List (Nat × List Byte) → Nat → List Byte → List (Nat × List Byte)
  | [], _, _ => []
  | (a, l) :: t, off, bs =>
    if l.length ≤ off then (a, l) :: xorPieces t (off - l.length) bs
    else (a, l.take off ++ xorBytes (l.drop off) bs) :: xorPieces t 0 (bs.drop (l.length - off))

/-- XOR an arriving chunk into the alternate buffer; the closing chunk has no data for it (R300). -/
def xorArrival (results : List (Nat × List Byte)) (k : Chunk) : List (Nat × List Byte) :=
  if k.pkt.addr % 2 ^ 32 = 0xFFFFFFFF then results else xorPieces results (1024 * (k.pkt.addr % 2 ^ 32)) k.pkt.data

/-- The bytes of an image as the values that norm taps sum (R314). -/
def imageVals (fmt : Fmt) (t : Tens) (bs : List Byte) : List FVal :=
  (List.range t.rows).flatMap (fun r => (List.range t.cols).map (fun k =>
    let at' (i n : Nat) : Nat := leNat ((bs.drop (r * fmt.bytes t.cols + i)).take n)
    let pat := if fmt = .bs4 then (let v := at' (k / 2) 1; if k % 2 = 0 then v % 16 else v / 16)
      else at' (fmt.bytes k) (fmt.bits / 8)
    fmt.value pat (if fmt.isBlock then leNat ((bs.drop (t.rows * fmt.bytes t.cols + r * t.blocks + k / 32)).take 1) else 127)))

/-- The plan of the holder once every chunk has arrived (R300): the image stands in what the command has written. What the collective
engine wrote of it is the chunks that arrived: a tap sums their values as they stand at the end (R314; log entry 68). -/
def holderPlan (s : State) (c : InFlight) : Plan :=
  let f := parFields c.desc
  let t := tens s c.part f.src
  let img := c.results.flatMap (·.2)
  let chunks := (((c.coll.map (·.used)).getD []).map (fun k => k.pkt.x2.toNat % 2 ^ 32)).eraseDups
  let summed := chunks.flatMap (fun k => (img.drop (1024 * k)).take 1024)
  { Plan.ok with
    writes := [(t.outBuf true, img)]
    acts := flipActs s c.part true [f.src] ++ tapActs s 0 c.part f.src (imageVals .i8 t summed) }

/-- The rebuilder's version is present (R306). -/
def rebuilderBuf (s : State) (c : InFlight) : Option Nat :=
  let t := tens s c.part (parFields c.desc).src
  (versionBuf t (parFields c.desc).want).map t.buf

/-- The plan of the rebuilder (R306). -/
def rebuilderPlan (s : State) (c : InFlight) (inst : CollInst) (b : Nat) : Plan :=
  let f := parFields c.desc
  let w : Who := { part := c.part, ring := c.ring }
  let x := tens s c.part f.dst
  let e := tens s c.part f.expect
  let img := (xorMembers inst (vaBytes s w.part w.ring b (1024 * f.count))).take x.packedLen
  let reads := [(b, 1024 * f.count), (e.inBuf, 32)]
  let o := x.outBuf (voutOf c.desc)
  if imageDigest img = vaBytes s w.part w.ring e.inBuf 32 then
    { Plan.ok with
      reads := reads
      writes := unpackImage s w x o img
      counts := digestCounts c.part x.packedLen
      acts := flipActs s c.part (voutOf c.desc) [f.dst] ++ tapActs s 0 c.part f.dst (imageVals x.fmt x img) }
  else { Plan.stop 0x40 with reads := reads, undef := [(o, x.span)], counts := digestCounts c.part x.packedLen }

/-- The plan of RECONSTRUCT by METHOD 0 (R305). -/
def mirrorPlan (s : State) (c : InFlight) : Plan :=
  let f := parFields c.desc
  let w : Who := { part := c.part, ring := c.ring }
  let t := tens s c.part f.src
  let e := tens s c.part f.expect
  let x := tens s c.part f.dst
  let lost := if f.dst = 0 then [] else [(x.outBuf (voutOf c.desc), x.span)]
  if isParityColl c.desc then { Plan.ok with wait := true }
  else
    match versionBuf t f.want with
    | none => { Plan.stop 0x41 with undef := lost }
    | some second =>
      let img := packedImage s w t (t.buf second)
      let reads := t.packedRanges (t.buf second) ++ [(e.inBuf, 32)]
      let counts := digestCounts c.part t.packedLen
      if imageDigest img = vaBytes s w.part w.ring e.inBuf 32 then
        { Plan.ok with
          reads := reads
          writes := if f.dst = 0 then [] else unpackImage s w x (x.outBuf (voutOf c.desc)) img
          counts := counts
          acts := if f.dst = 0 then []
            else flipActs s c.part (voutOf c.desc) [f.dst] ++ tapActs s 0 c.part f.dst (imageVals x.fmt x img) }
      else { Plan.stop 0x40 with reads := reads, undef := lost, counts := counts }

/-- Run a plan of an instance; one that lacks its version tells its members (R306, R288), a digest that differs does not. -/
def runInstance (s : State) (ring : Nat) (c : InFlight) (inst : CollInst) (p : Plan) : State :=
  let s' := runPlan s ring c p
  if p.status = 0x41 ∧ (flightOf s' ring).any (fun x => x.executed) then collAbortAll s' inst else s'

/-- The engine takes the chunks that have arrived for an instance; a holder XORs each into its alternate buffer (R300). -/
def takeChunks (s : State) (ring : Nat) (c : InFlight) (inst : CollInst) : State :=
  let mine (k : Chunk) : Bool := k.pkt.addr / 2 ^ 32 == inst.collId.toNat
  let new := s.fab.staged.filter mine
  setFlight { s with fab := { s.fab with staged := s.fab.staged.filter (fun k => !mine k) } } ring (fun f =>
    { f with coll := some { inst with used := inst.used ++ new },
             results := if isHolder c.desc then new.foldl xorArrival f.results else f.results })

/-- DST of a rebuilder, which is undefined when the rebuilder fails. -/
def rebuilderOut (s : State) (c : InFlight) : List (Nat × Nat) :=
  let x := tens s c.part (parFields c.desc).dst
  [(x.outBuf (voutOf c.desc), x.span)]

/-- One run of the engine for a parity instance. -/
def runParity (s : State) (ring opc : Nat) : State :=
  match readyFlight s ring opc with
  | none => s
  | some c =>
    match c.coll with
    | none => s
    | some inst =>
      if !collHeld s c then s
      else if (parFields c.desc).role = 0 then runInstance s ring c inst (memberPlan s c inst)
      else
        let s := takeChunks s ring c inst
        match flightOf s ring with
        | none => s
        | some c =>
          let inst := c.coll.getD inst
          match (if opc = 0x801 then some 0 else rebuilderBuf s c) with
          | none => runInstance s ring c inst { Plan.stop 0x41 with undef := rebuilderOut s c }
          | some b =>
            if !membersDone c.desc inst then s
            else runInstance s ring c inst (if opc = 0x801 then holderPlan s c else rebuilderPlan s c inst b)

/-! ### PHASE_MARK and TAP_READ (R313, R315) -/

structure MarkFields where
  out   : Nat
  clear : Bool
  count : Nat
  first : Nat
  deriving DecidableEq, Repr

def markFields (d : List Word) : MarkFields :=
  let w := dw d
  { out := bits (w 4) 23 0, clear := bit (w 5) 17, count := bits (w 5) 16 8, first := bits (w 5) 7 0 }

def markSpec (s : State) (p : Nat) (d : List Word) : OpSpec :=
  let f := markFields d
  let t := tens s p f.out
  { masks := [fld 23 0, fld 17 0, 0, 0, 0, 0, 0, 0, 0, 0, 0, 0], ins := [], outs := [f.out], rws := [],
    bad := f.count == 0 || decide (256 < f.count) || decide (256 < f.first + f.count) || t.rank != 1 ||
      (if opcOf d = 0x900 then t.fmt != .i8 || f.clear else t.fmt != .f32),
    mismatch := false }

/-- Bytes that PHASE_MARK or TAP_READ writes. -/
def markBytes (d : List Word) : Nat :=
  if opcOf d = 0x900 then 64 + 136 * (markFields d).count else 4 * (markFields d).count

def markShape (s : State) (w : Who) (d : List Word) : Nat :=
  let f := markFields d
  if (tens s w.part f.out).cols < (if opcOf d = 0x900 then markBytes d else f.count) then 0x23 else 0

/-- Their plan: everything happens at the commit point. -/
def markPlan (s : State) (c : InFlight) : Plan :=
  let f := markFields c.desc
  let t := tens s c.part f.out
  let b := t.outBuf (voutOf c.desc)
  let ps := placesOf s { part := c.part, ring := c.ring } b (markBytes c.desc)
  { Plan.ok with
    undef := [(b, markBytes c.desc)]
    acts := (if opcOf c.desc = 0x900 then .phaseMark f.first f.count ps else .tapRead f.first f.count ps f.clear) ::
      flipActs s c.part (voutOf c.desc) [f.out] }

/-- A write of a ring's command at its commit point: what lies on another node is sent there, and the command's record waits for it. -/
def commitWrite (ring : Nat) (s : State) (a : Nat) (bs : List Byte) : State :=
  let s := gWrite s a bs
  if remoteAddr s a then asks (some ring) s (writeAsks false a bs) else s

/-- Write bytes over a list of places and lengths. -/
def scatter (ring : Nat) (s : State) : List Nat → List Byte → State
  | a :: n :: t, bs => scatter ring (commitWrite ring s a (bs.take n)) t (bs.drop n)
  | _, _ => s

/-- The image of PHASE_MARK (R313). -/
def phaseImage (s : State) (first count : Nat) : List Byte :=
  leBytes 8 (now s) ++ leBytes 1 first ++ leBytes 1 0 ++ leBytes 2 count ++ leBytes 52 0 ++
  (List.range count).flatMap (fun i => (List.range 17).flatMap (fun j => leBytes 8 (dGet s (dk (0x3300 + first + i) (j + 1)))))

/-- The key of a tap's value. -/
def tapKey (t : Nat) : Nat := dk (0x2832 + t / 128) (t % 128 + 1)

/-- The image of TAP_READ (R315). -/
def tapImage (s : State) (first count : Nat) : List Byte :=
  (List.range count).flatMap (fun i => leBytes 4 (r32 (fmtF64.decode (dGet s (tapKey (first + i))))))

/-- Clear taps. -/
def clearTaps (s : State) (first count : Nat) : State := (List.range count).foldl (fun s i => dSet s (tapKey (first + i)) 0) s

/-- Add to a tap in FP64 (R314). -/
def addTap (s : State) (t : Nat) (add : Nat) : State :=
  dSet s (tapKey t) (fmtF64.round ((fmtF64.decode (dGet s (tapKey t))).add (fmtF64.decode add)))

/-! ### The rows -/

/-- CUT. -/
def execCut (ring : RingId) (s : State) : Host.Outcome State Fault Refusal := .next (runOp s ring 0x800 cutPlan)

/-- PARITY_UPDATE. -/
def execParityUpdate (ring : RingId) (s : State) : Host.Outcome State Fault Refusal := .next (runParity s ring.toNat 0x801)

/-- RESTORE. -/
def execRestore (ring : RingId) (s : State) : Host.Outcome State Fault Refusal := .next (runOp s ring 0x802 restorePlan)

/-- RECONSTRUCT, METHOD 0. -/
def execReconstruct (ring : RingId) (s : State) : Host.Outcome State Fault Refusal := .next (runOp s ring 0x803 mirrorPlan)

/-- RECONSTRUCT, METHOD 1. -/
def execReconstructParity (ring : RingId) (s : State) : Host.Outcome State Fault Refusal :=
  .next (runParity s ring.toNat 0x803)

/-- DIGEST. -/
def execDigest (ring : RingId) (s : State) : Host.Outcome State Fault Refusal := .next (runOp s ring 0x804 digestPlan)

/-- PHASE_MARK. -/
def execPhaseMark (ring : RingId) (s : State) : Host.Outcome State Fault Refusal := .next (runOp s ring 0x900 markPlan)

/-- TAP_READ. -/
def execTapRead (ring : RingId) (s : State) : Host.Outcome State Fault Refusal := .next (runOp s ring 0x901 markPlan)

end Sys2Proof.Machine
end

