-- ==== Sys2Proof/Machine/Respond.lean ====
section
/-! DEFINITION. Answering Orogus requests: responses and the ones kept for repeats, the change journal, and which entries a
power state or a reset keeps from being written (R352 to R355, R362, R372). -/

namespace Sys2Proof.Machine

/-- SOURCE of a journal record. -/
def srcCode : Source → Nat
  | .mailbox => 0
  | .bus b | .badBus b => (match b.slot with
    | none => 0x01FF
    | some t => 0x0100 + t.toNat)

/-- Status codes of responses. -/
def stOk : Nat := 0x00
def stNoEntry : Nat := 0x01
def stReadOnly : Nat := 0x02
def stWriteOnly : Nat := 0x03
def stBadLength : Nat := 0x04
def stRefused : Nat := 0x05
def stNotQuiescent : Nat := 0x06
def stBusy : Nat := 0x07
def stSegCrc : Nat := 0x08
def stSegOrder : Nat := 0x09
def stNoSession : Nat := 0x0A
def stNeedsSegmented : Nat := 0x0B
def stBadMessage : Nat := 0x0C

/-- The bytes of a response: TYPE has bit 7 set. -/
def responseBytes (rq : Req) (type index sub status : Nat) (payload : List Byte) : List Byte :=
  orogusHeader rq.txid.toNat (Nat.lor type 0x80) payload.length status sub index ++ payload

/-- Deliver a response to its requester, on the bus from the address that the request named, port 30661 (R351, R354). A request to ff02::1 is
answered from the address of mac_address (DESIGN CHOICE, log entry 60). -/
def deliver (s : State) (rq : Req) (bs : List Byte) : State :=
  match rq.src with
  | .mailbox =>
    sendMsix { s with host := { s.host with mailResp := bs, mailBusy := false, cause := s.host.cause ||| 1 } } 0
  | .bus b =>
    busSend s { srcAddr := if b.dest = slotAddress s then slotAddress s else macAddress s, srcPort := orogusPort,
                addr := b.addr, port := b.port, bytes := bs }
  | .badBus _ => s

/-- Answer a request; the last 16 responses are kept (R352). -/
def respond (s : State) (rq : Req) (type index sub status : Nat) (payload : List Byte) : State :=
  let bs := responseBytes rq type index sub status payload
  let s := { s with host := { s.host with kept := keepLast 16 (s.host.kept ++ [{ txid := rq.txid, src := rq.src, bytes := bs }]) } }
  deliver (countT s 0x3118 1) rq bs

/-- Two requests come from one source (R352): the mailbox, or one IPv6 address and port. -/
def sameSource : Source → Source → Bool
  | .mailbox, .mailbox => true
  | .bus a, .bus b => a.addr == b.addr && a.port == b.port
  | _, _ => false

/-- A kept response to a request. -/
def keptFor (s : State) (rq : Req) : Option Kept :=
  s.host.kept.find? (fun k => k.txid == rq.txid && sameSource k.src rq.src)

/-- A datagram reaches the module: UDP port 30661 at one of its two addresses or at ff02::1 (R351). -/
def heard (s : State) (b : BusPath) : Bool :=
  b.destPort == orogusPort && (b.dest == macAddress s || b.dest == slotAddress s || b.dest == eventAddr)

/-- A message reaches the module: input power; in-band only while Falyndi is up (R354). -/
def reaches (s : State) (src : Source) : Bool :=
  s.pwr.inputOk && match src with
  | .mailbox => falyndiUp s
  | .bus b | .badBus b => heard s b

/-- Requests held without their response yet: writes of mirror addresses and of power_request (R352). The other requests are answered as they
are applied. -/
def heldRequests (s : State) : Nat := s.hop.mirrorReqs.length + (if s.pwr.transReq.isSome then 1 else 0)

/-- Take a request of a TYPE, INDEX and SUB, which starts the miller's clock, a repeat too (R366): a repeat gets its kept response, a further request beside
16 held ones BUSY, a datagram of wrong MAGIC or VERSION no response but a count (R352). -/
def handle (s : State) (rq : Req) (type index sub : Nat) (f : State → State) : State :=
  if !reaches s rq.src then s
  else
    let awake := { s with pwr := { s.pwr with millerClock := true } }
    match rq.src, keptFor s rq with
    | .badBus _, _ => countT s 0x3117 1
    | _, some k => deliver awake rq k.bytes
    | _, none => if 16 ≤ heldRequests s then respond awake rq type index sub stBusy [] else f awake

/-- Append a change journal record (R362). -/
def appendJournal (s : State) (src : Source) (typeCode index sub : Nat) (value : List Byte) : State :=
  let seq := dGet s (dk 0x1210 2) + 1
  let r := leBytes 8 seq ++ leBytes 8 (typeCode * 2 ^ 40 + sub * 2 ^ 32 + index * 2 ^ 16 + srcCode src) ++ padTo 16 value
  let s := dSet s (dk 0x1210 2) seq
  { s with host := { s.host with journal := keepLast 4096 (s.host.journal ++ [r]) } }

/-- Journal an accepted write: W and P entries only. -/
def journalWrite (s : State) (src : Source) (k : Nat) (value : List Byte) : State :=
  match dictEntry s.variant k with
  | none => s
  | some e => if e.persist = .v then s else appendJournal s src e.type.code (k / 256) (k % 256) value

/-- A cold, module or warm reset runs or holds the module. -/
def resetting (s : State) : Bool := s.pwr.resetRunning.isSome || s.pwr.held

/-- The module runs: input power, no reset. -/
def live (s : State) : Bool := s.pwr.inputOk && !resetting s

/-- Entries that the always-on island itself serves (R355). -/
def aonEntry (k : Nat) : Bool :=
  let i := k / 256
  decide (0x1000 ≤ i ∧ i ≤ 0x10FF) || decide (0x1400 ≤ i ∧ i ≤ 0x15FF) || i == 0x1210 || k == dk 0x2700 0x0B ||
    k == dk 0x2700 0x0C

/-- Entries of blocks that are powered down in P2, P3 or P4, Falyndi's in P4 (R372; DEDUCED from R369). -/
def poweredDown (s : State) (k : Nat) : Bool :=
  let i := k / 256
  match pState s with
  | 2 => decide (0x2000 ≤ i ∧ i ≤ 0x26FF) || decide (0x2800 ≤ i ∧ i ≤ 0x29FF)
  | 3 => decide (0x2200 ≤ i ∧ i ≤ 0x2206) || i == 0x2300 || i == 0x2301 || i == 0x2500 || decide (0x2900 ≤ i ∧ i ≤ 0x29FF)
  | 4 => (decide (0x2000 ≤ i ∧ i ≤ 0x29FF) || i == 0x1100 || i == 0x1120 || i == 0x1121) && !aonEntry k
  | _ => false

/-- An entry that cannot be written now. -/
def blocked (s : State) (k : Nat) : Bool := poweredDown s k || (resetting s && !aonEntry k)

/-- In recovery only these entries are served (R404). -/
def hidden (s : State) (index : Nat) : Bool :=
  s.fw.recovery && !(decide (0x1000 ≤ index ∧ index ≤ 0x10FF) || decide (0x1200 ≤ index ∧ index ≤ 0x13FF) ||
    decide (0x1500 ≤ index ∧ index ≤ 0x15FF))

/-- A write request: NO_ENTRY where recovery hides it, BUSY where the entry is blocked; else what the owning chapter does, with the status it answers (none:
the response comes later), the journal record before the response (R353, R362). -/
def handleWrite (s : State) (rq : Req) (index sub : Nat) (value : List Byte) (op : State → State × Option Nat) : State :=
  handle s rq 0x02 index sub (fun s =>
    if hidden s index then respond s rq 0x02 index sub stNoEntry []
    else if blocked s (dk index sub) then respond s rq 0x02 index sub stBusy []
    else match op s with
      | (s', some st) =>
        respond (if st = stOk then journalWrite s' rq.src (dk index sub) value else s') rq 0x02 index sub st []
      | (s', none) => s')

/-- WRITEs of tally mirror values to another node's memory are still open (R69). -/
def mirrorOpen (s : State) (v : Nat) : Bool :=
  s.fab.txns.any (fun t => t.ring.isNone && t.pkt.kind == kWrite && t.node == gaNode v && decide (v ≤ t.pkt.addr ∧ t.pkt.addr < v + 32768))

/-- The writes of tally_mirror_base whose mirror now holds every tally are answered; a WRITE that fails ends its wait as well (log entry 47). -/
def answerMirrors (s : State) : State :=
  let done := s.hop.mirrorReqs.filter (fun x => !mirrorOpen s x.2)
  done.foldl (fun s x => respond (journalWrite s x.1.src 0x210008 (leBytes 8 x.2)) x.1 0x02 0x2100 8 stOk [])
    { s with hop := { s.hop with mirrorReqs := s.hop.mirrorReqs.filter (fun x => mirrorOpen s x.2) } }

/-- Every partition is in state 0 or 3 (R360, R369). -/
def allQuiet (s : State) : Bool := (List.range 16).all (fun p => pGet s p 5 == 0 || pGet s p 5 == 3)

/-- A partition is in state 0 or 3. -/
def partQuiet (s : State) (p : Nat) : Bool := pGet s p 5 == 0 || pGet s p 5 == 3

end Sys2Proof.Machine
end

