-- ==== Sys2Proof/Machine/Wake.lean ====
section
/-! DEFINITION. The wake triggers of P2 to P4 and the automatic return to P0 (R367, R370, R371). -/

namespace Sys2Proof.Machine

/-- The key of power_request. -/
def powerRequestSub : Nat := 3

/-- Answer the requester of the transition that ends, if one waits, with a status and a power_result code (R368). -/
def endTransition (s : State) (status result : Nat) : State :=
  let s' := dSet { s with pwr := { s.pwr with transition := none, transReq := none } } (dk 0x1400 5) result
  match s.pwr.transReq with
  | none => s'
  | some rq => respond s' rq 0x02 0x1400 powerRequestSub status []

/-- A wake trigger of the states listed: an entry that runs is interrupted (R370); a module in such a state starts to
wake. -/
def wakeFrom (s : State) (states : List Nat) : State :=
  match s.pwr.transition with
  | some (t, false) =>
    if states.contains t then
      let s := endTransition (dAdd s (dk 0x3141 t) 1) stRefused 3
      { s with pwr := { s.pwr with transition := some (1, true) } }
    else s
  | some (_, true) => s
  | none =>
    if states.contains (pState s) then { s with pwr := { s.pwr with transition := some (1, true) } } else s

/-- The first dispatch returns the module from P1 to P0 (R367). -/
def enterRun (s : State) : State := if pState s = 1 then dSet s (dk 0x1400 2) 0 else s

/-- The last command has ended: the idle time of R367 starts. -/
def markIdle (s : State) : State :=
  if s.hop.inflight.isEmpty then { s with pwr := { s.pwr with idleSince := BitVec.ofNat 64 (now s) } } else s

/-- The hopper fetches and accepts: P0, P1 and P3 (R369); not once the module has failed (R391). -/
def hopperOn (s : State) : Bool := live s && !s.hlth.failed && (pState s == 0 || pState s == 1 || pState s == 3)

/-- The dispatcher dispatches: P0 and P1, no transition running. -/
def dispatcherOn (s : State) : Bool :=
  live s && (pState s == 0 || pState s == 1) && s.pwr.transition.isNone

end Sys2Proof.Machine
end

