-- ==== Sys2Proof/Machine/Opcodes.lean ====
section
/-! DEFINITION. The opcode groups side by side: which opcodes exist and where each runs, their field maps, run-time shapes
and grids, and the acceptance checks of R5, R30, R35, R40, R67, R71 and R174. -/

namespace Sys2Proof.Machine

/-- The opcodes of AL1. -/
def opcodes : List Nat :=
  [0x000, 0x001, 0x002, 0x003, 0x004, 0x005, 0x100, 0x101, 0x102, 0x200, 0x201, 0x202, 0x203, 0x204, 0x205,
   0x300, 0x301, 0x302, 0x303, 0x304, 0x305, 0x306, 0x400, 0x401, 0x402, 0x403, 0x404, 0x405,
   0x500, 0x501, 0x502, 0x503, 0x504, 0x505, 0x506, 0x507, 0x600, 0x601, 0x602, 0x603, 0x604, 0x605, 0x606,
   0x700, 0x701, 0x702, 0x800, 0x801, 0x802, 0x803, 0x804, 0x900, 0x901]

/-- The control opcodes, which run in the dispatcher and occupy no dispatch slot (R65). -/
def isControl (opc : Nat) : Bool := decide (opc ≤ 5)

/-- The quern commands (R105). -/
def onQuern (opc : Nat) : Bool := decide (0x202 ≤ opc ∧ opc ≤ 0x204)

/-- The commands that execute on cores (R15, R98). -/
def onCores (opc : Nat) : Bool :=
  [0x100, 0x101, 0x102, 0x200, 0x201, 0x205, 0x300, 0x301, 0x302, 0x304, 0x305, 0x400, 0x401, 0x402, 0x403, 0x404, 0x405,
   0x501, 0x502, 0x507].contains opc

/-- The shared engines of R63: 1 media, 2 collective, 3 copy, on which the fabric commands run too (spec/10 "Fabric opcodes"); 0
none. -/
def engineOf (opc : Nat) : Nat :=
  if 0x700 ≤ opc ∧ opc ≤ 0x702 then 1
  else if (0x602 ≤ opc ∧ opc ≤ 0x606) ∨ opc = 0x801 ∨ opc = 0x803 then 2
  else if opc = 0x500 ∨ opc = 0x503 ∨ opc = 0x504 ∨ opc = 0x600 ∨ opc = 0x601 then 3
  else 0

/-- The engines whose work phase.engine_busy_ticks counts: copy, collective, media and hash (R312). -/
def engineTimed (opc : Nat) : Bool := engineOf opc != 0 || opc == 0x800 || opc == 0x802 || opc == 0x804

/-! ### Control opcodes (spec/03 "Control opcodes") -/

/-- One signal of TALLY_SIGNAL. -/
structure Signal where
  node  : Nat
  tally : Nat
  add   : Nat
  deriving DecidableEq, Repr

/-- The enabled signals of a TALLY_SIGNAL. -/
def signals (d : List Word) : List Signal :=
  ((List.range 4).filter (fun i => bit (dw d (4 + 2 * i)) 63)).map (fun i =>
    { node := bits (dw d (4 + 2 * i)) 47 32, tally := bits (dw d (4 + 2 * i)) 11 0, add := dw d (5 + 2 * i) })

/-- A signal to this module. -/
def Signal.isLocal (s : State) (x : Signal) : Bool := x.node == 0xFFFF || x.node == nodeId s

/-- The enabled conditions of a TALLY_WAIT: (tally, value). -/
def waits (d : List Word) : List (Nat × Nat) :=
  ((List.range 4).filter (fun i => bit (dw d (4 + 2 * i)) 63)).map (fun i =>
    (bits (dw d (4 + 2 * i)) 11 0, dw d (5 + 2 * i)))

/-- A pair of words is zero where its EN is 0. -/
def pairsClean (d : List Word) : Bool :=
  (List.range 4).all (fun i => bit (dw d (4 + 2 * i)) 63 || (dw d (4 + 2 * i) == 0 && dw d (5 + 2 * i) == 0))

/-- SRC_RING and SEG_SEQ of REWIND and RELEASE. -/
def segName (d : List Word) : Nat × Nat := (bits (dw d 4) 13 0, bits (dw d 5) 47 0)

/-- A tally is the walk fence of the partition (R174). -/
def isFence (s : State) (p t : Nat) : Bool := kvGet s p 4 == t

def controlSpec (s : State) (p : Nat) (d : List Word) : OpSpec :=
  match opcOf d with
  | 0x001 =>
    let w := fld 63 63 + fld 47 32 + fld 11 0
    { OpSpec.empty with
      masks := [w, fldAll, w, fldAll, w, fldAll, w, fldAll, 0, 0, 0, 0]
      bad := !pairsClean d ||
        (signals d).any (fun x => x.isLocal s && (!tallyIn s p x.tally || isFence s p x.tally)) }
  | 0x002 =>
    let w := fld 63 63 + fld 11 0
    { OpSpec.empty with
      masks := [w, fldAll, w, fldAll, w, fldAll, w, fldAll, 0, 0, 0, 0]
      bad := !pairsClean d || (waits d).any (fun x => !tallyIn s p x.1) }
  | 0x004 => { OpSpec.empty with masks := [fld 13 0, fld 47 0, 0, 0, 0, 0, 0, 0, 0, 0, 0, 0] }
  | 0x005 => { OpSpec.empty with masks := [fld 13 0, fld 47 0, 0, 0, 0, 0, 0, 0, 0, 0, 0, 0] }
  | _ => { OpSpec.empty with masks := List.replicate 12 0 }

/-! ### Tables by opcode -/

/-- The field map and checks of an opcode's chapter. -/
def opSpec (s : State) (p : Nat) (d : List Word) : OpSpec :=
  let o := opcOf d
  if isControl o then controlSpec s p d
  else if o / 256 = 1 then gemmSpec s p d
  else if o / 256 = 2 then convSpec s p d
  else if o = 0x300 ∨ o = 0x301 then attnSpec s p d
  else if o = 0x302 then appendSpec s p d
  else if o = 0x303 then swapSpec s p d
  else if o / 256 = 3 then prefixSpec s p d
  else if o ≤ 0x403 then vecSpec s p d
  else if o = 0x404 then optSpec s p d
  else if o = 0x405 then rngSpec s p d
  else if o = 0x501 then saveSpec s p d
  else if o = 0x502 then loadSpec s p d
  else if o = 0x503 ∨ o = 0x504 then spillSpec s p d
  else if o = 0x505 ∨ o = 0x506 then mapSpec s p d
  else if o / 256 = 5 then copySpec s p d
  else if o = 0x600 ∨ o = 0x601 then remoteSpec s p d
  else if o / 256 = 6 then collSpec s p d
  else if o = 0x700 then decSpec s p d
  else if o = 0x701 then encSpec s p d
  else if o = 0x702 then ctxSpec s p d
  else if o = 0x801 ∨ o = 0x803 then parSpec s p d
  else if o / 256 = 8 then cutSpec s p d
  else markSpec s p d

/-- What the dispatcher finds of a command's run-time shape (R52) and of the checks its chapter makes at dispatch: 0 it
executes, else the status it ends with. -/
def opShape (s : State) (w : Who) (d : List Word) : Nat :=
  let o := opcOf d
  if isControl o then 0
  else if o / 256 = 1 then gemmShape s w d
  else if o / 256 = 2 then convShape s w d
  else if o = 0x300 ∨ o = 0x301 then attnShape s w d
  else if o = 0x302 then appendShape s w d
  else if o = 0x303 then swapShape s w d
  else if o / 256 = 3 then prefixShape s w d
  else if o ≤ 0x403 then vecShape s w d
  else if o = 0x404 then optShape s w d
  else if o = 0x405 then rngShape s w d
  else if o = 0x501 then saveShape s w d
  else if o = 0x502 then 0
  else if o = 0x503 ∨ o = 0x504 then spillShape s w d
  else if o = 0x505 ∨ o = 0x506 then mapShape s w d
  else if o / 256 = 5 then copyShape s w d
  else if o = 0x600 ∨ o = 0x601 then remoteShape s w d
  else if o / 256 = 6 then collShape s w d
  else if o = 0x700 then decShape s w d
  else if o = 0x701 then encShape s w d
  else if o = 0x702 then ctxShape s w d
  else if o = 0x800 then cutShape s w d
  else if o = 0x802 then restoreShape s w d
  else if o = 0x804 then 0
  else if o / 256 = 8 then parShape s w d
  else markShape s w d

/-- What the descriptor's own fields and the planned extents give of the shape, before the dispatcher reads any memory: 0, or
the status, 0x01 or 0x23 (R52). -/
def opDims (s : State) (w : Who) (d : List Word) : Nat :=
  let o := opcOf d
  if o = 0x102 then gemmDims s w d
  else if o = 0x302 then appendDims s w d
  else if o = 0x303 then swapDims s w d
  else if o = 0x304 ∨ o = 0x305 then prefixDims s w d
  else if o = 0x306 ∨ ((o = 0x503 ∨ o = 0x504) ∧ (spillFields d).isStore) then 0
  else if 0x602 ≤ o ∧ o ≤ 0x606 then collDims s w d
  else if isParityColl d then (if (parFields d).count = 0 then 0x01 else 0)
  else if o = 0x802 then (if (tens s w.part (cutFields d).tgt).cols < 128 then 0x23 else 0)
  else opShape s w d

/-- A unit grid (R134, R159, R209): rows, columns, inner positions, entries. -/
structure Grid where
  rows    : Nat
  cols    : Nat
  inner   : Nat
  entries : Nat
  deriving DecidableEq, Repr

/-- The grid of a command whose units are claimed from a work counter. KV_APPEND and the prefix commands that run on cores are one unit
(R64; DESIGN CHOICE, log entry 65: no grid of theirs is given). -/
def opGrid (s : State) (w : Who) (d : List Word) : Option Grid :=
  let o := opcOf d
  let entry (g : Nat × Nat × Nat) : Option Grid := some { rows := g.1, cols := g.2.1, inner := 1, entries := g.2.2 }
  if o / 256 = 1 then entry (gemmGrid s w d)
  else if o / 256 = 2 then (let g := convGrid d; some { rows := g.1, cols := g.2.1, inner := g.2.2, entries := 1 })
  else if o = 0x300 ∨ o = 0x301 then entry (attnGrid d)
  else if 0x400 ≤ o ∧ o ≤ 0x403 then entry (vecGrid d)
  else if o = 0x404 then entry (optGrid d)
  else if o = 0x405 then entry (rngGrid d)
  else if o = 0x501 then entry (saveGrid s w d)
  else if o = 0x502 then entry (loadGrid s w d)
  else if o = 0x507 then entry (copyGrid s w d)
  else if o = 0x302 ∨ o = 0x304 ∨ o = 0x305 then some { rows := 1, cols := 1, inner := 1, entries := 1 }
  else none

/-- The windows of the operand store that a unit of a command fills: first byte and bytes. The staging window (R81, R208), and the MID
window of a fused chain (R149). -/
def stageWindows (d : List Word) : List (Nat × Nat) :=
  let o := opcOf d
  let window (word : Nat) : Nat × Nat := (bits (dw d word) 5 0 * 65536, bits (dw d word) 14 8 * 65536)
  if o = 0x200 ∧ bit (dw d 11) 48 then [window 12, (bits (dw d 12) 21 16 * 65536, bits (dw d 12) 30 24 * 65536)]
  else if o / 256 = 1 ∨ o = 0x200 ∨ o = 0x201 ∨ o = 0x205 ∨ o = 0x501 ∨ o = 0x502 then [window 12]
  else if o = 0x300 ∨ o = 0x301 then [window 14]
  else []

/-- What the dispatcher reads at dispatch: group tables (R107, R282), CLIPF (R316), SEQIDS (R176). -/
def dispatchReads (s : State) (w : Who) (d : List Word) : List (Nat × Nat) :=
  let o := opcOf d
  let whole (i : Nat) : List (Nat × Nat) := let t := tens s w.part i; if t.span = 0 then [] else t.readRanges t.rows t.cols
  if o = 0x102 then whole (gemmFields d).gtable
  else if o = 0x404 then (if (optFields d).clipEn then whole (optFields d).clipf else [])
  else if o = 0x302 then whole (appendFields d).seqids
  else if o = 0x303 then
    (let f := swapFields d
     if f.count = 0 then [] else [((tens s w.part f.newtable).inBuf, 16 * f.count)])
  else if 0x602 ≤ o ∧ o ≤ 0x606 then whole (collFields d).group
  else if isParityColl d then whole (parFields d).group ++ holderReads s w.part d
  else if (o = 0x503 ∨ o = 0x504) ∧ (spillFields d).isStore then
    (let t := tens s w.part (spillFields d).src
     if o = 0x503 then stage1Reads s w t.inBuf t.cols else [(t.inBuf, min 64 t.cols)])
  else if o = 0x802 then [((tens s w.part (cutFields d).tgt).inBuf, 128)]
  else []

/-- A sequence's root and page table, by global address. -/
def seqReads (s : State) (p sid : Nat) : List (Nat × Nat) :=
  let q := snapOf s p sid
  (q.addr, 24) :: (if q.table = 0 then [] else [(q.table, 16 * q.count)])

/-- Stack words that the pops of a KV_APPEND read. -/
def popReads (s : State) (pool : Pool) (classes : List Nat) : List (Nat × Nat) :=
  classes.eraseDups.map (fun c =>
    let n := min (classes.filter (· == c)).length (clsTop s pool c)
    (clsStack s pool c + 4 * (clsTop s pool c - n), 4 * n))

/-- What the dispatcher reads by global address: the records of the paged cache (R176, R178, R184, R185). -/
def dispatchGreads (s : State) (w : Who) (d : List Word) : List (Nat × Nat) :=
  let o := opcOf d
  let p := w.part
  match poolOf s p with
  | none => []
  | some pool =>
    if o = 0x302 then
      (let f := appendFields d
       (pool.base, 352) :: ((appendSeqs s w f).flatMap (seqReads s p) ++ popReads s pool (appendClasses s w f).flatten))
    else if o = 0x303 then [(pool.base, 352), ((snapOf s p (swapFields d).seqId).addr, 16)]
    else if o = 0x304 then [(pool.base, 352)]
    else if o = 0x305 then (pool.base, 352) :: seqReads s p (prefixFields d).seqId
    else if o = 0x306 then [(nodeAddr s p (prefixFields d).node, 48)]
    else []

/-- The snapshots a command takes at its dispatch (R176, R184). -/
def dispatchRoots (s : State) (w : Who) (d : List Word) : List (Option Nat × Nat × List Nat) :=
  (if opcOf d = 0x302 then appendSeqs s w (appendFields d)
   else if opcOf d = 0x305 then [(prefixFields d).seqId] else []).map (fun i => (none, i, rootWords s w.part i))

/-- What the dispatcher latches. -/
def opLatch (s : State) (w : Who) (d : List Word) : List Nat :=
  if opcOf d = 0x404 then optLatch s w d else gemmLatch s w d

/-! ### Acceptance -/

/-- The header bits that R5 and R30 reserve are zero. -/
def headerClean (d : List Word) : Bool :=
  let w0 := dw d 0
  bits w0 62 60 == 0 && bits w0 46 44 == 0 && !bit w0 31 && bits (dw d 1) 63 48 == 0 && bits (dw d 3) 63 32 == 0 &&
  (bit w0 47 || (bits w0 43 32 == 0 && dw d 2 == 0)) &&
  (bit w0 63 || (bits w0 59 48 == 0 && bits (dw d 3) 31 0 == 0))

/-- The tensors a descriptor names. -/
def OpSpec.all (o : OpSpec) : List Nat := (o.ins ++ o.outs ++ o.rws).eraseDups

/-- A named entry that can be read has a format code kept for higher levels, 0x10 to 0x1F (R7, R109). -/
def formatReserved (s : State) (p : Nat) (d : List Word) : Bool :=
  (opSpec s p d).all.any (fun i =>
    decide (i < pGet s p 9) && entryReadable s p i && decide (16 ≤ bits ((entryWords s p i).getD 0 0) 60 56))

/-- DVER is not above the module's level (R5). -/
def levelKnown (s : State) (d : List Word) : Bool := decide (bits (dw d 0) 3 0 ≤ dGet s (dk 0x1000 4))

/-- The checks of R5: 0, or the status. -/
def levelCheck (s : State) (p : Nat) (d : List Word) : Nat :=
  let dver := bits (dw d 0) 3 0
  if dGet s (dk 0x1000 4) < dver then 0x25
  else if dver = 0 then 0x20
  else if !headerClean d then 0x20
  else if !opcodes.contains (opcOf d) then 0x20
  else if reservedSet (opSpec s p d).masks d then 0x20
  else if formatReserved s p d then 0x20
  else 0

/-- Tallies outside the partition's range (R67), or a signal to the walk fence (R174). -/
def tallyBad (s : State) (p : Nat) (d : List Word) : Bool :=
  let w0 := dw d 0
  (bit w0 47 && !tallyIn s p (bits w0 43 32)) ||
  (bit w0 63 && (!tallyIn s p (bits w0 59 48) || isFence s p (bits w0 59 48)))

/-- Opcodes that are refused inside a replay segment (R71, R190, R215, R251, R289, R308, R324). -/
def replayRefused (d : List Word) : Bool :=
  let o := opcOf d
  voutOf d || o == 4 || o == 5 || decide (0x302 ≤ o ∧ o ≤ 0x306) || o == 0x505 || o == 0x506 ||
  ((o == 0x503 || o == 0x504) && ((spillFields d).alloc || (spillFields d).unmap)) || decide (0x602 ≤ o ∧ o ≤ 0x606) ||
  o / 256 == 7 || o / 256 == 8

/-- The alias check of R40. -/
def aliased (s : State) (p : Nat) (vout : Bool) (o : OpSpec) : Bool :=
  let ws := (o.outs ++ o.rws).map (fun i => let t := tens s p i; (t.outBuf vout, t.span))
  let rs := (o.ins ++ o.rws).map (fun i => let t := tens s p i; (t.inBuf, t.span))
  ws.any (fun a => rs.any (rangesMeet a))

/-- Every unit of a list is retired. -/
def allRetired (l : List (Nat × Nat)) (units : List Nat) : Bool := units.all (fun u => l.any (fun q => q.1 == u && q.2 == 5))

/-- All six querns are retired: their commands are bad descriptors (R391). -/
def quernsGone (s : State) : Bool := allRetired s.cores.quernWithheld (List.range 6)

/-- The checks of R35 that concern tensors: 0, 0x10 for an entry that cannot be read, or the status. An index outside the table comes
first, then an entry that cannot be read, before what the other entries hold is looked at (DESIGN CHOICE, log entry 64: the spec does not
say which wins where a descriptor names an unreadable and a refused entry). -/
def tensorCheck (s : State) (p : Nat) (d : List Word) : Nat :=
  let o := opSpec s p d
  let vout := voutOf d
  if o.all.any (fun i => decide (pGet s p 9 ≤ i)) then 0x20
  else if o.all.any (fun i => !entryReadable s p i) then 0x10
  else if o.all.any (fun i => match tensAt s p i with
      | none => true
      | some t => t.versioned && t.buffersOverlap) then 0x20
  else if vout && (o.outs ++ o.rws).any (fun i => !(tens s p i).versioned) then 0x20
  else if o.bad || (onQuern (opcOf d) && quernsGone s) then 0x20
  else if o.mismatch then 0x22
  else if aliased s p vout o then 0x21
  else 0

/-- The first entry of a descriptor that cannot be read. -/
def unreadable (s : State) (p : Nat) (d : List Word) : Option Nat :=
  ((opSpec s p d).all.find? (fun i => !entryReadable s p i)).map (fun i =>
    (firstLost s (entryAddr s p i) 64).getD (entryAddr s p i))

/-- The error of an entry that a check must read and cannot (R35): source 0x07, for the partition. Answers its FAULT_ID. -/
def entryFault (s : State) (p : Nat) (d : List Word) : State × Nat :=
  match unreadable s p d with
  | some a => detectError s (uncorrectableRead s p a true) none
  | none => (s, 0)

/-- What the examination of a fetched descriptor finds (R35). -/
inductive Verdict where
  | take
  | skip
  | pend
  | give (status : Nat)
  deriving DecidableEq, Repr

/-- The checks of R5, then of R35, R67 and R71, in order. -/
def examine (s : State) (n : Nat) (d : List Word) : Verdict :=
  let r := ringOf s n
  let p := r.part.toNat
  let seq := seqOf d
  let lvl := levelCheck s p d
  let inSeg := r.openSeg.isSome
  let seg := inSeg || rmarkOf d
  if lvl ≠ 0 then .give lvl
  else if seq = 0 then .give 0x20
  else if seq ≤ committedSeq s n then .skip
  else if seq < r.nextSeq.toNat then .pend
  else if r.nextSeq.toNat < seq then .give 0x24
  else if tallyBad s p d || (rmarkOf d && inSeg) || (rendOf d && !seg) || (seg && replayRefused d) then .give 0x20
  else match tensorCheck s p d with
    | 0 => .take
    | st => .give st

end Sys2Proof.Machine
end

