-- ==== Sys2Proof/Machine/Rings.lean ====
section
/-! DEFINITION. Rings: ring memory and its mirror, doorbells, ring commands, descriptor fetch and acceptance (R20 to R39,
R58 to R61, R71 to R73, R429, R431). -/

namespace Sys2Proof.Machine

/-- SEQ 0xFFFF_FFFF_FFFF (R38). -/
def seqMax : Nat := 2 ^ 48 - 1

/-! ### Pinned areas (R21, R231, R431) -/

/-- A stack with no live channel is retired (R247). -/
def stackRetired (s : State) (st : Nat) : Bool := (liveOfStack s st).isEmpty

/-- Ranges (offset, bytes) in use of a stack's pinned area: ring memory, mirrors, both copies of the status table, retired
ranges. -/
def pinnedTaken (s : State) (st : Nat) : List (Nat × Nat) :=
  let at' (a n : Nat) : List (Nat × Nat) :=
    if a ≠ 0 ∧ gaRegion a = 1 ∧ gaOffset a / 2 ^ 36 = st then [(gaOffset a % 2 ^ 36, n)] else []
  (s.hop.rings.flatMap (fun r =>
    if r.2.state = .free then []
    else at' r.2.ringAddr.toNat (128 * r.2.size.toNat) ++ at' r.2.mirrorAddr.toNat (128 * r.2.size.toNat))) ++
  at' (dGet s (dk 0x2100 3)) (2 ^ 20) ++ at' (dGet s (dk 0x2100 0xC)) (2 ^ 20) ++
  s.mem.retiredRanges.flatMap (fun a => at' a (2 ^ 21))

/-- Free bytes of a stack's pinned area. -/
def pinnedFree (s : State) (st : Nat) : Nat := pinnedUsable s - ((pinnedTaken s st).map (·.2)).sum

/-- Offsets at which `n` contiguous bytes are free: the start of the area, and the end of each range in use. -/
def pinnedFits (s : State) (st n : Nat) : List Nat :=
  let taken := pinnedTaken s st
  if stackRetired s st then []
  else (0 :: taken.map (fun t => alignUp (t.1 + t.2) 128)).filter
    (fun o => decide (o + n ≤ pinnedUsable s) && rangeFree taken o n)

/-- The place the module takes, among those that fit: the spec fixes only the stack (R21). -/
def pinnedPlace (s : State) (st n k : Nat) : Option Nat :=
  let l := pinnedFits s st n
  (l[Config.pinnedPick k % l.length]?).map (fun o => gaMake (nodeId s) 1 (st * 2 ^ 36 + o))

/-- Both copies fit on stacks st and st + 6. -/
def pairFits (s : State) (st n : Nat) : Bool :=
  !(pinnedFits s st n).isEmpty && !(pinnedFits s ((st + 6) % 12) n).isEmpty

/-- The primary stack of a new ring (check 5 of R21). -/
def pickStack (s : State) (code n : Nat) : Option Nat :=
  if code = 15 then leastBy (fun st => pinnedUsable s - pinnedFree s st) ((List.range 12).filter (fun st => pairFits s st n))
  else if pairFits s code n then some code else none

/-- What a write at `a` puts into one ring's memory goes to that ring's mirror too; a ring that has lost a stack has none. -/
def mirrorTo (a : Nat) (bs : List Byte) (s : State) (r : Ring) : State :=
  let base := r.ringAddr.toNat
  if r.state = .free ∨ r.mirrorAddr = 0 ∨ !rangesMeet (base, 128 * r.size.toNat) (a, bs.length) then s
  else
    let lo := max base a
    let hi := min (base + 128 * r.size.toNat) (a + bs.length)
    gWrite s (r.mirrorAddr.toNat + (lo - base)) ((bs.drop (lo - a)).take (hi - lo))

/-- Ring memory written by the driver goes to both copies (R22). -/
def mirrorWrite (s : State) (a : Nat) (bs : List Byte) : State :=
  (s.hop.rings.map (·.2)).foldl (mirrorTo a bs) s

/-! ### Doorbells (R28, R367) -/

/-- Count under a ring's partition. -/
def countRing (s : State) (n ix : Nat) : State := countP s ix (ringOf s n).part.toNat 1

/-- The event of an overrun or of a hold-limit stall (R429). -/
def hopperEvent (s : State) (n ix producer : Nat) : State :=
  let p := (ringOf s n).part.toNat
  raiseEvent s 1 0 (some p) ix (p + 1) (producer * 2 ^ 16 + n)

/-- The evaluation of a doorbell word (R28). -/
def ringDoorbell (s : State) (n word : Nat) : State :=
  let r := ringOf s n
  if r.state = .free then countT s 0x3207 1
  else if bits word 63 32 ≠ 0 then countRing s n 0x3207
  else
    let producer := word % 2 ^ 32
    let d := (producer + 2 ^ 32 - r.producer.toNat) % 2 ^ 32
    if d = 0 ∨ 2 ^ 31 ≤ d then s
    else if r.size.toNat < (producer + 2 ^ 32 - r.commitPos.toNat) % 2 ^ 32 then
      hopperEvent (countRing s n 0x3208) n 0x3208 producer
    else putRing s n { r with producer := BitVec.ofNat 32 producer }

/-- DOORBELL: the word is evaluated (R28); a doorbell wakes the module from P2. It never overtakes the host writes before it
(R29): while the link is held, or accesses before it wait, it waits with them in the FHA-4, and while LINK_LOST stands or the link is down it is discarded as they
are. -/
def execDoorbell (ring : RingId) (word : Word) (s : State) : Host.Outcome State Fault Refusal :=
  .next (if s.host.linkLost then dropHost s
    else if hostQueued s then holdHost s (hostPut (2 ^ 41 + 0x20000 + 8 * ring.toNat) (leBytes 8 word.toNat))
    else if falyndiUp s && live s then wakeFrom (ringDoorbell s ring.toNat word.toNat) [2] else s)

/-! ### Ring commands (R20 to R24) -/

/-- A configuration entry is valid (check 3 of R21). -/
def configValid (s : State) (k0 k1 : Nat) : Bool :=
  let size := bits k0 20 4
  let stack := bits k0 24 21
  bits k0 63 25 == 0 && (List.range 11).any (fun i => size == 2 ^ (i + 6)) && (decide (stack ≤ 11) || stack == 15) &&
  k1 != 0 && k1 % 32 == 0 &&
  (inLocalHbm s k1 (32 * size) || (gaRegion k1 == 2 && gaValid s k1 && gaValid s (k1 + 32 * size - 1)))

/-- CREATE (R21): the result code and the state. -/
def ringCreate (s : State) (n : Nat) : State × Nat :=
  let base := dGet s (dk 0x2100 2)
  let k0 := ldNat s (base + 16 * n) 8
  let k1 := ldNat s (base + 16 * n + 8) 8
  let size := bits k0 20 4
  let p := bits k0 3 0
  if base = 0 then (s, 4)
  else if (ringOf s n).state ≠ .free then (s, 1)
  else if !configValid s k0 k1 then (s, 2)
  else if !quotaAllows s p 2 (256 * size) then (s, 3)
  else match pickStack s (bits k0 24 21) (128 * size) with
    | none => (s, 6)
    | some st =>
      match pinnedPlace s st (128 * size) (2 * s.fresh), pinnedPlace s ((st + 6) % 12) (128 * size) (2 * s.fresh + 1) with
      | some a, some b =>
        let r := { Ring.free with
          state := .active, part := BitVec.ofNat 4 p, stack := BitVec.ofNat 4 st, size := BitVec.ofNat 17 size, nextSeq := 1,
          ringAddr := BitVec.ofNat 64 a, mirrorAddr := BitVec.ofNat 64 b, cqBase := BitVec.ofNat 64 k1 }
        (putLedger (putRing (tickFresh s) n r) n 0, 0)
      | _, _ => (s, 6)

/-- The ring holds a replay segment, or one is open on it (R23, R77). -/
def holdsSegment (s : State) (n : Nat) : Bool := s.hop.segments.any (fun g => g.ring == n)

/-- DESTROY (R23). -/
def ringDestroy (s : State) (n : Nat) : State × Nat :=
  let r := ringOf s n
  if r.state = .free ∨ r.commitPos ≠ r.consumer ∨ holdsSegment s n then (s, 1)
  else
    let s := { s with hop := { s.hop with
      marks := s.hop.marks.filter (fun m => m.ring != n), stallHold := s.hop.stallHold.filter (· != n) } }
    (putLedger (putRing s n Ring.free) n 0, 0)

/-- RESUME (R24, R38). -/
def ringResume (s : State) (n : Nat) : State × Nat :=
  let r := ringOf s n
  if r.state ≠ .halted then (s, 1)
  else
    let s := { s with hop := { s.hop with marks := s.hop.marks.filter (fun m => m.ring != n) } }
    let s := putRing s n { r with state := .active, rgen := r.rgen + 1, haltStatus := 0 }
    if committedSeq s n = seqMax then (haltRing s n r.consumer.toNat r.nextSeq.toNat 0x24, 0) else (s, 0)

/-- A ring command word: its result stands in LAST_CMD_RESULT before the write is acknowledged (R20). -/
def ringCmd (word : Nat) (s : State) : State × Option Nat :=
  let n := bits word 13 0
  let op := bits word 63 60
  let x :=
    if bits word 59 14 ≠ 0 then (s, 5)
    else if op = 1 then ringCreate s n
    else if op = 2 then ringDestroy s n
    else if op = 3 then ringResume s n
    else (s, 5)
  (putRing x.1 n { ringOf x.1 n with lastResult := BitVec.ofNat 8 x.2 }, some stOk)

/-- The write of a ring command word to 0x2100:04. -/
def ringRequest (s : State) (rq : Req) (op : Nat) (ring : RingId) (rsv : BitVec 46) : State :=
  let word := op * 2 ^ 60 + rsv.toNat * 2 ^ 14 + ring.toNat
  handleWrite s rq 0x2100 4 (leBytes 8 word) (ringCmd word)

/-- CREATE. -/
def execCreate (rq : Req) (ring : RingId) (rsv : BitVec 46) (s : State) : Host.Outcome State Fault Refusal :=
  .next (ringRequest s rq 1 ring rsv)

/-- DESTROY. -/
def execDestroy (rq : Req) (ring : RingId) (rsv : BitVec 46) (s : State) : Host.Outcome State Fault Refusal :=
  .next (ringRequest s rq 2 ring rsv)

/-- RESUME. -/
def execResume (rq : Req) (ring : RingId) (rsv : BitVec 46) (s : State) : Host.Outcome State Fault Refusal :=
  .next (ringRequest s rq 3 ring rsv)

/-! ### Descriptor fetch (R22, R60, R72) -/

/-- The address a descriptor is read from: the primary copy, or the mirror; `none` when both are uncorrectable. -/
def slotAddr (s : State) (r : Ring) (pos : Nat) : Option Nat :=
  let off := 128 * (pos % r.size.toNat)
  let a := r.ringAddr.toNat + off
  let b := r.mirrorAddr.toNat + off
  if !stackRetired s r.stack.toNat && !lostIn s a 128 then some a
  else if !stackRetired s ((r.stack.toNat + 6) % 12) && !lostIn s b 128 then some b
  else none

/-- The sixteen words of a descriptor. -/
def readDesc (s : State) (a : Nat) : List Word := (List.range 16).map (fun i => BitVec.ofNat 64 (ldNat s (a + 8 * i) 8))

/-- A fetched descriptor opens a segment: of one above the module's level no field but DVER is examined (R5). -/
def opensSeg (s : State) (d : List Word) : Bool := levelKnown s d && rmarkOf d

/-- It closes one. -/
def closesSeg (s : State) (d : List Word) : Bool := levelKnown s d && rendOf d

/-- A descriptor fetched now would belong to an open segment. -/
def segmentAhead (s : State) (r : Ring) : Bool :=
  (r.cells.filter (fun c => c.st == .reading)).foldl
    (fun o c => if closesSeg s c.desc then false else o || opensSeg s c.desc) r.openSeg.isSome

/-- The position is below PRODUCER, modulo 2^32 (R25). -/
def belowProducer (r : Ring) : Bool :=
  let d := (r.producer - r.consumer).toNat
  decide (0 < d ∧ d < 2 ^ 31)

/-- What R60 asks of the ring itself; a ring whose last SEQ has committed fetches nothing (R38), nor one with a SEQ_GAP to
end (R37), nor one of a partition with an interrupted journal record to complete (R44). -/
def mayFetch (s : State) (r : Ring) (n : Nat) : Bool :=
  r.state == .active && belowProducer r && pGet s r.part.toNat 1 == 1 &&
  decide (r.cells.length < dGet s (dk 0x2100 7)) && committedSeq s n != seqMax &&
  s.hop.journal.all (fun j => !(j.interrupted && j.part == r.part.toNat)) &&
  r.cells.all (fun c => match c.st with
    | .returned st _ => st != 0x24
    | _ => true)

/-- The free entries of the segment directory are used up. -/
def directoryFull (s : State) : Bool := decide (4096 ≤ s.hop.segments.length)

/-- A partition is at the hold limit (R72). -/
def atHoldLimit (s : State) (p : Nat) : Bool := decide (pGet s p 0xA ≤ cellsHeld s p + 64)

/-- Begin a stall of a partition at its quota (0x320A) or at the empty free list (0x3209), counted once (R60). -/
def beginStall (s : State) (index p : Nat) : State :=
  if index = 0x320A then
    if s.hop.stallQuota.contains p then s
    else countP { s with hop := { s.hop with stallQuota := insertNat p s.hop.stallQuota } } index p 1
  else
    if s.hop.stallPool.contains p then s
    else countP { s with hop := { s.hop with stallPool := insertNat p s.hop.stallPool } } index p 1

/-- The partition stalls at its hold limit: one of its rings has stopped there and not fetched again (R72; log entry 17). -/
def holdStalled (s : State) (p : Nat) : Bool := s.hop.stallHold.any (fun m => (ringOf s m).part.toNat == p)

/-- A ring stops at the hold limit: the stall of its partition is counted, and its event raised, when it begins (R72, R429). -/
def stopAtLimit (s : State) (n : Nat) : State :=
  let p := (ringOf s n).part.toNat
  let s' : State := { s with hop := { s.hop with stallHold := insertNat n s.hop.stallHold } }
  if holdStalled s p then s' else hopperEvent (countP s' 0x320B p 1) n 0x320B 0

/-- Ring `n` of the partition fetches: the stalls of R60 end, and that of R72 if the ring had stopped at the limit. -/
def endStalls (s : State) (p n : Nat) : State :=
  { s with hop := { s.hop with
    stallQuota := s.hop.stallQuota.filter (· != p), stallPool := s.hop.stallPool.filter (· != p),
    stallHold := if s.hop.stallHold.contains n then s.hop.stallHold.filter (fun m => (ringOf s m).part.toNat != p)
      else s.hop.stallHold } }

/-- A ring that can fetch: nothing of R60 and R72 stands in its way. -/
def canFetch (s : State) (n : Nat) : Bool :=
  let r := ringOf s n
  let p := r.part.toNat
  mayFetch s r n && decide (cellsUsed s p < pGet s p 0xA) && decide (0 < cellsFree s) &&
  !(segmentAhead s r && atHoldLimit s p) && !(r.dirStop && directoryFull s) &&
  (slotAddr s r r.consumer.toNat).isSome

/-- How far a ring is from the turn. -/
def turnDist (s : State) (n : Nat) : Nat := (n + 16384 - s.hop.fetchTurn) % 16384

/-- No ring that can fetch comes before this one in the round (R60). -/
def fetchTurnOf (s : State) (n : Nat) : Bool :=
  s.hop.rings.all (fun r => !(decide (turnDist s r.1 < turnDist s n) && canFetch s r.1))

/-- A position is unreadable in both copies (R22): a health record with source 0x10, and the ring halts there. -/
def haltUnread (s : State) (n : Nat) : State :=
  let r := ringOf s n
  let a := r.ringAddr.toNat + 128 * (r.consumer.toNat % r.size.toNat)
  haltRing (detectError s { uncorrectableRead s r.part.toNat a false with source := 0x10 } none).1
    n r.consumer.toNat r.nextSeq.toNat 0x10

/-- Read the descriptor at CONSUMER from `a`; the turn passes on. -/
def readSlot (s : State) (n a : Nat) : State :=
  let r := ringOf s n
  let d := readDesc s a
  let s := { s with hop := { s.hop with fetchTurn := (n + 1) % 16384 } }
  if opensSeg s d && directoryFull s then countRing (putRing s n { r with dirStop := true }) n 0x320C
  else
    let c : HCell := { pos := r.consumer, desc := d, st := .reading, order := 0, seg := none }
    putRing (endStalls s r.part.toNat n) n { r with cells := r.cells ++ [c], consumer := r.consumer + 1, dirStop := false }

/-- The read of the next descriptor, once the injections armed for its words have fired (R430): from the copy that is still readable. -/
def readFired (s : State) (n : Nat) : State :=
  let r := ringOf s n
  if !mayFetch s r n then s
  else match slotAddr s r r.consumer.toNat with
    | none => if r.cells.isEmpty then haltUnread s n else s
    | some a => readSlot s n a

/-- Issue the read of the next descriptor of a ring, in its turn. What stops it is looked for in this order: quota, free list, hold
limit, directory (DESIGN CHOICE, log entry 21: the spec does not say which stall begins where several reasons stand together, also at
an RMARK position with a full directory). -/
def fetchNext (s : State) (n : Nat) : State :=
  let r := ringOf s n
  let p := r.part.toNat
  if !mayFetch s r n then s
  else if pGet s p 0xA ≤ cellsUsed s p then beginStall s 0x320A p
  else if cellsFree s = 0 then beginStall s 0x3209 p
  else if segmentAhead s r && atHoldLimit s p then stopAtLimit s n
  else match slotAddr s r r.consumer.toNat with
    | none => if r.cells.isEmpty then haltUnread s n else s
    | some a => if (r.dirStop && directoryFull s) || !fetchTurnOf s n then s else readFired (fireRead s a 128) n

/-- DESCRIPTOR_FETCH. -/
def execDescriptorFetch (ring : RingId) (s : State) : Host.Outcome State Fault Refusal :=
  .next (if hopperOn s then fetchNext s ring.toNat else s)

/-! ### Acceptance (R35, R71) -/

/-- Give the first cell that is being read its state. -/
def setCell (r : Ring) (f : HCell → HCell) : Ring := { r with cells := modifyFirst (fun c => c.st == .reading) f r.cells }

/-- Accept a descriptor: NEXT_SEQ moves on; an RMARK opens a segment and takes a directory entry, a REND closes it. -/
def acceptCell (s : State) (n : Nat) (c : HCell) : State :=
  let r := ringOf s n
  let seq := BitVec.ofNat 48 (seqOf c.desc)
  let s := if rmarkOf c.desc then
      { s with hop := { s.hop with segments := s.hop.segments ++
        [{ ring := n, seq := seq, part := r.part.toNat, held := [], complete := false, releasing := false, released := false }] } }
    else s
  let seg := if rmarkOf c.desc then some seq else r.openSeg
  let s := { s with hop := { s.hop with acceptOrder := s.hop.acceptOrder + 1 } }
  putRing s n { setCell r (fun c => { c with st := .accepted, order := s.hop.acceptOrder, seg := seg }) with
    nextSeq := seq + 1, openSeg := if rendOf c.desc then none else seg }

/-- The directory has filled since the read: the ring stops at the position (R72). -/
def stopAt (s : State) (n : Nat) (c : HCell) : State :=
  let r := ringOf s n
  countRing (putRing s n { r with
    cells := r.cells.takeWhile (fun x => x.st != .reading), consumer := c.pos, dirStop := true }) n 0x320C

/-- A fetched descriptor arrives and is examined. -/
def acceptNext (s : State) (n : Nat) : State :=
  let r := ringOf s n
  match r.cells.find? (fun c => c.st == .reading) with
  | none => s
  | some c =>
    let mark (s : State) (st : CellState) : State := putRing s n (setCell (ringOf s n) (fun c => { c with st := st }))
    match examine s n c.desc with
    | .take => if rmarkOf c.desc && directoryFull s then stopAt s n c else acceptCell s n c
    | .skip => mark s .duplicate
    | .pend => mark s .pendingDup
    | .give st =>
      if st = 0x10 then
        let x := entryFault s r.part.toNat c.desc
        mark x.1 (.returned 0x10 (BitVec.ofNat 24 x.2))
      else mark s (.returned (BitVec.ofNat 8 st) 0)

/-- ACCEPTANCE: the checks, then whatever ends in its turn without execution (R33). -/
def execAcceptance (ring : RingId) (s : State) : Host.Outcome State Fault Refusal :=
  .next (if hopperOn s then settle (acceptNext s ring.toNat) ring.toNat else s)

end Sys2Proof.Machine
end

