-- ==== Sys2Proof/Machine/Commits.lean ====
section
/-! DEFINITION. How a command in flight ends: the commit sequence and its acts (R43, R68, R70, R172 to R174, R182), failed and
returned ends, and the end of a discard (R47). -/

namespace Sys2Proof.Machine

/-! ### The acts of a commit -/

/-- A decrement of a page's reference count; at 0 the page enters the deferred ring (R172, R173). -/
def refDecrement (s : State) (p cls page : Nat) : State :=
  match poolOf s p with
  | none => s
  | some pool =>
    let n := refCount s pool cls page
    if n = 0 then raiseEvent (countP s 0x3266 p 1) 1 0 (some p) 0x3266 (p + 1) 0
    else
      let s := setRef s pool cls page (n - 1)
      if n = 1 then deferPage s p cls page else s

/-- Set or raise a page's reference count. -/
def refWrite (s : State) (p cls page : Nat) (f : Nat → Nat) : State :=
  match poolOf s p with
  | none => s
  | some pool => setRef s pool cls page (f (refCount s pool cls page))

/-- An entry of the deferred ring carries tag E: this command has retired a page. -/
def retiredNow (s : State) (p : Nat) : Bool :=
  match poolOf s p with
  | none => false
  | some pool => pool.head != pool.tail && ldNat s (deferAt s pool ((pool.tail + deferWrap s pool - 1) % deferWrap s pool)) 8 == kvGet s p 5

/-- Step 2 of R173, and the walk fence that follows E (R174). -/
def advanceEpoch (s : State) (p : Nat) (always : Bool) : State :=
  if always || retiredNow s p then updateFence (dSet s (dk (0x2610 + p) 5) ((kvGet s p 5 + 1) % 2 ^ 64)) p else s

/-- RELEASE at its commit (R77). -/
def releaseSegment (s : State) (ring seq : Nat) : State :=
  match findSeg s ring seq with
  | none => s
  | some g =>
    if g.complete then dropSeg s ring seq
    else setSeg s ring seq (fun g => { g with held := [], released := true })

/-- Send a remote tally add for a ring's command (R70). -/
def sendTally (s : State) (ring node tally : Nat) (addend : Word) : State :=
  asks (some ring) s [Ask.plain kTally node tally addend.toNat []]

/-- Apply one act of a ring's commit. -/
def applyAct (ring : Nat) (s : State) (a : CommitAct) : State :=
  match a with
  | .flip p t => flipEntry s p t
  | .setVersion p t cur v => setVersion s p t cur v.toNat
  | .tallyAdd t x => tallyAdd s t x.toNat
  | .write addr bs => gWrite s addr bs
  | .refSet p c i => countP (refWrite s p c i (fun _ => 1)) 0x3263 p 1
  | .refInc p c i => refWrite s p c i (· + 1)
  | .refDec p c i => refDecrement s p c i
  | .kvEpoch p always => advanceEpoch s p always
  | .freeEpoch p lo hi =>
    let e := (kvGet s p 5 + 1) % 2 ^ 64
    commitWrite ring (commitWrite ring s lo (leBytes 4 (e % 2 ^ 32))) hi (leBytes 4 (e / 2 ^ 32))
  | .prefixFree p h n => setFreeList s p h.toNat n.toNat
  | .streamAdvance p slot => advanceStream s p slot
  | .streamSet p slot seed ctr => setStream s p slot seed.toNat ctr.toNat
  | .tapAdd t x => addTap s t x.toNat
  | .tapRead first n addrs clear =>
    let s := scatter ring s addrs (tapImage s first n)
    if clear then clearTaps s first n else s
  | .phaseMark first n addrs => scatter ring s addrs (phaseImage s first n)
  | .cutStamp addrs rec0 => scatter ring s addrs ((stampRecord (now s) (rec0.take 64) (rec0.drop 128)).take 128)
  | .mapDone p va => mapDone s p va
  | .unmap p va => unmapPage s p va
  | .releaseSeg r q => releaseSegment s r q.toNat
  | .ctxFlip e i => ctxFlip s e i
  | .ctxCreate e i p store codec encode deep maxW maxH slots =>
    ctxCreate s { engine := e, ctx := i, part := p, store := store, codec := codec, encode := encode, deep := deep,
                  maxW := maxW, maxH := maxH, slots := slots, cur := false, copyA := startCopy codec,
                  copyB := startCopy codec }
  | .ctxReset e i => ctxReset s e i
  | .ctxFree e i => ctxFree s e i
  | .remoteAdd node t x => sendTally s ring node t x

def applyActs (ring : Nat) (s : State) : List CommitAct → State
  | [] => s
  | a :: t => applyActs ring (applyAct ring s a) t

/-- The header's SIGNAL_TALLY. -/
def signalAct (d : List Word) : List CommitAct :=
  if bit (dw d 0) 63 then [.tallyAdd (bits (dw d 0) 59 48) (BitVec.ofNat 64 (bits (dw d 3) 31 0))] else []

/-! ### After any end -/

/-- A command has ended: its walks and its media notes go, its partition may become quiescent, the idle time starts, and
what waits behind it on its ring may end (R12, R33, R174, R367). -/
def afterEnd (s : State) (ring part : Nat) : State :=
  let s := walksEnd (dropFlight s ring) part ring
  let s := { s with media := { s.media with abandoned := s.media.abandoned.filter (fun a => a.1 != ring) } }
  settle (markIdle (settleQuiesce s part)) ring

/-- The output ranges of a command, by global address: undefined when it ends without a commit (R34). -/
def outRanges (s : State) (c : InFlight) : List (Nat × Nat) :=
  let o := opSpec s c.part c.desc
  let w : Who := { part := c.part, ring := c.ring }
  match allPieces s w ((o.outs ++ o.rws).map (fun i => let t := tens s c.part i; (t.outBuf (voutOf c.desc), t.span))) with
  | .ok l => l
  | .error _ => []

/-- A holder's round has not committed (R301). -/
def parityFailed (s : State) (c : InFlight) : State :=
  if opcOf c.desc = 0x801 ∧ (parFields c.desc).role = 1 then countP s 0x32A2 c.part 1 else s

/-! ### Commit -/

/-- A RELEASE waits for every REWIND of its segment in flight (R77). -/
def rewindsOf (s : State) (d : List Word) : Bool :=
  s.hop.inflight.any (fun x => opcOf x.desc == 4 && segName x.desc == segName d)

/-- Every unit of a command is complete. -/
def unitsEnded (c : InFlight) : Bool :=
  c.claims.isEmpty &&
  (!c.counted || decide (0x10 ≤ c.status.toNat) ||
    c.unitsDone.length == c.gridRows * c.gridCols * c.gridInner * c.gridEntries)

/-- A command may end: it has run, its units are complete and its writes durable, those to host memory included (R42). -/
def mayEnd (s : State) (c : InFlight) : Bool :=
  c.executed && c.discard.isNone && unitsEnded c && !waitsTxn s c.ring && !c.hostLate &&
  !(opcOf c.desc == 5 && rewindsOf s c.desc)

/-- The lost remote adds of a TALLY_SIGNAL, first lost first: node × 4,096 + tally (R70). -/
def lostAdds (c : InFlight) : List Nat := if opcOf c.desc = 1 then c.latched else []

/-- The health record of lost adds; answers its FAULT_ID, or 0. -/
def lostRecord (s : State) (c : InFlight) : State × Nat :=
  match lostAdds c with
  | [] => (s, 0)
  | x :: t =>
    writeHealth s { blankRec 0x11 11 c.ring 4 with
      locationA := BitVec.ofNat 16 (x / 4096), locationB := BitVec.ofNat 32 (x % 4096),
      errors := BitVec.ofNat 32 (t.length + 1) } false

/-- ELAPSED_TICKS of a command that ends now; zero where its status ends it without execution (R56). -/
def elapsedOf (s : State) (c : InFlight) : Nat := if c.idle then 0 else now s - c.startTick.toNat

/-- An act that a fabric transaction carries: the others of a sealed record are applied in the step that seals it. -/
def CommitAct.goesOn (a : CommitAct) : Bool :=
  match a with
  | .remoteAdd _ _ _ => true
  | _ => false

/-- The journal record of a command that commits now: its flips, its acts and its tally add. -/
def sealOf (s : State) (c : InFlight) : JournalRec :=
  { ring := c.ring, seq := BitVec.ofNat 48 (seqOf c.desc), part := c.part, acts := c.acts ++ signalAct c.desc,
    elapsed := elapsedOf s c, seg := (ringOf s c.ring).cells.head?.bind (·.seg), interrupted := false }

/-- Apply a sealed record: what a transaction has still to carry stays in it. -/
def applySealed (s : State) (j : JournalRec) : State :=
  let s := applyActs j.ring s j.acts
  { s with hop := { s.hop with
    journal := modifyFirst (fun x => x.ring == j.ring) (fun x => { x with acts := x.acts.filter (·.goesOn) }) s.hop.journal } }

/-- Seal the journal record: the commit point. The command's outputs become defined, and flips, acts and the tally add
follow; COMMIT_POS moves with the completion record, after them (R43). -/
def commitPoint (s : State) (c : InFlight) : State :=
  let j := sealOf s c
  let s := { s with hop := { s.hop with journal := s.hop.journal ++ [j] } }
  applySealed (applyResults (putLedger s c.ring (seqOf c.desc)) c.results) j

/-- The completion record of a sealed command, its cell, its segment, and the end of its journal record. -/
def commitRecord (s : State) (c : InFlight) : State :=
  let n := c.ring
  let seq := seqOf c.desc
  let j := s.hop.journal.find? (fun j => j.ring == n)
  let lost := lostRecord s c
  let s := lost.1
  let r := ringOf s n
  let s := putRing s n { r with cells := r.cells.drop 1, inflight := false, commitPos := c.pos + 1 }
  let s := writeCompletion s n
    { pos := c.pos.toNat, seq := seq, phase := phaseOf c.desc, status := c.status.toNat, faultId := lost.2,
      busy := c.busy.toNat, stall := c.stall.toNat, elapsed := (j.map (·.elapsed)).getD 0 }
  let s := match j.bind (·.seg) with
    | some g => segmentEnd s n g.toNat c.desc
    | none => s
  let s := { s with hop := { s.hop with journal := s.hop.journal.filter (fun j => j.ring != n) } }
  let s := if seq = seqMax then haltRing s n (c.pos.toNat + 1) (ringOf s n).nextSeq.toNat 0x24 else s
  afterEnd s n c.part

/-- SAVE_ACT, LOAD_ACT, SPILL and FETCH. -/
def isStoreOp (opc : Nat) : Bool := decide (0x501 ≤ opc ∧ opc ≤ 0x504)

/-- Reads of a command that are late, each with the tick at which it began and its cause (R216): READs of other nodes, and host
memory that it waits for. Reads of the module's own memory take no time in this model (log entry 44). -/
def lateReads (s : State) (c : InFlight) : List (Nat × Nat) :=
  (s.fab.txns.filterMap (fun t =>
    if t.issued ∧ t.ring = some c.ring ∧ t.pkt.kind = kRead ∧ t.sentAt.toNat + dGet s (dk 0x2500 4) < now s then
      some (t.sentAt.toNat, if noticedAt s c.part t.pkt.addr then 5 else 2) else none)) ++
  (match c.hostWait with
   | some t => if t.toNat + dGet s (dk 0x2500 5) < now s then [(t.toNat, 3)] else []
   | none => [])

/-- The current cause of a store command in flight (R218). -/
def storeCause (s : State) (c : InFlight) : Nat :=
  match leastBy (·.1) (lateReads s c) with
  | some x => x.2
  | none =>
    if opcOf c.desc < 0x503 then 4
    else
      let dst := bits (dw c.desc 4) 47 24
      match findMap s c.part ((tens s c.part dst).outBuf (voutOf c.desc)) with
      | some m => if m.tier = 3 then (if noticedAt s c.part m.addr then 5 else 2) else if m.tier = 4 then 3 else 0
      | none => 0

/-- The fixed cause of a store command halted at its failed end (R218). -/
def haltedCause (c : InFlight) : Nat :=
  if c.status = 0x34 then 5 else if c.hostWait.isSome || c.hostLate then 3 else 2

/-- A store command that ends failed marks its tally until the ring resumes (R218). -/
def noteHalted (s : State) (c : InFlight) : State :=
  let st := c.status.toNat
  if isStoreOp (opcOf c.desc) && bit (dw c.desc 0) 63 && decide (0x32 ≤ st ∧ st ≤ 0x34) then
    { s with hop := { s.hop with marks := s.hop.marks ++
      [{ ring := c.ring, tally := bits (dw c.desc 0) 59 48, cause := haltedCause c, order := c.order }] } }
  else s

/-- A command ends failed, or returned by one of its parts (spec/02 "Ends of a command"): what its chapter has it write
stands, and the ranges in `wrote` are undefined. -/
def endUncommitted (s : State) (c : InFlight) : State :=
  let s := parityFailed (dropMaps (pushBack (noteHalted s c) c.reserved) c.part c.ring) c
  let s := undefine (applyResults s c.results) c.wrote
  let s := endHead s c.ring c.status.toNat c.faultId.toNat c.busy.toNat c.stall.toNat (elapsedOf s c)
  afterEnd s c.ring c.part

/-- One end: a sealed command whose remote adds have ended gets its record; a command that may end commits or fails. -/
def endFlight (s : State) (c : InFlight) : State :=
  if sealedOn s c.ring then (if waitsTxn s c.ring then s else commitRecord s c)
  else if !mayEnd s c then s
  else if 0x10 ≤ c.status.toNat then endUncommitted s c
  else
    let s := commitPoint s c
    if waitsTxn s c.ring then s else commitRecord s c

/-- COMMIT of the command in flight on a ring. -/
def execCommit (ring : RingId) (s : State) : Host.Outcome State Fault Refusal :=
  .next (match flightOf s ring.toNat with
    | some c => if live s then endFlight s c else s
    | none => s)

/-! ### Cycles (R87, R88, R105, R312) -/

/-- The cycles of a unit, complete or abandoned, under the agent, the phase and the partition. -/
def countCycles (s : State) (c : InFlight) (agent : Nat) (k : UnitCycles) : State :=
  let ph (s : State) (sub n : Nat) : State := dAdd s (dk (0x3300 + phaseOf c.desc) sub) n
  let both (s : State) (index sub n : Nat) : State := ph (agentCount s agent index n) sub n
  let frozen := k.freezeCap.toNat + k.drainBlocked.toNat + k.shadowLate.toNat + k.feederDry.toNat + k.bankConflict.toNat
  let s := both s 0x3225 0x01 k.busy.toNat
  let s := ph s 0x02 frozen
  let s := both s 0x3224 0x03 k.freezeCap.toNat
  let s := both s 0x3221 0x04 k.drainBlocked.toNat
  let s := both s 0x3222 0x05 k.shadowLate.toNat
  let s := both s 0x3220 0x06 k.feederDry.toNat
  let s := both s 0x3223 0x07 k.bankConflict.toNat
  let s := (List.range 7).foldl (fun s i =>
    let n := (k.causes.getD i 0).toNat
    ph (if n = 0 then s else countP s (0x3255 + i) c.part n) (8 + i) n) s
  setFlight s c.ring (fun f => { f with busy := f.busy + k.busy, stall := f.stall + BitVec.ofNat 64 frozen })

/-- The cycles that the units a discard abandoned had run: counted like those of complete units, and in the record. -/
def countAbandoned (ring : Nat) (s : State) (x : BitVec 8 × UnitCycles) : State :=
  match flightOf s ring with
  | some c => if c.discard.isSome then countCycles s c x.1.toNat x.2 else s
  | none => s

/-! ### Discards (R47) -/

/-- What a discard undoes: pages reserved go back, installed mappings leave, a RELEASE's mark is removed, the members of a
collective are told. -/
def undoFlight (s : State) (c : InFlight) : State :=
  let s := dropMaps (pushBack s c.reserved) c.part c.ring
  let s := if opcOf c.desc = 5 then
      (let g := segName c.desc; setSeg s g.1 g.2 (fun g => { g with releasing := false })) else s
  match c.coll with
  | some inst => collAbortAll s inst
  | none => s

/-- The end of a discarded command whose writes and transactions have ended. -/
def endDiscard (s : State) (c : InFlight) (status : Nat) : State :=
  let ranges := if c.status = 1 then [] else outRanges s c ++ c.wrote
  let s := undefine (parityFailed (undoFlight s c) c) ranges
  let s := endHead s c.ring status c.faultId.toNat c.busy.toNat c.stall.toNat (elapsedOf s c)
  let s := dropFlight s c.ring
  let s := { s with hop := { s.hop with
    stopped := s.hop.stopped.filter (fun p => s.hop.inflight.any (fun x => x.part == p && x.discard.isSome)) } }
  afterEnd s c.ring c.part

/-- Count what the abandoned units had run, and end the discarded command of a ring. -/
def discardRing (s : State) (ring : Nat) (abandoned : List (BitVec 8 × UnitCycles)) : State :=
  let s := abandoned.foldl (countAbandoned ring) s
  match flightOf s ring with
  | some c =>
    match c.discard with
    | some st => endDiscard s c st.toNat
    | none => s
  | none => s

/-- DISCARD_COMPLETE of the discarded command on a ring, with the cycles of the units its agents abandoned. -/
def execDiscardComplete (d : Discarded) (s : State) : Host.Outcome State Fault Refusal :=
  .next (if live s && !waitsTxn s d.ring.toNat then discardRing s d.ring.toNat d.abandoned else s)

/-! ### Completion messages (R346) -/

/-- NOTIFY_HOLDOFF_EXPIRY: a vector's holdoff ends; a message withheld meanwhile is sent, and a new holdoff begins. -/
def holdoffEnd (s : State) (v : Nat) : State :=
  match s.host.holdoff.find? (fun h => h.1 == v) with
  | none => s
  | some h =>
    let rest := s.host.holdoff.filter (fun h => h.1 != v)
    if now s < h.2.2 + dGet s (dk 0x1100 6) then s
    else
      let s : State := { s with host := { s.host with holdoff := rest } }
      if h.2.1 then sendVector s v else s

def execNotifyHoldoffExpiry (vector : BitVec 11) (s : State) : Host.Outcome State Fault Refusal :=
  .next (if live s then holdoffEnd s vector.toNat else s)

end Sys2Proof.Machine
end

