-- ==== Sys2Proof/Machine/Dispatcher.lean ====
section
/-! DEFINITION. The dispatcher: ready heads, dispatch, work counters and claims, units, and the control opcodes (R52, R62 to
R65, R74 to R77, R85 to R88, R98, R135 to R138, R169, R176, R182, R213, R295, R324). -/

namespace Sys2Proof.Machine

/-! ### Ready heads (R62) -/

/-- The head of a ring that may be dispatched: its oldest accepted descriptor, none in flight. -/
def headOf (r : Ring) : Option HCell :=
  if r.state = .active ∧ !r.inflight then
    match r.cells with
    | c :: _ => if c.st = .accepted then some c else none
    | [] => none
  else none

/-- WAIT_TALLY is disabled or met. -/
def headerWait (s : State) (d : List Word) : Bool :=
  !bit (dw d 0) 47 || decide (dw d 2 ≤ tallyOf s (bits (dw d 0) 43 32))

/-- The conditions of a TALLY_WAIT are met. -/
def bodyWait (s : State) (d : List Word) : Bool := (waits d).all (fun x => decide (x.2 ≤ tallyOf s x.1))

/-- A head waits on a tally (R62). -/
def waitsTally (s : State) (d : List Word) : Bool := !headerWait s d || (opcOf d == 2 && !bodyWait s d)

/-- The commands of a partition in flight. -/
def flights (s : State) (p : Nat) : List InFlight := s.hop.inflight.filter (fun c => c.part == p)

/-- A logical core of the partition may claim (R15, R98). -/
def coresReady (s : State) (p : Nat) : Bool := !(dispatchSet s p).isEmpty

/-- The sequences or the media context that a command holds while it is in flight (R176, R178, R324). -/
def opHolds (s : State) (w : Who) (d : List Word) : List (Nat × Nat) :=
  match opcOf d with
  | 0x302 => (appendSeqs s w (appendFields d)).map (fun q => (0, q))
  | 0x303 => [(0, (swapFields d).seqId)]
  | _ =>
    match mediaName d with
    | some (e, i) => [ctxHold e i]
    | none => []

/-- No command in flight of the partition, or on the same engine, holds what this one would. -/
def holdsFree (s : State) (w : Who) (d : List Word) : Bool :=
  (opHolds s w d).all (fun h =>
    s.hop.inflight.all (fun x => !(x.holds.contains h && (h.1 == 1 || x.part == w.part))))

/-- What an opcode asks beyond its tallies. -/
def opReady (s : State) (w : Who) (d : List Word) : Bool :=
  let o := opcOf d
  let name := segName d
  (!onCores o || coresReady s w.part) && holdsFree s w d &&
  (match o with
   | 0x003 => (flights s w.part).isEmpty
   | 0x800 => (flights s w.part).isEmpty
   | 0x802 => (flights s w.part).isEmpty
   | 0x004 =>
     match findSeg s name.1 name.2 with
     | none => true
     | some g =>
       g.releasing || g.released || g.part != w.part ||
       (g.complete && (g.held.all (fun x => !onCores (opcOf x)) || coresReady s w.part))
   | 0x304 => (flights s w.part).all (fun x => !decide (0x304 ≤ opcOf x.desc ∧ opcOf x.desc ≤ 0x306))
   | 0x305 => (flights s w.part).all (fun x => !decide (0x304 ≤ opcOf x.desc ∧ opcOf x.desc ≤ 0x306))
   | 0x306 => (flights s w.part).all (fun x => !decide (0x304 ≤ opcOf x.desc ∧ opcOf x.desc ≤ 0x306))
   | _ => true)

/-- A command takes a dispatch slot: all but the control opcodes, REWIND included (R64, R65). -/
def needsSlot (opc : Nat) : Bool := !isControl opc || opc == 4

/-- The 256 dispatch slots are occupied. -/
def slotsFull (s : State) : Bool := decide (256 ≤ (s.hop.inflight.filter (·.slot)).length)

/-- The partition dispatches: enabled, running, no discard to end, no CUT or RESTORE in flight (R12, R15, R47, R295). -/
def partDispatches (s : State) (p : Nat) : Bool :=
  pGet s p 1 == 1 && pGet s p 5 == 1 && !s.hop.stopped.contains p &&
  (flights s p).all (fun x => opcOf x.desc != 0x800 && opcOf x.desc != 0x802)

/-- The ready heads of a partition: (ring, cell). -/
def readyHeads (s : State) (p : Nat) : List (Nat × HCell) :=
  s.hop.rings.filterMap (fun r =>
    if r.2.part.toNat = p then
      match headOf r.2 with
      | some c =>
        if headerWait s c.desc && (opcOf c.desc != 2 || bodyWait s c.desc) && opReady s { part := p, ring := r.1 } c.desc
        then some (r.1, c) else none
      | none => none
    else none)

/-- The order of R63: the highest PRIO, then the earliest accepted. -/
def headKey (x : Nat × HCell) : Nat := (7 - prioOf x.2.desc) * 2 ^ 64 + x.2.order

/-- The ready heads that may be dispatched: from the readiness of a CUT or RESTORE on no other (R295). -/
def openHeads (s : State) (p : Nat) : List (Nat × HCell) :=
  let ready := readyHeads s p
  let barriers := ready.filter (fun x => opcOf x.2.desc == 0x800 || opcOf x.2.desc == 0x802)
  if barriers.isEmpty then ready else barriers

/-- The head that a partition would dispatch. -/
def pickHead (s : State) (p : Nat) : Option (Nat × HCell) :=
  leastBy headKey ((openHeads s p).filter (fun x => !needsSlot (opcOf x.2.desc) || !slotsFull s))

/-- Another partition's ready head for the same shared engine comes first (R63). -/
def engineTaken (s : State) (p : Nat) (x : Nat × HCell) : Bool :=
  let e := engineOf (opcOf x.2.desc)
  e != 0 && ((List.range 16).filter (fun q => q != p && partDispatches s q)).any (fun q =>
    (openHeads s q).any (fun y => engineOf (opcOf y.2.desc) == e && decide (headKey y < headKey x)))

/-! ### What the dispatcher examines (R52, R74, R77) -/

/-- The first status other than 0 and 1 that a check gives over descriptors. -/
def firstStatus (f : List Word → Nat) : List (List Word) → Nat
  | [] => 0
  | d :: t => if 1 < f d then f d else firstStatus f t

/-- The checks of R74 for a REWIND; its step 3 is R52, which touches no memory. -/
def rewindCheck (s : State) (w : Who) (d : List Word) : Nat :=
  let name := segName d
  match findSeg s name.1 name.2 with
  | none => 0x20
  | some g =>
    if g.releasing || g.released || g.part != w.part then 0x20
    else
      let a := firstStatus (tensorCheck s w.part) g.held
      if a ≠ 0 then a
      else if g.held.any (fun x => opDims s w x == 0x23) then 0x23
      else 0

/-- The checks of R77 for a RELEASE. -/
def releaseCheck (s : State) (w : Who) (d : List Word) : Nat :=
  let name := segName d
  let src := ringOf s name.1
  if src.state ≠ .free ∧ src.part.toNat ≠ w.part then 0x20
  else match findSeg s name.1 name.2 with
    | none => 0x01
    | some _ => 0

/-- What dispatch makes of a command: 0 it executes, else the status it ends with. -/
def dispatchStatus (s : State) (w : Who) (d : List Word) : Nat :=
  let o := opcOf d
  if o = 4 then rewindCheck s w d
  else if o = 5 then releaseCheck s w d
  else
    let st := opShape s w d
    if st ≠ 0 then st
    else if o = 0x503 then (match spillMaps s w d with
      | .ok _ => 0
      | .error e => e)
    else 0

/-! ### Dispatch -/

/-- The side of the blocks of a grid (R135). -/
def blockSideOf (s : State) (g : Grid) : Nat :=
  if dGet s (dk 0x2203 1) = 1 then 1 else min 8 (2 ^ Nat.log2 (max 1 (min g.rows g.cols)))

/-- Slots of a grid (R135). -/
def slotTotal (g : Grid) (h : Nat) : Nat :=
  g.entries * ((g.rows + h - 1) / h) * ((g.cols + h - 1) / h) * h * h * g.inner

/-- A command in flight with no grid. -/
def blankFlight (s : State) (n p : Nat) (c : HCell) : InFlight :=
  { ring := n, part := p, pos := c.pos, desc := c.desc, order := s.hop.dispatchOrder, startTick := BitVec.ofNat 64 (now s),
    slot := needsSlot (opcOf c.desc), counted := false, counter := 0, slotCount := 0, gridRows := 0, gridCols := 0,
    gridInner := 0, gridEntries := 0, blockSide := 1, claims := [], unitsDone := [], executed := false, status := 0,
    faultId := 0, acts := [], wrote := [], results := [], hostLate := false, hostWait := none, idle := false, weirWait := [], weirPaid := [], pri := priRing s n, reading := false,
    fetched := [],
    unitCounts := [], roots := [], spanDefault := dGet s (dk 0x2300 1), discard := none, reserved := [], holds := [], coll := none, busy := 0,
    stall := 0, latched := [], parts := [], partOn := false }

/-- Place a work counter for a descriptor. -/
def placeCounter (s : State) (w : Who) (d : List Word) (f : InFlight) : InFlight :=
  match opGrid s w d with
  | none => { f with counted := false, claims := [], unitsDone := [] }
  | some g =>
    let h := blockSideOf s g
    { f with counted := true, counter := 0, slotCount := slotTotal g h, gridRows := g.rows, gridCols := g.cols,
             gridInner := g.inner, gridEntries := g.entries, blockSide := h, claims := [], unitsDone := [] }

/-- The acts of a command whose run-time shape is zero: its flips and what its chapter ties to its commit (R52, R173, R310). -/
def zeroActs (s : State) (p : Nat) (d : List Word) : List CommitAct :=
  let o := opSpec s p d
  flipActs s p (voutOf d) (o.outs ++ o.rws) ++
  (if opcOf d = 0x405 then rngActs p d else []) ++ (if opcOf d = 0x303 then [.kvEpoch p true] else [])

/-- The collective instance of a command. -/
def opInstance (s : State) (w : Who) (d : List Word) : Option CollInst :=
  if 0x602 ≤ opcOf d ∧ opcOf d ≤ 0x606 then some (collStart s w d)
  else if isParityColl d then some (parStart s w d)
  else none

/-- The command in flight that a dispatch makes. -/
def makeFlight (s : State) (w : Who) (c : HCell) (st : Nat) : InFlight :=
  let d := c.desc
  let f := { blankFlight s w.ring w.part c with holds := opHolds s w d }
  if st ≠ 0 then
    { f with executed := true, idle := true, status := BitVec.ofNat 8 st, acts := if st = 1 then zeroActs s w.part d else [] }
  else
    { placeCounter s w d f with
      coll := opInstance s w d, latched := opLatch s w d, roots := dispatchRoots s w d
      reserved := if opcOf d = 0x302 then appendReserve s w d else []
      parts := if opcOf d = 4 then (match findSeg s (segName d).1 (segName d).2 with
        | some g => g.held
        | none => []) else [] }

/-- What a dispatch does besides: pages popped, mappings made, walks begun, a segment marked as being released. -/
def dispatchEffects (s : State) (w : Who) (d : List Word) : State :=
  match opcOf d with
  | 0x302 => walkStart ((appendReserve s w d).foldl (fun s r => popPage s r.part r.cls) s) w.part w.ring 0
  | 0x304 => walkStart s w.part w.ring 0
  | 0x305 => walkStart s w.part w.ring 0
  | 0x503 =>
    match spillMaps s w d with
    | .ok ms => zeroPages { s with mem := { s.mem with maps := s.mem.maps ++ ms } } ms
    | .error _ => s
  | 0x005 => setSeg s (segName d).1 (segName d).2 (fun g => { g with releasing := true })
  | _ => s

/-- What a command writes at its dispatch, by global address: the copy engine's copy of a holder's parity (R300). -/
def dispatchWrites (s : State) (w : Who) (d : List Word) : List (Nat × List Byte) :=
  (holderWrites s w d).flatMap (globalWrites s w)

/-- The command in flight has written something at its dispatch: undefined content stands there until it commits (R34). -/
def firstWrites (s : State) (w : Who) (d : List Word) (f : InFlight) : State × InFlight :=
  let ws := dispatchWrites s w d
  let ranges := ws.map (fun x => (x.1, x.2.length))
  if ws.isEmpty then (s, f)
  else (undefine (touchAll w.part true s ranges) ranges, { f with results := ws, wrote := ranges })

/-- Put a head in flight with a status: 0 it executes. -/
def placeFlight (s : State) (w : Who) (c : HCell) (st : Nat) : State :=
  let s := enterRun s
  let x := if st = 0 then firstWrites s w c.desc (makeFlight s w c st) else (s, makeFlight s w c st)
  let f := x.2
  let s := if st = 0 then dispatchEffects x.1 w c.desc else s
  let s := if opcOf c.desc = 0x302 ∧ st = 0x31 then countP s 0x3265 w.part 1 else s
  let s := { s with hop := { s.hop with inflight := s.hop.inflight ++ [f], dispatchOrder := s.hop.dispatchOrder + 1 } }
  let s := putRing s w.ring { ringOf s w.ring with inflight := true }
  asks (some w.ring) s ((f.results.filter (fun x => remoteAddr s x.1)).flatMap (fun x => writeAsks false x.1 x.2))

/-- The first address of the dispatch-time reads without a page, or a lost line they meet. -/
def dispatchFault (s : State) (w : Who) (d : List Word) : Option ErrorReport :=
  match allPieces s w (dispatchReads s w d ++ (holderWrites s w d).map (fun x => (x.1, x.2.length))) with
  | .error va => some (translationFault w.part va)
  | .ok _ =>
    let l := match allPieces s w (dispatchReads s w d) with
      | .ok l => l
      | .error _ => []
    (lostRead s (l ++ dispatchGreads s w d)).map (fun a => uncorrectableRead s w.part a true)

/-- The dispatch-time reads of a command fail: none is made before the shape the descriptor itself gives has been examined
(R52). -/
def shapeFault (s : State) (w : Who) (d : List Word) : Option ErrorReport :=
  if opDims s w d ≠ 0 then none else dispatchFault s w d

/-- RESULT of a RESTORE whose header is refused: code 0 for every entry it can hold, since RESULT is written whatever the end
(R303). -/
def restoreRefused (s : State) (w : Who) (d : List Word) : State :=
  if opcOf d = 0x802 then
    (let t := tens s w.part (cutFields d).out
     let n := min t.cols (pGet s w.part 9)
     (globalWrites s w (t.outBuf (voutOf d), List.replicate n 0)).foldl (fun s x =>
       let s := gWrite s x.1 x.2
       if remoteAddr s x.1 then asks none s (writeAsks false x.1 x.2) else s) s)
  else s

/-- Ranges of other nodes' memory that a dispatch has still to read, beyond those it has (R229). -/
def headFetch (s : State) (w : Who) (d : List Word) (got : List (Nat × Nat)) : List (Nat × Nat) :=
  if opDims s w d ≠ 0 then []
  else match allPieces s w (dispatchReads s w d) with
    | .error _ => []
    | .ok l => (l ++ dispatchGreads s w d).filter (fun x => remoteAddr s x.1 && !got.contains x)

/-- A head whose dispatch reads another node's memory stands in flight while its READs go (R229). -/
def startReading (s : State) (w : Who) (c : HCell) (l : List (Nat × Nat)) : State :=
  let s := enterRun s
  let f := { blankFlight s w.ring w.part c with holds := opHolds s w c.desc, reading := true }
  let s := { s with hop := { s.hop with inflight := s.hop.inflight ++ [f], dispatchOrder := s.hop.dispatchOrder + 1 } }
  fetchOperands (putRing s w.ring { ringOf s w.ring with inflight := true }) w.ring f l

/-- Dispatch a ready head: an error of the reads it makes is raised with the command in flight; a returned status ends it at
once. -/
def dispatchHead (s : State) (w : Who) (c : HCell) : State :=
  match shapeFault s w c.desc with
  | some e => (detectError (placeFlight s w c 0) e none).1
  | none =>
    let st := dispatchStatus s w c.desc
    if st / 16 = 1 then
      (match (match findSeg s (segName c.desc).1 (segName c.desc).2 with
        | some g => g.held.find? (fun d => tensorCheck s w.part d == 0x10)
        | none => none) with
       | some d =>
         let x := entryFault s w.part d
         endHead x.1 w.ring 0x10 x.2 0 0 0
       | none => endHead s w.ring st 0 0 0 0)
    else if st / 16 = 2 then endHead (restoreRefused s w c.desc) w.ring st 0 0 0 0
    else placeFlight s w c st

/-- A command of the partition whose READs for its dispatch have ended. -/
def headRead (s : State) (p : Nat) : Option InFlight :=
  (flights s p).find? (fun c => c.reading && !c.executed && c.discard.isNone && !waitsTxn s c.ring)

/-- The dispatch of such a command goes on: with what it has yet to read, else with the examination of R52. -/
def resumeHead (s : State) (c : InFlight) : State :=
  let w : Who := { part := c.part, ring := c.ring }
  match (ringOf s c.ring).cells with
  | [] => s
  | cell :: _ =>
    let more := headFetch s w c.desc c.fetched
    if more.isEmpty then setFlight (dispatchHead (dropFlight s c.ring) w cell) c.ring (fun f => { f with order := c.order })
    else fetchOperands s c.ring c more

/-- A head is chosen and dispatched. -/
def dispatchNew (s : State) (p : Nat) : State :=
  match pickHead s p with
  | none => s
  | some x =>
    let w : Who := { part := p, ring := x.1 }
    if engineTaken s p x then s
    else if (headFetch s w x.2.desc []).isEmpty then dispatchHead s w x.2
    else startReading s w x.2 (headFetch s w x.2.desc [])

/-- DISPATCH for a partition. -/
def dispatchPart (s : State) (p : Nat) : State :=
  if !dispatcherOn s then s
  else match headRead s p with
    | some c => resumeHead s c
    | none => if partDispatches s p then dispatchNew s p else s

def execDispatch (part : PartId) (s : State) : Host.Outcome State Fault Refusal := .next (dispatchPart s part.toNat)

/-! ### Claims (R136 to R138) -/

/-- (x, y) of a position along a Hilbert curve (R138): `k` doublings of the side `q`. -/
def hilbertStep : Nat → Nat → Nat → Nat → Nat → Nat × Nat
  | 0, _, _, x, y => (x, y)
  | k + 1, q, t, x, y =>
    let rx := t / 2 % 2
    let ry := (t + rx) % 2
    let f := if ry = 0 then
        (if rx = 1 then (q - 1 - y, q - 1 - x) else (y, x))
      else (x, y)
    hilbertStep k (2 * q) (t / 4) (f.1 + q * rx) (f.2 + q * ry)

def hilbert (h d : Nat) : Nat × Nat := hilbertStep (Nat.log2 h) 1 d 0 0

/-- The number of the unit of a slot; `none`: the slot is skipped (R138). Units are numbered entry by entry, row by row,
column by column, inner position fastest. -/
def unitOfSlot (f : InFlight) (slot : Nat) : Option Nat :=
  let h := f.blockSide
  let bb := (f.gridRows + h - 1) / h
  let bc := (f.gridCols + h - 1) / h
  let per := h * h * f.gridInner
  let e := slot / per / (bb * bc)
  let b := slot / per % (bb * bc)
  let i := b / bc
  let jj := b % bc
  let j := if i % 2 = 0 ∨ h = 1 then jj else bc - 1 - jj
  let xy := hilbert h (slot % per / f.gridInner)
  let x := if i % 2 = 1 then h - 1 - xy.1 else xy.1
  let row := h * i + xy.2
  let col := h * j + x
  if f.gridRows ≤ row ∨ f.gridCols ≤ col then none
  else some (((e * f.gridRows + row) * f.gridCols + col) * f.gridInner + slot % per % f.gridInner)

/-- The descriptor whose units a command in flight hands out: its own, or the running part's. -/
def workDesc (c : InFlight) : List Word := if opcOf c.desc = 4 then c.parts.headD c.desc else c.desc

/-- A command with units left to claim. -/
def hasUnits (c : InFlight) : Bool := c.counted && c.discard.isNone && decide (c.counter < c.slotCount)

/-- The bolters of a core claim apart from its arrays and vector unit. -/
def onBolter (opc : Nat) : Bool := opc == 0x501 || opc == 0x502

/-- The agent may claim from the command: a core of the partition in service (R98), or a quern engine (R105). -/
def mayClaim (s : State) (c : InFlight) (agent : Nat) : Bool :=
  if onQuern (opcOf (workDesc c)) then
    decide (quernAgent ≤ agent ∧ agent < quernAgent + 6) && !s.cores.lostDies.contains (agent - quernAgent) &&
    !s.cores.quernWithheld.any (fun q => q.1 == agent - quernAgent)
  else (dispatchSet s c.part).contains agent

/-- The order in which an agent takes commands: cores by PRIO and dispatch order (R64), quern engines in dispatch order. -/
def claimKey (c : InFlight) : Nat :=
  (if onQuern (opcOf (workDesc c)) then 0 else (7 - prioOf c.desc) * 2 ^ 64) + c.order

/-- No command that the agent must take first has units left. -/
def claimTurn (s : State) (c : InFlight) : Bool :=
  let o := opcOf (workDesc c)
  s.hop.inflight.all (fun x =>
    !(hasUnits x && onQuern (opcOf (workDesc x)) == onQuern o && onBolter (opcOf (workDesc x)) == onBolter o &&
      (onQuern o || x.part == c.part) && decide (claimKey x < claimKey c)))

/-- A claimed unit is still under way. -/
def underWay (s : State) (x : Nat × Nat × Nat) : Bool :=
  (flightOf s x.2.1).any (fun y => y.claims.contains { agent := x.1, unit := x.2.2 })

/-- The windows of a command's units and of a unit that the agent's feeders may still stream share a byte (R82). -/
def windowsMeet (s : State) (c : InFlight) (agent : Nat) : Bool :=
  s.cores.lastClaim.any (fun x => x.1 == agent && underWay s x &&
    (match flightOf s x.2.1 with
     | none => false
     | some y => (stageWindows (workDesc y)).any (fun a => (stageWindows (workDesc c)).any (rangesMeet a))))

/-- The agent can take a unit of the command: a bolter holds at most one save and one load unit (R205); an agent whose last unit has
not fed its last operand takes only a unit whose windows lie apart (R82, R85). -/
def agentFree (s : State) (c : InFlight) (agent : Nat) (fed : Bool) : Bool :=
  if onBolter (opcOf (workDesc c)) then
    s.hop.inflight.all (fun x => opcOf (workDesc x) != opcOf (workDesc c) || x.claims.all (fun k => k.agent != agent))
  else fed || !windowsMeet s c agent

/-- The units below a stage that a unit belongs to are complete (R166). -/
def stageOpen (c : InFlight) (u : Nat) : Bool :=
  (attnBarriers (workDesc c)).all (fun b =>
    decide (u < b) || (c.unitsDone.filter (fun x => decide (x.unit < b))).length == b)

/-- Fetch-and-add until a slot has a unit: (counter after, skipped slots, unit). The fetch-and-add that finds the command exhausted
adds 1 as well (R136). -/
def claimLoop (c : InFlight) : Nat → Nat → Nat → Nat × Nat × Option Nat
  | 0, k, sk => (k + 1, sk, none)
  | fuel + 1, k, sk =>
    if c.slotCount ≤ k then (k + 1, sk, none)
    else match unitOfSlot c k with
      | none => claimLoop c fuel (k + 1) (sk + 1)
      | some u => if stageOpen c u then (k + 1, sk, some u) else (k, sk, none)

/-- The command reads page tables per unit (R169). -/
def unitWalks (d : List Word) : Bool := opcOf d == 0x300 && (attnFields d).paged

/-- A window of the operand store is filled: that part no longer holds what it held (R81). -/
def fillWindow (agent : Nat) (s : State) (x : Nat × Nat) : State :=
  let r : CoreRange := { phys := physOf s agent, kind := 0, off := x.1, size := x.2, tag := s.fresh }
  let old := s.cores.sram.filter (fun y => !(y.phys == r.phys && y.kind == 0 && y.off == r.off && y.size == r.size))
  tickFresh { s with cores := { s.cores with sram := old ++ [r] } }

/-- The windows that a unit of a command fills in a core (R81, R149, R208). -/
def stageInto (s : State) (agent : Nat) (d : List Word) : State :=
  if quernAgent ≤ agent then s else (stageWindows d).foldl (fillWindow agent) s

/-- A unit of a command feeds a row into an array of its core (R83, R89); attention feeds every array. -/
def feedsArray (s : State) (c : InFlight) (unit a : Nat) : Bool :=
  let d := workDesc c
  let w : Who := { part := c.part, ring := c.ring }
  if opcOf d / 256 = 1 then
    let g := gemmFields d
    (gemmUnits g 0 (gemmGroups (opcOf d) g c.latched)).any (fun x =>
      decide (x.1 ≤ unit ∧ unit < x.1 + g.bandsOf x.2 * g.colGroups) &&
      !(gemmFed s w g x.2 ((unit - x.1) / max 1 g.colGroups) a).isEmpty)
  else if opcOf d = 0x200 ∨ opcOf d = 0x201 then
    let f := convFields d
    let cell := unit / max 1 f.colGroups
    !((f.bandSlots (cell % max 1 f.frames) (cell / max 1 f.frames)).getD a []).isEmpty
  else opcOf d == 0x300 || opcOf d == 0x301

/-- A unit of a command reads the named line of the named operand store bank: its windows hold the line (R80, R81). -/
def readsLine (c : InFlight) (i : Injection) : Bool :=
  (stageWindows (workDesc c)).any (fun x => rangesMeet x ((i.locB.toNat * 16 + i.locA.toNat) * 128, 128))

/-- An armed injection of kind 1, 3 or 9 fires as a unit is fed: at its first row and at the line its windows hold (R430). That a unit reads all of
its windows is DEDUCED, log entry 48. -/
def fireFed (s : State) (agent : Nat) (x : Nat × Nat × Nat) : State :=
  match flightOf s x.2.1 with
  | none => s
  | some c =>
    fireInjection s c.part (fun i =>
      (i.unit.toNat == agent && decide (agent < quernAgent) &&
        (i.kind == 1 && feedsArray s c x.2.2 i.locA.toNat || i.kind == 3 && readsLine c i)) ||
      (i.kind == 9 && quernAgent + i.unit.toNat == agent))

/-- The units of an agent that its feeders may still stream, in claim order. -/
def feeding (s : State) (agent : Nat) : List (Nat × Nat × Nat) :=
  s.cores.lastClaim.filter (fun x => x.1 == agent && underWay s x)

/-- An agent takes a unit: a walk begins with its snapshot (R169), and the unit's windows are filled. Units that it claimed before are
kept for R82 until it has fed them; those fed meet their armed injections, the new one too once no other stands before it (R430). -/
def takeUnit (s : State) (c : InFlight) (agent u : Nat) (fed : Bool) : State :=
  let s := setFlight (countP s 0x3240 c.part 1) c.ring (fun f => { f with claims := f.claims ++ [{ agent := agent, unit := u }] })
  let s := if unitWalks (workDesc c) then
      setFlight (walkStart s c.part c.ring u) c.ring (fun f => { f with roots := f.roots ++ [claimRoot s { c with desc := workDesc c } u] })
    else s
  let before := feeding s agent
  let s := if fed then before.foldl (fireFed · agent) s else s
  let s := if onBolter (opcOf (workDesc c)) then s
    else { s with cores := { s.cores with
      lastClaim := s.cores.lastClaim.filter (fun x => underWay s x && !(fed && x.1 == agent)) ++ [(agent, c.ring, u)] } }
  let s := stageInto s agent (workDesc c)
  if fed || before.isEmpty then fireFed s agent (agent, c.ring, u) else s

/-- One claim of an agent from the command on a ring. `fed`: the last unit of its arrays has fed its last operand. -/
def claimUnit (s : State) (c : InFlight) (agent : Nat) (fed : Bool) : State :=
  if !(c.counted && c.discard.isNone && mayClaim s c agent && claimTurn s c && agentFree s c agent fed) then s
  else
    let r := claimLoop c (c.slotCount - c.counter) c.counter 0
    let s := countT (countP s 0x3241 c.part r.2.1) 0x327A (r.1 - c.counter)
    let s := setFlight s c.ring (fun f => { f with counter := r.1 })
    match r.2.2 with
    | none => s
    | some u => takeUnit s c agent u fed

/-- CLAIM. -/
def execClaim (ring : RingId) (who : Claimant) (s : State) : Host.Outcome State Fault Refusal :=
  .next (match flightOf s ring.toNat with
    | some c => if live s then claimUnit s c who.agent.toNat who.fed else s
    | none => s)

/-! ### Units (R87, R88, R101, R217, R312) -/

/-- The values of the work whose units a command hands out have been worked out. -/
def ranYet (c : InFlight) : Bool := c.executed || c.partOn

/-- The walks of completed units end once the values that they read for are there (R169, R174; log entry 65). -/
def endWalks (s : State) (ring : Nat) : State :=
  match flightOf s ring with
  | none => s
  | some c =>
    if unitWalks (workDesc c) && ranYet c then c.unitsDone.foldl (fun s x => walkEnd s c.part ring x.unit) s else s

/-- A unit is complete: its writes are acknowledged. What belongs to this unit is counted under its agent. It has fed its rows by now, and the
agent's next unit feeds its first at the latest now. -/
def completeUnit (s : State) (c : InFlight) (agent unit : Nat) (k : UnitCycles) : State :=
  let x : Claim := { agent := agent, unit := unit }
  if !c.claims.contains x then s
  else
    let s := countCycles (fireFed s agent (agent, c.ring, unit)) c agent k
    let s := setFlight s c.ring (fun f =>
      { f with claims := f.claims.filter (fun y => y != x), unitsDone := f.unitsDone ++ [x] })
    let s := match feeding s agent with
      | x :: _ => fireFed s agent x
      | [] => s
    endWalks (chargeUnits s c.ring) c.ring

/-- UNIT_COMPLETE. -/
def execUnitComplete (ring : RingId) (agent : BitVec 8) (unit : BitVec 64) (cycles : UnitCycles) (s : State) :
    Host.Outcome State Fault Refusal :=
  .next (match flightOf s ring.toNat with
    | some c => if live s then completeUnit s c agent.toNat unit.toNat cycles else s
    | none => s)

/-- ATTN_FWD: streamed softmax attention. -/
def execAttnFwd (ring : RingId) (s : State) : Host.Outcome State Fault Refusal :=
  .next (endWalks (runOp s ring 0x300 fwdPlan) ring.toNat)

/-! ### Control opcodes -/

/-- NOP: no effect beyond the header's wait and signal. -/
def execNop (ring : RingId) (s : State) : Host.Outcome State Fault Refusal := .next (runOp s ring 0x000 (fun _ _ => Plan.ok))

/-- TALLY_SIGNAL: its adds, applied at its commit (R68, R70). -/
def signalPlan (s : State) (c : InFlight) : Plan :=
  { Plan.ok with
    acts := (signals c.desc).map (fun x =>
      if x.isLocal s then .tallyAdd x.tally (BitVec.ofNat 64 x.add) else .remoteAdd x.node x.tally (BitVec.ofNat 64 x.add)) }

def execTallySignal (ring : RingId) (s : State) : Host.Outcome State Fault Refusal := .next (runOp s ring 0x001 signalPlan)

/-- TALLY_WAIT: readiness was its whole condition. -/
def execTallyWait (ring : RingId) (s : State) : Host.Outcome State Fault Refusal :=
  .next (runOp s ring 0x002 (fun _ _ => Plan.ok))

/-- FENCE: readiness was its whole condition. -/
def execFence (ring : RingId) (s : State) : Host.Outcome State Fault Refusal := .next (runOp s ring 0x003 (fun _ _ => Plan.ok))

/-- RELEASE: its segment goes at its commit (R77). -/
def releasePlan (_ : State) (c : InFlight) : Plan :=
  { Plan.ok with acts := [.releaseSeg (segName c.desc).1 (BitVec.ofNat 48 (segName c.desc).2)] }

def execRelease (ring : RingId) (s : State) : Host.Outcome State Fault Refusal := .next (runOp s ring 0x005 releasePlan)

/-! ### REWIND (R75) -/

/-- The effect of a part; the control opcodes have none as parts. -/
def partPlan (s : State) (c : InFlight) : Plan :=
  let o := opcOf c.desc
  if isControl o then Plan.ok
  else if o / 256 = 1 then gemmPlan s c
  else if o / 256 = 2 then convPlan s c
  else if o = 0x300 then fwdPlan s c
  else if o = 0x301 then bwdPlan s c
  else if o ≤ 0x403 then vecPlan s c
  else if o = 0x404 then optPlan s c
  else if o = 0x405 then rngPlan s c
  else if o = 0x500 then copyPlan s c
  else if o = 0x501 then savePlan s c
  else if o = 0x502 then loadPlan s c
  else if o = 0x503 ∨ o = 0x504 then spillPlan s c
  else if o = 0x507 then convertPlan s c
  else if isAtomic c.desc then remoteAtomicPlan s c
  else if o = 0x600 ∨ o = 0x601 then remotePlan s c
  else markPlan s c

/-- Of a part's acts only the reads of taps and timers happen: no version, tally, tap or stream slot changes. -/
def partActs (l : List CommitAct) : List CommitAct :=
  l.filter (fun a => match a with
    | .tapRead _ _ _ _ => true
    | .phaseMark _ _ _ => true
    | _ => false)

/-- A part ends with a status: the replay goes on, or stops with a failed or returned one. -/
def partEnds (s : State) (ring st : Nat) : State :=
  setFlight s ring (fun f =>
    let rest := if 0x10 ≤ st then [] else f.parts.drop 1
    let status := if 0x10 ≤ st ∨ (f.status = 0 ∧ st ≠ 1) then BitVec.ofNat 8 st else f.status
    { f with status := status, parts := rest, partOn := false, counted := false, claims := [], unitsDone := [], fetched := [],
             weirPaid := [], executed := rest.isEmpty })

/-- The running part has run: its units and transactions are still to end. `before` is the REWIND before the part. -/
def partRan (s : State) (w : Who) (d : List Word) (before c : InFlight) : State :=
  let s := countP (applyActs w.ring s (partActs (c.acts.drop before.acts.length))) 0x320F w.part 1
  let s := setFlight s w.ring (fun f =>
    { (if f.counted then f else placeCounter s w d f) with latched := opLatch s w d, executed := false, partOn := true, acts := before.acts, status := before.status })
  if 0x10 ≤ c.status.toNat then partEnds s w.ring c.status.toNat
  else endWalks (setFlight s w.ring (fun f =>
    { f with status := if f.status = 0 ∧ c.status ≠ 1 then c.status else f.status })) w.ring

/-- Dispatch and run the next part of a REWIND: a part for an engine goes to the end of that engine's queue (R64). -/
def startPart (s : State) (c : InFlight) (d : List Word) : State :=
  let w : Who := { part := c.part, ring := c.ring }
  let v := ownView s c
  let more := headFetch v w d c.fetched
  if waitsTxn s c.ring then s
  else if !more.isEmpty then fetchOperands s c.ring c more
  else match shapeFault v w d with
  | some e => (detectError s e none).1
  | none =>
    let st := opShape v w d
    if st ≠ 0 then partEnds s c.ring st
    else
      let c' := { c with desc := d, latched := opLatch v w d }
      if queueAhead s d s.hop.dispatchOrder then s
      else if unitWalks d && !c.counted then setFlight s c.ring (fun f => { placeCounter s w d f with roots := [] })
      else
        let s' := runPlan s c.ring c' (partPlan (planView v c') c')
        match flightOf s' c.ring with
        | some x => if x.executed then partRan s' w d c x else s'
        | none => s'

/-- One move of a REWIND: its running part ends once its units and transactions have, else the next part starts. -/
def rewindStep (s : State) (c : InFlight) : State :=
  match c.parts with
  | [] => setFlight s c.ring (fun f => { f with executed := true })
  | d :: _ =>
    if c.partOn then
      (if unitsEnded c && !waitsTxn s c.ring then partEnds s c.ring (if 0x10 ≤ c.status.toNat then c.status.toNat else 1) else s)
    else if 0x10 ≤ c.status.toNat then partEnds s c.ring c.status.toNat
    else startPart s c d

/-- REWIND. -/
def execRewind (ring : RingId) (s : State) : Host.Outcome State Fault Refusal :=
  .next (match readyFlight s ring.toNat 0x004 with
    | some c => rewindStep s c
    | none => s)

end Sys2Proof.Machine
end

