-- ==== Sys2Proof/Machine/Entries.lean ====
section
/-! DEFINITION. Writes of dictionary entries that have rules of their own: partitions (R12 to R16), tallies (R66, R69), KV pools
and prefix regions (R171, R174), watch slots and taps (R130, R314), backing pools (R228), and the ranges every other
writable entry must lie in. -/

namespace Sys2Proof.Machine

/-- The answers a write can get. -/
def accepted (s : State) : State × Option Nat := (s, some stOk)
def refuse (s : State) : State × Option Nat := (s, some stRefused)
def notQuiet (s : State) : State × Option Nat := (s, some stNotQuiescent)

/-! ### Partitions (R12 to R16) -/

/-- quiesce_request. -/
def quiesceOp (p v : Nat) (s : State) : State × Option Nat :=
  if 1 < v then refuse s
  else
    let s := pSet s p 6 v
    let st := pGet s p 5
    if v = 1 ∧ st = 1 then accepted (settleQuiesce (pSet s p 5 2) p)
    else if v = 0 ∧ (st = 2 ∨ st = 3) then accepted (pSet s p 5 1)
    else accepted s

/-- QUIESCE_REQUEST: a write of 0x2000+p:06. -/
def execQuiesceRequest (rq : Req) (part : PartId) (value : Byte) (s : State) : Host.Outcome State Fault Refusal :=
  .next (handleWrite s rq (0x2000 + part.toNat) 6 [value] (quiesceOp part.toNat value.toNat))

/-- enabled. -/
def enabledOp (p v : Nat) (s : State) : State × Option Nat :=
  if 1 < v then refuse s
  else if v = pGet s p 1 then accepted s
  else if v = 0 then
    if pGet s p 5 ≠ 3 then notQuiet s
    else if !maskEmpty s p then refuse s
    else accepted (pSet (pSet s p 1 0) p 5 0)
  else accepted (pSet (pSet (pSet s p 1 1) p 5 3) p 6 1)

/-- ENABLED: a write of 0x2000+p:01. -/
def execEnabled (rq : Req) (part : PartId) (value : Byte) (s : State) : Host.Outcome State Fault Refusal :=
  .next (handleWrite s rq (0x2000 + part.toNat) 1 [value] (enabledOp part.toNat value.toNat))

/-- Clear a core: its operand store, tailrace banks and bolter state hold zeros (R9, R14). -/
def clearCore (s : State) (i : Nat) : State :=
  { s with cores := { s.cores with sram := s.cores.sram.filter (fun r => r.phys != physOf s i) } }

/-- A core leaves a mask: cleared at once, or at the end of its test or repair (R98); a retired core needs none. -/
def dropCore (s : State) (i : Nat) : State :=
  match withheldOf s i with
  | 0 => clearCore s i
  | 5 => s
  | _ => { s with cores := { s.cores with clearLater := insertNat i s.cores.clearLater } }

/-- The logical cores whose bits of a mask word are set. -/
def wordCores (word v : Nat) : List Nat := ((List.range 64).filter (bit v)).map (64 * word + ·)

/-- A core mask word. -/
def coreMaskOp (p word v : Nat) (s : State) : State × Option Nat :=
  let old := pGet s p (2 + word)
  if v ≠ old ∧ pGet s p 5 ≠ 3 then notQuiet s
  else if (wordCores word v).any (fun i => decide (coreCount s ≤ i) ||
      (List.range 16).any (fun q => q != p && inMask s q i)) then refuse s
  else
    let s := (wordCores word (old - Nat.land old v)).foldl dropCore s
    accepted (pSet s p (2 + word) v)

/-- CORE_MASK: a write of 0x2000+p:02 to 04. -/
def execCoreMask (rq : Req) (part : PartId) (word : BitVec 2) (value : Word) (s : State) :
    Host.Outcome State Fault Refusal :=
  .next (if word = 3 then s
    else handleWrite s rq (0x2000 + part.toNat) (2 + word.toNat) (leBytes 8 value.toNat)
      (coreMaskOp part.toNat word.toNat value.toNat))

/-! ### Tallies (R66, R69) -/

/-- A tally comes to a partition: 0 when another one owned it last. -/
def gainTally (p : Nat) (s : State) (t : Nat) : State :=
  let passed := s.hop.tallyLast.any (fun x => x.1 == t && x.2 != p)
  let s := { s with hop := { s.hop with tallyLast := s.hop.tallyLast.filter (fun x => x.1 != t) } }
  if passed then putTally s t 0 else s

/-- tally_base (`isCount` false) or tally_count. -/
def tallyRangeOp (p : Nat) (isCount : Bool) (v : Nat) (s : State) : State × Option Nat :=
  let b0 := pGet s p 0xD
  let c0 := pGet s p 0xE
  let b := if isCount then b0 else v
  let c := if isCount then v else c0
  let moves := decide ((b, c) ≠ (b0, c0)) && decide (0 < c ∨ 0 < c0)
  if moves && pGet s p 5 != 3 then notQuiet s
  else if 4096 < c ∨ (0 < c ∧ 4096 < b + c) then refuse s
  else if (List.range 16).any (fun q => q != p && rangesMeet (pGet s q 0xD, pGet s q 0xE) (b, c)) then refuse s
  else
    let inOld (t : Nat) : Bool := decide (b0 ≤ t ∧ t < b0 + c0)
    let inNew (t : Nat) : Bool := decide (b ≤ t ∧ t < b + c)
    let lost := (List.range 4096).filter (fun t => inOld t && !inNew t)
    let gained := (List.range 4096).filter (fun t => inNew t && !inOld t)
    let s := { s with hop := { s.hop with tallyLast := s.hop.tallyLast ++ lost.map (fun t => (t, p)) } }
    accepted (gained.foldl (gainTally p) (pSet s p (if isCount then 0xE else 0xD) v))

/-- TALLY_RANGE: a write of 0x2000+p:0D or 0E. -/
def execTallyRange (rq : Req) (part : PartId) (isCount : Bool) (value : BitVec 16) (s : State) :
    Host.Outcome State Fault Refusal :=
  .next (handleWrite s rq (0x2000 + part.toNat) (if isCount then 0xE else 0xD) (leBytes 2 value.toNat)
    (tallyRangeOp part.toNat isCount value.toNat))

/-- tally_mirror_base: the mirror holds every tally before the answer, which waits for the WRITEs to a mirror in another node's memory. -/
def tallyMirrorOp (rq : Req) (v : Nat) (s : State) : State × Option Nat :=
  if !allQuiet s then notQuiet s
  else if v = 0 then accepted (dSet s (dk 0x2100 8) 0)
  else if v % 64 = 0 ∧ gaValid s v ∧ gaValid s (v + 32767) then
    let s := farWrite (dSet s (dk 0x2100 8) v) v ((List.range 4096).flatMap (fun t => leBytes 8 (tallyOf s t)))
    if mirrorOpen s v then ({ s with hop := { s.hop with mirrorReqs := s.hop.mirrorReqs ++ [(rq, v)] } }, none) else accepted s
  else refuse s

/-- A write of tally_mirror_base. -/
def mirrorRequest (s : State) (rq : Req) (v : Nat) : State :=
  handleWrite s rq 0x2100 8 (leBytes 8 v) (tallyMirrorOp rq v)

/-- TALLY_MIRROR_BASE: a write of 0x2100:08. -/
def execTallyMirrorBase (rq : Req) (value : Word) (s : State) : Host.Outcome State Fault Refusal :=
  .next (mirrorRequest s rq value.toNat)

/-! ### KV pools and prefix regions (R171, R182) -/

/-- A class record of a pool passes the check. -/
def classGood (s : State) (pool : Pool) (c : Nat) : Bool :=
  clsArena s pool c == 0 ||
  (decide (clsTop s pool c ≤ clsPages s pool c) &&
    (List.range (clsTop s pool c)).all (fun i => decide (ldNat s (clsStack s pool c + 4 * i) 4 < clsPages s pool c)))

/-- The check of a pool record (R171). One that does not lie wholly in the module's own HBM, or whose stack top is above its pages, is
refused as well (DESIGN CHOICE, log entry 48: the module could not use it). -/
def poolGood (s : State) (b : Nat) : Bool :=
  let h0 := ldNat s b 8
  b % 64 == 0 && inLocalHbm s b 352 && bits h0 63 24 == 0 && bits h0 15 10 == 0 && bits h0 7 5 == 0 &&
  decide (1 ≤ bits h0 23 16 ∧ bits h0 23 16 ≤ 128) && decide (bits h0 9 8 ≤ 2) && poolFmt (bits h0 4 0) &&
  (List.range 5).all (fun i => ldNat s (b + 24 + 8 * i) 8 == 0) &&
  (let pool : Pool := { base := b, heads := bits h0 23 16, hdim := headDim (bits h0 9 8),
                        fmt := (Fmt.ofCode (bits h0 4 0)).getD .bf16, defer := ldNat s (b + 8) 8, head := 0, tail := 0 }
   (List.range 9).all (classGood s pool))

/-- kv_pool_base; 0 names no pool. -/
def kvPoolOp (p v : Nat) (s : State) : State × Option Nat :=
  if !partQuiet s p then notQuiet s
  else if v = 0 then accepted (dSet s (dk (0x2610 + p) 3) 0)
  else if poolGood s v then accepted (stWord (dSet s (dk (0x2610 + p) 3) v) (v + 16) 8 0)
  else refuse s

/-- KV_POOL_BASE: a write of 0x2610+p:03. -/
def execKvPoolBase (rq : Req) (part : PartId) (value : Word) (s : State) : Host.Outcome State Fault Refusal :=
  .next (handleWrite s rq (0x2610 + part.toNat) 3 (leBytes 8 value.toNat) (kvPoolOp part.toNat value.toNat))

/-- A node of the free list: words n0 to n5. -/
def freeNode (next : Nat) : List Byte := leBytes 8 0 ++ leBytes 8 (noNode * 2 ^ 32 + next) ++ leBytes 32 0

/-- prefix_nodes: the region is initialised and every node chained onto the free list. -/
def prefixNodesOp (p v : Nat) (s : State) : State × Option Nat :=
  let base := kvGet s p 6
  let buckets := 2 ^ kvGet s p 7
  if !partQuiet s p then notQuiet s
  else if v ≠ 0 ∧ !inLocalHbm s base (nodeAddr s p v - base) then refuse s
  else
    let s := dSet s (dk (0x2610 + p) 8) v
    if v = 0 then accepted (setFreeList s p noNode 0)
    else
      let s := (List.range buckets).foldl (fun s i => stWord s (base + 4 * i) 4 noNode) s
      let s := (List.range v).foldl (fun s i =>
        storeM s (nodeAddr s p i) (freeNode (if i + 1 < v then i + 1 else noNode))) s
      accepted (setFreeList s p 0 v)

/-- PREFIX_NODES: a write of 0x2610+p:08. -/
def execPrefixNodes (rq : Req) (part : PartId) (value : BitVec 32) (s : State) : Host.Outcome State Fault Refusal :=
  .next (handleWrite s rq (0x2610 + part.toNat) 8 (leBytes 4 value.toNat) (prefixNodesOp part.toNat value.toNat))

/-- walk_fence_tally: a tally of the partition's range, or 0xFFFF for none. -/
def walkFenceOp (p v : Nat) (s : State) : State × Option Nat :=
  if !partQuiet s p then notQuiet s
  else if v = 0xFFFF ∨ tallyIn s p v then accepted (updateFence (dSet s (dk (0x2610 + p) 4) v) p)
  else refuse s

/-! ### Watch slots, taps, records (R130, R314, R395, R363, R240) -/

/-- vanish_watch: a write resets the slot's counter. -/
def vanishOp (slot v : Nat) (s : State) : State × Option Nat :=
  if bits v 30 28 ≠ 0 then refuse s else accepted (dSet (dSet s (dk 0x2301 (slot + 1)) v) (dk 0x3230 (slot + 1)) 0)

/-- VANISH_WATCH: a write of 0x2301:(slot + 1). -/
def execVanishWatch (rq : Req) (slot : BitVec 6) (value : BitVec 32) (s : State) : Host.Outcome State Fault Refusal :=
  .next (handleWrite s rq 0x2301 (slot.toNat + 1) (leBytes 4 value.toNat) (vanishOp slot.toNat value.toNat))

/-- tap_config: a write resets the tap's value to +0. -/
def tapOp (tap v : Nat) (s : State) : State × Option Nat :=
  if bits v 30 29 = 3 ∨ bit v 28 then refuse s
  else accepted (dSet (dSet s (dk (0x2830 + tap / 128) (tap % 128 + 1)) v) (tapKey tap) 0)

/-- TAP_CONFIG: a write of 0x2830 or 0x2831. -/
def execTapConfig (rq : Req) (tap : BitVec 8) (value : BitVec 32) (s : State) : Host.Outcome State Fault Refusal :=
  .next (handleWrite s rq (0x2830 + tap.toNat / 128) (tap.toNat % 128 + 1) (leBytes 4 value.toNat)
    (tapOp tap.toNat value.toNat))

/-- The record in health_log with a FAULT_ID, the latest if two share it. -/
def recordOf (s : State) (fid : Nat) : Option HealthRec :=
  (s.hlth.log.filter (fun r => faultIdOf r.seq.toNat == fid)).getLast?

/-- record_select. -/
def recordSelectOp (v : Nat) (s : State) : State × Option Nat :=
  if (recordOf s v).isSome then accepted (dSet s (dk 0x4001 1) v) else refuse s

/-- RECORD_SELECT: a write of 0x4001:01. -/
def execRecordSelect (rq : Req) (value : BitVec 32) (s : State) : Host.Outcome State Fault Refusal :=
  .next (handleWrite s rq 0x4001 1 (leBytes 4 value.toNat) (recordSelectOp value.toNat))

/-- event_ack. -/
def eventAckOp (v : Nat) (s : State) : State × Option Nat :=
  if dGet s (dk 0x1200 2) < v then refuse s else accepted (dSet s (dk 0x1200 3) v)

/-- EVENT_ACK: a write of 0x1200:03. -/
def execEventAck (rq : Req) (value : Word) (s : State) : Host.Outcome State Fault Refusal :=
  .next (handleWrite s rq 0x1200 3 (leBytes 8 value.toNat) (eventAckOp value.toNat))

/-- region0_lost: writing 0 acknowledges the loss; the content of region 0 is undefined from then on. -/
def region0Op (v : Nat) (s : State) : State × Option Nat :=
  if v ≠ 0 then refuse s
  else if dGet s (dk 0x2400 7) = 0 then accepted s
  else
    accepted (tickFresh { dSet s (dk 0x2400 7) 0 with mem := { s.mem with
      bytes := tableKeep (fun k => decide (2 ^ 40 ≤ k)) s.mem.bytes
      undef := (0, 2 ^ 40, s.fresh) :: carve 0 (2 ^ 40) s.mem.undef } })

/-- REGION0_LOST: a write of 0x2400:07. -/
def execRegion0Lost (rq : Req) (value : Byte) (s : State) : Host.Outcome State Fault Refusal :=
  .next (handleWrite s rq 0x2400 7 [value] (region0Op value.toNat))

/-! ### Ranges of the other writable entries -/

/-- A 64-byte aligned address in the module's HBM. -/
def hbmBase (s : State) (v n : Nat) : Bool := v % 64 == 0 && inLocalHbm s v n

/-- The window entries of a backing pool: some mapped page lies in the window that the write replaces (R228). -/
def windowHeld (s : State) (p tier i : Nat) : Bool :=
  let ix := 0x2400 + 0x10 * tier + p
  let w := (dGet s (dk ix (i + 1)), dGet s (dk ix (i + 0x11)))
  s.mem.maps.any (fun m => m.part == p && m.tier == tier && rangesMeet (m.addr, m.size) w)

/-- A pool entry's value. -/
def windowGood (s : State) (p tier sub v : Nat) : Bool :=
  let i := if sub ≤ 16 then sub - 1 else sub - 17
  !windowHeld s p tier i &&
  (if 16 < sub then tier == 4 || v % 65536 == 0
   else if tier = 3 then gaValid s v && gaRegion v == 0 && gaNode v != nodeId s && v % 65536 == 0
   else gaValid s v && gaRegion v == 2)

def inRange (v lo hi : Nat) : Bool := decide (lo ≤ v ∧ v ≤ hi)

/-- TDP of the variant in watts (R373). -/
def tdp (s : State) : Nat := if s.variant = .cxm1440 then 2700 else 2500

/-- The value lies in the range its owning chapter gives; entries that no line names take any value of their type. -/
def valueGood (s : State) (index sub v : Nat) : Bool :=
  let p := index % 16
  if 0x2000 ≤ index ∧ index < 0x2010 then
    (match sub with
     | 0x08 => hbmBase s v 64
     | 0x09 => inRange v 0 16777216
     | 0x0A => inRange v 128 65536
     | 0x10 => inRange v 1 16
     | 0x11 => v != 0 && (v % 65536 == 0 || v == 2 ^ 64 - 1)
     | 0x12 => v != 0 && (v % 65536 == 0 || v == 2 ^ 64 - 1)
     | 0x13 => v != 0 && (v % 65536 == 0 || v == 2 ^ 64 - 1)
     | 0x17 => v != 0
     | 0x19 => v != 0
     | 0x1B => v != 0
     | 0x18 => inRange v 64 65536
     | 0x1A => inRange v 64 65536
     | 0x1C => inRange v 64 65536
     | _ => true)
  else if 0x2610 ≤ index ∧ index < 0x2620 then
    (match sub with
     | 0x01 => hbmBase s v 64
     | 0x02 => inRange v 0 1048576
     | 0x06 => v == 0 || inLocalHbm s v 4
     | 0x07 => inRange v 10 24
     | 0x09 => inRange v 4 12
     | _ => true)
  else if 0x2430 ≤ index ∧ index < 0x2440 then windowGood s p 3 sub v
  else if 0x2440 ≤ index ∧ index < 0x2450 then windowGood s p 4 sub v
  else
    (match dk index sub with
     | 0x210002 => v == 0 || hbmBase s v (16 * 16384)
     | 0x210007 => inRange v 1 256
     | 0x230001 => inRange v 1 3
     | 0x220301 => inRange v 0 1
     | 0x250003 => v != 0
     | 0x250004 => v != 0
     | 0x250005 => v != 0
     | 0x420002 => v == 0 || gaValid s v
     | 0x240004 => v % 48 == 0 && inRange v 192 18432
     | 0x240008 => inRange v 8 64
     | 0x241001 => inRange v 0 1
     | 0x241002 => inRange v 1 50
     | 0x241201 => v == 0 || inRange v 3600 2592000
     | 0x241302 => inRange v 0 383
     | 0x241303 => inRange v 0 3
     | 0x270001 => inRange v 1 40
     | 0x270002 => inRange v 1 40
     | 0x270003 => inRange v 1 40
     | 0x270008 => inRange v 200 100000 && decide (2 * dGet s (dk 0x2700 9) ≤ v)
     | 0x270009 => decide (10 ≤ v) && decide (2 * v ≤ dGet s (dk 0x2700 8))
     | 0x270702 => inRange v 0 5
     | 0x270703 => inRange v 0 12
     | 0x270704 => inRange v 0 2
     | 0x280001 => inRange v 1 1048576
     | 0x280002 => inRange v 1 255
     | 0x110005 => inRange v 1 1000
     | 0x111003 => inRange v 1 255
     | 0x140004 => inRange v 1 65535
     | 0x140101 => inRange v 1500 (tdp s)
     | 0x140201 => inRange v 80 100
     | 0x150004 => v == 0 || inRange v 100 60000
     | 0x400301 => inRange v 1 255
     | 0x400302 => inRange v 60 2592000
     | _ => true)

/-- The index of one partition (R360). -/
def partIndex (index : Nat) : Bool :=
  [0x2000, 0x2610, 0x2810, 0x2820].any (fun b => decide (b ≤ index ∧ index < b + 16))

/-- The owning block of an RWQ entry is quiescent (R360). -/
def blockQuiet (s : State) (index sub : Nat) : Bool :=
  if dk index sub = 0x210002 then s.hop.rings.all (fun r => r.2.state == .free)
  else if index = 0x2700 then dGet s (dk 0x2700 0xC) == 1
  else if partIndex index then partQuiet s (index % 16)
  else allQuiet s

/-- A write of an entry without rules beyond its range. -/
def plainOp (access : Access) (index sub v : Nat) (s : State) : State × Option Nat :=
  if access = .rwq && !blockQuiet s index sub then notQuiet s
  else if valueGood s index sub v then accepted (dSet s (dk index sub) v)
  else refuse s

end Sys2Proof.Machine
end

