-- ==== Sys2Proof/Machine/Ports.lean ====
section
/-! DEFINITION. Kraur ports, the bywash and forwarding (R257, R260, R262 to R267, R277 to R281). -/

namespace Sys2Proof.Machine

def portSet (s : State) (i sub v : Nat) : State := dSet s (dk (0x2701 + i) sub) v

/-- The bywash is closed. -/
def bywashClosed (s : State) : Bool := dGet s (dk 0x2700 0xC) == 1

/-- Close the bywash: no port has a partner any more (R277, R279). -/
def closeBywash (s : State) : State :=
  (List.range 6).foldl (fun s i => if portState s i = 4 then s else portSet (portSet s i 1 0) i 2 0xFFFF)
    (dSet s (dk 0x2700 0xC) 1)

/-- A case of R277 holds. -/
def mustClose (s : State) : Bool :=
  !s.pwr.inputOk || s.pwr.held || s.pwr.resetRunning == some .cold || s.pwr.resetRunning == some .module ||
  pState s == 4 || dGet s (dk 0x2700 0xB) == 1 || s.fab.ioDieBFault || s.pwr.thermLow || s.pwr.tripped.isSome || s.fw.recovery

/-- A port starts to train. -/
def startTraining (s : State) (i : Nat) : State := if portState s i = 4 then s else portSet s i 1 1

/-- 100 ms in ticks (R278). -/
def dedupHold : Nat := 2500000

/-- BYWASH_OPEN: the lasers of some ports are ready; the bywash opens when R278 is met, and every port trains. -/
def openBywash (s : State) (lasers : BitVec 6) : State :=
  let s := { s with fab := { s.fab with lasersReady := lasers } }
  if bywashClosed s && coordsValid s && lasers == 0x3F && !mustClose s &&
      decide (s.fab.dedupCleared.toNat + dedupHold ≤ now s) then
    (List.range 6).foldl startTraining (dSet s (dk 0x2700 0xC) 0)
  else s

def execBywashOpen (lasersReady : BitVec 6) (s : State) : Host.Outcome State Fault Refusal :=
  .next (openBywash s lasersReady)

/-- bywash_force (R281). -/
def bywashForceOp (v : Nat) (s : State) : State × Option Nat :=
  if 1 < v then (s, some stRefused)
  else
    let s := dSet s (dk 0x2700 0xB) v
    (if v = 1 then closeBywash s else s, some stOk)

/-- BYWASH_FORCE: a write of 0x2700:0B. -/
def execBywashForce (rq : Req) (value : Byte) (s : State) : Host.Outcome State Fault Refusal :=
  .next (handleWrite s rq 0x2700 0xB [value] (bywashForceOp value.toNat))

/-! ### Training (R255, R262, R279) -/

/-- PORT_RETRAIN: the port has lost its partner's signal, or R257 or R260 asks for it. -/
def retrain (s : State) (i : Nat) : State :=
  if 6 ≤ i ∨ bywashClosed s ∨ portState s i = 4 ∨ portState s i = 1 then s
  else count (portSet s i 1 1) 0x3286 (i + 1) 1

def execPortRetrain (port : BitVec 3) (s : State) : Host.Outcome State Fault Refusal := .next (retrain s port.toNat)

/-- The lanes a port can run on: all of 0 to 11, or the spare in place of the one that is not good; `none` below 12. -/
def pickLanes (good : BitVec 13) : Option (Nat × Option Nat) :=
  let bad := (List.range 13).filter (fun k => !bit good.toNat k)
  match bad with
  | [] => some (0xFFF, none)
  | [12] => some (0xFFF, none)
  | [k] => some (0x1FFF - 2 ^ k, some k)
  | _ => none

/-- The lanes that training found good, less one that repair has given up. -/
def trainLanes (s : State) (i : Nat) (good : BitVec 13) : Option (Nat × Option Nat) :=
  match (getLink s i).spareFor with
  | some k => pickLanes (good &&& ~~~(1#13 <<< k))
  | none => pickLanes good

/-- The node at coordinates exchanged in training. -/
def trainNode (s : State) (c : BitVec 8 × BitVec 8 × BitVec 8) : Nat :=
  c.1.toNat + dimSize s 0 * (c.2.1.toNat + dimSize s 1 * c.2.2.toNat)

/-- The partner at a coordinate is the next present module in the port's direction: the module that the other port of the
dimension meets lies no nearer in that direction (R262). -/
def nextPresent (s : State) (i c : Nat) : Bool :=
  let q := partnerOf s (Nat.xor i 1)
  let d := i / 2
  let dist (p : Nat) : Nat := ringDist (dimSize s d) (coordOf s d) p (i % 2 == 0)
  q == 0xFFFF || decide (dist c ≤ dist (nodeCoord s q d))

/-- The check of R262: sizes agree, the partner differs only in the port's dimension, and it is the next present module in the
port's direction. -/
def partnerGood (s : State) (i : Nat) (r : TrainResult) : Bool :=
  let c (d : Nat) : Nat := if d = 0 then r.coords.1.toNat else if d = 1 then r.coords.2.1.toNat else r.coords.2.2.toNat
  nextPresent s i (c (i / 2)) &&
  coordsValid s && r.dims.1.toNat == dimSize s 0 && r.dims.2.1.toNat == dimSize s 1 && r.dims.2.2.toNat == dimSize s 2 &&
  (List.range 3).all (fun d => decide (c d < dimSize s d) && ((c d == coordOf s d) == (d != i / 2)))

/-- The port has lock: 4,096 consecutive blocks decoded, and the lanes deskewed by at most 64 symbols (R256). -/
def locked (r : TrainResult) : Bool := decide (4096 ≤ r.goodBlocks.toNat) && decide (r.skew.toNat ≤ 64)

/-- The highest version in both bitmaps (R7, R343). -/
def bestVersion (a b : Nat) : Option Nat := (List.range 8).reverse.find? (fun v => bit a v && bit b v)

/-- The slots of one class cut at their header slots; what comes before the first header belongs to a transaction whose header
has left. -/
def groupSlots : List QSlot → List QSlot × List (List QSlot)
  | [] => ([], [])
  | q :: t =>
    let r := groupSlots t
    if q.first then ([], (q :: r.1) :: r.2) else (q :: r.1, r.2)

/-- The transaction of a group of slots, with the LIFE it has left. -/
def packetOf (at' : Nat) (g : List QSlot) : Packet :=
  let h := (g.map (·.bytes)).headD []
  let word (k : Nat) : Word := BitVec.ofNat 64 (leNat ((h.drop (8 * k)).take 8))
  let due := (g.map (·.due)).headD 0
  { x0 := word 0, x1 := BitVec.ofNat 64 ((word 1).toNat / 2 ^ 32 * 2 ^ 32 + (due - at')), x2 := word 2, x3 := word 3,
    data := ((g.drop 1).flatMap (·.bytes)).take (if bits (word 0).toNat 63 60 = 0 then 0 else bits (word 0).toNat 55 45) }

/-- A transaction held by a port whose partner has changed: its hop is checked again (R264, R279). -/
def reroute (port cls : Nat) (s : State) (g : List QSlot) : State :=
  let p := packetOf (now s) g
  match nextHop s p.dest (some (Nat.xor port 1)) (if cls = 4 then 0 else cls) with
  | .here => s
  | .absent lost => turnBack s p lost
  | .out port' vc => pump (enqueue s port' vc p) port'

/-- What a port with a new partner still holds in its queue. -/
def rerouteAll (s : State) (port : Nat) (q : List QSlot) : State :=
  (List.range 5).foldl (fun s c => (groupSlots (q.filter (fun x => x.cls == c))).2.foldl (reroute port c) s) s

/-- The link layer with a partner: replay resumes with a former one, and starts afresh with a new one (R279). -/
def joinPartner (s : State) (i node : Nat) (lack : BitVec 12) : State :=
  let l := getLink s i
  let before := (s.fab.partners.find? (fun x => x.1 == i)).map (·.2)
  let s := { s with fab := { s.fab with partners := s.fab.partners.filter (fun x => x.1 != i) ++ [(i, node)] } }
  if before = some node then setLink s i (resendFlits s (ackReplay l lack))
  else
    let s := setLink s i { Link.fresh kraurCredits with
      spareFor := l.spareFor, spareClean := l.spareClean, version := l.version, ctrl := l.ctrl }
    let s := if before.isSome then count (count s 0x3289 (i + 1) l.replay.length) 0x3288 (i + 1) 1 else s
    rerouteAll s i l.queue

/-- Training ends: without 12 good lanes, a partner as R262 asks, or a protocol version in common (R7, R255), the port stays down;
else what the module still holds for the partner leaves again. -/
def trainingDone (s : State) (i : Nat) (r : TrainResult) : State :=
  if 6 ≤ i ∨ bywashClosed s ∨ portState s i ≠ 1 ∨ !locked r then s
  else
    match trainLanes s i r.goodLanes with
    | none => portSet (portSet s i 1 0) i 2 0xFFFF
    | some (map, spare) =>
      match (if partnerGood s i r then bestVersion Config.kraurVersions r.versions.toNat else none) with
      | none => raiseEvent (portSet (portSet s i 1 0) i 2 0xFFFF) 1 0 none (0x2701 + i) 1 0
      | some v =>
        let node := trainNode s r.coords
        let s := setLink s i { getLink s i with spareFor := spare, version := v }
        let s := joinPartner (portSet (portSet (portSet (portSet s i 3 map) i 4 r.delay.toNat) i 2 node) i 1 2) i node r.lack
        pump s i

/-- PORT_TRAINING_DONE. -/
def execPortTrainingDone (port : BitVec 3) (result : TrainResult) (s : State) : Host.Outcome State Fault Refusal :=
  .next (trainingDone s port.toNat result)

/-! ### Flits and lanes -/

/-- A Falyndi link that must train again, in a warm reset too (R341, R347): it runs no version while it is down (R343). -/
def falyndiRetrain (s : State) : State :=
  if falyndiTrained s then
    countT (dSet (dSet { s with host := { s.host with downAt := BitVec.ofNat 64 (now s) } } (dk 0x1100 1) 3) (dk 0x1100 2) 0) 0x3112 1
  else s

/-- The link trains again. -/
def retrainLink (s : State) (i : Nat) : State := if i = 6 then falyndiRetrain s else retrain s i

/-- The ticks within which 16 replays are the bound: 10 µs, on Falyndi 20 µs (R260, R341). -/
def replayBound (i : Nat) : Nat := if i = 6 then 500 else 250

/-- The replays of a link within the bound, this one included. -/
def replaysNow (s : State) (i : Nat) : List Word :=
  (getLink s i).replayed.filter (fun t => decide (now s < t.toNat + replayBound i)) ++ [BitVec.ofNat 64 (now s)]

/-- NAK: the partner asks for every flit after LACK; more than 16 replays within the bound make the link train again (R260). -/
def nakLink (s : State) (i : Nat) (lack : BitVec 12) (corrected : Nat) : State :=
  if !linkStays s i then s
  else
    let s := linkCount (linkCount s i 0x3283 0 corrected) i 0x3281 0 1
    let l := resendFlits s (ackReplay (getLink s i) lack)
    let many := decide (16 < (replaysNow s i).length)
    let s := linkCount (linkCount (setLink s i { l with replayed := if many then [] else replaysNow s i }) i 0x3280 0 l.replay.length)
      i 0x3285 0x3111 1
    if many then retrainLink s i else pump s i

def execNak (link : BitVec 3) (lack : BitVec 12) (corrected : BitVec 16) (s : State) : Host.Outcome State Fault Refusal :=
  .next (if link = 7 then s else nakLink s link.toNat lack corrected.toNat)

/-- The spare's index, and where lane_map stands. -/
def spareLane (i : Nat) : Nat := if i = 6 then 4 else 12
def laneMapKey (i : Nat) : Nat := if i = 6 then dk 0x1100 4 else dk (0x2701 + i) 3

/-- Move the traffic back from the spare: the ends agree the block by control flit, as they do to move it there (R257). -/
def laneBack (s : State) (i lane : Nat) : State :=
  sendCtrl (dSet (setLink s i { getLink s i with spareFor := none }) (laneMapKey i)
    (Nat.lor (2 ^ spareLane i - 1) (2 ^ lane))) i 1 lane

/-- The report of a suspect lane (R381). -/
def laneReport (i lane : Nat) : ErrorReport :=
  { source := if i = 6 then 0x0E else 0x0D, unitKind := if i = 6 then 6 else 5,
    unit := BitVec.ofNat 16 (if i = 6 then lane else i * 16 + lane), address := 0, locationA := 0,
    locationB := BitVec.ofNat 32 lane, part := 0, byCommand := false }

/-- The error of a suspect lane (R257, R384): its traffic moves to the spare, at a block agreed by control flit, when that shows no
error; with the spare in use the link trains again. The record's targeted test decides what follows. -/
def laneError (s : State) (i lane : Nat) (e : ErrorReport) (persist : Option (BitVec 2)) : State :=
  let l := getLink s i
  let s := (detectError s e persist).1
  if l.spareFor.isSome then retrainLink s i
  else if (getLink s i).spareFor = some lane then sendCtrl s i 1 lane
  else s

/-- LANE_SWAP: what a lane's corrections over 2^32 bits, its lock and the spare's PRBS31 show. A lane is suspect over the threshold,
or when it has lost lock while the others keep theirs (R257); so is the spare while it carries traffic. -/
def laneSuspect (s : State) (i lane corrections : Nat) (lockLost spareGood : Bool) : State :=
  if !linkStays s i ∨ spareLane i < lane ∨ !bit (dGet s (laneMapKey i)) lane then s
  else
    let s := setLink s i { getLink s i with spareClean := spareGood }
    if dGet s (dk 0x2700 0xE) < corrections ∨ lockLost then laneError s i lane (laneReport i lane) none else s

def execLaneSwap (link : BitVec 3) (lane : BitVec 4) (seen : LaneErrors) (spareGood : Bool) (s : State) :
    Host.Outcome State Fault Refusal :=
  .next (if link = 7 then s else laneSuspect s link.toNat lane.toNat seen.corrections.toNat seen.lockLost spareGood)

/-- A port that has failed and has no spare lane is retired (R391): the transactions it holds look for another way (R264). -/
def retirePort (s : State) (i : Nat) : State :=
  if 6 ≤ i then s
  else
    let q := (getLink s i).queue
    rerouteAll (setLink (portSet (portSet s i 1 4) i 2 0xFFFF) i { getLink s i with queue := [] }) i q

/-- Margining ends: the margined lane takes its traffic back (R291). -/
def endMargin (s : State) : State :=
  match s.fab.margined with
  | none => s
  | some (i, lane) =>
    let s := dSet { s with fab := { s.fab with margined := none } } (dk 0x2707 1) 0
    if (getLink s i).spareFor = some lane then laneBack s i lane else s

/-! ### Forwarding (R263 to R267) -/

/-- The fabric reaches the module: the bywash is open. -/
def fabricOn (s : State) : Bool := s.pwr.inputOk && !bywashClosed s

/-- FORWARD: a transaction for another node, after `residency` ticks here; in a warm reset it waits at its port (R271). -/
def forwardPacket (s : State) (p : Packet) (inPort : Option Nat) (vc residency : Nat) : State :=
  if !fabricOn s then s
  else match nextHop s p.dest inPort vc with
    | .here => s
    | .absent lost => turnBack s p lost
    | .out port vc' => launch s port vc' residency p

def execForward (pkt : Packet) (inPort : Option (BitVec 3)) (vc : BitVec 2) (residency : BitVec 32) (s : State) :
    Host.Outcome State Fault Refusal :=
  .next (forwardPacket s pkt (inPort.map (·.toNat)) vc.toNat residency.toNat)

/-- A header slot is a transaction's, whatever its LIFE. -/
def headsTxn (p : Packet) (q : QSlot) : Bool :=
  leNat (q.bytes.take 8) == p.x0.toNat && leNat ((q.bytes.drop 12).take 4) == p.tag && leNat ((q.bytes.drop 16).take 8) == p.x2.toNat

/-- LIFE_EXPIRY: a transaction that the module holds, at a port or in a port's queue, has run out of LIFE. -/
def lifeOut (s : State) (p : Packet) : State :=
  if !fabricOn s then s
  else dropExpired { s with fab := { s.fab with
    arrivals := s.fab.arrivals.filter (fun a => a.1 != p)
    links := s.fab.links.map (fun l => { l with queue := (dropHeads (headsTxn p) [] l.queue).1 }) } }

def execLifeExpiry (pkt : Packet) (s : State) : Host.Outcome State Fault Refusal := .next (lifeOut s pkt)

end Sys2Proof.Machine
end

