-- ==== Sys2Proof/Machine/Targets.lean ====
section
/-! DEFINITION. The module as the target of fabric transactions (R55, R68, R70, R237, R240, R269 to R271, R274, R275, R282,
R288). -/

namespace Sys2Proof.Machine

/-- Answer a request (spec/10 "Response codes and their outcome at the source"). -/
def answer (s : State) (p : Packet) (code : Nat) (data : List Byte) (operand : Nat) : State :=
  sendPacket s
    { x0 := packX0 kResponse code data.length false false false p.src p.dest, x1 := p.x1, x2 := 0,
      x3 := BitVec.ofNat 64 operand, data := data }

/-! ### Deduplication (R269) -/

/-- What the table says of an arriving tag. -/
inductive Seen where
  | old
  | new
  | full
  deriving DecidableEq, Repr

def putDedup (s : State) (e : Dedup) : State :=
  { s with fab := { s.fab with dedup := s.fab.dedup.filter (fun x => x.node != e.node) ++ [e] } }

/-- Look an arriving transaction up; its source has an entry afterwards unless the table is full. -/
def lookDedup (s : State) (p : Packet) : State × Seen :=
  let t := BitVec.ofNat 32 p.tag
  let ends := now s + p.life
  let valid := s.fab.dedup.filter (fun e => decide (now s ≤ e.expiry.toNat))
  match valid.find? (fun e => e.node == p.src) with
  | some e =>
    let e := { e with expiry := BitVec.ofNat 64 (max e.expiry.toNat ends) }
    let d := (t - e.base).toNat
    if 2 ^ 31 ≤ d ∨ e.bits.contains t then (putDedup s e, .old)
    else if d < 1024 then (putDedup s e, .new)
    else
      let b := t - 1023
      (putDedup s { e with base := b, bits := e.bits.filter (fun x => decide ((x - b).toNat < 1024)) }, .new)
  | none =>
    if 4096 ≤ valid.length then (countT s 0x328F 1, .full)
    else
      let s := { s with fab := { s.fab with dedup := valid } }
      (putDedup s { node := p.src, base := t - 1023, bits := [], slots := [], expiry := BitVec.ofNat 64 ends }, .new)

/-- The base moves past every set bit that follows it. -/
def advanceBase : Nat → Dedup → Dedup
  | 0, e => e
  | fuel + 1, e =>
    if e.bits.contains e.base then
      advanceBase fuel { e with base := e.base + 1, bits := e.bits.filter (fun x => x != e.base) }
    else e

/-- The transaction has been applied: its bit is set; `slot` is what its ATOMIC read. -/
def markDedup (s : State) (p : Packet) (slot : Option Word) : State :=
  match s.fab.dedup.find? (fun e => e.node == p.src) with
  | none => s
  | some e =>
    let t := BitVec.ofNat 32 p.tag
    let slots := match slot with
      | none => e.slots
      | some v => e.slots.filter (fun x => x.1.toNat % 64 != p.tag % 64) ++ [(t, v)]
    putDedup s (advanceBase 1024 { e with bits := e.bits ++ [t], slots := slots })

/-- An arriving transaction: dropped when its LIFE is spent, answered RETRY when the table is full (R267, R269). -/
def receive (s : State) (p : Packet) (again fresh : State → State) : State :=
  if p.life = 0 then dropExpired s
  else match lookDedup s p with
    | (s, .full) => answer s p 3 [] 0
    | (s, .old) => again (countT s 0x328E 1)
    | (s, .new) => fresh s

/-- A duplicate that is not applied again. -/
def ackAgain (p : Packet) (s : State) : State := answer s p 0 [] 0

/-! ### Windows (R270, R274) -/

/-- The window in which a range lies. -/
def windowOf (s : State) (a n : Nat) : Option Nat :=
  (List.range 64).find? (fun w =>
    let k (sub : Nat) : Nat := dGet s (dk (0x2740 + w) sub)
    (k 1 == 1 || k 1 == 2) && decide (k 2 ≤ a ∧ a + n ≤ k 2 + k 3))

/-- The borrowers of a window. -/
def borrowersOf (s : State) (w : Nat) : List Nat := ((s.fab.borrowers.find? (fun b => b.1 == w)).map (·.2)).getD []

/-- An access of a node to a range: the state with the node recorded, or nothing where it is not lent. -/
def lent (s : State) (node a n : Nat) : Option State :=
  if gaNode a ≠ nodeId s ∨ gaRegion a ≠ 0 then none
  else match windowOf s a n with
    | none => none
    | some w =>
      let l := borrowersOf s w
      if l.contains node then some s
      else if 64 ≤ l.length then none
      else some { dSet s (dk (0x2740 + w) 6) (l.length + 1) with fab := { s.fab with
        borrowers := s.fab.borrowers.filter (fun b => b.1 != w) ++ [(w, l ++ [node])] } }

def notLent (s : State) (p : Packet) : State := answer (countT s 0x3292 1) p 2 [] 0

/-- An access that meets a lost line: the lender records the error, the borrower's command ends (R240). -/
def lenderError (s : State) (p : Packet) (a : Nat) : State :=
  answer (detectError s (uncorrectableRead s 0 a false) none).1 p 5 [] 0

/-! ### READ, WRITE, ATOMIC -/

/-- Serve a READ. -/
def readWindow (p : Packet) (s : State) : State :=
  match lent s p.src p.addr p.len with
  | none => notLent s p
  | some s =>
    let s := fireRead s p.addr p.len
    match firstLost s p.addr p.len with
    | some a => lenderError s p a
    | none => answer (touchRange none false (markDedup s p none) p.addr p.len) p 0 (ldBytes s p.addr p.len) 0

/-- Apply a WRITE: a part of a code word that cannot be read is not written (R233). -/
def writeWindow (p : Packet) (s : State) : State :=
  let n := p.data.length
  match lent s p.src p.addr n with
  | none => notLent s p
  | some s =>
    let s := (partialWords p.addr n).foldl (fun s x => fireRead s x.1 x.2) s
    match lostRead s (partialWords p.addr n) with
    | some a => lenderError s p a
    | none => answer (gWrite (markDedup s p none) p.addr p.data) p 0 [] 0

/-- Minimum or maximum, as `up` has it, by a strict order. -/
def pickBound (up less : Bool) (a b : Nat) : Nat := if less == up then b else a

/-- The new value of a scalar atomic operation (R237). `cas` is the new value of CAS_64. -/
def atomicScalar (fresh code width old operand cas : Nat) : Nat :=
  let up := Config.atomicMax fresh
  let m := 2 ^ (8 * width)
  match code with
  | 0 => (old + operand) % m
  | 1 => f32Add old (operand % m)
  | 2 => pickBound up ((BitVec.ofNat 64 old).slt (BitVec.ofNat 64 operand)) old operand
  | 3 => pickBound up (decide (old < operand)) old operand
  | 4 => if up then f32Max old (operand % m) else f32Min old (operand % m)
  | 5 => operand
  | _ => if old = operand then cas else old

/-- VADD_BF16 and VADD_F32 on one line. -/
def atomicVector (code : Nat) (old data : List Byte) : List Byte :=
  let f : Fmt := if code = 7 then .bf16 else .f32
  packElems f false ((List.zip (unpackElems f old) (unpackElems f data)).map (fun x => f32Add x.1 x.2))

/-- Apply an ATOMIC at the home slice of its line. -/
def atomicWindow (p : Packet) (s : State) : State :=
  let width := atomicWidth p.code p.w64
  match lent s p.src p.addr width with
  | none => notLent s p
  | some s =>
    let s := fireRead s p.addr width
    match firstLost s p.addr width with
    | some a => lenderError s p a
    | none =>
      let old := ldNat s p.addr width
      let new := if scalarAtomic p.code then
          leBytes width (atomicScalar s.fresh p.code width old p.operand (leNat (p.data.take 8)))
        else atomicVector p.code (ldBytes s p.addr 128) p.data
      let val := if scalarAtomic p.code then old else 0
      let s := countT (tickFresh (markDedup s p (some (BitVec.ofNat 64 val)))) 0x327A 1
      let s := touchLine none true s (lineAddr p.addr)
      answer (storeM s p.addr new) p 0 [] val

/-- A duplicate ATOMIC: the old value of its slot, when the slot holds its tag. -/
def atomicAgain (p : Packet) (s : State) : State :=
  let v := (s.fab.dedup.find? (fun e => e.node == p.src)).bind
    (fun e => e.slots.find? (fun x => x.1.toNat == p.tag))
  answer s p 0 [] ((v.map (·.2.toNat)).getD 0)

def serveRead (s : State) (p : Packet) : State := receive s p (readWindow p) (readWindow p)
def serveWrite (s : State) (p : Packet) : State := receive s p (ackAgain p) (writeWindow p)

/-- A reserved code is refused by the command that carries it (R237) and does not arrive. -/
def serveAtomic (s : State) (p : Packet) : State :=
  if atomicWidth p.code p.w64 = 0 then s else receive s p (atomicAgain p) (atomicWindow p)

/-! ### TALLY and messages -/

/-- A remote tally add (R70, R270). -/
def tallyTarget (p : Packet) (s : State) : State :=
  let t := p.addr % 4096
  match tallyOwner s t with
  | some q =>
    if pGet s q 0xF = 1 then answer (tallyAdd (markDedup s p none) t p.operand) p 0 [] 0
    else answer (countP s 0x3211 q 1) p 4 [] 0
  | none => answer (countT s 0x3211 1) p 4 [] 0

def serveTally (s : State) (p : Packet) : State := receive s p (ackAgain p) (tallyTarget p)

/-- The T3 backing pool entries that lie in the window at a base (R275). A notice names no size: the window reaches as far as the
largest entry with its base says (DEDUCED, log entry 16). -/
def noticedBy (s : State) (base : Nat) : List Nat :=
  let used := (List.range 256).filter (fun k => (poolEntry s k).2 != 0)
  let size := (used.filterMap (fun k => if (poolEntry s k).1 = base then some (poolEntry s k).2 else none)).foldl max 0
  used.filter (fun k => decide (base ≤ (poolEntry s k).1 ∧ (poolEntry s k).1 + (poolEntry s k).2 ≤ base + size))

/-- LEND_NOTICE at a borrower (R275). -/
def noticeTarget (p : Packet) (s : State) : State :=
  let s := { s with fab := { s.fab with noticed := (noticedBy s p.addr).foldl (fun l k => insertNat k l) s.fab.noticed } }
  answer (raiseEvent (markDedup s p none) 1 0 none 0x2710 1 p.addr) p 0 [] 0

def serveNotice (s : State) (p : Packet) : State := receive s p (ackAgain p) (noticeTarget p)

/-- The command whose instance has a COLL_ID. -/
def instanceOf (s : State) (collId : Nat) : Option InFlight :=
  s.hop.inflight.find? (fun c => c.coll.any (fun i => i.collId.toNat == collId))

/-- COLL_ABORT at a member (R288). -/
def abortTarget (p : Packet) (s : State) : State :=
  let s := markDedup s p none
  let s := match instanceOf s p.addr with
    | some c =>
      if sealedOn s c.ring || c.discard.isSome || (c.executed && c.status != 0) then s
      else countT (failInst s c.ring 0x33) 0x3294 1
    | none => s
  answer s p 0 [] 0

def serveAbort (s : State) (p : Packet) : State := receive s p (ackAgain p) (abortTarget p)

/-! ### COLLECTIVE -/

/-- Staging memory in bytes. -/
def stagingBytes : Nat := 16 * 2 ^ 20

/-- Staging holds one more chunk. -/
def stagingFits (s : State) (n : Nat) : Bool := decide ((s.fab.staged.map (·.pkt.data.length)).sum + n ≤ stagingBytes)

/-- A chunk of a collective (R282). -/
def chunkTarget (p : Packet) (s : State) : State :=
  match instanceOf s (p.addr / 2 ^ 32) with
  | none => answer s p 3 [] 0
  | some c =>
    match c.coll with
    | none => answer s p 3 [] 0
    | some inst =>
      if inst.signature.toNat ≠ p.operand / 2 ^ 32 then answer (countT s 0x3293 1) p 3 [] 0
      else if !stagingFits s p.data.length then answer s p 3 [] 0
      else
        let s := markDedup s p none
        let s := { s with fab := { s.fab with staged := s.fab.staged ++ [{ node := p.src, pkt := p }] } }
        let s := setFlight s c.ring (fun f => { f with
          coll := some { inst with lastTick := BitVec.ofNat 64 (now s) } })
        answer s p 0 [] 0

def serveChunk (s : State) (p : Packet) : State := receive s p (ackAgain p) (chunkTarget p)

/-! ### Arrival (R271) -/

/-- The module takes transactions in: its millpond runs and no reset holds it. -/
def serving (s : State) : Bool := live s && (pState s == 0 || pState s == 1 || pState s == 3)

/-- The row that an access names is under test: the access is held (R243, R384). -/
def packetHeld (s : State) (p : Packet) : Bool := decide (p.kind < 3) && rowHeld s p.addr (max 1 p.len)

/-- A transaction waits at its port. -/
def holdPacket (s : State) (p : Packet) : State :=
  { s with fab := { s.fab with arrivals := s.fab.arrivals ++ [(p, BitVec.ofNat 64 (now s))] } }

/-- A transaction for this module reaches its port: served, with the one tick of LIFE that its target takes (R267), or held while the
module wakes, a warm reset runs or its row is under test. -/
def arrive (s : State) (p : Packet) (kind : Nat) (serve : State → Packet → State) : State :=
  if p.kind ≠ kind ∨ p.dest ≠ nodeId s ∨ !fabricOn s then s
  else
    let s := if live s then wakeFrom s [2] else s
    if serving s && !packetHeld s p then serve s (packetLife p (p.life - 1)) else holdPacket s p

/-- Serve a transaction by its kind. -/
def serveAny (s : State) (p : Packet) : State :=
  match p.kind with
  | 0 => serveRead s p
  | 1 => serveWrite s p
  | 2 => serveAtomic s p
  | 3 => serveTally s p
  | 4 => if p.code = 0 then serveNotice s p else if p.code = 1 then serveAbort s p else s
  | 5 => serveChunk s p
  | _ => s

/-- Serve what waited at the ports, but what its row's test still holds; it went on ageing, and what ran out of LIFE is dropped (R267,
R271). -/
def releaseArrivals (s : State) : State :=
  s.fab.arrivals.foldl (fun s a =>
      let spent := now s - a.2.toNat + 1
      if a.1.life ≤ spent then dropExpired s
      else if packetHeld s a.1 then { s with fab := { s.fab with arrivals := s.fab.arrivals ++ [a] } }
      else serveAny s (packetLife a.1 (a.1.life - spent)))
    { s with fab := { s.fab with arrivals := [] } }

/-- KRAUR_READ. -/
def execKraurRead (pkt : Packet) (s : State) : Host.Outcome State Fault Refusal := .next (arrive s pkt kRead serveRead)

/-- KRAUR_WRITE. -/
def execKraurWrite (pkt : Packet) (s : State) : Host.Outcome State Fault Refusal := .next (arrive s pkt kWrite serveWrite)

/-- ATOMIC. -/
def execAtomic (pkt : Packet) (s : State) : Host.Outcome State Fault Refusal := .next (arrive s pkt kAtomic serveAtomic)

/-- TALLY. -/
def execTally (pkt : Packet) (s : State) : Host.Outcome State Fault Refusal := .next (arrive s pkt kTally serveTally)

/-- LEND_NOTICE. -/
def execLendNotice (pkt : Packet) (s : State) : Host.Outcome State Fault Refusal :=
  .next (if pkt.code = 0 then arrive s pkt kMessage serveNotice else s)

/-- COLL_ABORT. -/
def execCollAbort (pkt : Packet) (s : State) : Host.Outcome State Fault Refusal :=
  .next (if pkt.code = 1 then arrive s pkt kMessage serveAbort else s)

/-- COLLECTIVE: a chunk. -/
def execCollective (pkt : Packet) (s : State) : Host.Outcome State Fault Refusal :=
  .next (arrive s pkt kCollective serveChunk)

end Sys2Proof.Machine
end

