-- ==== Sys2Proof/Machine/Retire.lean ====
section
/-! DEFINITION. HBM service: channel retirement and migration, row repair and retired ranges, retraining, scrubbing, background
zeroing, margining (R227, R230, R231, R240, R241, R243 to R250, R291, R431). -/

namespace Sys2Proof.Machine

/-! ### Moving content -/

/-- Give a range of own memory undefined content, by key. -/
def loseRange (s : State) (k n : Nat) : State :=
  tickFresh { s with mem := { s.mem with
    bytes := tableKeep (fun x => !(decide (k ≤ x ∧ x < k + n))) s.mem.bytes
    undef := (k, n, s.fresh) :: carve k n s.mem.undef } }

/-- Move n bytes of own memory; the place left reads as zeros. Undefined content stays undefined. -/
def moveRange (s : State) (a b n : Nat) : State :=
  let k := memKey s a
  let k' := memKey s b
  let src := s.mem.bytes.filter (fun x => decide (k ≤ x.1 ∧ x.1 < k + n))
  let und := s.mem.undef.filterMap (fun r =>
    let lo := max r.1 k
    let hi := min (r.1 + r.2.1) (k + n)
    if lo < hi then some (lo - k + k', hi - lo, r.2.2) else none)
  let s := zeroRange (zeroRange s a n) b n
  let s := { s with mem := { s.mem with undef := und ++ s.mem.undef } }
  { s with mem := { s.mem with
    bytes := src.foldl (fun m x => memSet s.mem.undef (x.1 - k + k') x.2 m) s.mem.bytes
    lostLines := s.mem.lostLines.map (fun l =>
      if decide (k ≤ 128 * l ∧ 128 * l < k + n) then (128 * l - k + k') / 128 else l) } }

/-- The lowest free place for a mapped page below the end of region 0 (R245 step 3). -/
def refuge (s : State) (size : Nat) : Option Nat :=
  lowestFree (region0Taken s ++ s.mem.unzeroed.map (fun u => (gaOffset u.1, u.2))) (region0Size s) size

/-- An address inside [a, a + n) follows a move to b. -/
def shiftAddr (a b n x : Nat) : Nat := if a ≤ x ∧ x < a + n then x - a + b else x

/-- What commands in flight and their transactions still name inside a moved page follows it. -/
def followMove (s : State) (a b n : Nat) : State :=
  { s with
    hop := { s.hop with inflight := s.hop.inflight.map (fun c => { c with
      results := c.results.map (fun x => (shiftAddr a b n x.1, x.2))
      wrote := c.wrote.map (fun x => (shiftAddr a b n x.1, x.2)) }) }
    fab := { s.fab with txns := s.fab.txns.map (fun t => { t with dst := t.dst.map (shiftAddr a b n) }) } }

/-- Move one page, if a free one exists: its translation is rewritten. -/
def movePage (s : State) (m : Mapping) : Option State :=
  (refuge s m.size).map (fun o =>
    let b := gaMake (nodeId s) 0 o
    let s := followMove (moveRange s m.addr b m.size) m.addr b m.size
    { s with mem := { s.mem with
      maps := modifyFirst (fun x => x.part == m.part && x.va == m.va) (fun x => { x with addr := b }) s.mem.maps
      xlat := s.mem.xlat.filter (fun x => !(x.2.1 == m.part && x.2.2 == m.va)) } })

/-- Move pages in order; answers whether each found a place. -/
def movePagesOut : List Mapping → State → State × Bool
  | [], s => (s, true)
  | m :: t, s =>
    match movePage s m with
    | none => (s, false)
    | some s => movePagesOut t s

/-- The mapped pages that a range of region 0 touches. -/
def pagesIn (s : State) (o n : Nat) : List Mapping :=
  s.mem.maps.filter (fun m => m.tier == 2 && rangesMeet (gaOffset m.addr, m.size) (o, n))

/-- Evacuate the withdrawn stripes. -/
def evacuate (s : State) : State × Bool :=
  movePagesOut (s.mem.maps.filter (fun m => m.tier == 2 && decide (region0Size s < gaOffset m.addr + m.size))) s

/-! ### Channel retirement (R244 to R247) -/

/-- Step 2 of R245 for the n-th retired channel. -/
def shrinkQuotas (s : State) (n : Nat) : State :=
  (List.range 16).foldl (fun s p =>
    let q := tierQuota s p 2
    if q = 0xFFFFFFFFFFFFFFFF then s
    else pSet s p 0x11 (max 65536 (q * (384 - n) / (385 - n) / 65536 * 65536))) s

/-- Enter a channel in R (steps 1 and 2). -/
def enterRetired (s : State) (ch : Nat) : State :=
  if s.mem.retired.contains ch then s
  else
    let s := { s with mem := { s.mem with retired := s.mem.retired ++ [ch] } }
    shrinkQuotas s s.mem.retired.length

/-- Step 3, and step 4 once it has ended: the migration runs, or waits for free pages. -/
def evacuateStep (s : State) : State :=
  match s.mem.migration with
  | none => s
  | some m =>
    match evacuate s with
    | (s, true) => { s with mem := { s.mem with
        reloc := s.mem.reloc ++ m.channels.filter (fun c => !s.mem.reloc.contains c)
        migration := some { m with blocked := false } } }
    | (s, false) =>
      let s := { s with mem := { s.mem with migration := some { m with blocked := true } } }
      if m.blocked then s else raiseEvent s 1 0 none 0x2414 1 0

/-- The channels that retire together with some: a whole stack when a second one of it goes (R247). -/
def retireSet (s : State) (chans : List Nat) : List Nat :=
  chans ++ (liveChannels s).filter (fun c => !chans.contains c && chans.any (fun x =>
    x / 32 == c / 32 && (s.mem.retired.any (fun y => y / 32 == x / 32) || chans.any (fun y => y != x && y / 32 == x / 32))))

/-- The stacks whose list of live channels differs between two lists of retired channels, and that keep one: their pinned granules
move. -/
def movedStacks (r r' : List Nat) : List Nat :=
  (List.range 12).filter (fun st =>
    let l := (channelsBut r').filter (fun c => c / 32 == st)
    !l.isEmpty && (channelsBut r).filter (fun c => c / 32 == st) != l)

/-- Retire channels in one pass of R245; one that begins while another runs waits for it (DEDUCED, log entry 67). -/
def beginRetire (s : State) (chans : List Nat) (recSeq : Nat) : State :=
  let all := (List.range 384).filter (fun c => (retireSet s chans).contains c && !s.mem.retired.contains c &&
    !s.mem.retireQueue.any (fun q => q.1.contains c))
  if all.isEmpty then s
  else if s.mem.migration.isSome then
    { s with mem := { s.mem with retireQueue := s.mem.retireQueue ++ [(all, recSeq)] } }
  else
    let prior := s.mem.retired
    let s := all.foldl enterRetired s
    let m : Migration :=
      { channels := all, blocked := false, prior := prior, phase := 0, cursor := 0,
        toMove := movedStacks prior s.mem.retired, held := false, work := 0, recSeq := recSeq }
    evacuateStep { s with mem := { s.mem with
      migration := some m, chanFails := s.mem.chanFails.filter (fun x => !all.contains x.1) } }

/-- health_state rises (R395). -/
def raiseHealth (s : State) (v : Nat) : State := if dGet s (dk 0x4000 3) < v then dSet s (dk 0x4000 3) v else s

/-- Stacks that have lost their last channel hold no pinned content (R247); those of a lost die held none from its loss on (R393). -/
def deadStacks (s : State) (chans : List Nat) : List Nat :=
  ((chans.map (· / 32)).eraseDups).filter (fun st => stackRetired s st && !s.cores.lostDies.contains (st / 2))

/-- An address lies in the pinned area of a stack. -/
def onStack (st a : Nat) : Bool := a != 0 && gaRegion a == 1 && gaOffset a / 2 ^ 36 == st

/-- A ring whose primary or mirror lay on a dead stack goes on with its other copy (R22, R247). -/
def ringLosesStack (st n : Nat) (s : State) : State :=
  let r := ringOf s n
  if r.state = .free then s
  else
    let note (s : State) : State := (writeHealth s (blankRec 0x10 11 n 4) false).1
    if onStack st r.ringAddr.toNat then
      note (putRing s n { r with ringAddr := r.mirrorAddr, mirrorAddr := 0, stack := BitVec.ofNat 4 ((r.stack.toNat + 6) % 12) })
    else if onStack st r.mirrorAddr.toNat then note (putRing s n { r with mirrorAddr := 0 })
    else s

/-- The ring status table goes on with its other copy (R431). -/
def tableLosesStack (st : Nat) (s : State) : State :=
  let a := dGet s (dk 0x2100 3)
  let b := dGet s (dk 0x2100 0xC)
  let note (s : State) : State := (writeHealth s (blankRec 0x10 8 0 4) false).1
  if onStack st a then note (dSet (dSet s (dk 0x2100 3) b) (dk 0x2100 0xC) 0)
  else if onStack st b then note (dSet s (dk 0x2100 0xC) 0)
  else s

/-- The pinned area of a stack is lost (R247). -/
def loseStack (s : State) (st : Nat) : State :=
  let s := loseRange s (2 ^ 40 + st * 2 ^ 36) (pinnedBytes s)
  tableLosesStack st ((s.hop.rings.map (·.1)).foldl (fun s n => ringLosesStack st n s) s)

/-- The record of a channel's retirement: the one that led to it, else a record of its own. -/
def channelRecord (recSeq : Nat) (s : State) (ch : Nat) : State :=
  if (findRec s recSeq).any (fun r => r.unitKind == 4 && r.unit.toNat == ch) then
    updateRec s recSeq (fun r => { r with outcome := 3, action := 7 })
  else (writeHealth s { blankRec 0x07 4 ch 3 with action := 7 } false).1

/-- The pass that has waited begins. -/
def nextPass (s : State) : State :=
  match s.mem.retireQueue with
  | [] => s
  | (chans, recSeq) :: t => beginRetire { s with mem := { s.mem with retireQueue := t } } chans recSeq

/-- Granules of region 0 that move in a stripe. -/
def stripeMoves (s : State) (m : Migration) (st : Nat) : Nat :=
  ((List.range 6144).filter (fun i =>
    locateWith s m.prior 0 (st * 1572864 + 256 * i) != locateWith s s.mem.retired 0 (st * 1572864 + 256 * i))).length

/-- One move of the cursor, with what its work allows (R245 step 5). -/
def Migration.advance (s : State) (m : Migration) : Migration :=
  let top := pinnedBytes s / 256 - 1
  if m.blocked then m
  else if m.phase = 0 then
    if m.cursor < stripesN s then
      let need := 256 * stripeMoves s m m.cursor
      if need ≤ m.work then { m with cursor := m.cursor + 1, work := m.work - need } else m
    else { m with phase := 1, cursor := top }
  else if m.toMove.isEmpty then m
  else if !m.held then (if 2 ^ 18 ≤ m.work then { m with held := true, work := m.work - 2 ^ 18 } else m)
  else if 1024 ≤ m.cursor then
    let k := min (m.work / 256) (m.cursor - 1023)
    { m with cursor := m.cursor - k, work := m.work - 256 * k }
  else if 2 ^ 18 ≤ m.work then { m with toMove := m.toMove.drop 1, held := false, cursor := top, work := m.work - 2 ^ 18 }
  else m

/-- The migration goes on for 40 ns at migration_rate GB/s (log entry 67). -/
def migrateTick (s : State) : State :=
  match s.mem.migration with
  | none => s
  | some m =>
    let m' := Migration.advance s { m with work := if m.blocked then 0 else m.work + 40 * dGet s (dk 0x2400 8) }
    { s with mem := { s.mem with migration := some m' } }

/-- MIGRATION_END (R245 step 6): whatever was still to move has moved. -/
def endMigration (s : State) : State :=
  match s.mem.migration with
  | none => s
  | some m =>
    if m.blocked then s
    else
      let s := { s with mem := { s.mem with
        migration := none
        chanState := s.mem.chanState.filter (fun x => !m.channels.contains x.1)
        chanFails := s.mem.chanFails.filter (fun x => !m.channels.contains x.1) } }
      let s := (deadStacks s m.channels).foldl loseStack (raiseHealth s 2)
      nextPass (m.channels.foldl (channelRecord m.recSeq) s)

def execMigrationEnd (s : State) : Host.Outcome State Fault Refusal := .next (if live s then endMigration s else s)

/-- Move the mapped pages out of a retired range of region 0; a range whose pages find no room waits (R249). -/
def evacRange (s : State) (base : Nat) : State :=
  match movePagesOut (pagesIn s (gaOffset base) (2 ^ 21)) s with
  | (s, true) => { s with mem := { s.mem with evacRanges := s.mem.evacRanges.filter (· != base) } }
  | (s, false) =>
    if s.mem.evacRanges.contains base then s
    else raiseEvent { s with mem := { s.mem with evacRanges := s.mem.evacRanges ++ [base] } } 1 0 none 0x2414 1 0

/-- EVACUATION_RESUME: UNMAP has freed pages. -/
def execEvacuationResume (s : State) : Host.Outcome State Fault Refusal :=
  .next (if live s then
    (let s := if s.mem.migration.any (·.blocked) then evacuateStep s else s
     s.mem.evacRanges.foldl evacRange s)
   else s)

/-! ### Retraining (R243, R244) -/

/-- HBM content is not held in self-refresh. -/
def hbmOn (s : State) : Bool := live s && pState s != 2 && pState s != 4

/-- Failed retrains of a channel in a row. -/
def failsOf (s : State) (ch : Nat) : Nat := ((s.mem.chanFails.find? (fun x => x.1 == ch)).map (·.2)).getD 0

def setFails (s : State) (ch n : Nat) : State :=
  { s with mem := { s.mem with
    chanFails := s.mem.chanFails.filter (fun x => x.1 != ch) ++ (if n = 0 then [] else [(ch, n)])
    chanState := s.mem.chanState.filter (fun x => x.1 != ch) ++ (if n = 0 then [] else [(ch, 2)]) } }

/-- A channel cannot be read during its migration: region 0 is lost, a fault of shared infrastructure (R240). -/
def loseRegion0 (s : State) (ch : Nat) : State :=
  let s := dSet s (dk 0x2400 7) 1
  let w := writeHealth s { blankRec 0x07 4 ch 4 with shared := true } true
  discardParts w.1 allParts 0x10 w.2

/-- The retrain of a channel shows that its stack's PHY has failed: the stack's live channels retire in one pass (R247). -/
def failPhy (s : State) (ch hold : Nat) : State :=
  if 384 ≤ ch ∨ s.mem.retired.contains ch then s
  else beginRetire (count (count s 0x3273 (ch / 32 + 1) 1) 0x3272 (ch / 32 + 1) hold) (liveOfStack s (ch / 32)) 0

/-- HBM_RETRAIN of a channel. A channel that migrates and fails three more times in a row cannot be read (DEDUCED, log entry
67). -/
def retrainChannel (s : State) (ch : Nat) (passed : Bool) (hold : Nat) : State :=
  if 384 ≤ ch then s
  else if s.mem.retired.contains ch then
    if s.mem.migration.any (fun m => m.channels.contains ch) then
      let s := count (count s 0x3273 (ch / 32 + 1) 1) 0x3272 (ch / 32 + 1) hold
      if passed then setFails s ch 0
      else
        let s := setFails s ch (failsOf s ch + 1)
        if failsOf s ch < 3 then s else loseRegion0 (setFails s ch 0) ch
    else s
  else
    let s := count (count s 0x3273 (ch / 32 + 1) 1) 0x3272 (ch / 32 + 1) hold
    if passed then setFails s ch 0
    else
      let s := setFails s ch (failsOf s ch + 1)
      if failsOf s ch < 3 then s else beginRetire s [ch] 0

def execHbmRetrain (channel : BitVec 9) (result : RetrainResult) (holdCycles : BitVec 32) (s : State) :
    Host.Outcome State Fault Refusal :=
  .next (if !hbmOn s then s
    else match result with
      | .passed => retrainChannel s channel.toNat true holdCycles.toNat
      | .failed => retrainChannel s channel.toNat false holdCycles.toNat
      | .phyFailed => failPhy s channel.toNat holdCycles.toNat)

/-! ### Scrubbing and zeroing (R227, R240, R241) -/

/-- Lines of region 0, and of each stack's pinned area. -/
def scrubLines (s : State) : Nat × Nat := (region0Size s / 128, pinnedBytes s / 128)

/-- The place of a line address in the scrubber's round: region 0, then the stacks' pinned areas. -/
def scrubPlace (s : State) (l : Nat) : Nat :=
  if l < 2 ^ 33 then l else (scrubLines s).1 + (l - 2 ^ 33) / 2 ^ 29 * (scrubLines s).2 + (l - 2 ^ 33) % 2 ^ 29

/-- The line address at a place of the round. -/
def scrubLine (s : State) (k : Nat) : Nat :=
  let n := scrubLines s
  if k < n.1 then k else 2 ^ 33 + (k - n.1) / (max 1 n.2) * 2 ^ 29 + (k - n.1) % (max 1 n.2)

/-- A code word that the scrubber has corrected: counted, recorded and its row tested as any corrected error (R239). -/
def scrubFixed (s : State) (a : Nat) : State :=
  (detectError (count s 0x3277 ((locate s (gaRegion a) (gaOffset a)).1 / 32 + 1) 1)
    { uncorrectableRead s 0 a false with source := 0x06 } none).1

/-- A line lies among the n places of the round from `pos` on. -/
def scrubbed (s : State) (pos n a : Nat) : Bool :=
  let r := scrubLines s
  let total := r.1 + 12 * r.2
  decide ((scrubPlace s (memKey s a / 128) + total - scrubPlace s pos % total) % total < n)

/-- One of the injections armed for code words that the scrubber reads fires (R430). -/
def scrubFires (s : State) (pos n : Nat) : State :=
  match s.hlth.injections.find? (fun i => (i.kind == 5 || i.kind == 6) && gaNode i.addr.toNat == nodeId s && scrubbed s pos n i.addr.toNat) with
  | some i => fireRead s i.addr.toNat 1
  | none => s

/-- SCRUB: some lines are read, code words corrected, lines found uncorrectable. -/
def scrubSome (s : State) (corrected : List Nat) (lines : Nat) (bad : List Nat) : State :=
  if dGet s (dk 0x2412 1) = 0 then s
  else
    let total := (scrubLines s).1 + 12 * (scrubLines s).2
    let pos := dGet s (dk 0x2412 2)
    let k := scrubPlace s pos + lines
    let s := corrected.foldl scrubFixed ((List.range (min lines s.hlth.injections.length)).foldl (fun s _ => scrubFires s pos lines) s)
    let s := dSet (countT s 0x3276 (k / total)) (dk 0x2412 2) (scrubLine s (k % total))
    bad.foldl (fun s a => (detectError s (uncorrectableRead s 0 a false) none).1) s

def execScrub (corrected uncorrectable : List Word) (lines : BitVec 32) (s : State) :
    Host.Outcome State Fault Refusal :=
  .next (if hbmOn s then scrubSome s (corrected.map (·.toNat)) lines.toNat (uncorrectable.map (·.toNat)) else s)

/-- PAGE_ZEROED: the page freed first has been zeroed. -/
def zeroNext (s : State) : State :=
  match s.mem.unzeroed with
  | [] => s
  | u :: t => zeroRange { s with mem := { s.mem with unzeroed := t } } u.1 u.2

def execPageZeroed (s : State) : Host.Outcome State Fault Refusal := .next (if hbmOn s then zeroNext s else s)

/-! ### Row repair (R248, R249) -/

/-- The global address of the granule at a channel and granule row under a list of retired channels (the inverse of R231). -/
def granuleWith (s : State) (r : List Nat) (ch row : Nat) : Option Nat :=
  let node := nodeId s
  let stripe (c st k : Nat) : Nat :=
    let e := c + 384 * k
    gaMake node 0 (256 * (st * 6144 + (e + 6144 - (st * 1031) % 6144) % 6144))
  let sn := stripes0 s - r.length * stripesW s
  if 16 * stripes0 s ≤ row then
    let live := (channelsBut r).filter (fun c => c / 32 == ch / 32)
    some (gaMake node 1 (ch / 32 * 2 ^ 36 + 256 * ((row - 16 * stripes0 s) * live.length + indexOf ch live)))
  else if row < 16 * sn ∧ !r.contains ch then some (stripe ch (row / 16) (row % 16))
  else
    let live := channelsBut r
    let t := (row - 16 * sn) * live.length + indexOf ch live
    let per := 16 * sn
    match r[t / (max 1 per)]? with
    | some c => some (stripe c (t % per / 16) (t % 16))
    | none => none

/-- The granules that a row may hold: under the list of retired channels, and under the one before a running migration (R246). -/
def granulesAt (s : State) (ch row : Nat) : List Nat :=
  ((s.mem.retired :: (match s.mem.migration with
    | some m => [m.prior]
    | none => [])).filterMap (fun r => granuleWith s r ch row)).filter (fun a =>
      locate s (gaRegion a) (gaOffset a) == (ch, row))

/-- Retire the 2 MiB range of a granule; its mapped pages move (R249). -/
def retireRange (s : State) (a : Nat) : State :=
  let base := a / 2 ^ 21 * 2 ^ 21
  if s.mem.retiredRanges.contains base then s
  else
    let s := countT { s with mem := { s.mem with retiredRanges := s.mem.retiredRanges ++ [base] } } 0x3275 1
    if gaRegion base = 0 then evacRange s base else s

/-- Repair of a row that failed its test: a spare row, else its ranges retire; answers ACTION. -/
def repairRow (s : State) (ch row : Nat) : State × Nat :=
  if s.mem.rowRemap.contains (ch, row) ∨ s.mem.rowRepaired.contains (ch, row) ∨
      512 ≤ (s.mem.rowRemap.filter (fun x => x.1 == ch)).length then
    (let l := granulesAt s ch row
     if l.isEmpty then (s, 6) else (raiseHealth (l.foldl retireRange s) 2, 6))
  else
    (raiseHealth (count { s with mem := { s.mem with rowRemap := s.mem.rowRemap ++ [(ch, row)] } } 0x3274 (ch / 32 + 1) 1) 1, 4)

/-! ### Margining (R250, R291) -/

/-- margin_enable. -/
def marginEnableOp (v : Nat) (s : State) : State × Option Nat :=
  if 1 < v then refuse s
  else if v = 0 then accepted { dSet s (dk 0x2413 1) 0 with mem := { s.mem with marginTrained := true } }
  else if (List.range 16).all (fun p => pGet s p 5 == 0) && s.hop.rings.all (fun r => r.2.state == .free) then
    accepted (dSet s (dk 0x2413 1) 1)
  else refuse s

/-- MARGIN_ENABLE: a write of 0x2413:01. -/
def execMarginEnable (rq : Req) (value : Byte) (s : State) : Host.Outcome State Fault Refusal :=
  .next (handleWrite s rq 0x2413 1 [value] (marginEnableOp value.toNat))

/-- The result word of a measurement. -/
def marginWord (passed : Bool) (errors : Nat) : Nat := (if passed then 2 ^ 63 else 0) + errors

/-- margin_run: a measurement, with what the PHY finds. -/
def marginRunOp (v : Nat) (passed inRange : Bool) (errors : Nat) (s : State) : State × Option Nat :=
  if 1 < v ∨ dGet s (dk 0x2413 1) = 0 then refuse s
  else if v = 0 then accepted s
  else if !inRange then refuse s
  else accepted { dSet s (dk 0x2413 6) (marginWord passed errors) with mem := { s.mem with marginTrained := false } }

/-- MARGIN_RUN: a write of 0x2413:05. -/
def execMarginRun (rq : Req) (value : Byte) (passed : Bool) (errors : BitVec 32) (inRange : Bool) (s : State) :
    Host.Outcome State Fault Refusal :=
  .next (handleWrite s rq 0x2413 5 [value] (marginRunOp value.toNat passed inRange errors.toNat))

/-- lmargin_enable: the target lane's traffic moves to the spare, and back when margining ends (R291); refused where the spare cannot
take it (R257). -/
def lmarginEnableOp (v : Nat) (s : State) : State × Option Nat :=
  let port := dGet s (dk 0x2707 2)
  let lane := dGet s (dk 0x2707 3)
  if 1 < v then refuse s
  else if v = dGet s (dk 0x2707 1) then accepted s
  else if v = 0 then accepted (endMargin s)
  else if portState s port ≠ 2 ∨ (getLink s port).spareFor.isSome then refuse s
  else
    let moved := if lane = 12 then (s, true) else swapLane s port lane
    if !moved.2 then refuse s
    else
      let s := dSet { moved.1 with fab := { moved.1.fab with margined := some (port, lane) } } (dk 0x2707 1) 1
      accepted (if lane = 12 then s else sendCtrl s port 1 lane)

/-- LMARGIN_ENABLE: a write of 0x2707:01. -/
def execLmarginEnable (rq : Req) (value : Byte) (s : State) : Host.Outcome State Fault Refusal :=
  .next (handleWrite s rq 0x2707 1 [value] (lmarginEnableOp value.toNat))

/-- lmargin_run. -/
def lmarginRunOp (v : Nat) (passed inRange : Bool) (errors : Nat) (s : State) : State × Option Nat :=
  if 1 < v ∨ dGet s (dk 0x2707 1) = 0 then refuse s
  else if v = 0 then accepted s
  else if !inRange then refuse s
  else accepted (dSet s (dk 0x2707 7) (marginWord passed errors))

/-- LMARGIN_RUN: a write of 0x2707:06. -/
def execLmarginRun (rq : Req) (value : Byte) (passed : Bool) (errors : BitVec 32) (inRange : Bool) (s : State) :
    Host.Outcome State Fault Refusal :=
  .next (handleWrite s rq 0x2707 6 [value] (lmarginRunOp value.toNat passed inRange errors.toNat))

end Sys2Proof.Machine
end

