-- ==== Sys2Proof/Machine/Health.lean ====
section
/-! DEFINITION. Detected errors, targeted tests, repair and retirement, lost dies and injections (R97 to R99, R381 to R393, R398,
R430). -/

namespace Sys2Proof.Machine

/-! ### Units -/

/-- The translation cache of the logical core on a physical core is lost (R380). -/
def dropXlat (s : State) (phys : Nat) : State :=
  { s with mem := { s.mem with xlat := s.mem.xlat.filter (fun x => decide (coreCount s ≤ x.1) || physOf s x.1 != phys) } }

/-- A unit reset of a core: what its memories held is undefined (R380), zeros in an unowned one (R9), and the
broadcast-runner mode ends (R99). -/
def resetCore (s : State) (phys : Nat) : State :=
  let all := (lostMems s s.fresh).filter (fun r => r.phys == phys)
  tickFresh { dropXlat (dAdd s (dk 0x3143 3) 1) phys with cores := { s.cores with
    sram := s.cores.sram.filter (fun r => r.phys != phys) ++ all
    runnerMode := s.cores.runnerMode.filter (· != phys) } }

/-- A withheld core enters the broadcast-runner mode (R99). -/
def enterRunnerMode (s : State) (phys : Nat) : State :=
  { s with cores := { s.cores with runnerMode := insertNat phys s.cores.runnerMode } }

/-- The mode ends at a unit reset. -/
def leaveRunnerMode (s : State) (phys : Nat) : State := if s.cores.runnerMode.contains phys then resetCore s phys else s

/-- A core's memories hold zeros (R9, R392). -/
def zeroCore (s : State) (phys : Nat) : State :=
  { s with cores := { s.cores with sram := s.cores.sram.filter (fun r => r.phys != phys) } }

/-- A core returns to its partition's dispatch set; one removed from its mask meanwhile is cleared (R98). -/
def returnCore (s : State) (i : Nat) : State :=
  let s := setWithheld s i 0
  if s.cores.clearLater.contains i then
    zeroCore { s with cores := { s.cores with clearLater := s.cores.clearLater.filter (· != i) } } (physOf s i)
  else s

def setQuern (s : State) (die st : Nat) : State :=
  { s with cores := { s.cores with
    quernWithheld := s.cores.quernWithheld.filter (fun q => q.1 != die) ++ (if st = 0 then [] else [(die, st)]) } }

def setEngine (s : State) (e st : Nat) : State :=
  { s with media := { s.media with
    withheld := s.media.withheld.filter (fun q => q.1 != e) ++ (if st = 0 then [] else [(e, st)]) } }

/-- The port and lane of a lane record: Falyndi is link 6. -/
def laneOf (r : HealthRec) : Nat × Nat :=
  if r.unitKind = 6 then (6, r.unit.toNat) else (r.unit.toNat / 16, r.unit.toNat % 16)

/-- A core ends its test: the broadcast-runner mode ends with a unit reset (R99), after which a spare core's memories hold zeros, as step 2 of
R392 has them when it takes over (DEDUCED, log entry 62). -/
def endRunner (s : State) (r : HealthRec) : State :=
  let p := physOf s r.unit.toNat
  let s := leaveRunnerMode s p
  if r.action = 2 then zeroCore s p else s

/-- The unit of a record rejoins service (R388, R389). -/
def rejoinUnit (s : State) (r : HealthRec) : State :=
  match r.unitKind.toNat with
  | 1 => returnCore (endRunner s r) r.unit.toNat
  | 2 => setQuern s r.unit.toNat 0
  | 7 => setEngine s r.unit.toNat 0
  | _ => s

/-- A tested lane takes its traffic back (R257). -/
def giveLaneBack (s : State) (r : HealthRec) : State :=
  let l := laneOf r
  if (r.unitKind = 5 ∨ r.unitKind = 6) ∧ (getLink s l.1).spareFor = some l.2 then laneBack s l.1 l.2 else s

/-! ### Tests -/

def dropTest (s : State) (seq : Word) : State :=
  { s with hlth := { s.hlth with tests := s.hlth.tests.filter (fun t => t.seq != seq) } }

/-- Change a record without an event: its OUTCOME stands. -/
def amendRec (s : State) (seq : Nat) (f : HealthRec → HealthRec) : State :=
  { s with hlth := { s.hlth with log := modifyFirst (fun x => x.seq.toNat == seq) f s.hlth.log } }

/-- Two records name one unit. -/
def sameUnit (a b : HealthRec) : Bool := a.unitKind == b.unitKind && a.unit == b.unit

/-- The unit of a record holds no claimed unit of a command any more: an error that discards nothing lets it finish (R98). -/
def unitIdle (s : State) (r : HealthRec) : Bool :=
  match r.unitKind.toNat with
  | 1 => s.hop.inflight.all (fun c => c.claims.all (fun k => k.agent != r.unit.toNat))
  | 2 => s.hop.inflight.all (fun c => c.claims.all (fun k => k.agent != quernAgent + r.unit.toNat))
  | _ => true

/-- The test that starts next: the first queued one whose unit is idle and under no test, while fewer than 8 run (R386). -/
def nextTest (s : State) : Option (Test × HealthRec) :=
  let running := s.hlth.tests.filter (·.running)
  if 8 ≤ running.length then none
  else
    (s.hlth.tests.filterMap (fun t => (findRec s t.seq.toNat).map (fun r => (t, r)))).find? (fun x =>
      !x.1.running && unitIdle s x.2 && running.all (fun t => match findRec s t.seq.toNat with
        | some r => !sameUnit r x.2
        | none => true))

/-- The test of a record runs the arrays: an array error, or the verification of a repaired core (R387, R389). -/
def arrayTest (t : Test) (r : HealthRec) : Bool := r.unitKind == 1 && (r.source == 1 || r.source == 2 || t.verify)

/-- A test starts; an array test enters the broadcast-runner mode (R99, R387), the first through a unit reset, which a verification has
behind it (R97, R392). -/
def startTest (s : State) : State :=
  match nextTest s with
  | none => s
  | some (t, r) =>
    let s := countT s 0x32C4 1
    let s := { s with hlth := { s.hlth with
      tests := modifyFirst (fun x => x.seq == t.seq) (fun x => { x with running := true }) s.hlth.tests } }
    let p := physOf s r.unit.toNat
    if arrayTest t r then enterRunnerMode (if t.verify then s else resetCore s p) p
    else s

/-- TARGETED_TEST: the next queued test starts. -/
def execTargetedTest (s : State) : Host.Outcome State Fault Refusal :=
  .next (if live s then startTest s else s)

/-! ### Repair (R97, R390 to R392) -/

/-- The unit of a test is repaired and is to be verified (R389). -/
def verifyLater (s : State) (t : Test) (r : HealthRec) (action newUnit : Nat) : State :=
  let s := amendRec (raiseHealth s 1) r.seq.toNat (fun x => { x with
    action := BitVec.ofNat 8 action, newUnit := BitVec.ofNat 16 newUnit })
  let s := match r.unitKind.toNat with
    | 1 => setWithheld s r.unit.toNat 4
    | 2 => setQuern s r.unit.toNat 4
    | _ => s
  { s with hlth := { s.hlth with
    tests := modifyFirst (fun x => x.seq == t.seq) (fun x => { x with running := false, verify := true }) s.hlth.tests } }

/-- The test ends with a final outcome. -/
def closeTest (s : State) (t : Test) (r : HealthRec) (outcome action newUnit : Nat) : State :=
  updateRec (dropTest s t.seq) r.seq.toNat (fun x => { x with
    outcome := BitVec.ofNat 4 outcome, action := BitVec.ofNat 8 action, newUnit := BitVec.ofNat 16 newUnit })

/-- A unit without a spare left retires (R391). -/
def retireUnit (s : State) (t : Test) (r : HealthRec) : State := closeTest (raiseHealth s 2) t r 3 9 0

/-- Steer a failing column to a free spare of its array, spare 0 first; answers the spare. A column that already runs on a spare
has a failing spare, which is never itself spared (R97). -/
def useSpare (s : State) (phys a col : Nat) : Option (State × Nat) :=
  let k := dk 0x2202 (phys + 1)
  let v := dGet s k
  let put (i : Nat) : Nat := v - 255 * 2 ^ (16 * a + 8 * i) + col * 2 ^ (16 * a + 8 * i)
  let free (i : Nat) : Bool := bits v (16 * a + 8 * i + 7) (16 * a + 8 * i) == 255 && !spareBad s 1 phys a i
  if bits v (16 * a + 7) (16 * a) = col ∨ bits v (16 * a + 15) (16 * a + 8) = col then none
  else if free 0 then some (dSet s k (put 0), 0)
  else if free 1 then some (dSet s k (put 1), 1)
  else none

def useSpares (phys : Nat) : List (Nat × Nat) → State → Nat → Option (State × Nat)
  | [], s, i => some (s, i)
  | (a, col) :: t, s, _ =>
    match useSpare s phys a col with
    | none => none
    | some (s, i) => useSpares phys t s i

/-- Physical cores that are mapped to no logical core and not retired: on the failed core's die first (R392). -/
def freeCores (s : State) (die : Nat) : List Nat :=
  let used := (List.range (coreCount s)).map (physOf s)
  let free := (List.range 156).filter (fun p =>
    !used.contains p && !s.cores.retiredPhys.contains p && !s.cores.lostDies.contains (p / 26))
  free.filter (fun p => p / 26 == die) ++ free.filter (fun p => p / 26 != die)

/-- Move a logical core to a spare physical core, whose memories hold zeros; the failed one retires (R392). -/
def moveCore (s : State) (i : Nat) : Option (State × Nat) :=
  let old := physOf s i
  match freeCores s (old / 26) with
  | [] => none
  | p :: _ =>
    let s := dropXlat s old
    some (zeroCore (dAdd { s with cores := { s.cores with
      moved := s.cores.moved.filter (fun m => m.1 != i) ++ [(i, p)]
      retiredPhys := insertNat old s.cores.retiredPhys } } (dk 0x3143 3) 1) p, p)

/-- A logical core without a spare: state 5 (R98, R391). -/
def retireCore (s : State) (i : Nat) : State :=
  let s := setWithheld s i 5
  { s with cores := { s.cores with
    retiredPhys := insertNat (physOf s i) s.cores.retiredPhys
    clearLater := s.cores.clearLater.filter (· != i) } }

/-- A core that fails as a whole. -/
def replaceCore (s : State) (t : Test) (r : HealthRec) : State :=
  match moveCore s r.unit.toNat with
  | some (s, p) => verifyLater s t r 2 p
  | none => retireUnit (retireCore s r.unit.toNat) t r

/-- The byte of spare i of a set group in the repair map: the way it carries, 0xFF unused, 0xFE retired (R396). -/
def waySpare (s : State) (g i : Nat) : Nat :=
  bits ((((s.cores.wayMap.find? (fun x => x.1 == g)).map (·.2.toNat))).getD 0xFFFF) (8 * i + 7) (8 * i)

/-- Set it. -/
def setWaySpare (s : State) (g i v : Nat) : State :=
  let put (b0 b1 : Nat) : State := { s with cores := { s.cores with
    wayMap := s.cores.wayMap.filter (fun x => x.1 != g) ++ [(g, BitVec.ofNat 16 (256 * b1 + b0))] } }
  if i = 0 then put v (waySpare s g 1) else put (waySpare s g 0) v

/-- A way of a set group is retired: the group's sets run with one way fewer (R390). -/
def retireWay (s : State) (g way : Nat) : State :=
  { s with cores := { s.cores with retiredWays := s.cores.retiredWays ++ [(g, way)] } }

/-- Steer a failing way of a set group to a spare, spare 0 first; answers the spare. A way that already runs on a spare has a failing spare,
which retires with it: a spare is never itself spared (R390). Ways 16 and 17 are the spares themselves (R397). -/
def repairWay (s : State) (g way : Nat) : State × Option Nat :=
  if 16 ≤ way then
    (let b := waySpare s g (way - 16)
     let s := setWaySpare s g (way - 16) 0xFE
     (if b < 16 then retireWay s g b else s, none))
  else match (List.range 2).find? (fun i => waySpare s g i == way) with
  | some i => (retireWay (setWaySpare s g i 0xFE) g way, none)
  | none =>
    match (List.range 2).find? (fun i => waySpare s g i == 0xFF) with
    | some i => (setWaySpare s g i way, some i)
    | none => (retireWay s g way, none)

/-- A media engine retires; its contexts are lost (R391). -/
def retireEngine (s : State) (e : Nat) : State :=
  let s := setEngine s e 5
  { s with media := { s.media with contexts := s.media.contexts.filter (fun c => c.engine != e) } }

/-- The module fails (R391). -/
def failModule (s : State) (faultId block : Nat) : State :=
  let s := discardParts { dSet s (dk 0x4000 3) 3 with hlth := { s.hlth with failed := true } } allParts 0x10 faultId
  if Config.blockOnDieB block then closeBywash { s with fab := { s.fab with ioDieBFault := true } } else s

/-- The two cells of a failing row leave the pool (R390). -/
def retireCells (s : State) (row : Nat) : State :=
  { s with hop := { s.hop with
    retiredCells := insertNat (2 * row) (insertNat (2 * row + 1) s.hop.retiredCells) } }

/-- A lane that failed its test stays on the spare it was swapped to (R257); with the spare used by another lane, or failing itself, a port is
retired (R391), and Falyndi goes on retraining (R341; its record reads retired, DEDUCED, log entry 62). -/
def repairLane (s : State) (t : Test) (r : HealthRec) : State :=
  let l := laneOf r
  if (getLink s l.1).spareFor = some l.2 then closeTest (raiseHealth s 1) t r 2 5 (spareLane l.1)
  else retireUnit (retirePort s l.1) t r

/-- The spare column of a quern engine takes over the one column that failed (R105, R390). -/
def repairQuern (s : State) (t : Test) (r : HealthRec) (cols : List Nat) : State :=
  let u := r.unit.toNat
  match cols with
  | [col] =>
    if s.cores.quernSpare.any (fun q => q.1 == u) || spareBad s 2 u 0 0 then retireUnit (setQuern s u 5) t r
    else verifyLater { s with cores := { s.cores with quernSpare := s.cores.quernSpare ++ [(u, col)] } } t r 1 0
  | _ => retireUnit (setQuern s u 5) t r

/-- A lasting fault: the repair of R390, or retirement (R391). `cols` are the failing columns, each with its array, that a test or the record
names. -/
def repairUnit (s : State) (t : Test) (r : HealthRec) (cols : List (Nat × Nat)) : State :=
  let u := r.unit.toNat
  let repairHbm (ch row : Nat) : State :=
    let w := repairRow s ch row
    if w.2 = 4 then verifyLater w.1 t r 4 0 else closeTest w.1 t r 3 6 0
  match r.unitKind.toNat with
  | 1 =>
    if cols.isEmpty then replaceCore s t r
    else match useSpares (physOf s u) cols (resetCore s (physOf s u)) 0 with
      | some (s, i) => verifyLater s t r 1 i
      | none => replaceCore s t r
  | 2 => repairQuern s t r (cols.map (·.2))
  | 3 =>
    match repairWay s u r.locationA.toNat with
    | (s, some i) => verifyLater s t r 3 i
    | (s, none) => retireUnit s t r
  | 4 => repairHbm u r.locationB.toNat
  | 5 => repairLane s t r
  | 6 => repairLane s t r
  | 7 => retireUnit (retireEngine s u) t r
  | 11 =>
    let a := r.address.toNat
    repairHbm (locate s (gaRegion a) (gaOffset a)).1 (locate s (gaRegion a) (gaOffset a)).2
  | 12 => closeTest (raiseHealth (retireCells s r.locationB.toNat) 2) t r 3 8 0
  | _ => closeTest (failModule s (faultIdOf r.seq.toNat) u) t r 6 0 0

/-! ### Results (R388, R389, R398) -/

/-- Transient outcomes of what a record's are counted for (an array, an SRAM row, a unit) within the window, this one included. -/
def noteTransient (s : State) (r : HealthRec) : State × Nat :=
  let mine := transientsOf s r ++ [(r.place.1, r.place.2, BitVec.ofNat 64 (now s))]
  let others := s.hlth.transients.filter (fun x => (x.1, x.2.1) != r.place)
  ({ s with hlth := { s.hlth with transients := others ++ mine } }, mine.length)

/-- The array that disagrees with three others that agree: none where all four agree; 4 where no three do (R99). -/
def oddArray (x : ColumnSample) : Option Nat :=
  if x.r0 = x.r1 ∧ x.r1 = x.r2 ∧ x.r2 = x.r3 then none
  else if x.r1 = x.r2 ∧ x.r2 = x.r3 then some 0
  else if x.r0 = x.r2 ∧ x.r2 = x.r3 then some 1
  else if x.r0 = x.r1 ∧ x.r1 = x.r3 then some 2
  else if x.r0 = x.r1 ∧ x.r1 = x.r2 then some 3
  else some 4

/-- What one column of one of the 40 passes shows: the array that disagrees with the others, and the arrays whose checksum row names it
(R387). -/
def oddArrays (x : ColumnSample) : List Nat := (oddArray x).toList ++ x.named.map (·.toNat)

/-- The failing columns of the test's passes, each with its array and once: a column of the rotated-back results is the array's own column
(R99); none of them where the core as a whole fails. -/
def comparedCols (l : List ColumnSample) : List (Nat × Nat) :=
  let bad := (l.flatMap (fun x => (oddArrays x).map (fun a => (a, x.col.toNat)))).eraseDups
  if bad.any (fun x => x.1 == 4) then [] else bad

/-- What the test says: passed, or the failing columns (none: the unit). The array test makes 40 passes (R387). -/
def failedCols : TestOutcome → Option (List (Nat × Nat))
  | .pass => none
  | .columns l =>
    let seen := l.filter (fun x => decide (x.pass.toNat < 40 ∧ x.col.toNat ≤ 128))
    if seen.all (fun x => (oddArrays x).isEmpty) then none else some (comparedCols seen)
  | .digests cols => if cols.isEmpty then none else some ((cols.map (fun c => (0, c.toNat))).eraseDups)
  | .failUnit => some []
  | .failRow _ => some []

/-- The lines of a failed row that could not be corrected when they were copied out enter the lost-line table, as uncorrectable reads
that no command made (R248 step 1, R240). -/
def loseRowLines (s : State) (r : HealthRec) (outcome : TestOutcome) : State :=
  match outcome with
  | .failRow lost =>
    if r.unitKind = 4 then lost.foldl (fun s a => (detectError s (uncorrectableRead s 0 a.toNat false) none).1) s else s
  | _ => s

/-- The column that a record names, where it names one. -/
def ownColumn (r : HealthRec) : List (Nat × Nat) := if r.namesCol then [(r.locationA.toNat, r.locationB.toNat)] else []

/-- A failed test enters the column it has found, of several the first, in the record (R387; DESIGN CHOICE, log entry 62). -/
def nameColumn (r : HealthRec) : List (Nat × Nat) → HealthRec
  | [] => r
  | x :: _ => { r with locationA := BitVec.ofNat 16 x.1, locationB := BitVec.ofNat 32 x.2, namesCol := true }

/-- A test has failed: its columns are entered, and the repair follows. -/
def testFailed (s : State) (t : Test) (r : HealthRec) (cols : List (Nat × Nat)) : State :=
  repairUnit (amendRec s t.seq.toNat (fun x => nameColumn x cols)) t (nameColumn r cols) cols

/-- The test passes. -/
def testPassed (s : State) (t : Test) (r : HealthRec) : State :=
  if t.verify then updateRec (rejoinUnit (dropTest s t.seq) r) r.seq.toNat (fun x => { x with outcome := 2 })
  else
    let n := noteTransient s r
    let s := amendRec n.1 r.seq.toNat (fun x => { x with transients := BitVec.ofNat 8 (min n.2 255) })
    if dGet s (dk 0x4003 1) ≤ n.2 then
      (if r.unitKind = 4 then beginRetire (dropTest s t.seq) [r.unit.toNat] r.seq.toNat
       else repairUnit s t r (ownColumn r))
    else
      updateRec (giveLaneBack (rejoinUnit (dropTest s t.seq) r) r) r.seq.toNat (fun x => { x with outcome := 1 })

/-- What a row under test has held goes on (R384). -/
def releaseRow (s : State) (r : HealthRec) : State := if r.unitKind = 4 then releaseArrivals s else s

/-- A running test ends. An injection decides the first result of its own test: it passes, fails with the unit as it was, or fails for
good (R398). -/
def endTest (s : State) (t : Test) (outcome : TestOutcome) (ticks : Nat) : State :=
  match findRec s t.seq.toNat with
  | none => dropTest s t.seq
  | some r =>
    let s := loseRowLines (countT s 0x32C5 ticks) r outcome
    let s := if t.verify then s else amendRec s t.seq.toNat (fun x => { x with testTicks := BitVec.ofNat 32 ticks })
    let s := match t.persist, t.verify with
      | some 0, false => testPassed s t r
      | some 1, false =>
        updateRec (giveLaneBack (rejoinUnit (dropTest s t.seq) r) r) r.seq.toNat (fun x => { x with outcome := 5 })
      | some 2, false => testFailed s t r ((failedCols outcome).getD (ownColumn r))
      | _, _ =>
        match failedCols outcome with
        | none => testPassed s t r
        | some cols => testFailed s t r cols
    releaseRow s r

/-- TEST_RESULT of the running test of a record. -/
def execTestResult (faultId : BitVec 24) (outcome : TestOutcome) (ticks : BitVec 32) (s : State) :
    Host.Outcome State Fault Refusal :=
  .next (if live s then
    (match s.hlth.tests.find? (fun t => t.running && faultIdOf t.seq.toNat == faultId.toNat) with
     | some t => endTest s t outcome ticks.toNat
     | none => s)
    else s)

/-! ### Lost dies (R393) -/

/-- A logical core of a lost die: to a spare elsewhere, with its own record and verification, or retired. -/
def relocateCore (s : State) (i : Nat) : State :=
  match moveCore s i with
  | none => retireCore s i
  | some (s, p) =>
    let w := writeHealth (setWithheld s i 4) { blankRec 0x13 1 i 0 with action := 2, newUnit := BitVec.ofNat 16 p } false
    { w.1 with hlth := { w.1.hlth with tests := w.1.hlth.tests ++
      [{ seq := BitVec.ofNat 64 (dGet w.1 (dk 0x4000 2)), running := false, verify := true, persist := none }] } }

/-- A compute die is lost: what its two stacks held cannot be read from then on (R393). -/
def loseDie (s : State) (d : Nat) : State :=
  if 6 ≤ d ∨ s.cores.lostDies.contains d then s
  else
    let w := writeHealth s { blankRec 0x13 9 d 3 with shared := true, action := 10 } true
    let s := discardParts w.1 allParts 0x10 w.2
    let s := { s with cores := { s.cores with lostDies := s.cores.lostDies ++ [d] } }
    let mine := (List.range (coreCount s)).filter (fun i => physOf s i / 26 == d && withheldOf s i != 5)
    let s := setQuern (mine.foldl relocateCore s) d 5
    let s := { s with mem := { s.mem with millpond := [] } }
    let s := dSet (raiseHealth s 2) (dk 0x2400 7) 1
    let s := [2 * d, 2 * d + 1].foldl loseStack s
    beginRetire s ((List.range 384).filter (fun c => c / 64 == d)) 0

def execDieLost (die : BitVec 3) (s : State) : Host.Outcome State Fault Refusal :=
  .next (if live s then loseDie s die.toNat else s)

/-! ### Detection (R384, R385) and injections -/

/-- An armed injection whose error a report is (R430): the firing points that no command shows. -/
def armedFor (s : State) (e : ErrorReport) (i : Injection) : Bool :=
  let x := injError s i
  (x.source == e.source || (i.kind == 2 && (e.source == 4 || e.source == 5)) || (i.kind == 4 && e.source == 7)) &&
  x.unitKind == e.unitKind && x.unit == e.unit &&
  (if i.kind = 5 ∨ i.kind = 6 then e.address.toNat / 64 == i.addr.toNat / 64
   else i.kind == 9 || i.kind == 10 || (x.locationA == e.locationA && x.locationB == e.locationB))

/-- One detected error of a report: that of a lane goes with its link (R257). -/
def reportError (s : State) (e : ErrorReport) (persist : Option (BitVec 2)) : State :=
  let l := laneOf (blankRec e.source.toNat e.unitKind.toNat e.unit.toNat 0)
  if e.source = 0x0D ∨ e.source = 0x0E then laneError s l.1 l.2 e persist else (detectError s e persist).1

/-- ERROR_DETECTED. -/
def errorStep (s : State) (e : ErrorReport) : State :=
  let k := e.source.toNat
  if k = 0 ∨ 0x15 < k then s
  else if k = 0x13 then loseDie s e.unit.toNat
  else match takeInjection s (armedFor s e) with
    | some (i, s) => reportError s e (some i.persist)
    | none => reportError s e none

def execErrorDetected (e : ErrorReport) (s : State) : Host.Outcome State Fault Refusal :=
  .next (if live s then errorStep s e else s)

/-- The command word's fields below OP (spec/15 "Injection command word"). -/
def injOf (s : State) (w : Nat) : Injection :=
  { kind := BitVec.ofNat 4 (bits w 59 56), persist := BitVec.ofNat 2 (bits w 55 54), unit := BitVec.ofNat 16 (bits w 47 32),
    locA := BitVec.ofNat 16 (bits w 31 16), locB := BitVec.ofNat 16 (bits w 15 0), addr := BitVec.ofNat 64 (dGet s (dk 0x4200 2)) }

/-- ARM (R398). Lane bursts fire at once. -/
def armOp (w : Nat) (s : State) : State × Option Nat :=
  let i := injOf s w
  let k := i.kind.toNat
  if k = 0 ∨ 10 < k ∨ i.persist = 3 ∨ bits w 53 48 ≠ 0 ∨ 16 ≤ s.hlth.injections.length ∨ 2 ≤ pState s ∨
      dGet s (dk 0x4000 3) = 3 ∨ (i.persist = 2 ∧ dGet s (dk 0x4200 3) = 0) ∨
      ((k = 5 ∨ k = 6) ∧ !inLocalHbm s i.addr.toNat 1) then refuse s
  else if k = 7 ∨ k = 8 then
    accepted (reportError (countT s 0x32C7 1) { injError s i with byCommand := false } (some i.persist))
  else accepted { s with hlth := { s.hlth with injections := s.hlth.injections ++ [i] } }

/-- ARM: a write of 0x4200:01. -/
def execArm (rq : Req) (word : BitVec 60) (s : State) : Host.Outcome State Fault Refusal :=
  .next (handleWrite s rq 0x4200 1 (leBytes 8 (2 ^ 60 + word.toNat)) (armOp word.toNat))

/-- DISARM all. -/
def disarmOp (s : State) : State × Option Nat := accepted { s with hlth := { s.hlth with injections := [] } }

/-- DISARM: a write of 0x4200:01. -/
def execDisarm (rq : Req) (word : BitVec 60) (s : State) : Host.Outcome State Fault Refusal :=
  .next (handleWrite s rq 0x4200 1 (leBytes 8 (2 * 2 ^ 60 + word.toNat)) disarmOp)

/-- inj_cmd as a word: other values of OP are refused. -/
def injOp (w : Nat) (s : State) : State × Option Nat :=
  match bits w 63 60 with
  | 1 => armOp (w % 2 ^ 60) s
  | 2 => disarmOp s
  | _ => refuse s

end Sys2Proof.Machine
end

