-- ==== Sys2Proof/Machine/Lending.lean ====
section
/-! DEFINITION. Published windows (R273 to R276). -/

namespace Sys2Proof.Machine

def winGet (s : State) (w sub : Nat) : Nat := dGet s (dk (0x2740 + w) sub)
def winSet (s : State) (w sub v : Nat) : State := dSet s (dk (0x2740 + w) sub) v

/-- The word of a lend command. -/
def lendWord (op window part notice size : Nat) : Nat :=
  op * 2 ^ 60 + window * 2 ^ 54 + part * 2 ^ 50 + notice * 2 ^ 34 + size

/-- Write lend_result, then answer (R273). -/
def lendResult (s : State) (code : Nat) : State × Option Nat := (dSet s (dk 0x2710 2) code, some stOk)

/-- Freed pages in a range that are still to be zeroed are zeroed with it. -/
def zeroWaiting (s : State) (off n : Nat) : State :=
  let hit (u : Nat × Nat) : Bool := !rangeFree [(gaOffset u.1, u.2)] off n
  let s' := (s.mem.unzeroed.filter hit).foldl (fun s u => zeroRange s u.1 u.2) s
  { s' with mem := { s'.mem with unzeroed := s'.mem.unzeroed.filter (fun u => !hit u) } }

/-- The window's borrowers. -/
def setBorrowers (s : State) (w : Nat) (l : List Nat) : State :=
  { s with fab := { s.fab with borrowers := s.fab.borrowers.filter (fun b => b.1 != w) ++
      (if l.isEmpty then [] else [(w, l)]) } }

/-- Bytes of a window of `size` 2 MiB pages. -/
def windowBytes (size : Nat) : Nat := size * 2 ^ 21

/-- The highest free place for a window. -/
def publishPlace (s : State) (size : Nat) : Option Nat := highestFree (region0Taken s) (region0Size s) (windowBytes size)

/-- The lend_result of a PUBLISH (R273). -/
def publishCode (s : State) (w part notice size : Nat) : Nat :=
  if notice ≠ 0 ∨ size = 0 then 4
  else if winGet s w 1 ≠ 0 then 1
  else if !quotaAllows s part 2 (windowBytes size) then 2
  else if (publishPlace s size).isNone then 3
  else 0

/-- A window published at an offset of region 0: zeroed, ACTIVE, lent by the partition, without borrowers (R273). -/
def publishAt (s : State) (w part size off : Nat) : State :=
  let a := gaMake (nodeId s) 0 off
  let s := zeroRange (zeroWaiting s off (windowBytes size)) a (windowBytes size)
  let s := winSet (winSet (winSet (winSet s w 2 a) w 3 (windowBytes size)) w 4 part) w 6 0
  setBorrowers (winSet s w 1 1) w []

/-- PUBLISH (R273). -/
def publishOp (w part notice size : Nat) (s : State) : State × Option Nat :=
  let code := publishCode s w part notice size
  lendResult (if code = 0 then publishAt s w part size ((publishPlace s size).getD 0) else s) code

/-- PUBLISH: a write of 0x2710:01. -/
def execPublish (rq : Req) (window : BitVec 6) (part : PartId) (notice : BitVec 16) (size : BitVec 34) (s : State) :
    Host.Outcome State Fault Refusal :=
  .next (handleWrite s rq 0x2710 1 (leBytes 8 (lendWord 1 window.toNat part.toNat notice.toNat size.toNat))
    (publishOp window.toNat part.toNat notice.toNat size.toNat))

/-- LEND_NOTICE to every borrower (R275). -/
def tellBorrowers (s : State) (w ticks : Nat) : State :=
  asks none s ((borrowersOf s w).map (fun n => Ask.plain kMessage n (winGet s w 2) ticks []))

/-- The notice of a window ends (R275). -/
def endNotice (s : State) (w : Nat) : State :=
  winSet { s with fab := { s.fab with noticeEnd := s.fab.noticeEnd.filter (fun x => x.1 != w) } } w 1 3

/-- REVOKE (R275). -/
def revokeOp (w part notice size : Nat) (s : State) : State × Option Nat :=
  if part ≠ 0 ∨ size ≠ 0 then lendResult s 4
  else if winGet s w 1 ≠ 1 then lendResult s 1
  else
    let ticks := notice * 25000
    let s := tellBorrowers s w ticks
    if notice = 0 then lendResult (endNotice s w) 0
    else
      let s := winSet s w 1 2
      lendResult { s with fab := { s.fab with noticeEnd := s.fab.noticeEnd.filter (fun x => x.1 != w) ++
        [(w, BitVec.ofNat 64 (now s + ticks))] } } 0

/-- REVOKE: a write of 0x2710:01. -/
def execRevoke (rq : Req) (window : BitVec 6) (part : PartId) (notice : BitVec 16) (size : BitVec 34) (s : State) :
    Host.Outcome State Fault Refusal :=
  .next (handleWrite s rq 0x2710 1 (leBytes 8 (lendWord 2 window.toNat part.toNat notice.toNat size.toNat))
    (revokeOp window.toNat part.toNat notice.toNat size.toNat))

/-- lend_cmd as a word: other values of OP are refused. -/
def lendOp (word : Nat) (s : State) : State × Option Nat :=
  match bits word 63 60 with
  | 1 => publishOp (bits word 59 54) (bits word 53 50) (bits word 49 34) (bits word 33 0) s
  | 2 => revokeOp (bits word 59 54) (bits word 53 50) (bits word 49 34) (bits word 33 0) s
  | _ => (s, some stRefused)

/-- Ticks of notice left. -/
def noticeLeft (s : State) (w : Nat) : Nat :=
  ((s.fab.noticeEnd.find? (fun x => x.1 == w)).map (fun x => x.2.toNat - now s)).getD 0

/-- NOTICE_EXPIRY. -/
def execNoticeExpiry (window : BitVec 6) (s : State) : Host.Outcome State Fault Refusal :=
  .next (if live s && winGet s window.toNat 1 == 2 && noticeLeft s window.toNat == 0 then endNotice s window.toNat else s)

/-- A window without content (log entry 16). -/
def freeWindow (s : State) (w : Nat) : State :=
  setBorrowers (winSet (winSet (winSet (winSet (winSet s w 1 0) w 2 0) w 3 0) w 4 0) w 6 0) w []

/-- WINDOW_FREED: a revoked window's range is zeroed and returned with its quota. -/
def execWindowFreed (window : BitVec 6) (s : State) : Host.Outcome State Fault Refusal :=
  .next (if live s && winGet s window.toNat 1 == 3 then
    freeWindow (zeroRange s (winGet s window.toNat 2) (winGet s window.toNat 3)) window.toNat else s)

end Sys2Proof.Machine
end

