-- ==== Sys2Proof/Machine/Flags.lean ====
section
/-! DEFINITION. Status entries that other state determines, objects of the segmented entries, and the repair map (R240, R357,
R372, R390, R395, R396). -/

namespace Sys2Proof.Machine

/-! ### Status values -/

/-- Agents that hold a claimed unit. -/
def busyAgents (s : State) : List Nat := (s.hop.inflight.flatMap (·.claims)).map (·.agent)

/-- core_state of a logical core: one that is withheld for test first completes the unit it holds (R98). -/
def coreStateOf (s : State) (i : Nat) : Nat :=
  if withheldOf s i ≠ 0 ∧ !(withheldOf s i = 3 ∧ (busyAgents s).contains i) then withheldOf s i
  else if (busyAgents s).contains i then 2
  else if (coreOwner s i).isSome then 1 else 0

/-- quern_state of a die. -/
def quernStateOf (s : State) (d : Nat) : Nat :=
  match s.cores.quernWithheld.find? (fun q => q.1 == d) with
  | some q => if q.2 = 5 then 5 else 3
  | none => if (busyAgents s).contains (quernAgent + d) then 2 else 1

/-- engine_state of a media engine. -/
def engineStateOf (s : State) (e : Nat) : Nat :=
  match s.media.withheld.find? (fun q => q.1 == e) with
  | some q => q.2
  | none => if s.hop.inflight.any (fun c => decide (0x700 ≤ opcOf c.desc ∧ opcOf c.desc ≤ 0x702) &&
      (mediaName c.desc).any (fun n => n.1 == e)) then 2 else 1

/-- capabilities_0 (R364, R391). -/
def capabilities (s : State) : Nat :=
  0xFFF - (if quernsGone s then 1 else 0) -
  (if allRetired s.media.withheld (List.range 8) then 2 else 0) -
  (if allRetired s.media.withheld (List.range 4) then 4 else 0)

/-- channel_state. -/
def channelStateOf (s : State) (ch : Nat) : Nat :=
  if s.mem.migration.any (fun m => m.channels.contains ch) || s.mem.retireQueue.any (fun q => q.1.contains ch) then 3
  else if s.mem.retired.contains ch then 4
  else ((s.mem.chanState.find? (fun x => x.1 == ch)).map (·.2)).getD 0

/-- fabric_state: bypassed, held for warm reset, joining while a port trains, up. -/
def fabricStateOf (s : State) : Nat :=
  if bywashClosed s then 0
  else if s.pwr.resetRunning = some .warm then 3
  else if (List.range 6).any (fun i => portState s i == 1) then 1 else 2

/-- A physical core in service, or spare: it may carry spare columns. -/
def livePhys (s : State) : List Nat := (List.range 156).filter (fun p => !s.cores.retiredPhys.contains p)

/-- Free spare columns of a physical core. -/
def freeColumns (s : State) (p : Nat) : Nat :=
  ((leBytes 8 (dGet s (dk 0x2202 (p + 1)))).zipIdx.filter (fun x => x.1 == 0xFF && !spareBad s 1 p (x.2 / 2) (x.2 % 2))).length

/-- spares_left (0x4004:sub). -/
def sparesLeft (s : State) (sub : Nat) : Nat :=
  match sub with
  | 1 => (freeCores s 0).length
  | 2 => ((livePhys s).map (freeColumns s)).sum
  | 3 => ((List.range 6).filter (fun d => !s.cores.quernSpare.any (fun q => q.1 == d) && !spareBad s 2 d 0 0 && quernStateOf s d != 5)).length
  | 4 => ((List.range 96).map (fun g => ((List.range 2).filter (fun i => waySpare s g i == 0xFF)).length)).sum
  | 5 => 384 * 512 - s.mem.rowRemap.length
  | 6 => ((List.range 6).filter (fun i => (getLink s i).spareFor.isNone && !spareBad s 5 i 0 0 && portState s i != 4)).length
  | _ => if s.host.link.spareFor.isNone && !spareBad s 6 6 0 0 then 1 else 0

/-- Repairs stand in the repair map: 2 once something is retired, 1 once a spare is in use (R395). -/
def mapHealth (s : State) : Nat :=
  let retired := !s.mem.retired.isEmpty || !s.mem.retiredRanges.isEmpty || !s.hop.retiredCells.isEmpty ||
    s.cores.withheld.any (fun w => w.2 == 5) || s.cores.quernWithheld.any (fun w => w.2 == 5) ||
    s.media.withheld.any (fun w => w.2 == 5) || !s.cores.retiredWays.isEmpty || !s.cores.badSpares.isEmpty ||
    (List.range 96).any (fun g => (List.range 2).any (fun i => waySpare s g i == 0xFE)) ||
    (List.range 6).any (fun i => portState s i == 4)
  let used := !s.cores.moved.isEmpty || !s.cores.quernSpare.isEmpty || !s.cores.wayMap.isEmpty || !s.mem.rowRemap.isEmpty ||
    !s.mem.rowRepaired.isEmpty || (List.range 7).any (fun i => (getLink s i).spareFor.isSome) ||
    (livePhys s).any (fun p => freeColumns s p != 8)
  if retired then 2 else if used then 1 else 0

/-! ### The repair map (R230, R396) -/

/-- The interleave map (R230). -/
def interleaveMap (s : State) : List Byte :=
  (List.range 6144).flatMap (fun e =>
    leBytes 2 ((if s.mem.reloc.contains (e % 384) then 0x8000 else 0) + e % 384 * 16 + e / 384))

/-- A bitmap of n bits. -/
def bitmap (n : Nat) (p : Nat → Bool) : List Byte :=
  (List.range (n / 8)).map (fun i => BitVec.ofNat 8 (((List.range 8).map (fun b => if p (8 * i + b) then 2 ^ b else 0)).sum))

/-- The two bytes of a set group. -/
def wayBytes (s : State) (g : Nat) : List Byte :=
  leBytes 2 (256 * waySpare s g 1 + waySpare s g 0)

/-- The remap table of a channel. -/
def remapBytes (s : State) (ch : Nat) : List Byte :=
  let rows := (s.mem.rowRemap.filter (fun x => x.1 == ch)).map (·.2)
  (List.range 512).flatMap (fun i => leBytes 4 (rows.getD i 0xFFFFFFFF))

/-- The repair map from its core map on. -/
def repairBody (s : State) : List Byte :=
  (List.range 144).map (fun i => BitVec.ofNat 8 (if i < coreCount s then physOf s i else 0xFF)) ++ List.replicate 112 0 ++
  (List.range 156).flatMap (fun p => leBytes 8 (dGet s (dk 0x2202 (p + 1)))) ++
  bitmap 256 (fun p => s.cores.retiredPhys.contains p) ++
  (List.range 6).map (fun d => BitVec.ofNat 8 (((s.cores.quernSpare.find? (fun q => q.1 == d)).map (·.2)).getD 0xFF)) ++ [0, 0] ++
  (List.range 96).flatMap (wayBytes s) ++
  interleaveMap s ++
  (List.range 192).flatMap (fun i => leBytes 2 (s.mem.retired.getD i 0xFFFF)) ++
  (List.range 384).flatMap (remapBytes s) ++
  leBytes 8 s.mem.retiredRanges.length ++ s.mem.retiredRanges.flatMap (leBytes 8) ++
  (List.range 6).flatMap (fun i => leBytes 2 (dGet s (laneMapKey i))) ++ leBytes 4 (dGet s (laneMapKey 6)) ++
  bitmap 65536 (fun c => s.hop.retiredCells.contains c)

/-- The repair map (R396); list R holds the first 192 retired channels, which its 384 bytes have room for. -/
def repairMap (s : State) : List Byte :=
  let body := repairBody s
  leBytes 8 (1 * 2 ^ 16 + 0x4E7A) ++ leBytes 8 (64 + body.length) ++ List.replicate 48 0 ++ body

/-! ### Reading entries (R240, R357, R372) -/

/-- The bytes of a firmware slot. -/
def slotOf (s : State) (i : Nat) : FwSlot := if i = 0 then s.fw.slot0 else s.fw.slot1

/-- A word of the active bundle's header; in recovery the value the entry holds (R404). -/
def bundleWord (s : State) (k w : Nat) : Nat :=
  let a := dGet s (dk 0x1300 1)
  if a < 2 then leNat (((slotOf s a).bytes.drop (8 * w)).take 8) else dGet s k

/-- The value of an entry of a fixed-size type, as the block stands. -/
def liveValue (s : State) (k : Nat) : Nat :=
  let i := k / 256
  let sub := k % 256
  let p := i % 16
  if 0x2000 ≤ i ∧ i < 0x2010 then
    (match sub with
     | 0x07 => inFlightOf s p
     | 0x0B => cellsUsed s p
     | 0x0C => cellsHeld s p
     | 0x14 => tierUsed s p 2
     | 0x15 => tierUsed s p 3
     | 0x16 => tierUsed s p 4
     | _ => dGet s k)
  else if 0x2610 ≤ i ∧ i < 0x2620 then
    (match sub with
     | 0x0B => ((poolOf s p).map (deferredPages s)).getD 0
     | 0x0C => ((s.mem.prefixFree.find? (fun x => x.1 == p)).map (·.2.2)).getD 0
     | _ => dGet s k)
  else if i = 0x2200 ∧ 0 < sub then coreStateOf s (sub - 1)
  else if i = 0x2201 ∧ 0 < sub then physOf s (sub - 1)
  else if i = 0x2206 ∧ 0 < sub then quernStateOf s (sub - 1)
  else if 0x2401 ≤ i ∧ i < 0x240D ∧ 0 < sub then channelStateOf s (32 * (i - 0x2401) + sub - 1)
  else if 0x2701 ≤ i ∧ i < 0x2707 ∧ sub = 1 then (if linkUp s (i - 0x2701) || dGet s k != 2 then dGet s k else 3)
  else if 0x2740 ≤ i ∧ i < 0x2780 ∧ sub = 5 then noticeLeft s (i - 0x2740)
  else if 0x2901 ≤ i ∧ i < 0x2909 then
    (match sub with
     | 1 => engineStateOf s (i - 0x2901)
     | 2 => (s.media.contexts.filter (fun c => c.engine == i - 0x2901)).length
     | _ => dGet s k)
  else if i = 0x4004 ∧ 0 < sub then sparesLeft s sub
  else if i = 0x4001 ∧ 2 ≤ sub ∧ sub ≤ 9 then
    (((recordOf s (dGet s (dk 0x4001 1))).map (fun r => r.words.getD (sub - 2) 0))).getD 0
  else if i = 0x4100 ∧ 2 ≤ sub ∧ sub ≤ 5 then leNat (((sha256 (repairMap s)).drop (8 * (sub - 2))).take 8)
  else if i = 0x1330 ∧ 3 ≤ sub ∧ sub ≤ 6 then leNat ((s.ident.rootDigest.drop (8 * (sub - 3))).take 8)
  else
    match k with
    | 0x100006 => s.ident.boardRev.toNat
    | 0x100007 => s.ident.packageId.toNat
    | 0x101001 => capabilities s
    | 0x111004 => s.ident.mac.toNat
    | 0x21000A => s.hop.segments.length
    | 0x21000B => cellsFree s
    | 0x240001 => region0Size s
    | 0x240002 => region0Size s - 2 ^ 21 * s.mem.retiredRanges.length
    | 0x240003 => s.mem.retired.length
    | 0x240005 => (s.mem.unzeroed.map (·.2)).sum
    | 0x240006 => s.mem.lostLines.length
    | 0x241401 => ((s.mem.migration.map (fun m => m.channels.headD 0xFFFF))).getD 0xFFFF
    | 0x241402 => ((s.mem.migration.map (·.cursor))).getD 0
    | 0x241403 => ((s.mem.migration.map (·.phase))).getD 0xFF
    | 0x270007 => nodeId s
    | 0x110001 => if falyndiUp s || dGet s k != 2 then dGet s k else 3
    | 0x27000A => fabricStateOf s
    | 0x420004 => s.hlth.injections.length
    | 0x130006 => bundleWord s k 3
    | 0x131001 => bundleWord s k 1
    | _ => dGet s k

/-- The value that a read answers: of a powered-down block, what the entry held at entry into the state (R372); subindex
0x00 is constant (R357). -/
def dictValue (s : State) (k : Nat) : Nat :=
  if poweredDown s k && k % 256 != 0 then ((s.pwr.heldReads.find? (fun x => x.1 == k)).map (·.2.toNat)).getD 0 else liveValue s k

/-- The value of a STR entry. -/
def strValue (s : State) (k : Nat) : List Byte :=
  if k = dk 0x1000 2 then
    (if s.variant = .cxm1440 then [0x43, 0x58, 0x4D, 0x2D, 0x31, 0x34, 0x34, 0x30, 0x2D, 0x4C, 0x51]
     else [0x43, 0x58, 0x4D, 0x2D, 0x31, 0x32, 0x38, 0x30, 0x2D, 0x4C, 0x51])
  else if k = dk 0x1000 5 then s.ident.serial
  else []

/-- The object of a DOM entry. -/
def domValue (s : State) (k : Nat) : List Byte :=
  match k with
  | 0x120001 => s.host.events.flatMap id
  | 0x121001 => s.host.journal.flatMap id
  | 0x132001 => s.fw.migrationReport
  | 0x133001 => s.ident.deviceCert
  | 0x133002 => s.ident.caCert
  | 0x134002 => s.fw.attestReport
  | 0x245001 => interleaveMap s
  | 0x245002 => s.mem.lostLines.flatMap (fun l => leBytes 8 (gaMake (nodeId s) (128 * l / 2 ^ 40) (128 * l % 2 ^ 40)))
  | 0x400001 => s.hlth.log.flatMap HealthRec.toBytes
  | 0x400201 => s.hlth.lasting.flatMap HealthRec.toBytes
  | 0x410001 => repairMap s
  | _ => []

/-- The keys of an entry row. -/
def DEntry.keys (e : DEntry) : List Nat :=
  (List.range e.span).flatMap (fun i => (List.range e.subs).map (fun j => dk (e.index + i) (e.sub + j)))

/-- What the entries of the blocks that a power state turns off hold at its entry (R372). `t` is the state entered. -/
def heldValues (s : State) (t : Nat) : List (Nat × Word) :=
  let s' := dSet s (dk 0x1400 2) t
  (dictTables.filter (fun e => poweredDown s' (dk e.index e.sub))).flatMap (fun e =>
    (e.keys.filter (poweredDown s')).filterMap (fun k =>
      let v := liveValue s k
      if v = 0 then none else some (k, BitVec.ofNat 64 v)))

end Sys2Proof.Machine
end

