-- ==== Sys2Proof/Machine/Boot.lean ====
section
/-! DEFINITION. Firmware bundles, slots, the boot sequence, settings migration, the security version and attestation (R399
to R410). -/

namespace Sys2Proof.Machine

/-! ### Bundles (R400, R401) -/

/-- A 64-bit word of a bundle. -/
def bWord (b : List Byte) (off : Nat) : Nat := leNat ((b.drop off).take 8)

/-- Bytes of a slot; beyond what was staged the flash's own content. -/
def bBytes (b : List Byte) (off n : Nat) : List Byte := (List.range n).map (fun i => b.getD (off + i) (Config.flashByte (off + i)))

def bundleImages (b : List Byte) : Nat := bits (bWord b 0) 15 8
def bundleArch (b : List Byte) : Nat := bits (bWord b 0) 39 32
def bundleLayout (b : List Byte) : Nat := bits (bWord b 0) 31 16
def bundleSecver (b : List Byte) : Nat := bWord b 8
def bundleLength (b : List Byte) : Nat := bWord b 16

/-- An image entry: KIND, OFFSET, SIZE, DIGEST. -/
structure ImageEntry where
  kind   : Nat
  offset : Nat
  size   : Nat
  digest : List Byte
  deriving DecidableEq, Repr

def imageAt (b : List Byte) (i : Nat) : ImageEntry :=
  let e := 128 + 64 * i
  { kind := bits (bWord b e) 63 56, offset := bWord b (e + 8), size := bWord b (e + 16), digest := bBytes b (e + 32) 32 }

def imagesOf (b : List Byte) : List ImageEntry := (List.range (bundleImages b)).map (imageAt b)

/-- Bytes 0 to the end of the signer certificate, and their hash: the manifest digest. -/
def manifestDigest (b : List Byte) : List Byte := sha256 (bBytes b 0 (256 + 64 * bundleImages b))

/-- The bytes of a slot. -/
def slotBytes : Nat := 224 * 2 ^ 20

/-- Check 1: the header. -/
def headerGood (b : List Byte) : Bool :=
  let b0 := bWord b 0
  bits b0 63 48 == 0xF1A7 && bits b0 47 40 == 1 && bits b0 7 0 == 0 && decide (7 ≤ bundleImages b ∧ bundleImages b ≤ 32) &&
  decide (bundleLength b ≤ slotBytes) && (List.range 12).all (fun i => bWord b (32 + 8 * i) == 0) &&
  (List.range (bundleImages b)).all (fun i => bits (bWord b (128 + 64 * i)) 55 0 == 0 && bWord b (128 + 64 * i + 24) == 0)

/-- Check 2: the root key and its signature of the signer key. -/
def rootGood (s : State) (b : List Byte) : Bool :=
  let c := 128 + 64 * bundleImages b
  sha256 Config.rootKey == s.ident.rootDigest &&
  ecdsaVerify Config.rootKey (sha256 (bBytes b c 64)) (bBytes b (c + 64) 64)

/-- Check 3: the bundle signature. -/
def signatureGood (b : List Byte) : Bool :=
  let c := 128 + 64 * bundleImages b
  ecdsaVerify (bBytes b c 64) (manifestDigest b) (bBytes b (c + 128) 64)

/-- Check 6: the images' places and kinds. -/
def imagesGood (b : List Byte) : Bool :=
  let l := imagesOf b
  l.all (fun e => decide (e.offset + e.size ≤ bundleLength b)) &&
  (List.range l.length).all (fun i => (List.range i).all (fun j =>
    match l[i]?, l[j]? with
    | some x, some y => !rangesMeet (x.offset, x.size) (y.offset, y.size)
    | _, _ => true)) &&
  l.all (fun e => decide (1 ≤ e.kind ∧ e.kind ≤ 7)) &&
  (List.range 7).all (fun k => (l.filter (fun e => e.kind == k + 1)).length == 1)

/-- Check 7: every image's digest. -/
def digestsGood (b : List Byte) : Bool := (imagesOf b).all (fun e => sha256 (bBytes b e.offset e.size) == e.digest)

/-- The checks in order: fw_fail_reason, 0 when the bundle is valid. -/
def bundleFault (s : State) (b : List Byte) : Nat :=
  if !headerGood b then 1
  else if !rootGood s b then 2
  else if !signatureGood b then 3
  else if bundleArch b ≠ 1 then 4
  else if bundleSecver b < dGet s (dk 0x1310 2) then 5
  else if !imagesGood b then 7
  else if !digestsGood b then 6
  else 0

/-! ### Slots (R402) -/

def slotState (s : State) (i : Nat) : Nat := dGet s (dk 0x1300 (2 + i))
def setSlotState (s : State) (i v : Nat) : State := dSet s (dk 0x1300 (2 + i)) v

def putSlot (s : State) (i : Nat) (x : FwSlot) : State :=
  if i = 0 then { s with fw := { s.fw with slot0 := x } } else { s with fw := { s.fw with slot1 := x } }

/-- The slot a download goes to: the one that is not active, slot 0 in recovery (R404). -/
def spareSlot (s : State) : Nat := if dGet s (dk 0x1300 1) = 0 then 1 else 0

/-- Try candidates in order: the first valid one, if any, with the failed ones marked. -/
def tryBoot : List Nat → State → State × Option Nat
  | [], s => (s, none)
  | i :: t, s =>
    let r := bundleFault s (slotOf s i).bytes
    if r = 0 then (s, some i) else tryBoot t (setSlotState (dSet s (dk 0x1300 5) r) i 4)

/-- A download in progress leaves its slot EMPTY. -/
def endStaging (s : State) : State := [0, 1].foldl (fun s i => if slotState s i = 1 then setSlotState s i 0 else s) s

/-- The outcome of R402 for a chosen slot. -/
def chooseSlot (s : State) (staged : Bool) (wasStaged : Bool) (i : Nat) : State :=
  let s := [0, 1].foldl (fun s j => if j ≠ i ∧ slotState s j = 3 then setSlotState s j 5 else s) s
  let s := putSlot (setSlotState s i 3) i { slotOf s i with byRollback := false }
  let s := dSet { s with fw := { s.fw with recovery := false } } (dk 0x1300 1) i
  let r := if wasStaged then 0 else if staged then 2 else 1
  let s := dSet s (dk 0x1300 4) r
  if r = 2 then raiseEvent s 2 0 none 0x1300 4 0 else s

/-- No candidate was valid: recovery (R404); SECVER and BUILD_ID of no bundle are open values. -/
def enterRecovery (s : State) : State :=
  let s := dSet (dSet { s with fw := { s.fw with recovery := true } } (dk 0x1300 1) 0xFF) (dk 0x1300 4) 3
  let s := dSet s (dk 0x1300 6) (Config.freeWord s.fresh).toNat
  let s := tickFresh (dSet s (dk 0x1310 1) (Config.freeWord (s.fresh + 1)).toNat)
  raiseEvent (tickFresh s) 3 0 none 0x1300 4 0

/-- The boot ROM's choice (R402). -/
def bootSlots (s : State) : State :=
  let s := endStaging s
  let staged := [0, 1].filter (fun i => slotState s i == 2)
  let active := [0, 1].filter (fun i => slotState s i == 3)
  match tryBoot (staged ++ active) s with
  | (s, none) => enterRecovery s
  | (s, some i) => chooseSlot s (!staged.isEmpty) (staged.contains i) i

/-! ### Settings migration (R407) -/

/-- Class-P entries of access RW or RWQ but DOM entries, by key in ascending order. -/
def settingKeys (s : State) : List Nat :=
  ((dictTables.filter (fun e => e.persist == .p && (e.access == .rw || e.access == .rwq) && e.type != .dom)).flatMap
    (fun e => e.keys.filter (fun k => !absentOn s.variant k))).foldl (fun l k => insertNat k l) []

/-- An entry of the migration report. -/
def reportEntry (k reason : Nat) : List Byte := leBytes 2 (k / 256) ++ leBytes 1 (k % 256) ++ leBytes 1 reason ++ leBytes 4 0

def migrationReport (before after case : Nat) (entries : List (Nat × Nat)) : List Byte :=
  leBytes 2 before ++ leBytes 2 after ++ leBytes 1 case ++ leBytes 3 0 ++ leBytes 4 entries.length ++ leBytes 4 0 ++
  entries.flatMap (fun e => reportEntry e.1 e.2)

/-- Migrate one entry to a higher layout; notes it where it takes its default. -/
def migrateEntry (image : List Byte) (before after : Nat) (x : State × List (Nat × Nat)) (k : Nat) : State × List (Nat × Nat) :=
  let s := x.1
  let back (reason : Nat) : State × List (Nat × Nat) := (dSet s k (dictDefault s.variant k).toNat, x.2 ++ [(k, reason)])
  match Config.migrateRule image before after (k / 256) (k % 256) (BitVec.ofNat 64 (dGet s k)) with
  | none => back 1
  | some v => if Config.migrateRefused after (k / 256) (k % 256) v then back 2 else (dSet s k v.toNat, x.2)

/-- The settings as an image. -/
def settingsImage (s : State) : List (Nat × Word) := (settingKeys s).map (fun k => (k, BitVec.ofNat 64 (dGet s k)))

/-- The outcome of a migration: the report and its event. -/
def migrated (x : State × List (Nat × Nat)) (before after case : Nat) : State :=
  let s := { x.1 with fw := { x.1.fw with migrationReport := migrationReport before after case x.2 } }
  raiseEvent (dSet s (dk 0x1320 2) after) 1 0 none 0x1320 1 0

/-- The miller image of a bundle, KIND 1 of its images (R400). -/
def millerImage (b : List Byte) : List Byte :=
  match (imagesOf b).find? (fun e => e.kind == 1) with
  | some e => bBytes b e.offset e.size
  | none => []

/-- R407 for the bundle that boots. -/
def migrate (s : State) : State :=
  let before := dGet s (dk 0x1320 2)
  let bundle := (slotOf s (dGet s (dk 0x1300 1))).bytes
  let after := bundleLayout bundle
  let keys := settingKeys s
  if after = before then s
  else if before < after then
    let s := { s with fw := { s.fw with prevLayout := some (BitVec.ofNat 16 before), prevImage := settingsImage s } }
    migrated (keys.foldl (migrateEntry (millerImage bundle) before after) (s, [])) before after 1
  else if s.fw.prevLayout.map (·.toNat) = some after then
    migrated (s.fw.prevImage.foldl (fun s e => dSet s e.1 e.2.toNat) s, s.fw.prevImage.map (fun e => (e.1, 3))) before after 2
  else
    migrated (keys.foldl (fun s k => dSet s k (dictDefault s.variant k).toNat) s, keys.map (fun k => (k, 4))) before after 3

/-- The boot up to the settings: steps 1 and 2 of R403. -/
def boot (s : State) : State :=
  let s := bootSlots s
  if s.fw.recovery then s else migrate s

/-! ### Staging (R405, R406) -/

/-- A download to fw_bundle is open. -/
def stagingOpen (s : State) : Bool := s.host.sessions.any (fun x => !x.upload && x.index == 0x1301)

/-- A completed object of fw_bundle: its slot becomes STAGED. -/
def stageObject (s : State) (object : List Byte) : State :=
  let i := spareSlot s
  setSlotState (putSlot s i { bytes := object, byRollback := false }) i 2

/-- The journal record of a completed download (R362). -/
def journalObject (s : State) (src : Source) (index sub : Nat) (object : List Byte) : State :=
  appendJournal s src DType.dom.code index sub ((sha256 object).take 16)

/-- FW_BUNDLE: a whole download to fw_bundle. -/
def downloadBundle (s : State) (rq : Req) (object : List Byte) : State :=
  handle s rq 0x05 0x1301 1 (fun s =>
    if blocked s (dk 0x1301 1) ∨ stagingOpen s ∨ 4 ≤ s.host.sessions.length then respond s rq 0x05 0x1301 1 stBusy []
    else if slotBytes < object.length then respond s rq 0x05 0x1301 1 stRefused []
    else respond (journalObject (stageObject s object) rq.src 0x1301 1 object) rq 0x08 0x1301 1 stOk [])

def execFwBundle (rq : Req) (object : List Byte) (s : State) : Host.Outcome State Fault Refusal :=
  .next (downloadBundle s rq object)

/-- fw_stage_cmd: CANCEL (1) and ROLLBACK (2). -/
def fwStageOp (v : Nat) (s : State) : State × Option Nat :=
  if stagingOpen s then refuse s
  else if v = 1 then
    (match [0, 1].find? (fun i => slotState s i == 2) with
     | some i => accepted (setSlotState s i (if (slotOf s i).byRollback then 5 else 0))
     | none => refuse s)
  else if v = 2 then
    (match [0, 1].find? (fun i => slotState s i == 5 && decide (dGet s (dk 0x1310 2) ≤ bundleSecver (slotOf s i).bytes)) with
     | some i => accepted (setSlotState (putSlot s i { slotOf s i with byRollback := true }) i 2)
     | none => refuse s)
  else refuse s

/-- CANCEL: a write of 1 to 0x1301:02. -/
def execCancel (rq : Req) (s : State) : Host.Outcome State Fault Refusal :=
  .next (handleWrite s rq 0x1301 2 [1] (fwStageOp 1))

/-- ROLLBACK: a write of 2 to 0x1301:02. -/
def execRollback (rq : Req) (s : State) : Host.Outcome State Fault Refusal :=
  .next (handleWrite s rq 0x1301 2 [2] (fwStageOp 2))

/-! ### Security version (R408) -/

/-- Slots whose SECVER is below the count fail. -/
def failOld (n : Nat) (s : State) (i : Nat) : State :=
  if [2, 3, 5].contains (slotState s i) ∧ bundleSecver (slotOf s i).bytes < n then setSlotState (dSet s (dk 0x1300 5) 5) i 4 else s

/-- secver_commit. -/
def secverOp (v : Nat) (s : State) : State × Option Nat :=
  let count := dGet s (dk 0x1310 2)
  let new := min (liveValue s (dk 0x1310 1)) 128
  if v ≠ 1 then refuse s
  else if count = 128 then accepted (dSet s (dk 0x1310 4) 2)
  else if new ≤ count then accepted (dSet s (dk 0x1310 4) 1)
  else accepted ([0, 1].foldl (failOld new) (dSet (dSet s (dk 0x1310 2) new) (dk 0x1310 4) 0))

/-- SECVER_COMMIT: a write of 0x1310:03. -/
def execSecverCommit (rq : Req) (value : Byte) (s : State) : Host.Outcome State Fault Refusal :=
  .next (handleWrite s rq 0x1310 3 [value] (secverOp value.toNat))

/-! ### Attestation (R409, R410) -/

/-- One record of the configuration digest's sequence. -/
def configRecord (s : State) (k : Nat) : List Byte :=
  match dictEntry s.variant k with
  | none => []
  | some e => leBytes 2 (k / 256) ++ leBytes 1 (k % 256) ++ leBytes 1 e.type.code ++ leBytes 2 e.type.size ++
      leBytes e.type.size (dictValue s k)

/-- The configuration digest. -/
def configDigest (s : State) : List Byte := sha256 ((settingKeys s).flatMap (configRecord s))

/-- The report; in recovery no bundle is active and its manifest digest is an open value. -/
def attestReport (s : State) (nonce : List Byte) : List Byte :=
  let a := dGet s (dk 0x1300 1)
  let body :=
    leBytes 2 0xA77E ++ leBytes 1 1 ++ leBytes 1 1 ++ leBytes 1 a ++ leBytes 1 (dGet s (dk 0x1310 2)) ++ leBytes 2 0 ++
    leBytes 8 (liveValue s (dk 0x1310 1)) ++ leBytes 8 s.ident.packageId.toNat ++ leBytes 8 (now s) ++ padTo 32 nonce ++
    (if a < 2 then manifestDigest (slotOf s a).bytes else freeBytes s 32) ++ configDigest s ++ sha256 (repairMap s) ++
    leBytes 8 (liveValue s (dk 0x1300 6)) ++ List.replicate 24 0
  body ++ padTo 64 (Config.ecdsaSign (sha256 body))

/-- A nonce has arrived whole: the report is built and signed. -/
def attest (s : State) (nonce : List Byte) : State :=
  tickFresh { s with fw := { s.fw with attestReport := attestReport s nonce } }

/-- ATTEST_REQUEST: a whole download to attest_request. -/
def downloadNonce (s : State) (rq : Req) (nonce : List Byte) : State :=
  handle s rq 0x05 0x1340 1 (fun s =>
    if blocked s (dk 0x1340 1) ∨ 4 ≤ s.host.sessions.length ∨ s.host.sessions.any (fun x => !x.upload && x.index == 0x1340) then
      respond s rq 0x05 0x1340 1 stBusy []
    else if nonce.length ≠ 32 then respond s rq 0x05 0x1340 1 stRefused []
    else respond (journalObject (attest s nonce) rq.src 0x1340 1 nonce) rq 0x08 0x1340 1 stOk [])

def execAttestRequest (rq : Req) (nonce : List Byte) (s : State) : Host.Outcome State Fault Refusal :=
  .next (downloadNonce s rq nonce)

/-- FACTORY_TEST_MODE, entered through the IEEE 1149.1 port (R361). -/
def execFactoryTestMode (s : State) : Host.Outcome State Fault Refusal :=
  .next (if s.pwr.inputOk then { s with host := { s.host with factoryTest := true } } else s)

end Sys2Proof.Machine
end

