-- ==== Sys2Proof/Machine/Sources.lean ====
section
/-! DEFINITION. The module as the source of fabric transactions: responses, resends and timeouts (R70, R266, R268, R288,
R289). -/

namespace Sys2Proof.Machine

/-- The outstanding transaction of a node and tag. -/
def findTxn (s : State) (node : Nat) (tag : BitVec 32) : Option Txn :=
  s.fab.txns.find? (fun t => t.issued && t.node == node && t.tag == tag)

/-- A transaction ends; what waited behind it may go (R266). -/
def endTxn (s : State) (t : Txn) : State :=
  answerMirrors (issueAll { s with fab := { s.fab with txns := s.fab.txns.filter (fun x => !(x.node == t.node && x.tag == t.tag)) } } t.node)

/-- The instance of a ring still waits for its chunks. -/
def instanceWaits (s : State) (ring : Nat) : Bool :=
  (flightOf s ring).any (fun c => c.coll.isSome && c.discard.isNone && decide (c.status.toNat < 0x10) && !sealedOn s ring)

/-- A chunk that was not applied goes again with a new tag while its instance waits (R282). -/
def resendChunk (s : State) (t : Txn) : State :=
  match t.ring with
  | none => s
  | some ring =>
    if instanceWaits s ring then
      ask s (some ring) (Ask.plain kCollective t.node t.pkt.addr t.pkt.operand t.pkt.data)
    else s

/-- A remote add of a ring's command is lost (R70). -/
def loseAdd (s : State) (ring : Nat) (t : Txn) : State :=
  match flightOf s ring with
  | none => s
  | some c =>
    setFlight (countP s 0x3212 c.part 1) ring (fun f => { f with
      latched := f.latched ++ [t.node * 4096 + t.pkt.addr % 4096] })

/-- A transaction has ended with a failure: its command fails with the status (spec/10 "Response codes and their outcome
at the source"), one that waited for its operands with undefined outputs; members of its collective are told (R288). A command past
its commit point stays committed: what its last write should have brought is lost (DEDUCED, log entry 66). -/
def failTxn (s : State) (t : Txn) (status : Nat) : State :=
  match t.ring with
  | none => s
  | some ring =>
    if t.pkt.kind = kTally then loseAdd s ring t
    else if sealedOn s ring then s
    else if (flightOf s ring).any (fun f => f.coll.isSome) then failColl s ring status
    else setFlight s ring (fun f =>
      if 0x10 ≤ f.status.toNat then f
      else { f with
        status := BitVec.ofNat 8 status, acts := [], executed := f.executed || opcOf f.desc != 4
        wrote := if f.executed || f.partOn then f.wrote else f.wrote ++ outRanges s f })

/-- What a DONE response brings: READ data, or an atomic's old value (R289). -/
def doneBytes (t : Txn) (p : Packet) : List Byte :=
  if t.pkt.kind = kRead then padTo t.pkt.len p.data else if t.pkt.kind = kAtomic then leBytes 8 p.operand else []

/-- Data for an output of a ring's command: it stands at its place once the command commits (R34); a place on another node is
written there (R253), and one in host memory is durable once Falyndi carries it (R42). -/
def takeOutput (s : State) (ring a : Nat) (bs : List Byte) : State :=
  let s := setFlight s ring (fun f =>
    { f with results := f.results ++ [(a, bs)], hostLate := f.hostLate || (hostRange a && !falyndiUp s) })
  if remoteAddr s a then asks (some ring) s (writeAsks false a bs) else s

/-- The data of a DONE response goes to its place: an operand fetched from another node stands in the model's copy of that
node's memory (R229). -/
def takeDone (s : State) (t : Txn) (p : Packet) : State :=
  match t.dst, t.ring with
  | some a, some ring =>
    if (doneBytes t p).isEmpty then s
    else if a = t.pkt.addr then store s a (doneBytes t p)
    else takeOutput s ring a (doneBytes t p)
  | some a, none => gWrite s a (doneBytes t p)
  | none, _ => s

/-- A chunk was acknowledged: its instance has progressed (R288). -/
def noteAck (s : State) (t : Txn) : State :=
  match t.ring with
  | some ring =>
    if t.pkt.kind = kCollective then
      setFlight s ring (fun f => { f with coll := f.coll.map (fun i => { i with lastTick := BitVec.ofNat 64 (now s) }) })
    else s
  | none => s

/-- An access that the lender could not correct ends the borrower's command as a fault; the lender has the record
(R240). -/
def remoteFault (s : State) (t : Txn) : State :=
  match t.ring.bind (flightOf s) with
  | some c => discardParts s [c.part] 0x10 0
  | none => s

/-- A response to an outstanding transaction; any other is discarded (R268). -/
def takeResponse (s : State) (p : Packet) : State :=
  if p.life = 0 then dropExpired s
  else match findTxn s p.src (BitVec.ofNat 32 p.tag) with
    | none => s
    | some t =>
      match p.code with
      | 0 => endTxn (noteAck (takeDone s t p) t) t
      | 1 => endTxn (failTxn (countT s 0x328D 1) t 0x32) t
      | 2 => endTxn (failTxn s t 0x34) t
      | 3 => if t.pkt.kind = kCollective then resendChunk (endTxn s t) t else s
      | 4 => if t.pkt.kind = kTally then endTxn (failTxn s t 0x34) t else remoteFault (endTxn s t) t
      | _ => if t.pkt.kind = kTally then endTxn (failTxn s t 0x34) t else remoteFault (endTxn s t) t

/-- The module's table of outstanding transactions runs: a warm reset keeps it (R378). -/
def tableRuns (s : State) : Bool := s.pwr.inputOk && (live s || s.pwr.resetRunning == some .warm)

/-- RESPONSE. -/
def execResponse (pkt : Packet) (s : State) : Host.Outcome State Fault Refusal :=
  .next (if tableRuns s && pkt.kind == kResponse && pkt.dest == nodeId s then takeResponse s pkt else s)

/-- TXN_RETRY: the original tag, the remaining LIFE. -/
def retryTxn (s : State) (node : Nat) (tag : BitVec 32) : State :=
  match findTxn s node tag with
  | none => s
  | some t =>
    if t.deadline.toNat ≤ now s then s
    else sendPacket (countT s 0x328B 1) (packetLife t.pkt (t.deadline.toNat - now s))

def execTxnRetry (node : BitVec 16) (tag : BitVec 32) (s : State) : Host.Outcome State Fault Refusal :=
  .next (if tableRuns s then retryTxn s node.toNat tag else s)

/-- FABRIC_TIMEOUT: the transaction timeout has passed. A chunk's instance waits as R288 has it. -/
def timeoutTxn (s : State) (node : Nat) (tag : BitVec 32) : State :=
  match findTxn s node tag with
  | none => s
  | some t =>
    if now s < t.deadline.toNat then s
    else
      let s := countT s 0x328C 1
      if t.pkt.kind = kCollective then resendChunk (endTxn s t) t else endTxn (failTxn s t 0x33) t

def execFabricTimeout (node : BitVec 16) (tag : BitVec 32) (s : State) : Host.Outcome State Fault Refusal :=
  .next (if tableRuns s then timeoutTxn s node.toNat tag else s)

/-- COLL_WAIT_TIMEOUT: no chunk of the instance has arrived or been acknowledged for the wait limit (R288). -/
def collTimeout (s : State) (ring : Nat) : State :=
  match flightOf s ring with
  | none => s
  | some c =>
    match c.coll with
    | none => s
    | some inst =>
      if now s < inst.lastTick.toNat + max (collWaitMs c.desc * 25000) (txnTicks s) ∨ c.discard.isSome ∨ sealedOn s ring then s
      else failColl s ring 0x33

def execCollWaitTimeout (ring : RingId) (s : State) : Host.Outcome State Fault Refusal :=
  .next (if live s then collTimeout s ring.toNat else s)

end Sys2Proof.Machine
end

