-- ==== Sys2Proof/Machine/Resets.lean ====
section
/-! DEFINITION. Cold, module, warm and partition resets, loss of input, and what a start of the module does (R44, R48 to R50,
R242, R248, R375 to R380, R397, R413, R414, R420, R426, R431). -/

namespace Sys2Proof.Machine

/-! ### What a reset leaves (R380) -/

/-- Partition state and quiesce_request: 3 and 1 if enabled, else 0 (quiesce_request at its default 1). -/
def resetPartition (s : State) (p : Nat) : State := pSet (pSet s p 5 (if pGet s p 1 = 1 then 3 else 0)) p 6 1

/-- Entries of class V return to their defaults. -/
def dropVolatile (s : State) : State :=
  { s with dict := tableKeep (fun k => dictClass s.variant k != .v) s.dict }

/-- Entries of class P and aon_ticks stay; the others return to their defaults. -/
def dropWarm (s : State) (cold : Bool) : State :=
  { s with dict := tableKeep (fun k => dictClass s.variant k == .p || (k == dk 0x1400 1 && !cold)) s.dict }

/-- A link's flit layer starts afresh; its spare lane is part of the repair map. -/
def freshLink (l : Link) : Link := { Link.fresh kraurCredits with spareFor := l.spareFor }

/-- A list of withheld units after a start: the retired ones (R397, R98). -/
def onlyRetired (l : List (Nat × Nat)) : List (Nat × Nat) := l.filter (fun x => x.2 == 5)

/-- The hopper: everything but its retired cells is cleared. -/
def wipeHopper (s : State) : State := { s with hop := { Hopper.reset with retiredCells := s.hop.retiredCells } }

/-- The cores: the repair map is kept, memories have undefined content. -/
def wipeCores (s : State) : State :=
  tickFresh { s with
    cores := { s.cores with
      sram := lostMems s s.fresh
      withheld := onlyRetired s.cores.withheld
      clearLater := []
      runnerMode := []
      lastClaim := []
      quernWithheld := onlyRetired s.cores.quernWithheld }
    media := { Media.reset with withheld := onlyRetired s.media.withheld } }

/-- Memory: HBM holds zeros (R426); the repair map is kept, with the rows that post-package repair takes over (R248). -/
def wipeMemory (s : State) : State :=
  let ppr := s.mem.rowRemap.filter (fun x => Config.pprFits x.1 x.2)
  { s with mem := { MemSys.reset with
    bytes := tableKeep (fun k => decide (2 ^ 41 ≤ k)) s.mem.bytes
    undef := carve 0 (2 ^ 41) s.mem.undef
    retired := s.mem.retired
    reloc := s.mem.retired
    rowRemap := s.mem.rowRemap.filter (fun x => !Config.pprFits x.1 x.2)
    rowRepaired := s.mem.rowRepaired ++ ppr
    retiredRanges := s.mem.retiredRanges
    pinnedNow := dGet s (dk 0x2400 4) } }

/-- The fabric: what was handed out before stays a record of the past. -/
def wipeFabric (s : State) : State :=
  { s with fab := { Fabric.reset with
    links := s.fab.links.map freshLink
    dedupCleared := BitVec.ofNat 64 (now s)
    sent := s.fab.sent } }

/-- The host side: the FHA-4's own state, the journal, and what was sent stay. -/
def wipeHost (s : State) : State :=
  { s with host := { HostSide.reset with
    link := freshLink s.host.link
    linkLost := s.host.linkLost
    downAt := s.host.downAt
    dropped := s.host.dropped
    fhaBuf := s.host.fhaBuf
    hostRead := s.host.hostRead
    msix := s.host.msix
    busOut := s.host.busOut
    journal := s.host.journal
    factoryTest := s.host.factoryTest } }

/-- A die sensor reads at or above throttle_temp_c (R374). -/
def hotSensor (s : State) : Bool := s.pwr.sensors.any (fun x => decide (dGet s (dk 0x1402 1) ≤ x.2.toNat))

/-- Power control; pins, readings and the trip stay as they are. -/
def wipePower (s : State) : State :=
  { s with pwr := { s.pwr with
    resetRunning := none, transition := none, transReq := none, millerClock := true, duty := 64, samples := [],
    throttling := hotSensor s, idleSince := BitVec.ofNat 64 (now s), heldReads := [] } }

/-- Health: the lasting log and what the repair map holds are kept. -/
def wipeHealth (s : State) : State := { s with hlth := { Health.reset with lasting := s.hlth.lasting } }

/-- A running transition is abandoned; an entry counts as interrupted (R370). -/
def abandonTransition (s : State) : State :=
  match s.pwr.transition with
  | none => s
  | some (t, wake) => endTransition (if wake then s else dAdd s (dk 0x3141 t) 1) stRefused 3

/-- power_result after a reset that abandoned a transition. -/
def noteAbandoned (s : State) (was : Bool) : State := if was then dSet s (dk 0x1400 5) 3 else s

/-- The retention of a module reset, or of a cold one (R50, R380); slot_id stays as it was sampled last (R350). -/
def wipe (s : State) (cold : Bool) : State :=
  let was := s.pwr.transition.isSome
  let slot := dGet s (dk 0x1110 1)
  let s := dSet (dropWarm (endMargin (abandonTransition s)) cold) (dk 0x1110 1) slot
  let s := dSet s (dk 0x2100 5) (dGet s (dk 0x2100 5) + 1)
  let s := wipePower (wipeHost (wipeFabric (wipeMemory (wipeCores (wipeHopper s)))))
  let s := { wipeHealth s with fw := { s.fw with attestReport := [] } }
  let s := dSet (allParts.foldl resetPartition s) (dk 0x1200 3) (dGet s (dk 0x1200 2))
  closeBywash (noteAbandoned s was)

/-! ### The start of the module (R397, R403, R431) -/

/-- A failing unit of a start-up test as a record. -/
def failRec (f : StartupFail) (outcome : Nat) : HealthRec :=
  { blankRec 0x14 f.unitKind.toNat f.unit.toNat outcome with
    shared := true, locationA := f.locationA, locationB := f.locationB }

/-- A channel whose checker fails retires: at a start nothing lives in it yet. -/
def startRetire (s : State) (f : StartupFail) : State :=
  let w := writeHealth s { failRec f 3 with action := 7 } false
  let all := (List.range 384).filter (fun c => (retireSet w.1 [f.unit.toNat]).contains c && !w.1.mem.retired.contains c)
  let s := all.foldl enterRetired w.1
  raiseHealth { s with mem := { s.mem with reloc := s.mem.retired } } 2

/-- The physical core of a failure: unit 256 + p names physical core p. -/
def failPhys (s : State) (f : StartupFail) : Nat := if f.unit.toNat < 256 then physOf s f.unit.toNat else f.unit.toNat - 256

/-- The column that spare i of an array carries; 0xFF: none. -/
def spareColumn (s : State) (phys a i : Nat) : Nat :=
  bits (dGet s (dk 0x2202 (phys + 1))) (16 * a + 8 * i + 7) (16 * a + 8 * i)

/-- A failure of a spare that carries nothing: unit kind, unit, array, spare (R397). -/
def failedSpare (s : State) (f : StartupFail) : Option (Nat × Nat × Nat × Nat) :=
  let u := f.unit.toNat
  let a := f.locationA.toNat
  let b := f.locationB.toNat
  match f.unitKind.toNat with
  | 1 =>
    if a < 4 ∧ 129 ≤ b ∧ b ≤ 130 ∧ spareColumn s (failPhys s f) a (b - 129) = 0xFF then some (1, failPhys s f, a, b - 129)
    else if 256 ≤ u then some (1, u, 0, 0)
    else none
  | 2 => if b = 64 ∧ !s.cores.quernSpare.any (fun q => q.1 == u) then some (2, u, 0, 0) else none
  | 5 => if u % 16 = 12 ∧ (getLink s (u / 16)).spareFor.isNone then some (5, u / 16, 0, 0) else none
  | 6 => if u = 4 ∧ s.host.link.spareFor.isNone then some (6, 6, 0, 0) else none
  | _ => none

/-- A failing spare retires, and its pool shrinks. -/
def retireSpare (s : State) (f : StartupFail) (x : Nat × Nat × Nat × Nat) : State :=
  let w := writeHealth s { failRec f 3 with action := 9 } false
  raiseHealth { w.1 with cores := { w.1.cores with
    badSpares := w.1.cores.badSpares ++ [x]
    retiredPhys := if x.1 = 1 ∧ 256 ≤ x.2.1 then insertNat (x.2.1 - 256) w.1.cores.retiredPhys else w.1.cores.retiredPhys } } 2

/-- The failing columns that a start-up failure names, each with its array: none where the unit fails as a whole. A spare in use names the
column that it carries. -/
def failCols (s : State) (f : StartupFail) : List (Nat × Nat) :=
  let a := f.locationA.toNat
  let b := f.locationB.toNat
  if f.unitKind = 1 ∧ a < 4 ∧ b ≤ 130 then [(a, if b < 129 then b else spareColumn s (failPhys s f) a (b - 129))]
  else if f.unitKind = 2 ∧ b ≤ 64 then [(0, b)]
  else []

/-- A unit is repaired or retired exactly as at run time (R390, R391). Its source has no test: the record gets its one event with its final
OUTCOME (R384). -/
def startRepair (s : State) (f : StartupFail) : State :=
  let w := noteRec s (failRec f 0)
  let seq := BitVec.ofNat 64 (dGet w.1 (dk 0x4000 2))
  let t : Test := { seq := seq, running := true, verify := false, persist := none }
  let s := { w.1 with hlth := { w.1.hlth with tests := w.1.hlth.tests ++ [t] } }
  let l := laneOf (failRec f 0)
  let s := if f.unitKind = 5 ∨ f.unitKind = 6 then (swapLane s l.1 l.2).1 else s
  let s := match findRec s seq.toNat with
    | some r => repairUnit s t r (failCols s f)
    | none => s
  match s.hlth.tests.find? (fun x => x.seq == seq), findRec s seq.toNat with
  | some t, some r => testPassed s t r
  | _, _ => s

/-- One failure of the start-up self-test. -/
def startFail (s : State) (f : StartupFail) : State :=
  if f.unitKind = 4 then (if s.mem.retired.contains f.unit.toNat ∨ 384 ≤ f.unit.toNat then s else startRetire s f)
  else match failedSpare s f with
    | some x => retireSpare s f x
    | none => startRepair s f

/-- startup_result (R397), from the records of this start. -/
def startupResult (s : State) : Nat :=
  let mine := s.hlth.log.filter (fun r => r.source == 0x14)
  if s.hlth.failed then 3
  else if mine.any (fun r => r.outcome == 3) then 2
  else if mine.any (fun r => r.outcome == 2) then 1 else 0

/-- The places of the ring status table's copies (R431). -/
def placeTable (s : State) : State :=
  let s := dSet (dSet s (dk 0x2100 3) 0) (dk 0x2100 0xC) 0
  let at' (st : Nat) : Nat := gaMake (nodeId s) 1 (st * 2 ^ 36 + (leastBy id (pinnedFits s st (2 ^ 20))).getD 0)
  match (List.range 6).find? (fun st => !stackRetired s st && !stackRetired s (st + 6)) with
  | some st => dSet (dSet s (dk 0x2100 3) (at' st)) (dk 0x2100 0xC) (at' (st + 6))
  | none =>
    match (List.range 12).find? (fun st => !stackRetired s st) with
    | some st => (writeHealth (dSet s (dk 0x2100 3) (at' st)) (blankRec 0x10 8 0 4) false).1
    | none => s

/-- The start-up self-test and what follows it. -/
def selfTest (s : State) (info : StartInfo) : State :=
  let s := dSet s (dk 0x4000 3) (mapHealth s)
  let s := info.fails.foldl startFail s
  let s := dSet (dSet s (dk 0x4110 1) (startupResult s)) (dk 0x4110 2) info.testTicks.toNat
  placeTable { s with hlth := { s.hlth with startupResult := startupResult s } }

/-- SLOT_ID is sampled; the coordinator's strap raises an event (R350). -/
def sampleSlot (s : State) (info : StartInfo) : State :=
  let s := dSet s (dk 0x1110 1) info.slotId.toNat
  if info.slotId = 0 then raiseEvent s 1 0 none 0x1110 1 0 else s

/-- A die sensor reads at or above trip_temp_c. -/
def tooHot (s : State) : Bool := s.pwr.sensors.any (fun x => decide (dGet s (dk 0x1402 2) ≤ x.2.toNat))

/-- A thermal trip (R375): the state has the retention of a module reset, and the module is held. -/
def trip (s : State) : State :=
  if s.pwr.tripped.isSome then s
  else
    let s := dSet (wipe s false) (dk 0x1500 3) 5
    { s with pwr := { s.pwr with pgood := false, held := true, tripped := some (BitVec.ofNat 64 (now s)), resetWaits := s.pwr.modRstLow } }

/-- The place of a THERMAL_TRIP's reading, whose sensor it does not name, among the sensors. -/
def tripSensor : Nat := 256

/-- A sensor's reading; it stands in for what a trip has read before. -/
def readSensor (s : State) (sensor celsius : BitVec 8) : State :=
  let l := s.pwr.sensors.filter (fun x => x.1 != sensor.toNat && x.1 != tripSensor) ++ [(sensor.toNat, celsius)]
  dSet { s with pwr := { s.pwr with sensors := l } } (dk 0x1402 3) ((l.map (·.2.toNat)).foldl max 0)

/-- The miller loads the other images of the slot that booted: one of them fails its digest (R403 step 3). -/
def loadFails (s : State) (info : StartInfo) : Bool :=
  !s.fw.recovery && info.loadFails.any (fun i => i.toNat == dGet s (dk 0x1300 1))

/-- The boot: a digest mismatch at step 3 of R403 restarts it as a module reset, the slot failing check 7. -/
def bootLoads (info : StartInfo) : Nat → State → State
  | 0, s => s
  | n + 1, s =>
    let s := boot s
    if loadFails s info then
      bootLoads info n (wipe (setSlotState (dSet s (dk 0x1300 5) 6) (dGet s (dk 0x1300 1)) 4) false)
    else s

/-- The bits of word w of a core mask that name logical cores of the variant. -/
def maskBits (s : State) (w : Nat) : Nat := 2 ^ min 64 (coreCount s - 64 * w) - 1

/-- The core masks once settings have been read or migrated: a core above the variant's count, or in the mask of a lower-numbered partition,
leaves a mask, since no two masks name it (R9, R13; DESIGN CHOICE, log entry 39). Cores that no mask names now hold zeros (R9). -/
def settleMasks (s : State) : State :=
  let s := (allParts.foldl (fun (x : State × List Nat) p =>
    let m := (List.range 3).map (fun w =>
      let v := Nat.land (pGet x.1 p (2 + w)) (maskBits s w)
      v - Nat.land v (x.2.getD w 0))
    ((List.range 3).foldl (fun s w => pSet s p (2 + w) (m.getD w 0)) x.1, List.zipWith Nat.lor m x.2)) (s, [0, 0, 0])).1
  tickFresh { s with cores := { s.cores with sram := lostMems s s.fresh } }

/-- What the sensors read at a start, where it is known. -/
def startSensors (s : State) (info : StartInfo) : State :=
  if info.sensors.isEmpty then s
  else info.sensors.foldl (fun s x => readSensor s x.1 x.2) { s with pwr := { s.pwr with sensors := [] } }

/-- The module starts: R402, R403, R397; in recovery it stops after the boot ROM (R404). A trip repeats (R414). -/
def start (s : State) (info : StartInfo) : State :=
  let s := sampleSlot { s with pwr := { s.pwr with held := false, pgood := true, resetWaits := false, tripped := none } } info
  let s := startSensors (settleMasks (bootLoads info 3 s)) info
  let s := allParts.foldl resetPartition s
  let s := { s with mem := { s.mem with pinnedNow := dGet s (dk 0x2400 4) } }
  let s := if s.fw.recovery then s else selfTest s info
  if tooHot s || s.pwr.thermLow then trip s else s

/-! ### Cold reset, input (R365, R413, R414, R420, R421) -/

/-- Held in module reset by MOD_RST_N. -/
def holdByPin (s : State) : State :=
  let s := dSet s (dk 0x1500 3) 1
  { s with pwr := { s.pwr with held := true, modRstLow := true } }

/-- INPUT_LOSS: what the supply shows, the input's voltage and whether every rail is in regulation, which PGOOD says (R421). Out of range,
every rail goes, and Falyndi with them (R420). -/
def inputLoss (s : State) (seen : SupplySeen) : State :=
  if !s.pwr.inputOk then s
  else
    let mv := seen.millivolts.toNat
    let s := dSet s (dk 0x1401 4) mv
    if mv < 41000 ∨ 58000 < mv then
      closeBywash (dSet (dSet { s with pwr := { s.pwr with inputOk := false, pgood := false } } (dk 0x1100 1) 0) (dk 0x1100 2) 0)
    else { s with pwr := { s.pwr with pgood := seen.railsGood && s.pwr.tripped.isNone } }

def execInputLoss (seen : SupplySeen) (s : State) : Host.Outcome State Fault Refusal := .next (inputLoss s seen)

/-! ### Module reset (R375 to R377) -/

/-- 60 s in ticks. -/
def tripHold : Nat := 1500000000

/-- A request of a kind at or below a reset in progress is absorbed. -/
def absorb (s : State) : State := countT s 0x3144 1

/-- reset_cmd 2, with what the start meets. -/
def moduleByCommand (s : State) (info : StartInfo) : State :=
  match s.pwr.tripped with
  | some t =>
    if now s < t.toNat + tripHold ∨ s.pwr.modRstLow then { s with pwr := { s.pwr with resetWaits := true } }
    else start (dSet (wipe s false) (dk 0x1500 3) 5) info
  | none => if s.pwr.held then absorb s else start (dSet (wipe s false) (dk 0x1500 3) 2) info

/-- MOD_RST_N has been low for 25 ticks: the module stays in module reset until the rising edge. -/
def moduleByPin (s : State) : State :=
  if s.pwr.tripped.isSome then { s with pwr := { s.pwr with modRstLow := true, resetWaits := true } }
  else if s.pwr.held then absorb { s with pwr := { s.pwr with modRstLow := true } }
  else holdByPin (wipe s false)

/-- The module reads its identity EEPROM, once in a cold reset (R415). -/
def readEeprom (s : State) : State :=
  let e := s.ident.eeprom
  { s with ident := { s.ident with serial := e.serial, boardRev := e.boardRev, mac := e.mac } }

/-- COLD_RESET: input has entered its range. A low MOD_RST_N at its end is a module reset, which a trip that has repeated lets wait (R413,
R414). -/
def coldReset (s : State) (info : StartInfo) : State :=
  let s := readEeprom { s with
    pwr := { s.pwr with inputOk := true, tripped := none, held := false, modRstLow := false, sensors := [] }
    host := { s.host with factoryTest := false } }
  let s := start (dSet (wipe s true) (dk 0x1500 3) 0) info
  if info.modRstLow then moduleByPin s else s

def execColdReset (info : StartInfo) (s : State) : Host.Outcome State Fault Refusal := .next (coldReset s info)

/-- MODULE_RESET: by the pin, or by reset_cmd, whose response precedes it. -/
def execModuleReset (byPin : Option Req) (info : StartInfo) (s : State) : Host.Outcome State Fault Refusal :=
  .next (if !s.pwr.inputOk then s
    else match byPin with
      | none => moduleByPin s
      | some rq => handle s rq 0x02 0x1500 1 (fun s => moduleByCommand (respond s rq 0x02 0x1500 1 stOk []) info))

/-- MOD_RST_N_RELEASE: the module restarts on the rising edge; a trip still holds it for 60 s. -/
def releasePin (s : State) (info : StartInfo) : State :=
  if !s.pwr.inputOk ∨ !s.pwr.modRstLow then s
  else
    let s := { s with pwr := { s.pwr with modRstLow := false } }
    match s.pwr.tripped with
    | some t => if now s < t.toNat + tripHold then s else start (dSet (wipe s false) (dk 0x1500 3) 5) info
    | none => if s.pwr.held then start s info else s

def execModRstNRelease (info : StartInfo) (s : State) : Host.Outcome State Fault Refusal := .next (releasePin s info)

/-- TRIP_HOLD_EXPIRY: 60 s have passed since a trip, and a module reset waits. -/
def tripExpiry (s : State) (info : StartInfo) : State :=
  match s.pwr.tripped with
  | some t =>
    if !s.pwr.inputOk ∨ !s.pwr.resetWaits ∨ s.pwr.modRstLow ∨ now s < t.toNat + tripHold then s
    else start (dSet (wipe s false) (dk 0x1500 3) 5) info
  | none => s

def execTripHoldExpiry (info : StartInfo) (s : State) : Host.Outcome State Fault Refusal := .next (tripExpiry s info)

/-! ### Warm reset (R49, R376, R378) -/

/-- A cut download session (R405). -/
def cutSessions (s : State) : State := { endStaging s with host := { s.host with sessions := [] } }

/-- What a warm reset keeps of the entries of class V: the bywash and the links, which are held, and in recovery the values of no
bundle. -/
def heldLinks (s : State) : List (Nat × Nat) :=
  ([dk 0x2700 0xC, dk 0x1100 1, dk 0x1100 2, dk 0x1300 6, dk 0x1310 1] ++
    (List.range 6).flatMap (fun i => [dk (0x2701 + i) 1, dk (0x2701 + i) 2, dk (0x2701 + i) 4])).map (fun k => (k, dGet s k))

/-- Segments, translation, core memories and walks of a warm reset; millpond and buffers have drained. -/
def warmLoss (s : State) : State :=
  let s := tickFresh { s with
    hop := { s.hop with segments := [], stallQuota := [], stallPool := [], stallHold := [] }
    cores := { s.cores with sram := lostMems s s.fresh, lastClaim := [] }
    mem := { s.mem with xlat := [], millpond := [], wcb := [], weirUsed := [], walks := [], marginTrained := true } }
  allParts.foldl updateFence s

/-- WARM_RESET starts: dispatch stops, what is in flight is discarded, the links hold (R378 steps 1 to 4). -/
def beginWarm (s : State) (cause : Nat) : State :=
  let was := s.pwr.transition.isSome
  let keep := heldLinks s
  let s := dAdd (abandonTransition s) (dk 0x3143 1) 1
  let s := dropVolatile (endMargin (cutSessions s))
  let s := keep.foldl (fun s x => dSet s x.1 x.2) s
  let s := dSet (allParts.foldl resetPartition s) (dk 0x1200 3) (dGet s (dk 0x1200 2))
  let s := noteAbandoned (dSet s (dk 0x1500 3) cause) was
  let s := warmLoss (discardParts s allParts 0x11 0)
  let tests := s.hlth.tests.map (fun t => { t with running := false })
  { s with
    pwr := { s.pwr with resetRunning := some .warm, millerClock := true, duty := 64, samples := [], throttling := hotSensor s,
                        heldReads := [] }
    fw := { s.fw with attestReport := [] }
    hlth := { s.hlth with injections := [], tests := tests } }

/-- A warm reset is raised: absorbed by one that runs, and by a module reset. -/
def raiseWarm (s : State) (cause : Nat) : State :=
  if s.pwr.resetRunning.isSome ∨ s.pwr.held then absorb s else beginWarm s cause

/-- WARM_RESET: a write of 1 to reset_cmd, whose response precedes it. -/
def execWarmReset (rq : Req) (s : State) : Host.Outcome State Fault Refusal :=
  .next (handle s rq 0x02 0x1500 1 (fun s => raiseWarm (respond s rq 0x02 0x1500 1 stOk []) 3))

/-- MILLER_WATCHDOG (R379); 0 disables it. -/
def execMillerWatchdog (s : State) : Host.Outcome State Fault Refusal :=
  .next (if s.pwr.inputOk ∧ dGet s (dk 0x1500 4) ≠ 0 then raiseWarm s 4 else s)

/-- Steps 1 and 2 of R49 for one command: a sealed one is completed, another ends DISCARDED_RESET. -/
def recoverFlight (s : State) (ring : Nat) : State :=
  match flightOf s ring with
  | none => s
  | some c => if sealedOn s ring then commitRecord s c else endDiscard s c 0x11

/-- An ACTIVE ring halts at COMMIT_POS with no completion record (R48, R49). -/
def haltIdle (status : Nat) (s : State) (n : Nat) : State :=
  let r := ringOf s n
  if r.state = .active then haltRing s n r.commitPos.toNat (committedSeq s n + 1) status else s

/-- The checkers of R242 that fail in a warm reset: a channel retires under R245, another unit as at a start. -/
def warmFail (s : State) (f : StartupFail) : State :=
  if f.unitKind = 4 then
    let w := noteRec s { failRec f 0 with action := 7 }
    beginRetire w.1 [f.unit.toNat] (dGet w.1 (dk 0x4000 2))
  else startFail s f

/-- An add that still waits to be sent as the warm reset ends is lost (R70; DEDUCED, log entry 66): the reset has held it beyond every
transaction timeout. -/
def loseWaiting (s : State) (t : Txn) : State :=
  match t.ring with
  | some ring => if sealedOn s ring then loseAdd s ring t else s
  | none => s

/-- Held segments are gone: no ring has an open one (R380). -/
def closeSegs (s : State) (n : Nat) : State :=
  let r := ringOf s n
  if r.openSeg.isNone then s else putRing s n { r with openSeg := none, dirStop := false }

/-- The table of outstanding transactions is empty, and the warm reset can go on to step 5 of R378. -/
def warmDrained (s : State) : Bool :=
  s.pwr.resetRunning == some .warm && s.pwr.inputOk && s.fab.txns.all (fun t => !t.issued)

/-- WARM_RESET_RECOVERY, with the cycles of the units that the discards abandoned: the checkers' failures (step 4 of R378), the steps of R49
(step 5), and the ports' credit. -/
def recoverWarm (s : State) (fails : List StartupFail) (abandoned : List (RingId × BitVec 8 × UnitCycles)) : State :=
  let s := fails.foldl warmFail s
  let s := s.fab.txns.foldl loseWaiting s
  let s := answerMirrors { s with fab := { s.fab with txns := [] } }
  let s := abandoned.foldl (fun s x => countAbandoned x.1.toNat s x.2) s
  let s := (s.hop.inflight.map (·.ring)).foldl recoverFlight s
  let s := (s.hop.rings.map (·.1)).foldl (haltIdle 0x11) s
  let s := (s.hop.rings.map (·.1)).foldl closeSegs s
  let s := { dSet s (dk 0x1400 2) 1 with
    hop := { s.hop with stopped := [] }
    pwr := { s.pwr with resetRunning := none, idleSince := BitVec.ofNat 64 (now s) } }
  let s := ((s.fab.txns.map (·.node)).eraseDups).foldl issueAll s
  releaseArrivals ((List.range 6).foldl pump s)

/-- The event that ends a warm reset, behind what the module held for the host (R345, R378). -/
def endWarm (s : State) : State := raiseEvent s 0 0 none 0x1500 3 0

/-! ### Partition reset (R48) -/

/-- The command of a ring is past its commit point: the ring halts behind it, where COMMIT_POS and COMMITTED_SEQ stand once
the miller has completed the record (R44), and its cells go. -/
def haltSealed (s : State) (n : Nat) (c : InFlight) : State :=
  reopenSeg (putRing s n { ringOf s n with
    state := .halted, haltStatus := 0x12, consumer := c.pos + 1, nextSeq := BitVec.ofNat 48 (committedSeq s n + 1), cells := [] }) n

/-- Rings of a partition with no command in flight before its commit point halt; their cells go. -/
def haltPartRing (p : Nat) (s : State) (n : Nat) : State :=
  let r := ringOf s n
  if r.part.toNat ≠ p then s
  else if sealedOn s n then (match flightOf s n with
    | some c => if r.state = .active then haltSealed s n c else s
    | none => s)
  else if s.hop.inflight.any (fun c => c.ring == n) then s
  else if r.state = .active then haltIdle 0x12 s n
  else if r.cells.isEmpty then s
  else putRing s n { r with cells := [] }

/-- A partition reset. -/
def resetPart (s : State) (p : Nat) : State :=
  let s := dAdd s (dk 0x3143 2) 1
  let s := discardParts s [p] 0x12 0
  let s := (s.hop.rings.map (·.1)).foldl (haltPartRing p) s
  updateFence { s with mem := { s.mem with walks := s.mem.walks.filter (fun w => w.1 != p) } } p

/-- A reset of the partition still runs: commands that it discards have not ended (R48). -/
def partResetting (s : State) (p : Nat) : Bool := s.hop.inflight.any (fun c => c.part == p && c.discard == some 0x12)

/-- partition_reset; absorbed by a higher reset and by one of the partition that still runs (R377). It abandons a transition (R370). -/
def partitionResetOp (v : Nat) (s : State) : State × Option Nat :=
  if 15 < v then refuse s
  else if resetting s || partResetting s v then accepted (absorb s)
  else accepted (resetPart (abandonTransition s) v)

/-- PARTITION_RESET: a write of 0x1500:02. -/
def execPartitionReset (rq : Req) (value : Byte) (s : State) : Host.Outcome State Fault Refusal :=
  .next (handleWrite s rq 0x1500 2 [value] (partitionResetOp value.toNat))

/-- reset_cmd as a write: the warm kind. The module kind needs what the start meets, which MODULE_RESET brings. -/
def resetCmdOp (v : Nat) (s : State) : State × Option Nat :=
  if v = 1 then accepted (raiseWarm s 3) else refuse s

end Sys2Proof.Machine
end

