-- ==== Sys2Proof/Machine/Power.lean ====
section
/-! DEFINITION. P-states, the power cap, throttling and the thermal trip (R366 to R375). -/

namespace Sys2Proof.Machine

/-! ### Requests (R368 to R370) -/

/-- Every partition is in state 0 or 3 and nothing is in flight. -/
def idleModule (s : State) : Bool := allQuiet s && s.hop.inflight.isEmpty

/-- A window is ACTIVE or in NOTICE (R276). -/
def windowsUp (s : State) : Bool := (List.range 64).any (fun w => winGet s w 1 == 1 || winGet s w 1 == 2)

/-- A targeted test or a repair is running or queued: the retirement of a channel, and the evacuation of a range, are repairs (R390). -/
def repairRuns (s : State) : Bool :=
  !s.hlth.tests.isEmpty || s.mem.migration.isSome || !s.mem.retireQueue.isEmpty || !s.mem.evacRanges.isEmpty

/-- Why an entry into state `t` is refused; 0 when it may begin. -/
def entryBar (s : State) (t : Nat) : Nat :=
  if 2 ≤ pState s then 4
  else if !idleModule s then 1
  else if t = 4 ∧ windowsUp s then 2
  else if dGet s (dk 0x2413 1) = 1 ∨ dGet s (dk 0x2707 1) = 1 then 5
  else if repairRuns s then 7
  else 0

def setTransition (s : State) (t : Nat) (wake : Bool) (rq : Req) : State :=
  { s with pwr := { s.pwr with transition := some (t, wake), transReq := some rq } }

/-- A refused request leaves its code in power_result. -/
def refusePower (s : State) (code : Nat) : State × Option Nat := refuse (dSet s (dk 0x1400 5) code)

/-- power_request: the response comes when the state is reached, or at once when refused. -/
def powerOp (rq : Req) (v : Nat) (s : State) : State × Option Nat :=
  if resetting s then (s, some stBusy)
  else if 4 < v then refusePower s 4
  else if v < 2 then
    (match s.pwr.transition with
     | some (_, true) => refusePower s 6
     | some (_, false) => (setTransition (wakeFrom s [2, 3, 4]) 1 true rq, none)
     | none => if pState s < 2 then refusePower s 4 else (setTransition s 1 true rq, none))
  else if s.pwr.transition.isSome then refusePower s 6
  else
    let bar := entryBar s v
    if bar = 0 then (setTransition s v false rq, none) else refusePower s bar

/-- A write of power_request. -/
def powerRequest (s : State) (rq : Req) (v : Nat) : State := handleWrite s rq 0x1400 3 (leBytes 1 v) (powerOp rq v)

/-- ENTER_DOZE: a write of 2. -/
def execEnterDoze (rq : Req) (s : State) : Host.Outcome State Fault Refusal := .next (powerRequest s rq 2)

/-- ENTER_LEND: a write of 3. -/
def execEnterLend (rq : Req) (s : State) : Host.Outcome State Fault Refusal := .next (powerRequest s rq 3)

/-- ENTER_SLEEP: a write of 4. -/
def execEnterSleep (rq : Req) (s : State) : Host.Outcome State Fault Refusal := .next (powerRequest s rq 4)

/-- RETURN_TO_P1: a write of 0 or 1. -/
def execReturnToP1 (rq : Req) (value : Byte) (s : State) : Host.Outcome State Fault Refusal :=
  .next (powerRequest s rq value.toNat)

/-- PARK: no command has been in flight for park_idle_ticks (R367). -/
def park (s : State) : State :=
  if live s && pState s == 0 && s.hop.inflight.isEmpty && s.pwr.transition.isNone &&
      decide (s.pwr.idleSince.toNat + dGet s (dk 0x1400 4) ≤ now s) then
    dAdd (dSet s (dk 0x1400 2) 1) (dk 0x3140 1) 1
  else s

def execPark (s : State) : Host.Outcome State Fault Refusal := .next (park s)

/-! ### Entry and wake (R369 to R372, R380) -/

/-- Memories of every core of some kinds lose their content. -/
def loseKinds (s : State) (kinds : List Nat) : State :=
  tickFresh { s with cores := { s.cores with
    sram := s.cores.sram.filter (fun r => !kinds.contains r.kind) ++ (lostMems s s.fresh).filter (fun r => kinds.contains r.kind) } }

/-- Walk registrations and holds are cleared; each fence rises to E. -/
def clearWalks (s : State) : State := allParts.foldl updateFence { s with mem := { s.mem with walks := [] } }

/-- Millpond and write-combining buffers drain; weirs are full; translation caches are lost. -/
def drainMemory (s : State) : State :=
  { s with mem := { s.mem with millpond := [], wcb := [], xlat := [], weirUsed := [] } }

/-- An ACTIVE ring is rewound, with no completion record: its descriptors are fetched and accepted again (R369). -/
def rewindRing (s : State) (n : Nat) : State :=
  let r := ringOf s n
  if r.state = .active then
    putRing s n { r with consumer := r.commitPos, nextSeq := BitVec.ofNat 48 (committedSeq s n + 1), cells := [], openSeg := none,
                         dirStop := false }
  else if r.cells.isEmpty && r.openSeg.isNone then s
  else putRing s n { r with cells := [], openSeg := none, dirStop := false }

/-- Entry into P4: rings rewound, segments lost, the fabric and Falyndi down. -/
def sleepEntry (s : State) : State :=
  let s := (s.hop.rings.map (·.1)).foldl rewindRing s
  let s := { s with
    hop := { s.hop with segments := [], stallQuota := [], stallPool := [], stallHold := [] }
    fab := { s.fab with
      links := s.fab.links.map freshLink, partners := [], dedup := [], dedupCleared := BitVec.ofNat 64 (now s), tags := [],
      txns := [], staged := [], arrivals := [], lasersReady := 0 }
    host := { s.host with link := freshLink s.host.link } }
  closeBywash (answerMirrors (dSet (dSet s (dk 0x1100 1) 0) (dk 0x1100 2) 0))

/-- The state of a P-state entry that completes. -/
def enterState (s : State) (t : Nat) : State :=
  let held := heldValues s t
  let s := match t with
    | 2 => answerMirrors { loseKinds (clearWalks (drainMemory s)) [1, 2, 3, 4] with fab := { s.fab with txns := [] } }
    | 3 => loseKinds (clearWalks { s with mem := { s.mem with xlat := [] } }) [0, 1, 2, 3, 4]
    | _ => sleepEntry (loseKinds (clearWalks (drainMemory s)) [0, 1, 2, 3, 4])
  let s := dAdd (dSet s (dk 0x1400 2) t) (dk 0x3140 t) 1
  { s with pwr := { s.pwr with heldReads := held } }

/-- The module has woken: P1. -/
def wakeUp (s : State) : State :=
  let s := dAdd (dSet s (dk 0x1400 2) 1) (dk 0x3140 1) 1
  { s with pwr := { s.pwr with heldReads := [], millerClock := true, idleSince := BitVec.ofNat 64 (now s) } }

/-- POWER_STATE_REACHED: the transition ends and its requester gets the response. After a wake that interrupted an entry power_result
goes on reading 3 (R370; log entry 18). -/
def stateReached (s : State) : State :=
  if !live s then s
  else match s.pwr.transition with
    | none => s
    | some (t, false) => endTransition (enterState s t) stOk 0
    | some (_, true) =>
      let was := dGet s (dk 0x1400 5)
      let result := if s.pwr.transReq.isSome ∧ was ≠ 3 then 0 else was
      releaseArrivals ((List.range 7).foldl pump (endTransition (wakeUp s) stOk result))

def execPowerStateReached (s : State) : Host.Outcome State Fault Refusal := .next (stateReached s)

/-- MILLER_CLOCK_STOP: after 10 ms without work (R366). -/
def execMillerClockStop (s : State) : Host.Outcome State Fault Refusal :=
  .next (if live s then { s with pwr := { s.pwr with millerClock := false } } else s)

/-! ### Power cap (R373) -/

/-- One sample of package power: the average of the last 10, and a step of the array duty. -/
def capSample (s : State) (watts : BitVec 16) : State :=
  if !live s then s
  else
    let l := keepLast 10 (s.pwr.samples ++ [watts])
    let sum := (l.map (·.toNat)).sum
    let limit := dGet s (dk 0x1401 1) * l.length
    let duty :=
      if s.pwr.throttling || decide (limit < sum) then s.pwr.duty - 1
      else if 100 * sum < 97 * limit then min 64 (s.pwr.duty + 1)
      else s.pwr.duty
    let s := dSet s (dk 0x1401 2) (sum / l.length)
    let s := dSet s (dk 0x1401 3) (watts.toNat * 100 / 92 + Config.boardLoad s.fresh % 16)
    tickFresh { s with pwr := { s.pwr with samples := l, duty := duty } }

/-- POWER_CAP_SAMPLE. -/
def execPowerCapSample (watts : BitVec 16) (s : State) : Host.Outcome State Fault Refusal := .next (capSample s watts)

/-! ### Temperatures (R374, R375) -/

/-- Whether the cap throttles, by what the sensors read and throttle_temp_c is: it begins at the limit and ends 2 °C below (R374). -/
def reThrottle (s : State) : State :=
  let limit := dGet s (dk 0x1402 1)
  let off := s.pwr.sensors.all (fun x => decide (x.2.toNat < limit - 2))
  { s with pwr := { s.pwr with throttling := hotSensor s || (s.pwr.throttling && !off) } }

/-- A write of throttle_temp_c. -/
def throttleTempOp (access : Access) (v : Nat) (s : State) : State × Option Nat :=
  let x := plainOp access 0x1402 1 v s
  (reThrottle x.1, x.2)

/-- THROTTLE: a die sensor's reading starts or stops throttling; at trip_temp_c it trips the module. -/
def throttle (s : State) (sensor celsius : BitVec 8) : State :=
  if !s.pwr.inputOk then s
  else
    let s := readSensor s sensor celsius
    if tooHot s then trip s else reThrottle s

def execThrottle (sensor : BitVec 8) (celsius : BitVec 8) (s : State) : Host.Outcome State Fault Refusal :=
  .next (throttle s sensor celsius)

/-- COOLANT_INLET_WARNING: the reading, as binary32; above 40 °C it raises a warning event. -/
def coolant (s : State) (reading : BitVec 32) : State :=
  if !s.pwr.inputOk then s
  else
    let s := dSet s (dk 0x1402 4) reading.toNat
    if 0x42200000 < reading.toNat ∧ reading.toNat ≤ 0x7F800000 then raiseEvent s 1 0 none 0x1402 4 0 else s

def execCoolantInletWarning (reading : BitVec 32) (s : State) : Host.Outcome State Fault Refusal := .next (coolant s reading)

/-- THERMAL_TRIP: a die sensor reaches 110 °C; the reading stands until the sensors are read again (R414). -/
def thermalTrip (s : State) (celsius : BitVec 8) : State :=
  if !s.pwr.inputOk ∨ celsius.toNat < dGet s (dk 0x1402 2) then s
  else
    let l := s.pwr.sensors.filter (fun x => x.1 != tripSensor) ++ [(tripSensor, celsius)]
    trip (dSet { s with pwr := { s.pwr with sensors := l } } (dk 0x1402 3) (max (dGet s (dk 0x1402 3)) celsius.toNat))

def execThermalTrip (celsius : BitVec 8) (s : State) : Host.Outcome State Fault Refusal := .next (thermalTrip s celsius)

/-- THERM_TRIP_N: the level that the chassis drives. -/
def thermPin (s : State) (low : Bool) : State :=
  let s := { s with pwr := { s.pwr with thermLow := low } }
  if low && s.pwr.inputOk then trip s else s

def execThermTripN (low : Bool) (s : State) : Host.Outcome State Fault Refusal := .next (thermPin s low)

end Sys2Proof.Machine
end

