-- ==== Sys2Proof/Machine/Orogus.lean ====
section
/-! DEFINITION. Orogus requests: reading, writing and describing entries, segmented transfers, and the mailbox (R351 to R361, R427). -/

namespace Sys2Proof.Machine

/-! ### Writing (R353, R357 to R361) -/

/-- A write of a T3 pool entry makes it a fresh one: its lender's notice no longer concerns it (R275). -/
def poolWrite (access : Access) (index sub v : Nat) (s : State) : State × Option Nat :=
  let x := plainOp access index sub v s
  let e := 16 * (index % 16) + (if sub ≤ 16 then sub - 1 else sub - 17)
  if x.2 = some stOk then ({ x.1 with fab := { x.1.fab with noticed := x.1.fab.noticed.filter (· != e) } }, x.2) else x

/-- A margining run asked by a plain WRITE: what the PHY finds is open. -/
def openRun (op : Bool → Bool → Nat → State → State × Option Nat) (s : State) : State × Option Nat :=
  let w := (Config.freeWord s.fresh).toNat
  op (bit w 0) (bit w 1) (bits w 63 32) (tickFresh s)

/-- What the owning chapter does with a write of an entry, by its key. -/
def keyOp (access : Access) (index sub v : Nat) (s : State) : State × Option Nat :=
  let k := dk index sub
  if k = 0x120003 then eventAckOp v s
  else if k = 0x130102 then fwStageOp v s
  else if k = 0x131003 then secverOp v s
  else if k = 0x140201 then throttleTempOp access v s
  else if k = 0x150002 then partitionResetOp v s
  else if k = 0x210004 then ringCmd v s
  else if k = 0x240007 then region0Op v s
  else if k = 0x241301 then marginEnableOp v s
  else if k = 0x241305 then openRun (marginRunOp v) s
  else if k = 0x27000B then bywashForceOp v s
  else if k = 0x270701 then lmarginEnableOp v s
  else if k = 0x270706 then openRun (lmarginRunOp v) s
  else if k = 0x271001 then lendOp v s
  else if k = 0x400101 then recordSelectOp v s
  else if k = 0x420001 then injOp v s
  else plainOp access index sub v s

/-- The entries of one partition. -/
def partitionOp (access : Access) (p sub v : Nat) : State → State × Option Nat :=
  match sub with
  | 0x01 => enabledOp p v
  | 0x02 => coreMaskOp p 0 v
  | 0x03 => coreMaskOp p 1 v
  | 0x04 => coreMaskOp p 2 v
  | 0x06 => quiesceOp p v
  | 0x0D => tallyRangeOp p false v
  | 0x0E => tallyRangeOp p true v
  | _ => plainOp access (0x2000 + p) sub v

/-- The key-value entries of one partition. -/
def kvOp (access : Access) (p sub v : Nat) : State → State × Option Nat :=
  match sub with
  | 0x03 => kvPoolOp p v
  | 0x04 => walkFenceOp p v
  | 0x08 => prefixNodesOp p v
  | _ => plainOp access (0x2610 + p) sub v

/-- What the owning chapter does with a write. -/
def entryOp (access : Access) (index sub v : Nat) : State → State × Option Nat :=
  if 0x2000 ≤ index ∧ index < 0x2010 then partitionOp access (index - 0x2000) sub v
  else if 0x2610 ≤ index ∧ index < 0x2620 then kvOp access (index - 0x2610) sub v
  else if 0x2430 ≤ index ∧ index < 0x2440 then poolWrite access index sub v
  else if index = 0x2301 then vanishOp (sub - 1) v
  else if index = 0x2830 ∨ index = 0x2831 then tapOp ((index - 0x2830) * 128 + (sub - 1)) v
  else keyOp access index sub v

/-- Why a write is answered without reaching its owning chapter: absent, right, type, length, value of a BOOL. -/
def writeBar (s : State) (index sub : Nat) (value : List Byte) : Option Nat :=
  if hidden s index then some stNoEntry
  else match dictEntry s.variant (dk index sub) with
    | none => some stNoEntry
    | some e =>
      if e.access = .const ∨ e.access = .ro then some stReadOnly
      else if e.type = .dom then some stNeedsSegmented
      else if value.length ≠ e.type.size then some stBadLength
      else if e.type = .bool ∧ 1 < leNat value then some stRefused
      else none

/-- What a start meets when only the module's own state tells: its straps as sampled, no failure, an open test time. -/
def plainInfo (s : State) : StartInfo :=
  { slotId := BitVec.ofNat 8 (dGet s (dk 0x1110 1)), modRstLow := s.pwr.modRstLow, sensors := [], loadFails := [], fails := [],
    testTicks := (Config.freeWord s.fresh).setWidth 32 }

/-- A WRITE of reset_cmd: its response precedes the reset. -/
def resetRequest (s : State) (rq : Req) (v : Nat) : State :=
  handle s rq 0x02 0x1500 1 (fun s =>
    if v = 1 then raiseWarm (respond s rq 0x02 0x1500 1 stOk []) 3
    else if v = 2 then moduleByCommand (respond (tickFresh s) rq 0x02 0x1500 1 stOk []) (plainInfo s)
    else respond s rq 0x02 0x1500 1 stRefused [])

/-- A write of an entry of the factory test range: no entry, unless factory test mode opens it (R361); what the test entries
do is not part of the spec. -/
def factoryWrite (s : State) (rq : Req) (index sub : Nat) : State :=
  handle s rq 0x02 index sub (fun s => respond s rq 0x02 index sub (if s.host.factoryTest then stOk else stNoEntry) [])

/-- WRITE. -/
def writeRequest (s : State) (rq : Req) (index sub : Nat) (value : List Byte) : State :=
  if 0x7000 ≤ index ∧ index ≤ 0x7FFF ∧ !hidden s index then factoryWrite s rq index sub
  else match writeBar s index sub value, dictEntry s.variant (dk index sub) with
    | none, some e =>
      if dk index sub = 0x150001 then resetRequest s rq (leNat value)
      else if dk index sub = 0x140003 then powerRequest s rq (leNat value)
      else if dk index sub = 0x210008 then mirrorRequest s rq (leNat value)
      else handleWrite s rq index sub value (entryOp e.access index sub (leNat value))
    | some st, _ => handle s rq 0x02 index sub (fun s => respond s rq 0x02 index sub st [])
    | none, none => s

def execWrite (rq : Req) (index : BitVec 16) (sub : BitVec 8) (value : List Byte) (s : State) :
    Host.Outcome State Fault Refusal :=
  .next (writeRequest s rq index.toNat sub.toNat value)

/-! ### Reading (R357 to R359, R372) -/

/-- A read that a reset keeps from being served. -/
def readBlocked (s : State) (k : Nat) : Bool := resetting s && !aonEntry k

/-- The status and payload of a READ. -/
def readAnswer (s : State) (index sub : Nat) : Nat × List Byte :=
  let k := dk index sub
  match (if hidden s index then none else dictEntry s.variant k) with
  | none => (stNoEntry, [])
  | some e =>
    if e.access = .wo then (stWriteOnly, [])
    else if e.type = .dom then (stNeedsSegmented, [])
    else if readBlocked s k then (stBusy, [])
    else if e.type = .str then (stOk, strValue s k)
    else (stOk, leBytes e.type.size (dictValue s k))

/-- READ. -/
def readRequest (s : State) (rq : Req) (index sub : Nat) : State :=
  handle s rq 0x01 index sub (fun s => let a := readAnswer s index sub; respond s rq 0x01 index sub a.1 a.2)

def execRead (rq : Req) (index : BitVec 16) (sub : BitVec 8) (s : State) : Host.Outcome State Fault Refusal :=
  .next (readRequest s rq index.toNat sub.toNat)

/-- The status and payload of a DESCRIBE (R358). -/
def describeAnswer (s : State) (index sub : Nat) : Nat × List Byte :=
  match (if hidden s index then none else dictEntry s.variant (dk index sub)) with
  | none => (stNoEntry, [])
  | some e => (stOk, leBytes 1 e.type.code ++ leBytes 1 e.access.code ++ leBytes 1 e.persist.code ++ leBytes 1 0 ++
      leBytes 4 (e.maxLen (dk index sub)))

/-- DESCRIBE. -/
def describeRequest (s : State) (rq : Req) (index sub : Nat) : State :=
  handle s rq 0x03 index sub (fun s => let a := describeAnswer s index sub; respond s rq 0x03 index sub a.1 a.2)

def execDescribe (rq : Req) (index : BitVec 16) (sub : BitVec 8) (s : State) : Host.Outcome State Fault Refusal :=
  .next (describeRequest s rq index.toNat sub.toNat)

/-- The payload of a DISCOVER response. -/
def discoverPayload (s : State) : List Byte :=
  let a := strValue s (dk 0x1000 2)
  let b := strValue s (dk 0x1000 5)
  leBytes 1 a.length ++ a ++ leBytes 1 b.length ++ b

/-- DISCOVER. -/
def discoverRequest (s : State) (rq : Req) : State := handle s rq 0x0B 0 0 (fun s => respond s rq 0x0B 0 0 stOk (discoverPayload s))

def execDiscover (rq : Req) (s : State) : Host.Outcome State Fault Refusal := .next (discoverRequest s rq)

/-! ### Segmented transfers (R356, R405, R409, R427) -/

/-- The session of an entry and a requester. -/
def sessionIs (src : Source) (index sub : Nat) (x : Session) : Bool :=
  x.index.toNat == index && x.sub.toNat == sub && sameSource x.src src

def findSession (s : State) (src : Source) (index sub : Nat) : Option Session :=
  s.host.sessions.find? (sessionIs src index sub)

def dropSession (s : State) (src : Source) (index sub : Nat) : State :=
  { s with host := { s.host with sessions := s.host.sessions.filter (fun x => !sessionIs src index sub x) } }

/-- A message of a session restarts its 5 s. -/
def touchSession (s : State) (src : Source) (index sub : Nat) : State :=
  { s with host := { s.host with
    sessions := modifyFirst (sessionIs src index sub) (fun x => { x with last := BitVec.ofNat 64 (now s) }) s.host.sessions } }

/-- A session ends with no object applied: a download to fw_bundle leaves its slot EMPTY. -/
def cutSession (s : State) (src : Source) (index sub : Nat) : State :=
  match findSession s src index sub with
  | none => s
  | some x =>
    let s := dropSession s src index sub
    if !x.upload && x.index == 0x1301 then endStaging s else s

/-- ⌈SIZE / 1,024⌉. -/
def segmentCount (size : Nat) : Nat := (size + 1023) / 1024

/-- What keeps a session from opening: right, type, a block that is not served. -/
def sessionBar (s : State) (index sub : Nat) (up : Bool) : Option Nat :=
  match (if hidden s index then none else dictEntry s.variant (dk index sub)) with
  | none => some stNoEntry
  | some e =>
    if up ∧ e.access = .wo then some stWriteOnly
    else if !up ∧ (e.access = .const ∨ e.access = .ro) then some stReadOnly
    else if e.type ≠ .dom then some stBadMessage
    else if (if up then readBlocked s (dk index sub) else blocked s (dk index sub)) then some stBusy
    else none

/-- A further session fits, beside the ones of other entries and requesters. -/
def sessionRoom (s : State) (src : Source) (index sub : Nat) : Bool :=
  decide ((s.host.sessions.filter (fun x => !sessionIs src index sub x)).length < 4)

/-- SEG_INIT_UP: the snapshot. -/
def initUp (s : State) (rq : Req) (index sub : Nat) : State :=
  handle s rq 0x04 index sub (fun s =>
    match sessionBar s index sub true with
    | some st => respond s rq 0x04 index sub st []
    | none =>
      if !sessionRoom s rq.src index sub then respond s rq 0x04 index sub stBusy []
      else
        let o := domValue s (dk index sub)
        let x : Session :=
          { index := BitVec.ofNat 16 index, sub := BitVec.ofNat 8 sub, src := rq.src, upload := true,
            size := BitVec.ofNat 64 o.length, segments := BitVec.ofNat 32 (segmentCount o.length), crc := crc32 o,
            snapshot := o, held := [], last := BitVec.ofNat 64 (now s) }
        let s := dropSession s rq.src index sub
        let s := { s with host := { s.host with sessions := s.host.sessions ++ [x] } }
        respond s rq 0x04 index sub stOk (leBytes 8 o.length ++ leBytes 4 (segmentCount o.length) ++ leBytes 4 (crc32 o).toNat))

def execSegInitUp (rq : Req) (index : BitVec 16) (sub : BitVec 8) (s : State) : Host.Outcome State Fault Refusal :=
  .next (initUp s rq index.toNat sub.toNat)

/-- A download of this size is refused. -/
def sizeRefused (k size : Nat) : Bool := decide (domMax k < size) || (k == dk 0x1340 1 && size != 32)

/-- Another requester's download to the entry is open. -/
def downloadOpen (s : State) (src : Source) (index sub : Nat) : Bool :=
  s.host.sessions.any (fun x => !x.upload && x.index.toNat == index && x.sub.toNat == sub && !sameSource x.src src)

/-- SEG_INIT_DOWN; a download to fw_bundle makes its slot STAGING. -/
def initDown (s : State) (rq : Req) (index sub size segments : Nat) (crc : BitVec 32) : State :=
  handle s rq 0x05 index sub (fun s =>
    match sessionBar s index sub false with
    | some st => respond s rq 0x05 index sub st []
    | none =>
      if sizeRefused (dk index sub) size then respond s rq 0x05 index sub stRefused []
      else if segments ≠ segmentCount size then respond s rq 0x05 index sub stSegOrder []
      else if downloadOpen s rq.src index sub ∨ !sessionRoom s rq.src index sub then respond s rq 0x05 index sub stBusy []
      else
        let x : Session :=
          { index := BitVec.ofNat 16 index, sub := BitVec.ofNat 8 sub, src := rq.src, upload := false,
            size := BitVec.ofNat 64 size, segments := BitVec.ofNat 32 segments, crc := crc, snapshot := [], held := [], last := BitVec.ofNat 64 (now s) }
        let s := dropSession s rq.src index sub
        let s := { s with host := { s.host with sessions := s.host.sessions ++ [x] } }
        let s := if index = 0x1301 then
            setSlotState (putSlot s (spareSlot s) { bytes := [], byRollback := false }) (spareSlot s) 1 else s
        respond s rq 0x05 index sub stOk [])

def execSegInitDown (rq : Req) (index : BitVec 16) (sub : BitVec 8) (size : Word) (segments : BitVec 32) (crc : BitVec 32)
    (s : State) : Host.Outcome State Fault Refusal :=
  .next (initDown s rq index.toNat sub.toNat size.toNat segments.toNat crc)

/-- SEGLEN of segment n. -/
def segmentLen (x : Session) (n : Nat) : Nat :=
  if n + 1 = x.segments.toNat then x.size.toNat - 1024 * n else 1024

/-- The header of a segment. -/
def segmentHead (n len : Nat) (last : Bool) (crc : BitVec 32) : List Byte :=
  leBytes 4 n ++ leBytes 2 len ++ leBytes 1 (if last then 1 else 0) ++ leBytes 1 0 ++ leBytes 4 crc.toNat

/-- What a SEGMENT of a download is answered, and whether it is kept. -/
def segmentAnswer (x : Session) (n len flags : Nat) (crc : BitVec 32) (data : List Byte) : Nat × Bool :=
  if 1 < flags then (stBadMessage, false)
  else if crc32 data ≠ crc then (stSegCrc, false)
  else if x.segments.toNat ≤ n ∨ len ≠ segmentLen x n ∨ data.length ≠ len ∨ (flags = 1) ≠ (n + 1 = x.segments.toNat) then
    (stSegOrder, false)
  else (stOk, !(x.held.any (fun h => h.1 == n)))

/-- A message of an open session: NO_ENTRY where recovery hides the entry (R404), NO_SESSION without one. -/
def inSession (s : State) (rq : Req) (type index sub : Nat) (f : State → Session → State) : State :=
  handle s rq type index sub (fun s =>
    if hidden s index then respond s rq type index sub stNoEntry []
    else match findSession s rq.src index sub with
      | none => respond s rq type index sub stNoSession []
      | some x => f s x)

/-- SEGMENT. -/
def takeSegment (s : State) (rq : Req) (index sub n len flags : Nat) (crc : BitVec 32) (data : List Byte) : State :=
  inSession s rq 0x06 index sub (fun s x =>
      if x.upload then respond s rq 0x06 index sub stNoSession []
      else
        let s := touchSession s rq.src index sub
        let a := segmentAnswer x n len flags crc data
        let l := modifyFirst (sessionIs rq.src index sub) (fun (x : Session) => { x with held := x.held ++ [(n, data)] }) s.host.sessions
        let s := if a.2 then { s with host := { s.host with sessions := l } } else s
        respond s rq 0x06 index sub a.1 [])

def execSegment (rq : Req) (index : BitVec 16) (sub : BitVec 8) (segno : BitVec 32) (seglen : BitVec 16) (flags : BitVec 8)
    (crc : BitVec 32) (data : List Byte) (s : State) : Host.Outcome State Fault Refusal :=
  .next (takeSegment s rq index.toNat sub.toNat segno.toNat seglen.toNat flags.toNat crc data)

/-- SEG_REQ: a segment of the snapshot. -/
def giveSegment (s : State) (rq : Req) (index sub n : Nat) : State :=
  inSession s rq 0x07 index sub (fun s x =>
      if !x.upload then respond s rq 0x07 index sub stNoSession []
      else if x.segments.toNat ≤ n then respond (touchSession s rq.src index sub) rq 0x07 index sub stSegOrder []
      else
        let s := touchSession s rq.src index sub
        let data := (x.snapshot.drop (1024 * n)).take 1024
        respond s rq 0x07 index sub stOk
          (segmentHead n data.length (n + 1 == x.segments.toNat) (crc32 data) ++ data))

def execSegReq (rq : Req) (index : BitVec 16) (sub : BitVec 8) (segno : BitVec 32) (s : State) :
    Host.Outcome State Fault Refusal :=
  .next (giveSegment s rq index.toNat sub.toNat segno.toNat)

/-- The whole object of a download, in segment order. -/
def wholeObject (x : Session) : List Byte :=
  (List.range x.segments.toNat).flatMap (fun n => ((x.held.find? (fun h => h.1 == n)).map (·.2)).getD [])

/-- A complete download takes effect whole. -/
def applyObject (s : State) (src : Source) (index sub : Nat) (o : List Byte) : State :=
  let s := if index = 0x1301 then stageObject s o else attest s o
  journalObject s src index sub o

/-- SEG_END. -/
def endSession (s : State) (rq : Req) (index sub : Nat) : State :=
  inSession s rq 0x08 index sub (fun s x =>
      if x.upload then respond (dropSession s rq.src index sub) rq 0x08 index sub stOk []
      else if x.held.length ≠ x.segments.toNat then respond (touchSession s rq.src index sub) rq 0x08 index sub stSegOrder []
      else if crc32 (wholeObject x) ≠ x.crc then respond (touchSession s rq.src index sub) rq 0x08 index sub stSegCrc []
      else respond (applyObject (dropSession s rq.src index sub) rq.src index sub (wholeObject x)) rq 0x08 index sub stOk [])

def execSegEnd (rq : Req) (index : BitVec 16) (sub : BitVec 8) (s : State) : Host.Outcome State Fault Refusal :=
  .next (endSession s rq index.toNat sub.toNat)

/-- SEG_ABORT. -/
def abortSession (s : State) (rq : Req) (index sub : Nat) : State :=
  inSession s rq 0x09 index sub (fun s _ => respond (cutSession s rq.src index sub) rq 0x09 index sub stOk [])

def execSegAbort (rq : Req) (index : BitVec 16) (sub : BitVec 8) (s : State) : Host.Outcome State Fault Refusal :=
  .next (abortSession s rq index.toNat sub.toNat)

/-- SESSION_TIMEOUT: 5 s without a message, 125,000,000 ticks. -/
def lapseSession (s : State) (src : Source) (index sub : Nat) : State :=
  match findSession s src index sub with
  | none => s
  | some x => if now s < x.last.toNat + 125000000 then s else cutSession s src index sub

def execSessionTimeout (src : Source) (index : BitVec 16) (sub : BitVec 8) (s : State) : Host.Outcome State Fault Refusal :=
  .next (if s.pwr.inputOk then lapseSession s src index.toNat sub.toNat else s)

/-! ### Messages and the mailbox (R351, R352, R354) -/

/-- A request by its TYPE (spec/13 "Message types"). -/
def applyMessage (s : State) (rq : Req) (type index sub : Nat) (payload : List Byte) : State :=
  let bad (st : Nat) : State := handle s rq type index sub (fun s => respond s rq type index sub st [])
  let none' (f : State) : State := if payload.isEmpty then f else bad stBadLength
  match type with
  | 0x01 => none' (readRequest s rq index sub)
  | 0x02 => writeRequest s rq index sub payload
  | 0x03 => none' (describeRequest s rq index sub)
  | 0x04 => none' (initUp s rq index sub)
  | 0x05 =>
    if payload.length ≠ 16 then bad stBadLength
    else initDown s rq index sub (leNat (payload.take 8)) (leNat ((payload.drop 8).take 4))
      (BitVec.ofNat 32 (leNat ((payload.drop 12).take 4)))
  | 0x06 =>
    let h := payload.take 12
    if payload.length < 12 then bad stBadLength
    else if h.getD 7 0 ≠ 0 then bad stBadMessage
    else takeSegment s rq index sub (leNat (h.take 4)) (leNat ((h.drop 4).take 2)) (h.getD 6 0).toNat
      (BitVec.ofNat 32 (leNat ((h.drop 8).take 4))) (payload.drop 12)
  | 0x07 =>
    if payload.length ≠ 12 then bad stBadLength
    else if leNat (payload.drop 4) ≠ 0 then bad stBadMessage
    else giveSegment s rq index sub (leNat (payload.take 4))
  | 0x08 => none' (endSession s rq index sub)
  | 0x09 => none' (abortSession s rq index sub)
  | 0x0B => none' (if index = 0 ∧ sub = 0 then discoverRequest s rq else bad stBadMessage)
  | _ => bad stBadMessage

/-- A message as bytes: dropped unless MAGIC and VERSION are right; reserved fields and STATUS of a request are zero. -/
def takeMessage (s : State) (src : Source) (m : List Byte) : State :=
  let g0 := leNat (m.take 8)
  let g1 := leNat ((m.drop 8).take 8)
  if m.length < 16 ∨ bits g0 15 0 ≠ 0x0C61 ∨ bits g0 23 16 ≠ 1 then countT s 0x3117 1
  else
    let rq : Req := { txid := BitVec.ofNat 32 (bits g0 63 32), src := src }
    let type := bits g0 31 24
    let index := bits g1 23 8
    let sub := bits g1 31 24
    let len := bits g1 63 48
    let s := match src with
      | .mailbox => { s with host := { s.host with mailBusy := true } }
      | .bus _ | .badBus _ => s
    if bits g1 47 32 ≠ 0 ∨ bits g1 7 0 ≠ 0 ∨ 1036 < len ∨ m.length < 16 + len then
      handle s rq type index sub (fun s => respond s rq type index sub
        (if bits g1 47 32 ≠ 0 ∨ bits g1 7 0 ≠ 0 then stBadMessage else stBadLength) [])
    else applyMessage s rq type index sub ((m.drop 16).take len)

/-- The bytes of the mailbox request buffer. -/
def mailBytes (s : State) : List Byte := (List.range 2048).map (tableGet (fun _ => 0) s.host.mailReq)

/-- The mailbox doorbell; one written before the previous response is ready is ignored and counted. -/
def mailDoorbell (s : State) : State :=
  if !s.pwr.inputOk || !falyndiUp s then s
  else if s.host.mailBusy then countT s 0x3116 1
  else takeMessage s .mailbox (mailBytes s)

/-- MAILBOX_DOORBELL, a host write like any other: it waits with those before it, and is discarded while LINK_LOST stands (R347, R348). -/
def execMailboxDoorbell (txid : Word) (s : State) : Host.Outcome State Fault Refusal :=
  .next (if s.host.linkLost then dropHost s
    else if hostQueued s then holdHost s (hostPut (2 ^ 41 + 0x11000) (leBytes 8 txid.toNat))
    else mailDoorbell s)

end Sys2Proof.Machine
end

