-- ==== Sys2Proof/Machine/Falyndi.lean ====
section
/-! DEFINITION. Falyndi: training, loss and restore, host accesses through the FHA-4, and the end of a warm reset, which lets the
held traffic go (R341 to R349, R354, R378). -/

namespace Sys2Proof.Machine

/-! ### Host accesses (R344, R345, R354) -/

/-- A host read is complete with these bytes. -/
def hostAnswer (s : State) (bs : List Byte) : State := { s with host := { s.host with hostRead := bs } }

/-- The module answers a host read: a RESPONSE on VC 1 (R342). -/
def hostReply (s : State) (tag : Nat) (bs : List Byte) : State :=
  falyndiOut (hostAnswer s bs) 1 (falyndiPacket 8 bs.length tag 0 bs)

/-- All ones. -/
def ones (n : Nat) : List Byte := List.replicate n 0xFF

/-- A range of region 0 or 1 as the host sees it. -/
def barRange (s : State) (region off n : Nat) : Bool :=
  let a := gaMake (nodeId s) region off
  decide (off + n ≤ 2 ^ 40) && (n == 0 || (inRegion s region off && inRegion s region (off + n - 1))) && decide (a < 2 ^ 60)
where
  inRegion (s : State) (region off : Nat) : Bool :=
    if region = 0 then decide (off < region0Size s)
    else decide (off / 2 ^ 36 < 12 ∧ off % 2 ^ 36 < pinnedBytes s)

/-- A host write to HBM; a write to ring memory goes to both copies (R22). -/
def hostStore (s : State) (a : Nat) (data : List Byte) : State :=
  mirrorWrite (touchRange none true (storeM s a data) a data.length) a data

/-- A host read of HBM, which meets the injections armed for it (R430); lost lines are uncorrectable, and what their bytes answer is open
(R240). -/
def hostLoad (s : State) (a n tag : Nat) : State :=
  let s := fireRead s a n
  let bs := (List.range n).map (fun i => if lostIn s (a + i) 1 then Config.freeByte s.fresh i else ldByte s (a + i))
  let s' := hostReply (touchRange none false (tickFresh s) a n) tag bs
  match firstLost s a n with
  | some l => (detectError s' (uncorrectableRead s 0 l false) none).1
  | none => s'

/-- Doorbells in the data of a host write to their window: each whole 8-byte word rings its ring. -/
def hostDoorbells : Nat → Nat → List Byte → State → State
  | 0, _, _, s => s
  | fuel + 1, y, data, s =>
    if data.length < 8 then s
    else
      let s := if live s then wakeFrom (ringDoorbell s (y / 8) (leNat (data.take 8))) [2] else s
      hostDoorbells fuel (y + 8) (data.drop 8) s

/-- Host bytes into the mailbox request buffer. -/
def mailWrite (s : State) : Nat → List Byte → State
  | _, [] => s
  | o, b :: t =>
    mailWrite { s with host := { s.host with mailReq := if o < 2048 then tableSet (fun _ => 0) o b s.host.mailReq else s.host.mailReq } }
      (o + 1) t

/-- A host write to the control window; what is not listed is discarded. -/
def controlWrite (s : State) (y : Nat) (data : List Byte) : State :=
  if 0x10000 ≤ y ∧ y < 0x10800 then mailWrite s (y - 0x10000) data
  else if y = 0x11000 ∧ data.length = 8 then mailDoorbell s
  else if 0x20000 ≤ y ∧ y < 0x40000 ∧ y % 8 = 0 then hostDoorbells (data.length / 8) (y - 0x20000) data s
  else s

/-- One byte of the control window; the FHA-4's own registers and the doorbells have no stated read value. -/
def controlByte (s : State) (y : Nat) : Byte :=
  if y < 0x10000 then Config.freeByte s.fresh y
  else if y < 0x10800 then tableGet (fun _ => 0) s.host.mailReq (y - 0x10000)
  else if y < 0x11000 then s.host.mailResp.getD (y - 0x10800) 0
  else if y < 0x11008 then Config.freeByte s.fresh y
  else if y = 0x11008 then s.host.cause.setWidth 8
  else if y < 0x20000 then 0
  else if y < 0x40000 then Config.freeByte s.fresh y
  else 0

/-- A host read of the control window: the cause register is cleared by it; the FHA-4 answers for its own registers. -/
def controlRead (s : State) (y n tag : Nat) : State :=
  let bs := (List.range n).map (fun i => controlByte s (y + i))
  let s := tickFresh (if y < 0x10000 then hostAnswer s bs else hostReply s tag bs)
  if y ≤ 0x11008 ∧ 0x11008 < y + n then { s with host := { s.host with cause := 0 } } else s

/-- A host write that reaches the module. -/
def deliverWrite (s : State) (a : Nat) (data : List Byte) : State :=
  if a < 2 ^ 41 then
    (if barRange s (a / 2 ^ 40) (a % 2 ^ 40) data.length then hostStore s (gaMake (nodeId s) (a / 2 ^ 40) (a % 2 ^ 40)) data
     else countT s 0x3115 1)
  else if a < 2 ^ 41 + 2 ^ 24 then controlWrite s (a - 2 ^ 41) data
  else s

/-- A host read that reaches the module. -/
def deliverRead (s : State) (a n tag : Nat) : State :=
  if a < 2 ^ 41 then
    (if barRange s (a / 2 ^ 40) (a % 2 ^ 40) n then hostLoad s (gaMake (nodeId s) (a / 2 ^ 40) (a % 2 ^ 40)) n tag
     else hostReply (countT s 0x3115 1) tag (ones n))
  else if a < 2 ^ 41 + 2 ^ 24 then controlRead s (a - 2 ^ 41) n tag
  else s

/-- A host access that reaches the module. -/
def deliverAccess (s : State) (x : HostAccess) : State :=
  if x.isWrite then deliverWrite s x.addr x.data else deliverRead s x.addr x.len x.tag

/-- It reaches a row under test, whose accesses are held (R384). -/
def accessHeld (s : State) (x : HostAccess) : Bool :=
  decide (x.addr < 2 ^ 41) && rowHeld s (gaMake (nodeId s) (x.addr / 2 ^ 40) (x.addr % 2 ^ 40)) x.len

/-- The accesses that wait reach the module in their order, up to one whose row is under test. -/
def flushIn : Nat → State → State
  | 0, s => s
  | fuel + 1, s =>
    match s.host.fhaBuf with
    | [] => s
    | x :: t =>
      if !falyndiUp s || accessHeld s x then s
      else flushIn fuel (deliverAccess { s with host := { s.host with fhaBuf := t } } x)

/-- A host write: delivered, held in the FHA-4's 256 KiB buffer, or discarded while LINK_LOST stands. -/
def hostWriteAccess (s : State) (a : Nat) (data : List Byte) : State :=
  if 2 ^ 41 ≤ a ∧ a < 2 ^ 41 + 0x10000 then s
  else if s.host.linkLost then dropHost s
  else if hostQueued s || accessHeld s (hostPut a data) then holdHost s (hostPut a data)
  else if falyndiUp s then deliverWrite s a data
  else s

/-- A host read: all ones while LINK_LOST stands or the link is down; while the link retrains it waits behind the writes before it. -/
def hostReadAccess (s : State) (a n tag : Nat) : State :=
  let x : HostAccess := { isWrite := false, addr := a, len := n, data := [], tag := tag }
  if 2 ^ 41 ≤ a ∧ a < 2 ^ 41 + 0x10000 then controlRead s (a - 2 ^ 41) n tag
  else if s.host.linkLost then hostAnswer s (ones n)
  else if hostQueued s || accessHeld s x then holdHost s x
  else if falyndiUp s then deliverRead s a n tag
  else hostAnswer s (ones n)

/-- FALYNDI_HOST_ACCESS: at most 256 bytes (R342). -/
def execFalyndiHostAccess (isWrite : Bool) (address : Word) (len : BitVec 16) (data : List Byte) (s : State) :
    Host.Outcome State Fault Refusal :=
  .next (if 256 < len.toNat then s
    else if isWrite then hostWriteAccess s address.toNat (padTo len.toNat data)
    else hostReadAccess s address.toNat len.toNat 0)

/-- The slots of the whole transactions of a class that stand in a receive buffer: each header slot with its data slots. -/
def wholeTxns : Nat → List (List Byte) → List (List (List Byte))
  | 0, _ => []
  | fuel + 1, q =>
    match q with
    | [] => []
    | h :: t => if t.length < slotsFor h then [] else (h :: t.take (slotsFor h)) :: wholeTxns fuel (t.drop (slotsFor h))

/-- A transaction of the host that has arrived whole in flits (R342): a WRITE or a READ of at most 256 bytes is a host access. -/
def hostTxn (s : State) (slots : List (List Byte)) : State :=
  let head := slots.headD []
  let x0 := leNat (head.take 8)
  let len := bits x0 55 45
  let addr := leNat ((head.drop 16).take 8)
  if 256 < len then s
  else if bits x0 63 60 = 1 then hostWriteAccess s addr (padTo len ((slots.drop 1).flatMap id))
  else if bits x0 63 60 = 0 then hostReadAccess s addr len (bits (leNat ((head.drop 8).take 8)) 63 32)
  else s

/-- What a data flit of the host, accepted in order, completes on its VC: VC 0 brings writes, VC 1 reads (R342); responses to the module's own
reads, on VC 3, bring what the module has taken already (log entry 9). -/
def hostFlit (s : State) (before : Link) (bs : List Byte) : State :=
  let h := flitHead bs
  let q := ((before.rxSlots.filter (fun x => x.1 == h.vc)).map (·.2)) ++
    ((List.range 8).filter (fun i => bit h.slotv i)).map (fun i => (bs.drop (16 + 32 * i)).take 32)
  if h.vc < 2 then (wholeTxns q.length q).foldl hostTxn s else s

/-- FLIT: a flit arrives on a link. What the lanes carried, and so whether its blocks decoded and how many symbols were
corrected, is seen only on the lanes between two ports (R256); the command brings the decoder's outcome (log entry 15). On Falyndi the host's whole
transactions act as its accesses; FALYNDI_HOST_ACCESS gives an access without its flits. -/
def execFlit (link : BitVec 3) (bytes : List Byte) (blockGood : Bool) (corrected : BitVec 16) (s : State) :
    Host.Outcome State Fault Refusal :=
  .next (if link = 7 ∨ !linkStays s link.toNat then s
    else
      let before := getLink s link.toNat
      let s := receiveFlit (linkCount s link.toNat 0x3283 0 corrected.toNat) link.toNat bytes blockGood
      if link = 6 ∧ (getLink s 6).rxNext ≠ before.rxNext then hostFlit s before bytes else s)

/-! ### What waits is delivered (R347, R348) -/

/-- One record or message that the module held; a completion message keeps to the holdoff (R346). -/
def flushOne (s : State) (h : Nat × List Byte) : State :=
  if msixPlace 0 < h.1 then sendVector s (h.1 - msixPlace 0)
  else if h.1 = msixPlace 0 then sendMsix s 0
  else hostWrite s h.1 h.2

/-- Once the link carries traffic: the module's held writes in order, then the FHA-4's. -/
def flushHeld (s : State) : State :=
  if !falyndiUp s then s
  else
    let out := s.host.held
    let s := out.foldl flushOne { s with
      host := { s.host with held := [] }
      hop := { s.hop with inflight := s.hop.inflight.map (fun c => { c with hostLate := false, hostWait := none }) } }
    pump (flushIn s.host.fhaBuf.length s) 6

/-- WARM_RESET_RECOVERY, once the table of outstanding transactions is empty; the links release their traffic after it, and the event follows
(R345, R378). -/
def execWarmResetRecovery (found : RecoveryInfo) (s : State) : Host.Outcome State Fault Refusal :=
  .next (if warmDrained s then endWarm (flushHeld (recoverWarm s found.checkerFails found.abandoned)) else s)

/-! ### Training, loss, restore (R343, R347 to R349) -/

/-- The lanes Falyndi can run on: 0 to 3, or the spare in place of the one that is not good. -/
def falyndiLanes (good : BitVec 5) : Option (Nat × Option Nat) :=
  match (List.range 5).filter (fun k => !bit good.toNat k) with
  | [] => some (0x0F, none)
  | [4] => some (0x0F, none)
  | [k] => some (0x1F - 2 ^ k, some k)
  | _ => none

/-- The lanes training found good, less the one that repair has given up. -/
def falyndiGood (s : State) (good : BitVec 5) : BitVec 5 :=
  match s.host.link.spareFor with
  | some k => good &&& ~~~(1#5 <<< k)
  | none => good

/-- The link may train: powered, no reset holds it, not asleep, not in recovery, and not up. -/
def mayTrain (s : State) : Bool :=
  s.pwr.inputOk && !s.pwr.held && !s.fw.recovery && dGet s (dk 0x1100 1) != 2 &&
  (pState s != 4 || s.pwr.transition == some (1, true))

/-- The link stays down: retraining goes on and its restore timer with it, or it stays lost (R343, R347, R348). -/
def falyndiDown (s : State) : State :=
  dSet (if dGet s (dk 0x1100 1) = 3 ∨ dGet s (dk 0x1100 1) = 4 then s else dSet s (dk 0x1100 1) 0) (dk 0x1100 2) 0

/-- FALYNDI_TRAINING: an AL1 module offers version 1 only. Replay goes on behind what the host's end has received (R347). -/
def falyndiTrain (s : State) (host : HostEnd) (good : BitVec 5) : State :=
  if !mayTrain s then s
  else if !bit host.versions.toNat 1 then raiseEvent (countT (falyndiDown s) 0x3114 1) 1 0 none 0x3114 0xFF 0
  else match falyndiLanes (falyndiGood s good) with
    | none => s
    | some (map, spare) =>
      let l := { resendFlits s (ackReplay s.host.link host.lack) with spareFor := spare, version := 1 }
      let s := { s with host := { s.host with link := l } }
      flushHeld (dSet (dSet (dSet s (dk 0x1100 4) map) (dk 0x1100 2) 1) (dk 0x1100 1) 2)

def execFalyndiTraining (host : HostEnd) (goodLanes : BitVec 5) (s : State) : Host.Outcome State Fault Refusal :=
  .next (falyndiTrain s host goodLanes)

/-- FALYNDI_LINK_LOSS. -/
def execFalyndiLinkLoss (s : State) : Host.Outcome State Fault Refusal :=
  .next (if s.pwr.inputOk then falyndiRetrain s else s)

/-- The report of a Falyndi that stays down (R348). -/
def falyndiFault : ErrorReport :=
  { source := 0x0F, unitKind := 6, unit := 0, address := 0, locationA := 0, locationB := 0, part := 0, byCommand := false }

/-- FALYNDI_RESTORE_EXPIRY: the link has been down for falyndi_restore_ms. The FHA-4 discards the writes that wait and completes the reads
with all ones. -/
def restoreExpiry (s : State) : State :=
  if !live s ∨ dGet s (dk 0x1100 1) ≠ 3 ∨ now s < s.host.downAt.toNat + dGet s (dk 0x1100 5) * 25000 then s
  else
    let s := dSet (dSet s (dk 0x1100 1) 4) (dk 0x1100 2) 0
    let reads := s.host.fhaBuf.filter (fun x => !x.isWrite)
    let s := reads.foldl (fun s x => hostAnswer s (ones x.len)) { s with host := { s.host with
      linkLost := true
      dropped := s.host.dropped + (s.host.fhaBuf.length - reads.length)
      fhaBuf := [] } }
    (detectError s falyndiFault none).1

def execFalyndiRestoreExpiry (s : State) : Host.Outcome State Fault Refusal := .next (restoreExpiry s)

/-- LINK_LOST_CLEAR: the driver clears LINK_LOST in the FHA-4. -/
def execLinkLostClear (s : State) : Host.Outcome State Fault Refusal :=
  .next { s with host := { s.host with linkLost := false } }

end Sys2Proof.Machine
end

