-- ==== Sys2Proof/Machine/Dispatch.lean ====
section
/-! DEFINITION. One arm per command: the direct call of its meaning. -/

namespace Sys2Proof.Machine

def exec (i : Instr) (s : State) : Host.Outcome State Fault Refusal :=
  match i with
  | .doorbell ring word => Sys2Proof.Machine.execDoorbell ring word s
  | .create rq ring rsv => Sys2Proof.Machine.execCreate rq ring rsv s
  | .destroy rq ring rsv => Sys2Proof.Machine.execDestroy rq ring rsv s
  | .resume rq ring rsv => Sys2Proof.Machine.execResume rq ring rsv s
  | .descriptorFetch ring => Sys2Proof.Machine.execDescriptorFetch ring s
  | .acceptance ring => Sys2Proof.Machine.execAcceptance ring s
  | .dispatch part => Sys2Proof.Machine.execDispatch part s
  | .claim ring who => Sys2Proof.Machine.execClaim ring who s
  | .unitComplete ring agent unit cycles => Sys2Proof.Machine.execUnitComplete ring agent unit cycles s
  | .commit ring => Sys2Proof.Machine.execCommit ring s
  | .notifyHoldoffExpiry vector => Sys2Proof.Machine.execNotifyHoldoffExpiry vector s
  | .discardComplete d => Sys2Proof.Machine.execDiscardComplete d s
  | .nop ring => Sys2Proof.Machine.execNop ring s
  | .tallySignal ring => Sys2Proof.Machine.execTallySignal ring s
  | .tallyWait ring => Sys2Proof.Machine.execTallyWait ring s
  | .fence ring => Sys2Proof.Machine.execFence ring s
  | .rewind ring => Sys2Proof.Machine.execRewind ring s
  | .release ring => Sys2Proof.Machine.execRelease ring s
  | .gemm ring => Sys2Proof.Machine.execGemm ring s
  | .gemmBatched ring => Sys2Proof.Machine.execGemmBatched ring s
  | .gemmGrouped ring => Sys2Proof.Machine.execGemmGrouped ring s
  | .conv ring => Sys2Proof.Machine.execConv ring s
  | .convDw ring => Sys2Proof.Machine.execConvDw ring s
  | .quernConv ring => Sys2Proof.Machine.execQuernConv ring s
  | .quernPatch ring => Sys2Proof.Machine.execQuernPatch ring s
  | .quernUnpatch ring => Sys2Proof.Machine.execQuernUnpatch ring s
  | .pool ring => Sys2Proof.Machine.execPool ring s
  | .elemwise ring => Sys2Proof.Machine.execElemwise ring s
  | .reduce ring => Sys2Proof.Machine.execReduce ring s
  | .norm ring => Sys2Proof.Machine.execNorm ring s
  | .softmax ring => Sys2Proof.Machine.execSoftmax ring s
  | .optimStep ring => Sys2Proof.Machine.execOptimStep ring s
  | .rngFill ring => Sys2Proof.Machine.execRngFill ring s
  | .attnFwd ring => Sys2Proof.Machine.execAttnFwd ring s
  | .attnBwd ring => Sys2Proof.Machine.execAttnBwd ring s
  | .kvAppend ring => Sys2Proof.Machine.execKvAppend ring s
  | .kvTableSwap ring => Sys2Proof.Machine.execKvTableSwap ring s
  | .prefixLookup ring => Sys2Proof.Machine.execPrefixLookup ring s
  | .prefixInsert ring => Sys2Proof.Machine.execPrefixInsert ring s
  | .prefixRelease ring => Sys2Proof.Machine.execPrefixRelease ring s
  | .saveAct ring => Sys2Proof.Machine.execSaveAct ring s
  | .loadAct ring => Sys2Proof.Machine.execLoadAct ring s
  | .spill ring => Sys2Proof.Machine.execSpill ring s
  | .fetch ring => Sys2Proof.Machine.execFetch ring s
  | .copy ring => Sys2Proof.Machine.execCopy ring s
  | .convert ring => Sys2Proof.Machine.execConvert ring s
  | .map ring => Sys2Proof.Machine.execMap ring s
  | .unmap ring => Sys2Proof.Machine.execUnmap ring s
  | .remoteRead ring => Sys2Proof.Machine.execRemoteRead ring s
  | .remoteWrite ring => Sys2Proof.Machine.execRemoteWrite ring s
  | .remoteAtomic ring => Sys2Proof.Machine.execRemoteAtomic ring s
  | .allreduce ring => Sys2Proof.Machine.execAllreduce ring s
  | .reduceScatter ring => Sys2Proof.Machine.execReduceScatter ring s
  | .allgather ring => Sys2Proof.Machine.execAllgather ring s
  | .normReduce ring => Sys2Proof.Machine.execNormReduce ring s
  | .attnMerge ring => Sys2Proof.Machine.execAttnMerge ring s
  | .decode ring => Sys2Proof.Machine.execDecode ring s
  | .encode ring => Sys2Proof.Machine.execEncode ring s
  | .streamCtxCreate ring => Sys2Proof.Machine.execStreamCtxCreate ring s
  | .streamCtxReset ring => Sys2Proof.Machine.execStreamCtxReset ring s
  | .streamCtxDestroy ring => Sys2Proof.Machine.execStreamCtxDestroy ring s
  | .mediaWatchdog ring picture => Sys2Proof.Machine.execMediaWatchdog ring picture s
  | .cut ring => Sys2Proof.Machine.execCut ring s
  | .parityUpdate ring => Sys2Proof.Machine.execParityUpdate ring s
  | .restore ring => Sys2Proof.Machine.execRestore ring s
  | .reconstruct ring => Sys2Proof.Machine.execReconstruct ring s
  | .reconstructParity ring => Sys2Proof.Machine.execReconstructParity ring s
  | .digest ring => Sys2Proof.Machine.execDigest ring s
  | .phaseMark ring => Sys2Proof.Machine.execPhaseMark ring s
  | .tapRead ring => Sys2Proof.Machine.execTapRead ring s
  | .write rq index sub value => Sys2Proof.Machine.execWrite rq index sub value s
  | .read rq index sub => Sys2Proof.Machine.execRead rq index sub s
  | .describe rq index sub => Sys2Proof.Machine.execDescribe rq index sub s
  | .discover rq => Sys2Proof.Machine.execDiscover rq s
  | .segInitUp rq index sub => Sys2Proof.Machine.execSegInitUp rq index sub s
  | .segInitDown rq index sub size segments crc => Sys2Proof.Machine.execSegInitDown rq index sub size segments crc s
  | .segment rq index sub segno seglen flags crc data => Sys2Proof.Machine.execSegment rq index sub segno seglen flags crc data s
  | .segReq rq index sub segno => Sys2Proof.Machine.execSegReq rq index sub segno s
  | .segEnd rq index sub => Sys2Proof.Machine.execSegEnd rq index sub s
  | .segAbort rq index sub => Sys2Proof.Machine.execSegAbort rq index sub s
  | .sessionTimeout src index sub => Sys2Proof.Machine.execSessionTimeout src index sub s
  | .mailboxDoorbell txid => Sys2Proof.Machine.execMailboxDoorbell txid s
  | .fwBundle rq object => Sys2Proof.Machine.execFwBundle rq object s
  | .attestRequest rq nonce => Sys2Proof.Machine.execAttestRequest rq nonce s
  | .eventAck rq value => Sys2Proof.Machine.execEventAck rq value s
  | .quiesceRequest rq part value => Sys2Proof.Machine.execQuiesceRequest rq part value s
  | .enabled rq part value => Sys2Proof.Machine.execEnabled rq part value s
  | .coreMask rq part word value => Sys2Proof.Machine.execCoreMask rq part word value s
  | .tallyRange rq part isCount value => Sys2Proof.Machine.execTallyRange rq part isCount value s
  | .tallyMirrorBase rq value => Sys2Proof.Machine.execTallyMirrorBase rq value s
  | .kvPoolBase rq part value => Sys2Proof.Machine.execKvPoolBase rq part value s
  | .prefixNodes rq part value => Sys2Proof.Machine.execPrefixNodes rq part value s
  | .vanishWatch rq slot value => Sys2Proof.Machine.execVanishWatch rq slot value s
  | .tapConfig rq tap value => Sys2Proof.Machine.execTapConfig rq tap value s
  | .recordSelect rq value => Sys2Proof.Machine.execRecordSelect rq value s
  | .region0Lost rq value => Sys2Proof.Machine.execRegion0Lost rq value s
  | .publish rq window part notice size => Sys2Proof.Machine.execPublish rq window part notice size s
  | .revoke rq window part notice size => Sys2Proof.Machine.execRevoke rq window part notice size s
  | .noticeExpiry window => Sys2Proof.Machine.execNoticeExpiry window s
  | .windowFreed window => Sys2Proof.Machine.execWindowFreed window s
  | .bywashForce rq value => Sys2Proof.Machine.execBywashForce rq value s
  | .bywashOpen lasersReady => Sys2Proof.Machine.execBywashOpen lasersReady s
  | .portRetrain port => Sys2Proof.Machine.execPortRetrain port s
  | .portTrainingDone port result => Sys2Proof.Machine.execPortTrainingDone port result s
  | .flit link bytes blockGood corrected => Sys2Proof.Machine.execFlit link bytes blockGood corrected s
  | .nak link lack corrected => Sys2Proof.Machine.execNak link lack corrected s
  | .laneSwap link lane seen spareGood => Sys2Proof.Machine.execLaneSwap link lane seen spareGood s
  | .forward pkt inPort vc residency => Sys2Proof.Machine.execForward pkt inPort vc residency s
  | .lifeExpiry pkt => Sys2Proof.Machine.execLifeExpiry pkt s
  | .kraurRead pkt => Sys2Proof.Machine.execKraurRead pkt s
  | .kraurWrite pkt => Sys2Proof.Machine.execKraurWrite pkt s
  | .atomic pkt => Sys2Proof.Machine.execAtomic pkt s
  | .tally pkt => Sys2Proof.Machine.execTally pkt s
  | .lendNotice pkt => Sys2Proof.Machine.execLendNotice pkt s
  | .collAbort pkt => Sys2Proof.Machine.execCollAbort pkt s
  | .collective pkt => Sys2Proof.Machine.execCollective pkt s
  | .response pkt => Sys2Proof.Machine.execResponse pkt s
  | .txnRetry node tag => Sys2Proof.Machine.execTxnRetry node tag s
  | .fabricTimeout node tag => Sys2Proof.Machine.execFabricTimeout node tag s
  | .collWaitTimeout ring => Sys2Proof.Machine.execCollWaitTimeout ring s
  | .falyndiTraining host goodLanes => Sys2Proof.Machine.execFalyndiTraining host goodLanes s
  | .falyndiLinkLoss => Sys2Proof.Machine.execFalyndiLinkLoss s
  | .falyndiRestoreExpiry => Sys2Proof.Machine.execFalyndiRestoreExpiry s
  | .linkLostClear => Sys2Proof.Machine.execLinkLostClear s
  | .falyndiHostAccess isWrite address len data => Sys2Proof.Machine.execFalyndiHostAccess isWrite address len data s
  | .park => Sys2Proof.Machine.execPark s
  | .enterDoze rq => Sys2Proof.Machine.execEnterDoze rq s
  | .enterLend rq => Sys2Proof.Machine.execEnterLend rq s
  | .enterSleep rq => Sys2Proof.Machine.execEnterSleep rq s
  | .returnToP1 rq value => Sys2Proof.Machine.execReturnToP1 rq value s
  | .powerStateReached => Sys2Proof.Machine.execPowerStateReached s
  | .millerClockStop => Sys2Proof.Machine.execMillerClockStop s
  | .powerCapSample watts => Sys2Proof.Machine.execPowerCapSample watts s
  | .throttle sensor celsius => Sys2Proof.Machine.execThrottle sensor celsius s
  | .coolantInletWarning reading => Sys2Proof.Machine.execCoolantInletWarning reading s
  | .thermalTrip celsius => Sys2Proof.Machine.execThermalTrip celsius s
  | .thermTripN low => Sys2Proof.Machine.execThermTripN low s
  | .tripHoldExpiry info => Sys2Proof.Machine.execTripHoldExpiry info s
  | .coldReset info => Sys2Proof.Machine.execColdReset info s
  | .inputLoss seen => Sys2Proof.Machine.execInputLoss seen s
  | .moduleReset byPin info => Sys2Proof.Machine.execModuleReset byPin info s
  | .modRstNRelease info => Sys2Proof.Machine.execModRstNRelease info s
  | .warmReset rq => Sys2Proof.Machine.execWarmReset rq s
  | .warmResetRecovery found => Sys2Proof.Machine.execWarmResetRecovery found s
  | .millerWatchdog => Sys2Proof.Machine.execMillerWatchdog s
  | .partitionReset rq value => Sys2Proof.Machine.execPartitionReset rq value s
  | .errorDetected e => Sys2Proof.Machine.execErrorDetected e s
  | .targetedTest => Sys2Proof.Machine.execTargetedTest s
  | .testResult faultId outcome ticks => Sys2Proof.Machine.execTestResult faultId outcome ticks s
  | .dieLost die => Sys2Proof.Machine.execDieLost die s
  | .arm rq word => Sys2Proof.Machine.execArm rq word s
  | .disarm rq word => Sys2Proof.Machine.execDisarm rq word s
  | .hbmRetrain channel result holdCycles => Sys2Proof.Machine.execHbmRetrain channel result holdCycles s
  | .evacuationResume => Sys2Proof.Machine.execEvacuationResume s
  | .migrationEnd => Sys2Proof.Machine.execMigrationEnd s
  | .scrub corrected uncorrectable lines => Sys2Proof.Machine.execScrub corrected uncorrectable lines s
  | .pageZeroed => Sys2Proof.Machine.execPageZeroed s
  | .marginRun rq value passed errors inRange => Sys2Proof.Machine.execMarginRun rq value passed errors inRange s
  | .marginEnable rq value => Sys2Proof.Machine.execMarginEnable rq value s
  | .lmarginEnable rq value => Sys2Proof.Machine.execLmarginEnable rq value s
  | .lmarginRun rq value passed errors inRange => Sys2Proof.Machine.execLmarginRun rq value passed errors inRange s
  | .cancel rq => Sys2Proof.Machine.execCancel rq s
  | .rollback rq => Sys2Proof.Machine.execRollback rq s
  | .secverCommit rq value => Sys2Proof.Machine.execSecverCommit rq value s
  | .factoryTestMode => Sys2Proof.Machine.execFactoryTestMode s

end Sys2Proof.Machine
end

