-- ==== Sys2Proof/Machine/Tick.lean ====
section
/-! DEFINITION. What one always-on tick of 40 ns does by itself: 24 core cycles, 48 network cycles (R62, R64, R219, R234, R312,
R365, R374; log entry 8). -/

namespace Sys2Proof.Machine

/-- Buckets of the weirs gain tokens: rate MB/s × 40 ns, which is rate/25 bytes, up to full (R234). -/
def refillWeirs (s : State) : State :=
  { s with mem := { s.mem with weirUsed := s.mem.weirUsed.filterMap (fun x =>
      let rate := dGet s (dk (0x2000 + x.1 / 3) (0x17 + 2 * (x.1 % 3)))
      if x.2 ≤ rate then none else some (x.1, x.2 - rate)) } }

/-- Phase tags with a command in flight count an active tick (R312). -/
def countActive (s : State) : State :=
  ((s.hop.inflight.map (fun c => phaseOf c.desc)).eraseDups).foldl (fun s t => dAdd s (dk (0x3300 + t) 0x10) 1) s

/-- Phase tags with an engine at work for one of their commands count a tick (R312). -/
def countEngines (s : State) : State :=
  (((s.hop.inflight.filter (fun c => engineTimed (opcOf (workDesc c)))).map (fun c => phaseOf c.desc)).eraseDups).foldl
    (fun s t => dAdd s (dk (0x3300 + t) 0x0F) 1) s

/-- Media engines with a picture command in flight count a busy tick. -/
def countMedia (s : State) : State :=
  ((s.hop.inflight.filterMap (fun c => if opcOf c.desc = 0x700 ∨ opcOf c.desc = 0x701 then
      (mediaName c.desc).map (·.1) else none)).eraseDups).foldl (fun s e => count s 0x32BA (e + 1) 1) s

/-- Count cycles once under each partition that meets a test, and once in the total. -/
def countOver (s : State) (index n : Nat) (p : Nat → Bool) : State :=
  let l := allParts.filter p
  if l.isEmpty then s
  else dAdd (l.foldl (fun s q => dAdd s (dk index (q + 1)) n) s) (dk index 0xFF) n

/-- Heads that wait on a tally: (partition, descriptor). -/
def tallyHeads (s : State) : List (Nat × List Word) :=
  s.hop.rings.filterMap (fun r =>
    match headOf r.2 with
    | some c => if waitsTally s c.desc then some (r.2.part.toNat, c.desc) else none
    | none => none)

/-- A ready head of a partition waits for a dispatch slot (R64). -/
def waitsSlot (s : State) (p : Nat) : Bool :=
  slotsFull s && partDispatches s p && (readyHeads s p).any (fun x => needsSlot (opcOf x.2.desc))

/-- The tallies a head still waits on. -/
def unmetTallies (s : State) (d : List Word) : List Nat :=
  (if headerWait s d then [] else [bits (dw d 0) 43 32]) ++
  (if opcOf d = 2 then ((waits d).filter (fun x => decide (tallyOf s x.1 < x.2))).map (·.1) else [])

/-- The mark of a tally (R219): the oldest dispatched store command that names it as its SIGNAL_TALLY, in flight or halted. -/
def markOf (s : State) (t : Nat) : Option WaitMark :=
  leastBy (·.order) ((s.hop.inflight.filterMap (fun c =>
    if isStoreOp (opcOf c.desc) && bit (dw c.desc 0) 63 && bits (dw c.desc 0) 59 48 == t then
      some { ring := c.ring, tally := t, cause := storeCause s c, order := c.order } else none)) ++
    s.hop.marks.filter (fun m => m.tally == t))

/-- The causes of the marked tallies that a head waits on. -/
def headCauses (s : State) (d : List Word) : List Nat := ((unmetTallies s d).filterMap (markOf s)).map (·.cause) |>.eraseDups

/-- Core cycles that heads wait on marked tallies: each once under a cause in a partition, in the total, and in a phase timer set
(R219). -/
def countMarks (s : State) : State :=
  let waits := (tallyHeads s).flatMap (fun h => (headCauses s h.2).map (fun i => (h.1, phaseOf h.2, i)))
  let s := (List.range 7).foldl (fun s i => countOver s (0x3255 + i) 24 (fun p => waits.any (fun x => x.1 == p && x.2.2 == i))) s
  ((waits.map (·.2)).eraseDups).foldl (fun s x => dAdd s (dk (0x3300 + x.1) (8 + x.2)) 24) s

/-- Network cycles in which a weir withholds requests of a partition (R234). -/
def countWeirs (s : State) : State :=
  countOver s 0x327B 48 (fun p => s.hop.inflight.any (fun c => c.part == p && !c.weirWait.isEmpty))

/-- What the hopper and dispatcher count while their clock runs. -/
def countWaits (s : State) : State :=
  if dispatcherOn s then
    countOver (countMarks (countOver s 0x320E 48 (fun p => (tallyHeads s).any (fun h => h.1 == p)))) 0x320D 48 (waitsSlot s)
  else s

/-- Falyndi's queue is taken by flits, and host accesses that waited for a row's test go on (R261, R384). -/
def falyndiTick (s : State) : State :=
  if falyndiUp s then pump (flushIn s.host.fhaBuf.length s) 6 else s

/-- One tick: aon_ticks counts (R365) while input power is present. -/
def tick (s : State) : State :=
  if s.pwr.inputOk then
    let s := dSet s (dk 0x1400 1) (now s + 1)
    let s := countWaits (countMedia (countEngines (countActive s)))
    let s := refillWeirs (countWeirs s)
    let s := falyndiTick (if hbmOn s then migrateTick s else s)
    if s.pwr.throttling then countT s 0x3142 1 else s
  else s

end Sys2Proof.Machine
end

