-- ==== Sys2Proof/Safety.lean ====
section
/-! DEFINITION. What counts as a safe run: no command stops the module, and its data keep their canonical form. -/

namespace Sys2Proof

open Machine

/-- The canonical form of every sparse table of the state. -/
def State.canonical (s : State) : Prop :=
  Memory.wf s.mem.undef s.mem.bytes ∧ tableWf (dictDefault s.variant) s.dict = true ∧
  tableWf ringDefault s.hop.rings = true ∧ tableWf ledgerDefault s.hop.ledger = true ∧
  tableWf tallyDefault s.hop.tallies = true ∧ tableWf (fun _ => (0 : Byte)) s.host.mailReq = true

/-- A command is safe at a state: exec answers a next state. -/
def Completes (i : Instr) (s : State) : Prop := ∃ t, exec i s = .next t

end Sys2Proof
end

