-- ==== Sys2Proof/Certificates/Slice0/Obligations.lean ====
section
/-! DEFINITION. The statements for the provers. `Sys2Proof.Claims` holds the words they share: when a request is heard and served,
what accepting it adds, when an opcode row runs and what its run leaves. -/

namespace Sys2Proof.Claims

open Sys2Proof.Machine

/-! ### Requests (R352, R353, R355, R362, R366, R372, R404) -/

/-- The state in which a request is handled: it has started the miller's clock (R366). -/
def awake (s : State) : State := { s with pwr := { s.pwr with millerClock := true } }

/-- A request reaches the module whole, no kept response answers it, and fewer than 16 are held (R352): the module takes it up. -/
def Heard (s : State) (rq : Req) : Prop :=
  reaches s rq.src = true ∧ (∀ b, rq.src ≠ .badBus b) ∧ keptFor s rq = none ∧ heldRequests s < 16

/-- The entry that a request names can be written now: not hidden by recovery, not blocked by a power state or a reset. -/
def Served (s : State) (rq : Req) (index sub : Nat) : Prop :=
  Heard s rq ∧ hidden s index = false ∧ blocked s (dk index sub) = false

/-- A write that has had its effect: the journal record, then the response OK (R353, R362). -/
def accept (s : State) (rq : Req) (index sub : Nat) (value : List Byte) : State :=
  respond (journalWrite s rq.src (dk index sub) value) rq 0x02 index sub stOk []

/-- A write that has no effect: the response alone. -/
def reject (s : State) (rq : Req) (index sub status : Nat) : State := respond s rq 0x02 index sub status []

/-! ### Opcode rows (R43, R64, R223, R229, R234, R240, R347) -/

/-- The command in flight on a ring that a row is about: its opcode is the row's, its dispatch has ended, it has not run and is not
being discarded. -/
def Ready (s : State) (ring opc : Nat) (c : InFlight) : Prop :=
  flightOf s ring = some c ∧ opcOf c.desc = opc ∧ c.executed = false ∧ c.reading = false ∧ c.discard = none

/-- Nothing stands in the way of a plan that touches what `t` lists: every page is mapped; no transaction of the command is under way;
no row it meets is under test; host memory answers; no other node it needs is absent; no line it reads, in whole or to complete a code
word, is lost; what it reads of other nodes has been fetched; no weir withholds it; no injection is armed. -/
def Clear (s : State) (ring : Nat) (c : InFlight) (p : Plan) (t : Touched) : Prop :=
  let all := t.reads ++ t.writes ++ p.far
  touched (withMaps s p.maps) { part := c.part, ring := c.ring } p = .ok t ∧ p.wait = false ∧ waitsTxn s ring = false ∧
  (∀ x ∈ all, rowHeld s x.1 x.2 = false) ∧
  (∀ x ∈ all, hostRange x.1 = true → falyndiUp s = true) ∧
  (∀ x ∈ all, remoteAddr s x.1 = true → nodeStatus s (gaNode x.1) = 0) ∧
  lostRead s (planReads t) = none ∧ toFetch s c t = [] ∧ weirsClosed s c all = [] ∧ s.hlth.injections = []

/-- The state after a plan has run: its reads of host memory sent, its accesses made, the command executed and left to its commit, with what it wrote (R34). What a
committing plan wrote becomes undefined if the command is discarded yet; of a failing plan only what it leaves undefined. What its units
count, each under its agent, is counted for the units that have ended. -/
def ranPlan (s : State) (ring : Nat) (c : InFlight) (p : Plan) (t : Touched) : State :=
  let w : Who := { part := c.part, ring := c.ring }
  let host := (t.reads.filter (fun x => hostRange x.1)).foldl (fun s x => hostFetch s x.1 x.2) s
  let ran := finishRun (planStores host w c p t) ring p.status p.acts (if p.status < 0x10 then t.writes else t.undefs)
    (p.results (withMaps s p.maps) w t) p.reserve
  chargeUnits (setFlight ran ring (fun f =>
    { f with unitCounts := p.unitCounts, weirWait := [], weirPaid := [], hostWait := none })) ring

/-- The plan of a command in flight: worked out with its own writes and with default_span as at its dispatch (R34, R119). -/
def viewed (plan : State → InFlight → Plan) (s : State) (c : InFlight) : Plan := plan (planView s c) c

/-- A row carries out a plan: whatever the ring, the state and the operands, when nothing stands in its way and no command dispatched
earlier waits for its engine (R64). -/
def RowRuns (i : RingId → Instr) (opc : Nat) (plan : State → InFlight → Plan) : Prop :=
  ∀ (ring : RingId) (s : State) (c : InFlight) (t : Touched),
    Ready s ring.toNat opc c → queueAhead s c.desc c.order = false → Clear s ring.toNat c (viewed plan s c) t →
    exec (i ring) s = .next (ranPlan s ring.toNat c (viewed plan s c) t)

end Sys2Proof.Claims

open Sys2Proof Sys2Proof.Machine Sys2Proof.Claims

/-! ### The machine as a whole -/

/-- A step takes the command at the front of the queue and runs it on the state with the queue's rest; on an empty queue one tick
of 40 ns passes (the model's choice, log entry 8). -/
def Obligations.StepRunsTheFrontCommand : Prop :=
  (∀ (c : Instr) (rest : List Instr) (s : State),
    step { s with pending := c :: rest } = exec c { s with pending := rest }) ∧
  (∀ s : State, s.pending = [] → step s = .next (tick s))

/-- Every command answers a next state, and none touches the queue or the ordering number. The identity from manufacture changes at a
cold reset alone, which reads the EEPROM into the dictionary (R415). -/
def Obligations.CommandsKeepQueueAndIdentity : Prop :=
  ∀ (c : Instr) (s : State), ∃ t, exec c s = .next t ∧
    t.pending = s.pending ∧ t.variant = s.variant ∧
    (t.ident = s.ident ∨ ∃ info, c = .coldReset info ∧ t.ident = (readEeprom s).ident)

/-- Every step keeps the canonical form of memory, of the dictionary store, of the ring records, the ledger, the tallies and the
mailbox request buffer: from any state in that form, not only from those that a run reaches. -/
def Obligations.StepKeepsCanonicalForm : Prop :=
  ∀ s t : State, Sys2Proof.State.canonical s → step s = .next t → Sys2Proof.State.canonical t

/-- The state after reset is in canonical form. -/
def Obligations.ResetIsCanonical : Prop := Sys2Proof.State.canonical State.reset

/-- The module right after reset, as R50, R380, R426, R277 and R367 have it: ledger epoch 1, every ring FREE with no COMMITTED_SEQ, no
tally counted, HBM reading zeros, no page mapped; state P1; partition 0 enabled and quiescent, the others disabled; the bywash
closed. (A reset value that the spec leaves open is the model's choice: log entries 1 to 4.) -/
def Obligations.ResetState : Prop :=
  (∀ n : Nat, ringOf State.reset n = Ring.free ∧ committedSeq State.reset n = 0 ∧ tallyOf State.reset n = 0) ∧
  (∀ k : Nat, keyByte State.reset k = 0) ∧
  (∀ part va : Nat, findMap State.reset part va = none) ∧
  dGet State.reset (dk 0x2100 5) = 1 ∧ pState State.reset = 1 ∧ dGet State.reset (dk 0x2700 0xC) = 1 ∧
  (∀ p : Nat, p < 16 → (pGet State.reset p 1 = if p = 0 then 1 else 0) ∧ (pGet State.reset p 5 = if p = 0 then 3 else 0))

/-! ### Rings and the hopper -/

/-- DOORBELL (R28): by the ring's state, the reserved bits, how far the new PRODUCER lies ahead of the last one and of COMMIT_POS, all
modulo 2^32. A doorbell also is a wake trigger of P2 (R367). One that comes while Falyndi trains again, or while writes before it wait,
waits behind them; one that a lost link overtakes is dropped with them; with the link down, or the module off or in a warm reset, none
takes effect (R29, R347). -/
def Obligations.DoorbellEvaluation : Prop :=
  (∀ (ring : RingId) (word : Word) (s : State),
    (s.host.linkLost = true → exec (.doorbell ring word) s = .next (dropHost s)) ∧
    (s.host.linkLost = false → hostQueued s = true → exec (.doorbell ring word) s =
      .next (holdHost s (hostPut (2 ^ 41 + 0x20000 + 8 * ring.toNat) (leBytes 8 word.toNat)))) ∧
    (s.host.linkLost = false → hostQueued s = false → (falyndiUp s && live s) = false → exec (.doorbell ring word) s = .next s)) ∧
  ∀ (ring : RingId) (word : Word) (s : State), s.host.linkLost = false → hostQueued s = false → falyndiUp s = true → live s = true →
    let n := ring.toNat
    let r := ringOf s n
    let producer : BitVec 32 := word.setWidth 32
    let ahead := (producer - r.producer).toNat
    (r.state = .free → exec (.doorbell ring word) s = .next (wakeFrom (countT s 0x3207 1) [2])) ∧
    (r.state ≠ .free → word.extractLsb' 32 32 ≠ 0 →
      exec (.doorbell ring word) s = .next (wakeFrom (countP s 0x3207 r.part.toNat 1) [2])) ∧
    (r.state ≠ .free → word.extractLsb' 32 32 = 0 → ahead = 0 ∨ 2 ^ 31 ≤ ahead →
      exec (.doorbell ring word) s = .next (wakeFrom s [2])) ∧
    (r.state ≠ .free → word.extractLsb' 32 32 = 0 → 0 < ahead → ahead < 2 ^ 31 →
      r.size.toNat < (producer - r.commitPos).toNat →
      exec (.doorbell ring word) s = .next (wakeFrom (raiseEvent (countP s 0x3208 r.part.toNat 1) 1 0 (some r.part.toNat) 0x3208
        (r.part.toNat + 1) (producer.toNat * 2 ^ 16 + n)) [2])) ∧
    (r.state ≠ .free → word.extractLsb' 32 32 = 0 → 0 < ahead → ahead < 2 ^ 31 →
      (producer - r.commitPos).toNat ≤ r.size.toNat →
      exec (.doorbell ring word) s = .next (wakeFrom (putRing s n { r with producer := producer }) [2]))

/-- Ring commands that are refused leave the ring unchanged but for LAST_CMD_RESULT, and are acknowledged after it is written (R20):
CREATE by the first check of R21 that fails, DESTROY and RESUME in the wrong state (R23, R24), any with a reserved bit set. -/
def Obligations.RefusedRingCommands : Prop :=
  ∀ (rq : Req) (ring : RingId) (rsv : BitVec 46) (s : State), Served s rq 0x2100 4 →
    let n := ring.toNat
    let s0 := awake s
    let r := ringOf s0 n
    let base := dGet s0 (dk 0x2100 2)
    let k0 := ldNat s0 (base + 16 * n) 8
    let k1 := ldNat s0 (base + 16 * n + 8) 8
    let size := bits k0 20 4
    let word (op : Nat) := leBytes 8 (op * 2 ^ 60 + rsv.toNat * 2 ^ 14 + n)
    let result (op code : Nat) : State := accept (putRing s0 n { r with lastResult := BitVec.ofNat 8 code }) rq 0x2100 4 (word op)
    (rsv ≠ 0 → exec (.create rq ring rsv) s = .next (result 1 5) ∧ exec (.destroy rq ring rsv) s = .next (result 2 5) ∧
      exec (.resume rq ring rsv) s = .next (result 3 5)) ∧
    (rsv = 0 → base = 0 → exec (.create rq ring rsv) s = .next (result 1 4)) ∧
    (rsv = 0 → base ≠ 0 → r.state ≠ .free → exec (.create rq ring rsv) s = .next (result 1 1)) ∧
    (rsv = 0 → base ≠ 0 → r.state = .free → configValid s0 k0 k1 = false →
      exec (.create rq ring rsv) s = .next (result 1 2)) ∧
    (rsv = 0 → base ≠ 0 → r.state = .free → configValid s0 k0 k1 = true →
      quotaAllows s0 (bits k0 3 0) 2 (2 * (128 * size)) = false → exec (.create rq ring rsv) s = .next (result 1 3)) ∧
    (rsv = 0 → base ≠ 0 → r.state = .free → configValid s0 k0 k1 = true →
      quotaAllows s0 (bits k0 3 0) 2 (2 * (128 * size)) = true → pickStack s0 (bits k0 24 21) (128 * size) = none →
      exec (.create rq ring rsv) s = .next (result 1 6)) ∧
    (rsv = 0 → r.state = .free ∨ r.commitPos ≠ r.consumer ∨ (∃ g ∈ s.hop.segments, g.ring = n) →
      exec (.destroy rq ring rsv) s = .next (result 2 1)) ∧
    (rsv = 0 → r.state ≠ .halted → exec (.resume rq ring rsv) s = .next (result 3 1))

/-- CREATE of a ring whose checks pass (R21): an ACTIVE ring of the configuration entry's partition, size and completion area, with
SEQ 1 next and nothing committed, its memory where it fits on the chosen stack s and its mirror where it fits on stack
(s + 6) mod 12. Which free place of a stack the module takes is open (log entry 4). -/
def Obligations.CreatedRing : Prop :=
  ∀ (rq : Req) (ring : RingId) (s : State) (st : Nat), Served s rq 0x2100 4 → tableWf ringDefault s.hop.rings = true →
    let n := ring.toNat
    let s0 := awake s
    let base := dGet s0 (dk 0x2100 2)
    let k0 := ldNat s0 (base + 16 * n) 8
    let k1 := ldNat s0 (base + 16 * n + 8) 8
    let bytes := 128 * bits k0 20 4
    base ≠ 0 → (ringOf s0 n).state = .free → configValid s0 k0 k1 = true →
    quotaAllows s0 (bits k0 3 0) 2 (2 * bytes) = true → pickStack s0 (bits k0 24 21) bytes = some st →
    ∃ a ∈ pinnedFits s0 st bytes, ∃ b ∈ pinnedFits s0 ((st + 6) % 12) bytes,
      let r : Ring := { Ring.free with
        state := .active, part := BitVec.ofNat 4 (bits k0 3 0), stack := BitVec.ofNat 4 st, size := BitVec.ofNat 17 (bits k0 20 4),
        nextSeq := 1, cqBase := BitVec.ofNat 64 k1, ringAddr := BitVec.ofNat 64 (gaMake (nodeId s0) 1 (st * 2 ^ 36 + a)),
        mirrorAddr := BitVec.ofNat 64 (gaMake (nodeId s0) 1 ((st + 6) % 12 * 2 ^ 36 + b)) }
      exec (.create rq ring 0) s =
        .next (accept (putRing (putLedger (putRing (tickFresh s0) n r) n 0) n r) rq 0x2100 4 (leBytes 8 (1 * 2 ^ 60 + n)))

/-- DESTROY (R23) of an ACTIVE or HALTED ring with COMMIT_POS equal to CONSUMER and no replay segment frees it, what was written but not
fetched and its quota with it, and clears its ledger entry. Otherwise the result is 0x01, and the ring stays as it is. (Which marks and
stalls the hopper still notes after it is the model's, log entry 19: any list will do here.) -/
def Obligations.DestroyedRing : Prop :=
  ∀ (rq : Req) (ring : RingId) (s : State), Served s rq 0x2100 4 → tableWf ringDefault s.hop.rings = true →
    let n := ring.toNat
    let s0 := awake s
    let r := ringOf s n
    let may := (r.state = .active ∨ r.state = .halted) ∧ r.commitPos = r.consumer ∧ ∀ g ∈ s.hop.segments, g.ring ≠ n
    (may → ∃ marks stalled,
      let s1 : State := { s0 with hop := { s.hop with marks := marks, stallHold := stalled } }
      exec (.destroy rq ring 0) s =
        .next (accept (putRing (putLedger (putRing s1 n Ring.free) n 0) n Ring.free) rq 0x2100 4 (leBytes 8 (2 * 2 ^ 60 + n)))) ∧
    (¬may → exec (.destroy rq ring 0) s = .next (accept (putRing s0 n { r with lastResult := 1 }) rq 0x2100 4 (leBytes 8 (2 * 2 ^ 60 + n))))

/-- RESUME requires a HALTED ring: it increments RGEN modulo 256, clears HALT_STATUS and makes the ring ACTIVE, and the next descriptor
to fetch is the one at CONSUMER (R24); of any other ring only LAST_CMD_RESULT changes, to 0x01. A ring whose last SEQ has been used
halts again at once with 0x24 (R38). (Which marks of failed store commands stay is left to any list.) -/
def Obligations.ResumedRing : Prop :=
  ∀ (rq : Req) (ring : RingId) (s : State), Served s rq 0x2100 4 → tableWf ringDefault s.hop.rings = true →
    let n := ring.toNat
    let r := ringOf s n
    let answer (t : State) : State := accept t rq 0x2100 4 (leBytes 8 (3 * 2 ^ 60 + n))
    let r1 : Ring := { r with state := .active, rgen := r.rgen + 1, haltStatus := 0 }
    (r.state ≠ .halted → exec (.resume rq ring 0) s = .next (answer (putRing (awake s) n { r with lastResult := 1 }))) ∧
    (r.state = .halted → ∃ marks,
      let s1 : State := { awake s with hop := { s.hop with marks := marks } }
      (committedSeq s n ≠ 2 ^ 48 - 1 →
        exec (.resume rq ring 0) s = .next (answer (putRing (putRing s1 n r1) n { r1 with lastResult := 0 }))) ∧
      (committedSeq s n = 2 ^ 48 - 1 →
        let s2 := haltRing (putRing s1 n r1) n r1.consumer.toNat r1.nextSeq.toNat 0x24
        exec (.resume rq ring 0) s = .next (answer (putRing s2 n { ringOf s2 n with lastResult := 0 }))))

/-- DESCRIPTOR_FETCH (R22, R60, R72) of a ring that may fetch, in a partition below its cell quota, with a free cell, not at the hold
limit of an open segment, when its turn has come: the descriptor of the position CONSUMER is read from the copy that R22 names, takes a
cell, and CONSUMER moves on; the partition's stalls end, and the turn passes to the next ring. A ring that may not fetch, or whose turn
another ring has before it, is left as it is. At the cell quota, and with no free cell, the partition stalls; the hopper counts the
stall when it begins. At the hold limit, and before a descriptor that opens a segment with the directory full, the ring stops where it
is. A ring with no cell whose next descriptor neither copy gives halts. (No injection is armed.) -/
def Obligations.DescriptorFetch : Prop :=
  ∀ (ring : RingId) (s : State), hopperOn s = true → s.hlth.injections = [] →
    let n := ring.toNat
    let r := ringOf s n
    let p := r.part.toNat
    (mayFetch s r n = false → exec (.descriptorFetch ring) s = .next s) ∧
    (mayFetch s r n = true → pGet s p 0xA ≤ cellsUsed s p → p ∈ s.hop.stallQuota → exec (.descriptorFetch ring) s = .next s) ∧
    (mayFetch s r n = true → pGet s p 0xA ≤ cellsUsed s p → p ∉ s.hop.stallQuota →
      exec (.descriptorFetch ring) s =
        .next (countP { s with hop := { s.hop with stallQuota := insertNat p s.hop.stallQuota } } 0x320A p 1)) ∧
    (mayFetch s r n = true → cellsUsed s p < pGet s p 0xA → cellsFree s = 0 → p ∉ s.hop.stallPool →
      exec (.descriptorFetch ring) s =
        .next (countP { s with hop := { s.hop with stallPool := insertNat p s.hop.stallPool } } 0x3209 p 1)) ∧
    (mayFetch s r n = true → cellsUsed s p < pGet s p 0xA → 0 < cellsFree s →
      (segmentAhead s r = true → cellsHeld s p + 64 < pGet s p 0xA) →
      (slotAddr s r r.consumer.toNat = none →
        exec (.descriptorFetch ring) s = .next (if r.cells = [] then haltUnread s n else s)) ∧
      ∀ a, slotAddr s r r.consumer.toNat = some a →
        let full := 4096 ≤ s.hop.segments.length
        let s1 : State := { s with hop := { s.hop with fetchTurn := (n + 1) % 16384 } }
        (fetchTurnOf s n = false ∨ (r.dirStop = true ∧ full) → exec (.descriptorFetch ring) s = .next s) ∧
        (fetchTurnOf s n = true → (opensSeg s (readDesc s a) = true → ¬full) → ¬(r.dirStop = true ∧ full) →
          exec (.descriptorFetch ring) s = .next (putRing (endStalls s1 p n) n { r with
            cells := r.cells ++ [{ pos := r.consumer, desc := readDesc s a, st := .reading, order := 0, seg := none }]
            consumer := r.consumer + 1
            dirStop := false })) ∧
        (fetchTurnOf s n = true → opensSeg s (readDesc s a) = true → full → r.dirStop = false →
          exec (.descriptorFetch ring) s = .next (countRing (putRing s1 n { r with dirStop := true }) n 0x320C))) ∧
    (mayFetch s r n = true → cellsUsed s p < pGet s p 0xA → 0 < cellsFree s → segmentAhead s r = true →
      pGet s p 0xA ≤ cellsHeld s p + 64 → exec (.descriptorFetch ring) s = .next (stopAtLimit s n))

/-- Where a descriptor is read from (R22): the primary copy, unless its stack is retired or its lines are lost; then the mirror; and
from neither when both are uncorrectable. Position q occupies slot q mod SIZE (R25). -/
def Obligations.DescriptorCopies : Prop :=
  ∀ (s : State) (r : Ring) (q : BitVec 32),
    let a := r.ringAddr.toNat + 128 * (q.toNat % r.size.toNat)
    let b := r.mirrorAddr.toNat + 128 * (q.toNat % r.size.toNat)
    let goodA := stackRetired s r.stack.toNat = false ∧ lostIn s a 128 = false
    let goodB := stackRetired s ((r.stack.toNat + 6) % 12) = false ∧ lostIn s b 128 = false
    (goodA → slotAddr s r q.toNat = some a) ∧ (¬goodA → goodB → slotAddr s r q.toNat = some b) ∧
    (¬goodA → ¬goodB → slotAddr s r q.toNat = none)

/-- The examination of a fetched descriptor by its SEQ, once the checks of R5 have passed: the rows of R35 in their order. -/
def Obligations.SequenceChecks : Prop :=
  ∀ (s : State) (n : Nat) (d : List Word),
    let r := ringOf s n
    let seq := seqOf d
    (levelCheck s r.part.toNat d ≠ 0 → examine s n d = .give (levelCheck s r.part.toNat d)) ∧
    (levelCheck s r.part.toNat d = 0 →
      (seq = 0 → examine s n d = .give 0x20) ∧
      (0 < seq → seq ≤ committedSeq s n → examine s n d = .skip) ∧
      (0 < seq → committedSeq s n < seq → seq < r.nextSeq.toNat → examine s n d = .pend) ∧
      (0 < seq → committedSeq s n < seq → r.nextSeq.toNat < seq → examine s n d = .give 0x24) ∧
      (examine s n d = .take → seq = r.nextSeq.toNat ∧ committedSeq s n < seq))

/-- ACCEPTANCE of the oldest descriptor that is being read: one that passes every check is accepted and NEXT_SEQ becomes SEQ + 1 (R35),
an RMARK opening a segment keyed by the ring and SEQ and a REND closing the open one (R71); one whose SEQ has committed, or is accepted
and still to end, is kept to end as a duplicate in its turn; one refused ends in its turn with its status. Then whatever at the head of
the ring is not to be executed ends (R33, R36). -/
def Obligations.Acceptance : Prop :=
  ∀ (ring : RingId) (s : State) (c : HCell), hopperOn s = true →
    let n := ring.toNat
    let r := ringOf s n
    r.cells.find? (fun c => c.st == .reading) = some c →
    (examine s n c.desc = .take → (rmarkOf c.desc = true → s.hop.segments.length < 4096) →
      let seq := BitVec.ofNat 48 (seqOf c.desc)
      let opened := if rmarkOf c.desc then some seq else r.openSeg
      let s1 : State := { s with hop := { s.hop with
        acceptOrder := s.hop.acceptOrder + 1
        segments := s.hop.segments ++ (if rmarkOf c.desc then
          [{ ring := n, seq := seq, part := r.part.toNat, held := [], complete := false, releasing := false, released := false }]
          else []) } }
      exec (.acceptance ring) s = .next (settle (putRing s1 n { r with
        cells := modifyFirst (fun x => x.st == .reading)
          (fun x => { x with st := .accepted, order := s.hop.acceptOrder + 1, seg := opened }) r.cells
        nextSeq := seq + 1
        openSeg := if rendOf c.desc then none else opened }) n)) ∧
    (examine s n c.desc = .skip → exec (.acceptance ring) s = .next (settle (putRing s n { r with
        cells := modifyFirst (fun x => x.st == .reading) (fun x => { x with st := .duplicate }) r.cells }) n)) ∧
    (examine s n c.desc = .pend → exec (.acceptance ring) s = .next (settle (putRing s n { r with
        cells := modifyFirst (fun x => x.st == .reading) (fun x => { x with st := .pendingDup }) r.cells }) n)) ∧
    (∀ st, examine s n c.desc = .give st → st ≠ 0x10 →
      exec (.acceptance ring) s = .next (settle (putRing s n { r with
        cells := modifyFirst (fun x => x.st == .reading) (fun x => { x with st := .returned (BitVec.ofNat 8 st) 0 }) r.cells }) n))

/-- DISPATCH for a partition that dispatches (R12, R15, R47, R62 to R65, R229). It completes: with a ready head of the partition, every
ready head of which is a NOP, one of them is put in flight, not yet run, and the module is in P0 (R367). In general the head that R63
picks is taken, unless it must wait for another partition's earlier one on a shared engine. A head whose dispatch reads another node's
memory stands in flight while its READs go, and its dispatch goes on when they have ended. A head that the dispatcher's checks let run
is put in flight with what its dispatch writes and reserves; an error of the reads that those checks make is raised with it in flight; a
head that ends with no work, or with a failure (0x30 and above: RESULTS of SPILL and KV_APPEND, R211, R176), is in flight with its status
and ends at its commit; a head they return (0x10 to 0x2F) ends at once, RESULT of a RESTORE written. -/
def Obligations.Dispatch : Prop :=
  (∀ (part : PartId) (s : State), Sys2Proof.State.canonical s → dispatcherOn s = true → partDispatches s part.toNat = true →
    s.hop.inflight = [] →
    (∀ x ∈ s.hop.rings, x.2.part.toNat = part.toNat → ∀ c, headOf x.2 = some c → opcOf c.desc = 0) →
    (∃ x ∈ s.hop.rings, x.2.part.toNat = part.toNat ∧ ∃ c, headOf x.2 = some c ∧ headerWait s c.desc = true) →
    ∃ t f x c, exec (.dispatch part) s = .next t ∧ x ∈ s.hop.rings ∧ headOf x.2 = some c ∧ t.hop.inflight = [f] ∧ f.ring = x.1 ∧
      f.desc = c.desc ∧ f.pos = c.pos ∧ f.part = part.toNat ∧ f.executed = false ∧ f.status = 0 ∧
      (ringOf t x.1).inflight = true ∧ pState t = 0) ∧
  (∀ (part : PartId) (s : State) (ring : Nat) (c : HCell),
    let p := part.toNat
    let w : Who := { part := p, ring := ring }
    dispatcherOn s = true → headRead s p = none → partDispatches s p = true → pickHead s p = some (ring, c) →
    (engineTaken s p (ring, c) = true → exec (.dispatch part) s = .next s) ∧
    (engineTaken s p (ring, c) = false → headFetch s w c.desc [] = [] → exec (.dispatch part) s = .next (dispatchHead s w c)) ∧
    (engineTaken s p (ring, c) = false → headFetch s w c.desc [] ≠ [] →
      let s1 := enterRun s
      let f := { blankFlight s1 ring p c with holds := opHolds s1 w c.desc, reading := true }
      let s2 : State := { s1 with hop := { s1.hop with inflight := s1.hop.inflight ++ [f], dispatchOrder := s1.hop.dispatchOrder + 1 } }
      exec (.dispatch part) s =
        .next (fetchOperands (putRing s2 ring { ringOf s2 ring with inflight := true }) ring f (headFetch s w c.desc []))) ∧
    (opcOf c.desc < 4 → flightOf s ring = none → Sys2Proof.State.canonical s →
      ∃ t f, exec (.dispatch part) s = .next t ∧ flightOf t ring = some f ∧ f.desc = c.desc ∧ f.pos = c.pos ∧ f.part = p ∧
        f.executed = false ∧ f.order = s.hop.dispatchOrder ∧ (ringOf t ring).inflight = true ∧ pState t = 0)) ∧
  (∀ (part : PartId) (s : State) (f : InFlight) (c : HCell) (rest : List HCell),
    let w : Who := { part := f.part, ring := f.ring }
    dispatcherOn s = true → headRead s part.toNat = some f → (ringOf s f.ring).cells = c :: rest →
    (headFetch s w f.desc f.fetched ≠ [] →
      exec (.dispatch part) s = .next (fetchOperands s f.ring f (headFetch s w f.desc f.fetched))) ∧
    (headFetch s w f.desc f.fetched = [] →
      exec (.dispatch part) s = .next (setFlight (dispatchHead (dropFlight s f.ring) w c) f.ring (fun x => { x with order := f.order })))) ∧
  ∀ (s : State) (w : Who) (c : HCell),
    let st := dispatchStatus s w c.desc
    let s1 := enterRun s
    let put (s : State) (f : InFlight) : State :=
      let s2 : State := { s with hop := { s.hop with inflight := s.hop.inflight ++ [f], dispatchOrder := s.hop.dispatchOrder + 1 } }
      putRing s2 w.ring { ringOf s2 w.ring with inflight := true }
    let x := firstWrites s1 w c.desc (makeFlight s1 w c 0)
    let runs := asks (some w.ring) (put (dispatchEffects x.1 w c.desc) x.2)
      ((x.2.results.filter (fun y => remoteAddr (put (dispatchEffects x.1 w c.desc) x.2) y.1)).flatMap
        (fun y => writeAsks false y.1 y.2))
    let ends : InFlight := { blankFlight s1 w.ring w.part c with
      holds := opHolds s1 w c.desc, executed := true, idle := true, status := BitVec.ofNat 8 st
      acts := if st = 1 then zeroActs s1 w.part c.desc else [] }
    (∀ e, shapeFault s w c.desc = some e → dispatchHead s w c = (detectError runs e none).1) ∧
    (shapeFault s w c.desc = none →
      (st = 0 → dispatchHead s w c = runs) ∧
      (st = 1 → dispatchHead s w c = put s1 ends) ∧
      (0x30 ≤ st → opcOf c.desc ≠ 0x302 ∨ st ≠ 0x31 → dispatchHead s w c = put s1 ends) ∧
      (st = 0x31 → opcOf c.desc = 0x302 → dispatchHead s w c = put (countP s1 0x3265 w.part 1) ends) ∧
      (st / 16 = 2 → dispatchHead s w c = endHead (restoreRefused s w c.desc) w.ring st 0 0 0 0) ∧
      (st / 16 = 1 →
        (∀ g d, findSeg s (segName c.desc).1 (segName c.desc).2 = some g → g.held.find? (fun d => tensorCheck s w.part d == 0x10) = some d →
          dispatchHead s w c = endHead (entryFault s w.part d).1 w.ring 0x10 (entryFault s w.part d).2 0 0 0) ∧
        ((∀ g, findSeg s (segName c.desc).1 (segName c.desc).2 = some g → g.held.find? (fun d => tensorCheck s w.part d == 0x10) = none) →
          dispatchHead s w c = endHead s w.ring st 0 0 0 0)))

/-- The head that DISPATCH picks (R62 to R64, R295): it is ready, no ready head of the partition has a higher PRIO, and of the same PRIO
none was accepted earlier; heads that need a dispatch slot are passed over while all 256 are occupied. While a CUT or RESTORE of the
partition is ready, only such a head is picked. -/
def Obligations.HeadOrder : Prop :=
  ∀ (s : State) (p : Nat) (x : Nat × HCell), pickHead s p = some x →
    let barrier (z : Nat × HCell) : Prop := opcOf z.2.desc = 0x800 ∨ opcOf z.2.desc = 0x802
    x ∈ readyHeads s p ∧ (needsSlot (opcOf x.2.desc) = true → slotsFull s = false) ∧
    ((∃ z ∈ readyHeads s p, barrier z) → barrier x) ∧
    ∀ y ∈ readyHeads s p, (needsSlot (opcOf y.2.desc) = true → slotsFull s = false) →
      ((∃ z ∈ readyHeads s p, barrier z) → barrier y) →
      x.2.order < 2 ^ 64 → y.2.order < 2 ^ 64 →
      prioOf y.2.desc ≤ prioOf x.2.desc ∧ (prioOf y.2.desc = prioOf x.2.desc → x.2.order ≤ y.2.order)

/-- CLAIM (R82, R136 to R138): an agent that may claim gets the unit of the next slot that has one; the counter passes the slots without
a unit, each counted, and every fetch-and-add counts, the one that finds the counter exhausted as well, after which nothing is claimed. A
staging window that the command fills no longer holds what it held (R81). An agent that may not claim changes nothing. -/
def Obligations.UnitClaim : Prop :=
  ∀ (ring : RingId) (agent : BitVec 8) (fed : Bool) (s : State) (c : InFlight),
    flightOf s ring.toNat = some c → live s = true →
    let may := c.counted = true ∧ c.discard = none ∧ mayClaim s c agent.toNat = true ∧ claimTurn s c = true ∧
      agentFree s c agent.toNat fed = true
    (¬may → exec (.claim ring ⟨agent, fed⟩) s = .next s) ∧
    (may → ∀ (k skipped : Nat) (unit : Option Nat), claimLoop c (c.slotCount - c.counter) c.counter 0 = (k, skipped, unit) →
      let s1 := setFlight (countT (countP s 0x3241 c.part skipped) 0x327A (k - c.counter)) c.ring (fun f => { f with counter := k })
      (unit = none → exec (.claim ring ⟨agent, fed⟩) s = .next s1) ∧
      (∀ u, unit = some u → unitWalks (workDesc c) = false → onBolter (opcOf (workDesc c)) = false → s.hlth.injections = [] →
        let s2 := setFlight (countP s1 0x3240 c.part 1) c.ring (fun f =>
          { f with claims := f.claims ++ [{ agent := agent.toNat, unit := u }] })
        let s3 : State := { s2 with cores := { s2.cores with
          lastClaim := s2.cores.lastClaim.filter (fun x => underWay s2 x && !(fed && x.1 == agent.toNat)) ++
            [(agent.toNat, c.ring, u)] } }
        exec (.claim ring ⟨agent, fed⟩) s = .next (stageInto s3 agent.toNat (workDesc c))))

/-- The numbering of units along the work counter never gives a unit twice: two slots of one command that both have a unit have
different ones, whatever the grid and the block side (R135, R138). -/
def Obligations.UnitsAreDistinct : Prop :=
  ∀ (f : InFlight) (a b u : Nat), f.blockSide ∈ [1, 2, 4, 8] → 0 < f.gridInner → 0 < f.gridRows → 0 < f.gridCols →
    unitOfSlot f a = some u → unitOfSlot f b = some u → a = b

/-- UNIT_COMPLETE of a claimed unit (R87, R88, R89, R312): its cycles are counted, it is claimed no more but done, and what the plan of
its command counts for it is counted under its agent; once the command has run, the walks of its ended units end (R169). (No injection is
armed.) -/
def Obligations.UnitComplete : Prop :=
  ∀ (ring : RingId) (agent : BitVec 8) (unit : BitVec 64) (k : UnitCycles) (s : State) (c : InFlight),
    flightOf s ring.toNat = some c → live s = true →
    ({ agent := agent.toNat, unit := unit.toNat } : Claim) ∈ c.claims → s.hlth.injections = [] →
    exec (.unitComplete ring agent unit k) s = .next (endWalks (chargeUnits (setFlight (countCycles s c agent.toNat k) c.ring (fun f =>
      { f with claims := f.claims.filter (fun x => x != { agent := agent.toNat, unit := unit.toNat })
               unitsDone := f.unitsDone ++ [{ agent := agent.toNat, unit := unit.toNat }] })) c.ring) c.ring)

/-- COMMIT (R43, R47, R70): a command that has run, whose units are complete and writes durable, and which no discard has reached, passes
its commit point and gets its completion record, unless remote tally adds that its commit sends are still to end; one whose status is a
failure ends failed. A command past its commit point gets its record once its remote adds have ended. -/
def Obligations.Commit : Prop :=
  ∀ (ring : RingId) (s : State) (c : InFlight), flightOf s ring.toNat = some c → live s = true →
    (sealedOn s c.ring = true → waitsTxn s c.ring = false → exec (.commit ring) s = .next (commitRecord s c)) ∧
    (sealedOn s c.ring = false → mayEnd s c = false → exec (.commit ring) s = .next s) ∧
    (sealedOn s c.ring = false → mayEnd s c = true → 0x10 ≤ c.status.toNat → exec (.commit ring) s = .next (endUncommitted s c)) ∧
    (sealedOn s c.ring = false → mayEnd s c = true → c.status.toNat < 0x10 → waitsTxn (commitPoint s c) c.ring = false →
      exec (.commit ring) s = .next (commitRecord (commitPoint s c) c)) ∧
    (sealedOn s c.ring = false → mayEnd s c = true → c.status.toNat < 0x10 → waitsTxn (commitPoint s c) c.ring = true →
      exec (.commit ring) s = .next (commitPoint s c))

/-- The steps of the commit point, in the order of R43: the journal record is sealed with all that is to be applied, the ledger takes the
SEQ, what the command wrote is in memory for every reader (R34), and the flips and acts are applied, after them the header's tally add.
Of the record only the remote adds stay to be done; COMMIT_POS moves on with the completion record. -/
def Obligations.CommitPointOrder : Prop :=
  ∀ (s : State) (c : InFlight), tableWf ledgerDefault s.hop.ledger = true →
    let add := (bits (dw c.desc 0) 59 48, bits (dw c.desc 3) 31 0)
    let record : JournalRec :=
      { ring := c.ring, seq := BitVec.ofNat 48 (seqOf c.desc), part := c.part
        acts := c.acts ++ (if bit (dw c.desc 0) 63 then [.tallyAdd add.1 (BitVec.ofNat 64 add.2)] else [])
        elapsed := if c.idle then 0 else now s - c.startTick.toNat
        seg := (ringOf s c.ring).cells.head?.bind (·.seg), interrupted := false }
    let noted : State := { s with hop := { s.hop with journal := s.hop.journal ++ [record] } }
    let ledgered := putLedger noted c.ring (seqOf c.desc)
    let applied := c.acts.foldl (applyAct c.ring) (applyResults ledgered c.results)
    let signalled := if bit (dw c.desc 0) 63 then tallyAdd applied add.1 add.2 else applied
    commitPoint s c = { signalled with hop := { signalled.hop with
      journal := modifyFirst (fun x => x.ring == c.ring) (fun x => { x with acts := x.acts.filter (·.goesOn) }) signalled.hop.journal } } ∧
    committedSeq ledgered c.ring = seqOf c.desc ∧ sealedOn ledgered c.ring = true

/-- DISCARD_COMPLETE of a discarded command whose transactions have ended ends it with its status (R47): the cycles of the units its
cores abandoned are counted (R87, R88); what it reserved is given back and a parity round is told; its outputs and what it wrote are
undefined (R34); its completion record is written and its ring halts at it; the partition dispatches again once no discarded command of
it is left. Until its transactions have ended it waits. -/
def Obligations.DiscardComplete : Prop :=
  ∀ (ring : RingId) (abandoned : List (BitVec 8 × UnitCycles)) (s : State) (c : InFlight) (st : Byte),
    flightOf s ring.toNat = some c → c.discard = some st → live s = true →
    (waitsTxn s ring.toNat = true → exec (.discardComplete ⟨ring, abandoned⟩) s = .next s) ∧
    (waitsTxn s ring.toNat = false →
      let ended (s : State) (c : InFlight) : State :=
        let s1 := undefine (parityFailed (undoFlight s c) c) (if c.status = 1 then [] else outRanges s c ++ c.wrote)
        let s2 := dropFlight (endHead s1 c.ring st.toNat c.faultId.toNat c.busy.toNat c.stall.toNat (elapsedOf s1 c)) c.ring
        afterEnd { s2 with hop := { s2.hop with
          stopped := s2.hop.stopped.filter (fun p => s2.hop.inflight.any (fun x => x.part == p && x.discard.isSome)) } }
          c.ring c.part
      exec (.discardComplete ⟨ring, []⟩) s = .next (ended s c) ∧
      ∀ c1, flightOf (abandoned.foldl (countAbandoned ring.toNat) s) ring.toNat = some c1 → c1.discard = some st →
        exec (.discardComplete ⟨ring, abandoned⟩) s = .next (ended (abandoned.foldl (countAbandoned ring.toNat) s) c1))

/-- NOTIFY_HOLDOFF_EXPIRY (R346): once notify_holdoff ticks have passed since a vector's last message, a message withheld meanwhile is
sent and a new holdoff begins; with none withheld the holdoff ends. Earlier it goes on. While Falyndi is down, one message of the vector
waits for it (R345, R346). -/
def Obligations.HoldoffExpiry : Prop :=
  ∀ (vector : BitVec 11) (s : State) (b : Bool) (sent : Nat), live s = true →
    s.host.holdoff.find? (fun h => h.1 == vector.toNat) = some (vector.toNat, b, sent) →
    let rest := s.host.holdoff.filter (fun h => h.1 != vector.toNat)
    let due := sent + dGet s (dk 0x1100 6) ≤ now s
    (¬due → exec (.notifyHoldoffExpiry vector) s = .next s) ∧
    (due → b = false → exec (.notifyHoldoffExpiry vector) s = .next { s with host := { s.host with holdoff := rest } }) ∧
    (due → b = true →
      (falyndiUp s = true → exec (.notifyHoldoffExpiry vector) s = .next { s with host := { s.host with
        msix := s.host.msix ++ [vector.toNat]
        link := { s.host.link with
          queue := s.host.link.queue ++ slotsOf 2 false 0 (falyndiPacket 4 0 0 vector.toNat []) }
        holdoff := rest ++ (if dGet s (dk 0x1100 6) = 0 then [] else [(vector.toNat, false, now s)]) } }) ∧
      (falyndiUp s = false → exec (.notifyHoldoffExpiry vector) s = .next { s with host := { s.host with
        held := s.host.held.filter (fun h => h.1 != msixPlace vector.toNat) ++ [(msixPlace vector.toNat, [])]
        holdoff := rest } }))

/-! ### Opcode rows: control (R62, R68, R70, R75, R77) -/

namespace Sys2Proof.Claims

/-- The command in flight on a ring has run with status OK and leaves `acts` to its commit. -/
def done (s : State) (ring : Nat) (acts : List CommitAct) : State :=
  setFlight (tickFresh s) ring (fun f => { f with
    executed := true, status := 0, acts := f.acts ++ acts, unitCounts := [], weirWait := [], weirPaid := [],
    hostWait := none })

end Sys2Proof.Claims

/-- NOP, TALLY_WAIT and FENCE do nothing but end: once dispatched, the command has run with status OK, and nothing else changes (the
counter of free values aside); their waits were conditions of readiness (R62). TALLY_SIGNAL ends so too, and leaves its enabled adds to
its commit, in order: local ones (node 0xFFFF or the module's own) as adds to a tally, the others as remote adds (R68, R70). -/
def Obligations.ControlRows : Prop :=
  ∀ (ring : RingId) (s : State) (c : InFlight), waitsTxn s ring.toNat = false →
    let act (i : Nat) : CommitAct :=
      let a := dw c.desc (4 + 2 * i)
      let add := BitVec.ofNat 64 (dw c.desc (5 + 2 * i))
      if bits a 47 32 = 0xFFFF ∨ bits a 47 32 = nodeId s then .tallyAdd (bits a 11 0) add else .remoteAdd (bits a 47 32) (bits a 11 0) add
    (Ready s ring.toNat 0x000 c → exec (.nop ring) s = .next (done s ring.toNat [])) ∧
    (Ready s ring.toNat 0x002 c → exec (.tallyWait ring) s = .next (done s ring.toNat [])) ∧
    (Ready s ring.toNat 0x003 c → exec (.fence ring) s = .next (done s ring.toNat [])) ∧
    (Ready s ring.toNat 0x001 c → exec (.tallySignal ring) s =
      .next (done s ring.toNat (((List.range 4).filter (fun i => bit (dw c.desc (4 + 2 * i)) 63)).map act)))

/-- A local tally add (R68): the sum where it fits 64 bits; else the tally holds 2^64 − 1 and the add counts as saturated, under the
tally's partition. Every other tally stays. -/
def Obligations.TallyAdd : Prop :=
  ∀ (s : State) (t add : Nat), tableWf tallyDefault s.hop.tallies = true →
    tallyOf (tallyAdd s t add) t = min (tallyOf s t + add) (2 ^ 64 - 1) ∧
    (∀ u, u ≠ t → tallyOf (tallyAdd s t add) u = tallyOf s u) ∧
    (tallyOf s t + add < 2 ^ 64 → tallyAdd s t add = putTally s t (tallyOf s t + add)) ∧
    (∀ p, 2 ^ 64 ≤ tallyOf s t + add → tallyOwner s t = some p →
      tallyAdd s t add = putTally (countP s 0x3210 p 1) t (2 ^ 64 - 1))

/-- RELEASE leaves the release of the segment it names to its commit (R77). At the commit of a RELEASE, a complete segment's directory
entry is freed; one still open stays, holds no descriptor any more, and frees what joins it from then on. -/
def Obligations.ReleaseRow : Prop :=
  (∀ (ring : RingId) (s : State) (c : InFlight), Ready s ring.toNat 0x005 c → waitsTxn s ring.toNat = false →
    exec (.release ring) s =
      .next (done s ring.toNat [.releaseSeg (bits (dw c.desc 4) 13 0) (BitVec.ofNat 48 (bits (dw c.desc 5) 47 0))])) ∧
  (∀ (n ring : Nat) (seq : BitVec 48) (s : State) (g : Segment), findSeg s ring seq.toNat = some g →
    (g.complete = true → applyAct n s (.releaseSeg ring seq) = dropSeg s ring seq.toNat) ∧
    (g.complete = false → applyAct n s (.releaseSeg ring seq) =
      setSeg s ring seq.toNat (fun g => { g with held := [], released := true })))

/-- REWIND (R75) runs the segment's descriptors one at a time: with none left it has run; the running part ends once its units and
transactions have, a failed one with its failure, and the next one starts then, on what the parts before it have written; a part that
its own checks return or find without work ends at once with that status, an error of the reads these checks make is raised, those of
other nodes go first, and one whose engine an earlier command waits for waits. The units of an ATTN_FWD are claimed, each with its
snapshot, before it runs (R169). -/
def Obligations.RewindRow : Prop :=
  ∀ (ring : RingId) (s : State) (c : InFlight) (d : List Word) (rest : List (List Word)), Ready s ring.toNat 0x004 c →
    (c.parts = [] → exec (.rewind ring) s = .next (setFlight s c.ring (fun f => { f with executed := true }))) ∧
    (c.parts = d :: rest → c.partOn = true → unitsEnded c = true → waitsTxn s c.ring = false →
      exec (.rewind ring) s = .next (partEnds s c.ring (if 0x10 ≤ c.status.toNat then c.status.toNat else 1))) ∧
    (c.parts = d :: rest → c.partOn = true → unitsEnded c = false ∨ waitsTxn s c.ring = true → exec (.rewind ring) s = .next s) ∧
    (c.parts = d :: rest → c.partOn = false → 0x10 ≤ c.status.toNat →
      exec (.rewind ring) s = .next (partEnds s c.ring c.status.toNat)) ∧
    (c.parts = d :: rest → c.partOn = false → c.status.toNat < 0x10 →
      let w : Who := { part := c.part, ring := c.ring }
      let v := ownView s c
      let st := opShape v w d
      (waitsTxn s c.ring = true → exec (.rewind ring) s = .next s) ∧
      (waitsTxn s c.ring = false → headFetch v w d c.fetched ≠ [] →
        exec (.rewind ring) s = .next (fetchOperands s c.ring c (headFetch v w d c.fetched))) ∧
      (waitsTxn s c.ring = false → headFetch v w d c.fetched = [] → ∀ e, shapeFault v w d = some e →
        exec (.rewind ring) s = .next (detectError s e none).1) ∧
      (waitsTxn s c.ring = false → headFetch v w d c.fetched = [] → shapeFault v w d = none →
        (st ≠ 0 → exec (.rewind ring) s = .next (partEnds s c.ring st)) ∧
        (st = 0 → queueAhead s d s.hop.dispatchOrder = true → exec (.rewind ring) s = .next s) ∧
        (st = 0 → queueAhead s d s.hop.dispatchOrder = false → unitWalks d = true → c.counted = false →
          exec (.rewind ring) s = .next (setFlight s c.ring (fun f => { placeCounter s w d f with roots := [] }))) ∧
        (st = 0 → queueAhead s d s.hop.dispatchOrder = false → unitWalks d = false ∨ c.counted = true →
          let c' := { c with desc := d, latched := opLatch v w d }
          let p := partPlan (planView v c') c'
          ∀ t x, Clear s c.ring c' p t → flightOf (ranPlan s c.ring c' p t) c.ring = some x → x.executed = true →
            exec (.rewind ring) s = .next (partRan (ranPlan s c.ring c' p t) w d c x))))

/-- The end of a part of a REWIND (R75): after a status below 0x10 the next part's turn comes, or with none left the REWIND has run; a
failed or returned status stops the replay and is the REWIND's own. The REWIND's status is the first that is neither OK nor
OK_ZERO_WORK. -/
def Obligations.PartEnd : Prop :=
  ∀ (s : State) (ring st : Nat) (f : InFlight), flightOf s ring = some f → st < 256 →
    ∃ g, flightOf (partEnds s ring st) ring = some g ∧ g.partOn = false ∧ g.claims = [] ∧ g.counted = false ∧
      g.parts = (if 0x10 ≤ st then [] else f.parts.drop 1) ∧ g.executed = g.parts.isEmpty ∧
      g.status.toNat = (if 0x10 ≤ st then st else if f.status ≠ 0 ∨ st = 1 then f.status.toNat else st)

/-! ### Opcode rows: arrays, vector units, quern engines, attention, stores, memory, fabric, resilience

Each row carries out its chapter's plan, whatever the ring, the state and the operands, when nothing stands in its way (`RowRuns`): the
reads and writes are made, the command has run with the plan's status, and what the plan leaves to the commit is left to it. -/

namespace Sys2Proof.Claims

/-- `n` bytes at `a` lie in row `r` of a tensor's buffer at `b`: in its elements, or in its scale bytes where the format has blocks. -/
def InRow (t : Tens) (b r a n : Nat) : Prop :=
  (b + t.rowOffset r ≤ a ∧ a + n ≤ b + t.rowOffset r + t.fmt.bytes t.cols) ∨
  (t.fmt.isBlock = true ∧ b + t.scalePlane + r * t.blocks ≤ a ∧ a + n ≤ b + t.scalePlane + (r + 1) * t.blocks)

/-- A plan writes rows of tensors and nothing else: each range that it writes lies in a row, of those that the list admits, of the output
buffer of a tensor of the list; it stores nothing by a global address, moves nothing and leaves nothing undefined. -/
def WritesRows (p : Plan) (vout : Bool) (outs : List (Tens × (Nat → Prop))) : Prop :=
  p.gwrites = [] ∧ p.moves = [] ∧ p.undef = [] ∧
  ∀ x ∈ p.writes, ∃ o ∈ outs, ∃ r, o.2 r ∧ InRow o.1 (o.1.outBuf vout) r x.1 x.2.length

/-- What the rows of chapters 04 to 06 write, where the shapes fit: GEMM the rows of its groups in D; a convolution or POOL rows of Y; a
vector command the ROWS rows of Z (REDUCE its packed results) and S; OPTIM_STEP the ROWS rows of the tensors that it updates; RNG_FILL
those of OUT. -/
def ArrayAndVectorWrites : Prop :=
  ∀ (s : State) (c : InFlight),
    let v := voutOf c.desc
    let t (i : Nat) : Tens := tens s c.part i
    (let g := gemmFields c.desc
     let groups := gemmGroups (opcOf c.desc) g c.latched
     g.n ≤ (t g.d).cols → WritesRows (gemmPlan s c) v [(t g.d, fun r => ∃ grp ∈ groups, ∃ i ∈ gemmRows (t g.d) g groups (opcOf c.desc) grp,
       r = (t g.d).rowIndex [grp.d0 + i, grp.ab])]) ∧
    (let f := convFields c.desc
     f.cOut ≤ (t f.y).cols → (f.isPool = true → f.cIn ≤ (t f.y).cols) → WritesRows (convPlan s c) v [(t f.y, fun _ => True)]) ∧
    (let f := vecFields c.desc
     f.cols ≤ (t f.z).cols → (f.sEn = true → 2 ≤ (t f.st).cols) → WritesRows (vecPlan s c) v
       [(t f.z, fun r => opcOf c.desc ≠ 0x401 → r < f.rows), (t f.st, fun _ => f.sEn = true)]) ∧
    (let f := optFields c.desc
     let outs := f.updated ++ (if f.plowEn then [f.plow] else [])
     (∀ i ∈ outs, f.cols ≤ (t i).cols) → WritesRows (optPlan s c) v (outs.map (fun i => (t i, fun r => r < f.rows)))) ∧
    (let f := rngFields c.desc
     f.cols ≤ (t f.out).cols → WritesRows (rngPlan s c) v [(t f.out, fun r => r < f.rows)])

/-- What ATTN_FWD and ATTN_BWD write, where the shapes fit: rows of O, and of STATS where it is enabled; rows of DELTA, DK, DQ and DV. -/
def AttentionWrites : Prop :=
  ∀ (s : State) (c : InFlight),
    let f := attnFields c.desc
    let v := voutOf c.desc
    let t (i : Nat) : Tens := tens s c.part i
    (f.d ≤ (t f.o).cols → (f.statsEn = true → 2 ≤ (t f.stats).cols) →
      WritesRows (fwdPlan s c) v [(t f.o, fun _ => True), (t f.stats, fun _ => f.statsEn = true)]) ∧
    (f.lq ≤ (t f.delta).cols → (∀ i ∈ [f.dk', f.dq, f.dv], f.d ≤ (t i).cols) →
      WritesRows (bwdPlan s c) v ([f.delta, f.dk', f.dq, f.dv].map (fun i => (t i, fun _ => True))))

/-- What the rows of the cache write: KV_APPEND raises every sequence's LENGTH by N at its commit and enters its new pages in the
sequence's table; KV_TABLE_SWAP replaces the root at its commit; PREFIX_LOOKUP writes its entries from OUT's first byte, 16 bytes each,
and RESULT; PREFIX_INSERT writes RESULT alone; PREFIX_RELEASE writes nothing before its commit. -/
def CacheWrites : Prop :=
  ∀ (s : State) (c : InFlight),
    let v := voutOf c.desc
    let t (i : Nat) : Tens := tens s c.part i
    (let f := appendFields c.desc
     let w : Who := { part := c.part, ring := c.ring }
     ∀ pool, poolOf s c.part = some pool →
     let snaps := (appendSeqs s w f).map (keptSnap s c none)
     let cuts := cutList ((appendClasses s w f).map (·.length)) c.reserved
     (appendPlan s c).writes = [] ∧ ∀ x ∈ List.zip snaps cuts,
       CommitAct.write x.1.addr (rootBytes x.1.table (x.1.length + f.n) x.1.cap (x.1.count + x.2.length)) ∈ (appendPlan s c).acts ∧
       ∀ i, i < x.2.length → ∃ e ∈ newEntries s pool (((x.1.ents s).getLast?.map PageEnt.fin).getD 0) x.2,
         (x.1.table + 16 * (x.1.count + i), e.toBytes) ∈ (appendPlan s c).gwrites) ∧
    (let f := swapFields c.desc
     let q := snapOf s c.part f.seqId
     (swapPlan s c).writes = [] ∧ (swapPlan s c).gwrites = [] ∧ (swapPlan s c).undef = [((t f.result).outBuf v, 8)] ∧
     (f.count = 0 → CommitAct.write q.addr (rootBytes 0 0 0 0) ∈ (swapPlan s c).acts) ∧
     (f.count ≠ 0 → ∀ a, translate s c.part c.ring (t f.newtable).inBuf = some a →
       CommitAct.write q.addr (rootBytes a f.length (min ((t f.newtable).cols / 4) 65535) f.count) ∈ (swapPlan s c).acts)) ∧
    (let f := prefixFields c.desc
     (∀ x ∈ (lookupPlan s c).writes,
       (∃ i, x.1 = (t f.out).outBuf v + 16 * i ∧ x.2.length = 16) ∨ x.1 = (t f.result).outBuf v + (t f.result).rowOffset 0) ∧
     (∀ x ∈ (insertPlan s c).writes, x.1 = (t f.result).outBuf v + (t f.result).rowOffset 0) ∧ (insertPlan s c).gwrites = [] ∧
     (prefixReleasePlan s c).writes = [] ∧ (prefixReleasePlan s c).gwrites = [])

/-- What the rows of chapters 08 to 10 write. COPY: each whole byte of each row of SRC goes to the same place of that row of DST, a last
half byte by a write that keeps the byte's other half, and block formats bring their scale bytes. CONVERT: the rows of DST. SAVE_ACT: the
store's header and directory first. LOAD_ACT: DST's output buffer. SPILL and FETCH of plain bytes, REMOTE_READ and REMOTE_WRITE: one move
of LEN bytes. MAP: RESULT's words, if it has a RESULT. UNMAP: nothing. -/
def StoreAndMemoryWrites : Prop :=
  ∀ (s : State) (c : InFlight),
    let v := voutOf c.desc
    let w : Who := { part := c.part, ring := c.ring }
    let t (i : Nat) : Tens := tens s c.part i
    (let f := copyFields c.desc
     let a := t f.src
     let b := t f.dst
     let n := f.ext.getD 0 0
     (copyPlan s c).gwrites = [] ∧ (copyPlan s c).undef = [] ∧ ∀ ix ∈ outerIndexes (f.outer a.rank),
       let from' := a.inBuf + a.rowOffset (a.rowIndex ix)
       let onto := b.outBuf v + b.rowOffset (b.rowIndex ix)
       let whole := n * a.fmt.bits / 8
       (∀ i, i < whole → ∃ m ∈ (copyPlan s c).moves, m.srcG = false ∧ m.dstG = false ∧ m.src ≤ from' + i ∧
         from' + i < m.src + m.len ∧ onto + i + m.src = from' + i + m.dst) ∧
       (a.fmt = .bs4 → n % 2 = 1 →
         (onto + whole, [lowNibble (vaByte s w.part w.ring (onto + whole)) (vaByte s w.part w.ring (from' + whole))]) ∈ (copyPlan s c).writes) ∧
       (a.fmt.isBlock = true → ∃ m ∈ (copyPlan s c).moves, m.src = a.inBuf + a.scalePlane + a.rowIndex ix * a.blocks ∧
         m.dst = b.outBuf v + b.scalePlane + b.rowIndex ix * b.blocks ∧ m.len = (n + 31) / 32)) ∧
    (let f := copyFields c.desc
     f.ext.getD 0 0 ≤ (t f.dst).cols → WritesRows (convertPlan s c) v [(t f.dst, fun r =>
       ∃ ix ∈ outerIndexes (f.outer (t f.src).rank), r = (t f.dst).rowIndex ix)]) ∧
    (let f := saveFields c.desc
     let b := (t f.store).outBuf v
     (∀ x ∈ (savePlan s c).writes, b ≤ x.1) ∧ (savePlan s c).gwrites = [] ∧ (savePlan s c).undef = [] ∧
     ∃ h d, (savePlan s c).writes.take 2 = [(b, h), (b + 64, d)]) ∧
    (let f := loadFields c.desc
     (∀ x ∈ (loadPlan s c).writes, (t f.dst).outBuf v ≤ x.1) ∧ (loadPlan s c).gwrites = [] ∧ (loadPlan s c).undef = []) ∧
    (let f := spillFields c.desc
     f.isStore = false ∨ opcOf c.desc = 0x504 → (spillPlan s c).writes = [] ∧ (spillPlan s c).moves =
       [{ src := (t f.src).inBuf, srcG := false, dst := (t f.dst).outBuf v, dstG := false, len := spillBytes s w f }]) ∧
    (let f := remFields c.desc
     isAtomic c.desc = false → (remotePlan s c).writes = [] ∧ (remotePlan s c).moves = [if opcOf c.desc = 0x600
       then { src := f.remote, srcG := true, dst := (t f.loc).outBuf v, dstG := false, len := f.len }
       else { src := (t f.loc).inBuf, srcG := false, dst := f.remote, dstG := true, len := f.len }]) ∧
    (let f := mapFields c.desc
     ∀ x ∈ (mapPlan s c).writes, f.resultEn = true ∧ x.2.length = 8 ∧ ∃ i, x.1 = (t f.result).outBuf v + 8 * i) ∧
    ((unmapPlan s c).writes = [] ∧ (unmapPlan s c).gwrites = [] ∧ (unmapPlan s c).moves = [])

/-- What the rows of chapter 11 write: CUT its record at TGT; RESTORE a code of one byte for each tensor entry at OUT; RECONSTRUCT from a
mirror DST alone, and nothing without a DST or when the check fails; DIGEST the 32 bytes of the version's digest; PHASE_MARK and TAP_READ
leave to their commit the bytes at OUT. -/
def ResilienceWrites : Prop :=
  ∀ (s : State) (c : InFlight),
    let v := voutOf c.desc
    let w : Who := { part := c.part, ring := c.ring }
    let t (i : Nat) : Tens := tens s c.part i
    (let f := cutFields c.desc
     (cutPlan s c).writes = [((t f.tgt).outBuf v, cutRecord s w f)] ∧
     (∃ codes : List Byte, (restorePlan s c).writes = [((t f.out).outBuf v, codes)] ∧ codes.length = pGet s c.part 9) ∧
     (∀ x ∈ (digestPlan s c).writes, x.1 = (t f.out).outBuf v) ∧
     (f.wantEn = false → (digestPlan s c).writes =
       [((t f.out).outBuf v, imageDigest (packedImage s w (t f.tgt) ((t f.tgt).buf (t f.tgt).cur)))])) ∧
    (let f := parFields c.desc
     (f.dst = 0 ∨ 0x10 ≤ (mirrorPlan s c).status → (mirrorPlan s c).writes = []) ∧ (mirrorPlan s c).gwrites = []) ∧
    (let f := markFields c.desc
     (markPlan s c).writes = [] ∧ (markPlan s c).undef = [((t f.out).outBuf v, markBytes c.desc)])

end Sys2Proof.Claims

/-- The rows of chapters 04 to 06 (R107 to R168, R130 to R168): GEMM rows, convolution and quern rows, vector rows. -/
def Obligations.ArrayAndVectorRows : Prop :=
  ArrayAndVectorWrites ∧
  RowRuns .gemm 0x100 gemmPlan ∧ RowRuns .gemmBatched 0x101 gemmPlan ∧ RowRuns .gemmGrouped 0x102 gemmPlan ∧
  RowRuns .conv 0x200 convPlan ∧ RowRuns .convDw 0x201 convPlan ∧ RowRuns .quernConv 0x202 convPlan ∧
  RowRuns .quernPatch 0x203 convPlan ∧ RowRuns .quernUnpatch 0x204 convPlan ∧ RowRuns .pool 0x205 convPlan ∧
  RowRuns .elemwise 0x400 vecPlan ∧ RowRuns .reduce 0x401 vecPlan ∧ RowRuns .norm 0x402 vecPlan ∧
  RowRuns .softmax 0x403 vecPlan ∧ RowRuns .optimStep 0x404 optPlan ∧ RowRuns .rngFill 0x405 rngPlan

/-- The rows of chapter 07: attention, KV_APPEND, KV_TABLE_SWAP and the prefix rows. Once ATTN_FWD has run, the walks of its ended units
end (R169). -/
def Obligations.AttentionAndCacheRows : Prop :=
  AttentionWrites ∧ CacheWrites ∧
  (∀ (ring : RingId) (s : State) (c : InFlight) (t : Touched),
    Ready s ring.toNat 0x300 c → queueAhead s c.desc c.order = false → Clear s ring.toNat c (viewed fwdPlan s c) t →
    exec (.attnFwd ring) s = .next (endWalks (ranPlan s ring.toNat c (viewed fwdPlan s c) t) ring.toNat)) ∧
  RowRuns .attnBwd 0x301 bwdPlan ∧ RowRuns .kvAppend 0x302 appendPlan ∧
  RowRuns .kvTableSwap 0x303 swapPlan ∧ RowRuns .prefixLookup 0x304 lookupPlan ∧ RowRuns .prefixInsert 0x305 insertPlan ∧
  RowRuns .prefixRelease 0x306 prefixReleasePlan

/-- The rows of chapters 08 to 10 that carry out a plan: the activation store, memory and remote accesses. -/
def Obligations.StoreAndMemoryRows : Prop :=
  StoreAndMemoryWrites ∧
  RowRuns .saveAct 0x501 savePlan ∧ RowRuns .loadAct 0x502 loadPlan ∧ RowRuns .spill 0x503 spillPlan ∧
  RowRuns .fetch 0x504 spillPlan ∧ RowRuns .copy 0x500 copyPlan ∧ RowRuns .convert 0x507 convertPlan ∧
  RowRuns .map 0x505 mapPlan ∧ RowRuns .unmap 0x506 unmapPlan ∧ RowRuns .remoteRead 0x600 remotePlan ∧
  RowRuns .remoteWrite 0x601 remotePlan ∧ RowRuns .remoteAtomic 0x601 remoteAtomicPlan

/-- The rows of chapter 11 that carry out a plan: CUT, RESTORE, RECONSTRUCT from a mirror, DIGEST, PHASE_MARK and TAP_READ. -/
def Obligations.ResilienceRows : Prop :=
  ResilienceWrites ∧
  RowRuns .cut 0x800 cutPlan ∧ RowRuns .restore 0x802 restorePlan ∧ RowRuns .reconstruct 0x803 mirrorPlan ∧
  RowRuns .digest 0x804 digestPlan ∧ RowRuns .phaseMark 0x900 markPlan ∧ RowRuns .tapRead 0x901 markPlan

/-! ### Opcode rows: collectives, parity, media (R283 to R288, R300 to R306, R323 to R338)

The rows of the collective engine and of the media engines run their plan on the state in which the engine has taken what arrived for
its instance. `CollRuns`, `ParityRuns` and `MediaRuns` say how. -/

namespace Sys2Proof.Claims

/-- The engine takes the chunks that have arrived for an instance (R285). -/
def instTakes (s : State) (inst : CollInst) : State × CollInst :=
  ({ s with fab := { s.fab with staged := s.fab.staged.filter (fun k => k.pkt.addr / 2 ^ 32 != inst.collId.toNat) } },
   { inst with used := inst.used ++ s.fab.staged.filter (fun k => k.pkt.addr / 2 ^ 32 == inst.collId.toNat) })

/-- A collective held by the engine, its own operands readable: it takes what has arrived and sends every message whose bytes are there.
With messages left to send or to be acknowledged, or results not yet complete, it goes on later; else its plan runs. -/
def CollRuns (i : RingId → Instr) (opc : Nat) : Prop :=
  ∀ (ring : RingId) (s : State) (c : InFlight) (inst : CollInst) (t0 : Touched),
    Ready s ring.toNat opc c → c.coll = some inst → collHeld s c = true →
    let w : Who := { part := c.part, ring := c.ring }
    let s1 := (instTakes s inst).1
    let inst1 := (instTakes s inst).2
    let x := collCtx s1 w c.desc inst1
    let out := x.ready (x.sends.drop inst.sent)
    let inst2 : CollInst := { inst1 with sent := inst.sent + out.length }
    let s2 := asks (some ring.toNat) (setFlight s1 ring.toNat (fun f => { f with coll := some inst2 }))
      (out.flatMap (fun y => x.chunkAsks y.1 y.2))
    touched s { part := c.part, ring := ring.toNat } { Plan.ok with reads := collReads s w c.desc } = .ok t0 →
    waitsRead s ring.toNat = false → (∀ x ∈ t0.reads, hostRange x.1 = true → falyndiUp s = true) →
    (∀ x ∈ t0.reads, remoteAddr s x.1 = true → nodeStatus s (gaNode x.1) = 0) → lostRead s t0.reads = none → toFetch s c t0 = [] →
    (inst2.sent ≠ x.sends.length ∨ collPlan s1 w c x = none → exec (i ring) s = .next s2) ∧
    (inst2.sent = x.sends.length → ∀ (p : Plan) (t : Touched), collPlan s1 w c x = some p →
      let c2 := { c with coll := some inst2 }
      let p2 := { p with reads := collReads s1 w c.desc }
      (touched (withMaps s2 p.maps) w p2 = .ok t → waitsTxn s2 ring.toNat = true → exec (i ring) s = .next s2) ∧
      (Clear s2 ring.toNat c2 p2 t → exec (i ring) s = .next (ranPlan s2 ring.toNat c2 p2 t)))

/-- A plan of an instance has run; where the wanted version is absent the other members are told (R288, R306). -/
def ranInstance (s : State) (ring : Nat) (c : InFlight) (inst : CollInst) (p : Plan) (t : Touched) : State :=
  if p.status = 0x41 then collAbortAll (ranPlan s ring c p t) inst else ranPlan s ring c p t

/-- A parity command held by the engine. A member (ROLE 0) runs its plan, sending its share. The holder or rebuilder takes what has
arrived, the holder merging it as it comes (R300), goes on later while a member is missing, and runs its plan when all are there; a
rebuilder without the wanted version in either copy ends with status 0x41, its output undefined (R306). -/
def ParityRuns (i : RingId → Instr) (opc : Nat) (buf : State → InFlight → Option Nat)
    (plan : State → InFlight → CollInst → Nat → Plan) : Prop :=
  ∀ (ring : RingId) (s : State) (c : InFlight) (inst : CollInst),
    Ready s ring.toNat opc c → c.coll = some inst → collHeld s c = true →
    let inst1 := (instTakes s inst).2
    let merged := (s.fab.staged.filter (fun k => k.pkt.addr / 2 ^ 32 == inst.collId.toNat)).foldl xorArrival
    let took (f : InFlight) : InFlight :=
      { f with coll := some inst1, results := if isHolder c.desc then merged f.results else f.results }
    let s1 := setFlight (instTakes s inst).1 ring.toNat took
    let c1 := took c
    let absent := { Plan.stop 0x41 with undef := rebuilderOut s1 c1 }
    ((parFields c.desc).role = 0 → ∀ t, Clear s ring.toNat c (memberPlan s c inst) t →
      exec (i ring) s = .next (ranInstance s ring.toNat c inst (memberPlan s c inst) t)) ∧
    ((parFields c.desc).role ≠ 0 → buf s1 c1 = none → ∀ t, Clear s1 ring.toNat c1 absent t →
      exec (i ring) s = .next (ranInstance s1 ring.toNat c1 inst1 absent t)) ∧
    ((parFields c.desc).role ≠ 0 → ∀ b, buf s1 c1 = some b →
      (membersDone c.desc inst1 = false → exec (i ring) s = .next s1) ∧
      (membersDone c.desc inst1 = true → ∀ t, Clear s1 ring.toNat c1 (plan s1 c1 inst1 b) t →
        exec (i ring) s = .next (ranInstance s1 ring.toNat c1 inst1 (plan s1 c1 inst1 b) t)))

/-- A media command on an engine that has a place for it: its plan runs; the engine notes the context it works for (R324), forgets the
pictures that the watchdog gave up, and the stream's other copy receives what the command made of it (R323). -/
def MediaRuns (i : RingId → Instr) (opc : Nat) (plan : State → InFlight → MediaRun) : Prop :=
  ∀ (ring : RingId) (s : State) (c : InFlight) (e x : Nat) (t : Touched),
    Ready s ring.toNat opc c → mediaName c.desc = some (e, x) → engineFull s c e = false → Clear s ring.toNat c (plan s c).plan t →
    let s1 := noteCtx (ranPlan s ring.toNat c (plan s c).plan t) e x (plan s c).pictures
    let s2 : State := { s1 with media := { s1.media with abandoned := s1.media.abandoned.filter (fun a => a.1 != ring.toNat) } }
    exec (i ring) s = .next (match (plan s c).copy with
      | some y => setCtx s2 e x (fun m => m.putOther y)
      | none => s2)

end Sys2Proof.Claims

/-- The five collectives (R283 to R288): each sends what it has, goes on later while something is missing, and runs its plan when
everything is sent and received. -/
def Obligations.CollectiveRows : Prop :=
  CollRuns .allreduce 0x602 ∧ CollRuns .reduceScatter 0x603 ∧ CollRuns .allgather 0x604 ∧ CollRuns .normReduce 0x605 ∧
  CollRuns .attnMerge 0x606

/-- PARITY_UPDATE and RECONSTRUCT by parity (R300 to R306). -/
def Obligations.ParityRows : Prop :=
  ParityRuns .parityUpdate 0x801 (fun _ _ => some 0) (fun s c _ _ => holderPlan s c) ∧
  ParityRuns .reconstructParity 0x803 rebuilderBuf rebuilderPlan

namespace Sys2Proof.Claims

/-- What the media rows write: an ENCODE its bytes at OFFSET of BSOUT, then the 32 bytes of RESULT; a DECODE that ends UNDECODABLE RESULT
alone, its other outputs undefined and the stream's copy as it was, any other RESULT beside the outputs it enables; STREAM_CTX nothing but its context's header, which is undefined. -/
def MediaWrites : Prop :=
  ∀ (s : State) (c : InFlight),
    let v := voutOf c.desc
    let w : Who := { part := c.part, ring := c.ring }
    let t (i : Nat) : Tens := tens s c.part i
    (let f := encFields c.desc
     ∀ x, findCtx s f.engine f.ctx = some x → ∃ r : List Byte, r.length = 32 ∧ (encPlan s c).plan.writes =
       [((t f.bsout).outBuf v + f.offset, (encRun s w f x).bytes), ((t f.result).outBuf v, r)]) ∧
    (let f := decFields c.desc
     ∀ x, findCtx s f.engine f.ctx = some x → ∃ r : List Byte, r.length = 32 ∧
       (((decPlan s c).plan.status = 0x42 ∧ (decPlan s c).plan.writes = [((t f.result).outBuf v, r)] ∧ (decPlan s c).copy = none ∧
         (f.outEn = true → ((t f.out).outBuf v, (t f.out).span) ∈ (decPlan s c).plan.undef)) ∨
        (((decPlan s c).plan.status = 0 ∨ (decPlan s c).plan.status = 3) ∧ (decPlan s c).copy.isSome = true ∧
         ((t f.result).outBuf v, r) ∈ (decPlan s c).plan.writes ∧ (f.outEn = false → f.dmapEn = false → f.grainEn = false →
           (decPlan s c).plan.writes = [((t f.result).outBuf v, r)])))) ∧
    ((ctxPlan s c).writes = [] ∧ (ctxPlan s c).gwrites = [] ∧ (ctxPlan s c).moves = [])

end Sys2Proof.Claims

/-- DECODE, ENCODE and the three rows of STREAM_CTX (R319 to R338); the watchdog of a DECODE in flight: the picture's undecoded blocks
are to be concealed, and the engine counts it, each picture once (R331). -/
def Obligations.MediaRows : Prop :=
  MediaWrites ∧
  MediaRuns .decode 0x700 decPlan ∧ MediaRuns .encode 0x701 encPlan ∧ MediaRuns .streamCtxCreate 0x702 (ctxRowPlan 1) ∧
  MediaRuns .streamCtxReset 0x702 (ctxRowPlan 2) ∧ MediaRuns .streamCtxDestroy 0x702 (ctxRowPlan 3) ∧
  (∀ (ring : RingId) (picture : BitVec 16) (s : State) (c : InFlight), Ready s ring.toNat 0x700 c →
    ((ring.toNat, picture.toNat) ∈ s.media.abandoned → exec (.mediaWatchdog ring picture) s = .next s) ∧
    ((ring.toNat, picture.toNat) ∉ s.media.abandoned → exec (.mediaWatchdog ring picture) s =
      .next (count { s with media := { s.media with abandoned := s.media.abandoned ++ [(ring.toNat, picture.toNat)] } }
        0x32B5 ((decFields c.desc).engine + 1) 1)))

/-- The frame of a row's run (`RowRuns`), whatever the plan, when it takes no pages and no unit's checksum failed (which discards,
R93): of the hopper only the command's own record changes (rings, other commands in flight, segments, ledger and tallies stay), its
results among it; and every byte of memory outside the ranges that the plan writes or leaves undefined reads as before. -/
def Obligations.RunFrame : Prop :=
  ∀ (s : State) (ring : Nat) (c : InFlight) (p : Plan) (t : Touched),
    let w : Who := { part := c.part, ring := c.ring }
    touched (withMaps s p.maps) w p = .ok t → p.reserve = [] → (∀ x ∈ p.unitCounts, x.2.1 ≠ 0x3226) →
    let s' := ranPlan s ring c p t
    s'.hop = (setFlight s ring (fun f => { f with
      executed := true
      status := BitVec.ofNat 8 p.status
      acts := f.acts ++ p.acts
      wrote := f.wrote ++ (if p.status < 0x10 then t.writes else t.undefs)
      results := f.results ++ p.results (withMaps s p.maps) w t
      unitCounts := p.unitCounts.filter (fun x => f.unitsDone.all (fun k => k.unit != x.1))
      weirWait := []
      weirPaid := []
      hostWait := none })).hop ∧
    (Sys2Proof.State.canonical s → c.part < 16 → p.maps = [] → ∀ k,
      (∀ x ∈ t.writes, k < memKey s x.1 ∨ memKey s x.1 + x.2 ≤ k) → keyByte s' k = keyByte s k)

/-! ### The dictionary: requests and their answers (R351 to R362) -/

namespace Sys2Proof.Claims

/-- The request that a command carries, if it is one of the dictionary's (a COREMASK word 3 names no entry and is no request). -/
def requestOf : Instr → Option Req
  | .create rq _ _ | .destroy rq _ _ | .resume rq _ _ | .write rq _ _ _ | .read rq _ _ | .describe rq _ _ | .discover rq => some rq
  | .segInitUp rq _ _ | .segInitDown rq _ _ _ _ _ | .segment rq _ _ _ _ _ _ _ | .segReq rq _ _ _ | .segEnd rq _ _ => some rq
  | .segAbort rq _ _ | .fwBundle rq _ | .attestRequest rq _ | .eventAck rq _ | .quiesceRequest rq _ _ | .enabled rq _ _ => some rq
  | .coreMask rq _ word _ => if word = 3 then none else some rq
  | .tallyRange rq _ _ _ | .tallyMirrorBase rq _ | .kvPoolBase rq _ _ | .prefixNodes rq _ _ | .vanishWatch rq _ _ => some rq
  | .tapConfig rq _ _ | .recordSelect rq _ | .region0Lost rq _ | .publish rq _ _ _ _ | .revoke rq _ _ _ _ | .bywashForce rq _ => some rq
  | .enterDoze rq | .enterLend rq | .enterSleep rq | .returnToP1 rq _ | .warmReset rq | .partitionReset rq _ | .arm rq _ => some rq
  | .moduleReset byPin _ => byPin
  | .disarm rq _ | .marginRun rq _ _ _ _ | .marginEnable rq _ | .lmarginEnable rq _ | .lmarginRun rq _ _ _ _ | .cancel rq => some rq
  | .rollback rq | .secverCommit rq _ => some rq
  | _ => none

end Sys2Proof.Claims

/-- Every command that is a request (R352, R366): one that repeats a request still kept gets that response again and has no other effect
but that the miller's clock starts; one that does not reach the module (no input power; the mailbox while Falyndi is down; another
address or port of the bus) has none at all; one that comes damaged over the bus is only counted; one beyond the 16 that the module
holds is answered BUSY. -/
def Obligations.RepeatedRequests : Prop :=
  ∀ (s : State) (i : Instr) (rq : Req), requestOf i = some rq →
    (reaches s rq.src = false → exec i s = .next s) ∧
    (reaches s rq.src = true →
      (∀ b, rq.src = .badBus b → exec i s = .next (countT s 0x3117 1)) ∧
      ((∀ b, rq.src ≠ .badBus b) →
        (∀ k, keptFor s rq = some k → exec i s = .next (deliver (awake s) rq k.bytes)) ∧
        (keptFor s rq = none → 16 ≤ heldRequests s →
          ∃ type index sub, exec i s = .next (respond (awake s) rq type index sub stBusy []))))

namespace Sys2Proof.Claims

/-- Some entries of class RW without rules of their own, with the size of their type and the values they take: weir_floor_pct (R234),
transient_limit, transient_window_s, auto_size_mib, auto_period and falyndi restore_ms. -/
def plainEntries : List (Nat × Nat × Nat × Nat × Nat) :=
  [(0x2410, 2, 1, 1, 50), (0x4003, 1, 1, 1, 255), (0x4003, 2, 4, 60, 2592000),
   (0x2800, 1, 4, 1, 1048576), (0x2800, 2, 1, 1, 255), (0x1100, 5, 2, 1, 1000)]

end Sys2Proof.Claims

/-- WRITE (R353, R357 to R361): the bars in their order (no entry, right, type, length, a BOOL other than 0 or 1); BUSY while a power
state or a reset keeps the entry; else what the entry's chapter does, journalled and answered OK when it is accepted; an entry without
rules of its own takes a value of its range, in class RWQ only while its block is quiescent. A WRITE of an entry of `plainEntries`
with a value of its range COMPLETES in every state that hears it and serves the entry: the entry holds the value and the answer is OK.
throttle_temp_c does so too, and the cap is judged anew against the new limit (R374). -/
def Obligations.WriteRequest : Prop :=
  ∀ (rq : Req) (ix : BitVec 16) (sb : BitVec 8) (value : List Byte) (s : State), Heard s rq →
    let s0 := awake s
    let index := ix.toNat
    let sub := sb.toNat
    let v := leNat value
    ¬(0x7000 ≤ index ∧ index ≤ 0x7FFF) →
    (∀ size lo hi, (index, sub, size, lo, hi) ∈ plainEntries → Served s rq index sub → value.length = size → lo ≤ v → v ≤ hi →
      exec (.write rq ix sb value) s = .next (accept (dSet s0 (dk index sub) v) rq index sub value)) ∧
    (index = 0x1402 → sub = 1 → Served s rq index sub → value.length = 1 → 80 ≤ v → v ≤ 100 →
      exec (.write rq ix sb value) s = .next (accept (reThrottle (dSet s0 (dk index sub) v)) rq index sub value)) ∧
    (∀ st, writeBar s index sub value = some st → exec (.write rq ix sb value) s = .next (reject s0 rq index sub st)) ∧
    (∀ e, writeBar s index sub value = none → dictEntry s.variant (dk index sub) = some e → dk index sub ≠ 0x150001 →
      dk index sub ≠ 0x140003 → dk index sub ≠ 0x210008 →
      (blocked s (dk index sub) = true → exec (.write rq ix sb value) s = .next (reject s0 rq index sub stBusy)) ∧
      (blocked s (dk index sub) = false →
        (∀ s', entryOp e.access index sub v s0 = (s', some stOk) →
          exec (.write rq ix sb value) s = .next (accept s' rq index sub value)) ∧
        (∀ s' st, entryOp e.access index sub v s0 = (s', some st) → st ≠ stOk →
          exec (.write rq ix sb value) s = .next (reject s' rq index sub st)) ∧
        (entryOp e.access index sub v s0 = plainOp e.access index sub v s0 →
          (e.access = .rwq → blockQuiet s0 index sub = false →
            exec (.write rq ix sb value) s = .next (reject s0 rq index sub stNotQuiescent)) ∧
          ((e.access = .rwq → blockQuiet s0 index sub = true) → valueGood s0 index sub v = false →
            exec (.write rq ix sb value) s = .next (reject s0 rq index sub stRefused)) ∧
          ((e.access = .rwq → blockQuiet s0 index sub = true) → valueGood s0 index sub v = true →
            exec (.write rq ix sb value) s = .next (accept (dSet s0 (dk index sub) v) rq index sub value)))))

/-- READ, DESCRIBE and DISCOVER (R357 to R359, R372): each is answered, and nothing but the answer changes. A READ of an entry that can
be read gives its value, little-endian in its type's size, or its string. -/
def Obligations.ReadRequests : Prop :=
  ∀ (rq : Req) (ix : BitVec 16) (sb : BitVec 8) (s : State), Heard s rq →
    let s0 := awake s
    let index := ix.toNat
    let sub := sb.toNat
    let k := dk index sub
    let answer (st : Nat) (payload : List Byte) : Prop := exec (.read rq ix sb) s = .next (respond s0 rq 0x01 index sub st payload)
    (hidden s index = true ∨ dictEntry s.variant k = none → answer stNoEntry [] ∧
      exec (.describe rq ix sb) s = .next (respond s0 rq 0x03 index sub stNoEntry [])) ∧
    (∀ e, hidden s index = false → dictEntry s.variant k = some e →
      (e.access = .wo → answer stWriteOnly []) ∧
      (e.access ≠ .wo → e.type = .dom → answer stNeedsSegmented []) ∧
      (e.access ≠ .wo → e.type ≠ .dom → readBlocked s k = true → answer stBusy []) ∧
      (e.access ≠ .wo → e.type = .str → readBlocked s k = false → answer stOk (strValue s0 k)) ∧
      (e.access ≠ .wo → e.type ≠ .dom → e.type ≠ .str → readBlocked s k = false →
        answer stOk (leBytes e.type.size (dictValue s0 k))) ∧
      exec (.describe rq ix sb) s = .next (respond s0 rq 0x03 index sub stOk (leBytes 1 e.type.code ++ leBytes 1 e.access.code ++
        leBytes 1 e.persist.code ++ leBytes 1 0 ++ leBytes 4 (e.maxLen k)))) ∧
    exec (.discover rq) s = .next (respond s0 rq 0x0B 0 0 stOk (discoverPayload s0))

/-- Uploads (R356): SEG_INIT_UP opens a session on a snapshot, with its size, its segments of 1,024 bytes and its CRC-32; SEG_REQ gives
one segment with its own CRC and restarts the session's 5 s; a session is of one entry and one requester; an entry that recovery hides
is no entry (R404). -/
def Obligations.Uploads : Prop :=
  ∀ (rq : Req) (ix : BitVec 16) (sb : BitVec 8) (segno : BitVec 32) (s : State), Heard s rq →
    let s0 := awake s
    let index := ix.toNat
    let sub := sb.toNat
    let n := segno.toNat
    (∀ st, sessionBar s0 index sub true = some st →
      exec (.segInitUp rq ix sb) s = .next (respond s0 rq 0x04 index sub st [])) ∧
    (sessionBar s0 index sub true = none → sessionRoom s0 rq.src index sub = false →
      exec (.segInitUp rq ix sb) s = .next (respond s0 rq 0x04 index sub stBusy [])) ∧
    (sessionBar s0 index sub true = none → sessionRoom s0 rq.src index sub = true →
      let o := domValue s0 (dk index sub)
      let x : Session :=
        { index := ix, sub := sb, src := rq.src, upload := true, size := BitVec.ofNat 64 o.length,
          segments := BitVec.ofNat 32 ((o.length + 1023) / 1024), crc := crc32 o, snapshot := o, held := []
          last := BitVec.ofNat 64 (now s0) }
      let s1 := dropSession s0 rq.src index sub
      exec (.segInitUp rq ix sb) s = .next (respond { s1 with host := { s1.host with sessions := s1.host.sessions ++ [x] } }
        rq 0x04 index sub stOk (leBytes 8 o.length ++ leBytes 4 ((o.length + 1023) / 1024) ++ leBytes 4 (crc32 o).toNat))) ∧
    (hidden s index = true → exec (.segReq rq ix sb segno) s = .next (respond s0 rq 0x07 index sub stNoEntry [])) ∧
    (hidden s index = false → findSession s rq.src index sub = none →
      exec (.segReq rq ix sb segno) s = .next (respond s0 rq 0x07 index sub stNoSession [])) ∧
    (∀ x, hidden s index = false → findSession s rq.src index sub = some x → x.upload = true →
      let s1 := touchSession s0 rq.src index sub
      (x.segments.toNat ≤ n → exec (.segReq rq ix sb segno) s = .next (respond s1 rq 0x07 index sub stSegOrder [])) ∧
      (n < x.segments.toNat →
        let data := (x.snapshot.drop (1024 * n)).take 1024
        exec (.segReq rq ix sb segno) s = .next (respond s1 rq 0x07 index sub stOk
          (leBytes 4 n ++ leBytes 2 data.length ++ leBytes 1 (if n + 1 = x.segments.toNat then 1 else 0) ++ leBytes 1 0 ++
            leBytes 4 (crc32 data).toNat ++ data))))

/-- Downloads (R356, R405, R427): SEG_INIT_DOWN opens a session; a SEGMENT is kept once if its CRC, number and length fit; SEG_END
applies the object whole when every segment is there and its CRC-32 is the announced one; SEG_ABORT ends a
session with no object applied, as do 5 s (125,000,000 ticks) without a message of it. -/
def Obligations.Downloads : Prop :=
  ∀ (rq : Req) (ix : BitVec 16) (sb : BitVec 8) (s : State), Heard s rq →
    let s0 := awake s
    let index := ix.toNat
    let sub := sb.toNat
    (∀ (size : Word) (segments crc : BitVec 32), sessionBar s0 index sub false = none →
      (sizeRefused (dk index sub) size.toNat = true →
        exec (.segInitDown rq ix sb size segments crc) s = .next (respond s0 rq 0x05 index sub stRefused [])) ∧
      (sizeRefused (dk index sub) size.toNat = false → segments.toNat ≠ (size.toNat + 1023) / 1024 →
        exec (.segInitDown rq ix sb size segments crc) s = .next (respond s0 rq 0x05 index sub stSegOrder [])) ∧
      (sizeRefused (dk index sub) size.toNat = false → segments.toNat = (size.toNat + 1023) / 1024 →
        downloadOpen s0 rq.src index sub = false → sessionRoom s0 rq.src index sub = true → index ≠ 0x1301 →
        let x : Session :=
          { index := ix, sub := sb, src := rq.src, upload := false, size := size, segments := segments, crc := crc,
            snapshot := [], held := [], last := BitVec.ofNat 64 (now s0) }
        let s1 := dropSession s0 rq.src index sub
        exec (.segInitDown rq ix sb size segments crc) s =
          .next (respond { s1 with host := { s1.host with sessions := s1.host.sessions ++ [x] } } rq 0x05 index sub stOk []))) ∧
    (hidden s index = true →
      (∀ segno len flags crc data, exec (.segment rq ix sb segno len flags crc data) s =
        .next (respond s0 rq 0x06 index sub stNoEntry [])) ∧
      exec (.segEnd rq ix sb) s = .next (respond s0 rq 0x08 index sub stNoEntry []) ∧
      exec (.segAbort rq ix sb) s = .next (respond s0 rq 0x09 index sub stNoEntry [])) ∧
    (∀ (segno crc : BitVec 32) (len : BitVec 16) (flags : BitVec 8) (data : List Byte) (x : Session), hidden s index = false →
      findSession s rq.src index sub = some x → x.upload = false → flags.toNat ≤ 1 →
      let n := segno.toNat
      let s1 := touchSession s0 rq.src index sub
      let fits := n < x.segments.toNat ∧ len.toNat = segmentLen x n ∧ data.length = len.toNat ∧
        (flags = 1 ↔ n + 1 = x.segments.toNat)
      (crc32 data ≠ crc → exec (.segment rq ix sb segno len flags crc data) s = .next (respond s1 rq 0x06 index sub stSegCrc [])) ∧
      (crc32 data = crc → ¬fits →
        exec (.segment rq ix sb segno len flags crc data) s = .next (respond s1 rq 0x06 index sub stSegOrder [])) ∧
      (crc32 data = crc → fits →
        let kept := modifyFirst (sessionIs rq.src index sub) (fun (x : Session) => { x with held := x.held ++ [(n, data)] }) s1.host.sessions
        exec (.segment rq ix sb segno len flags crc data) s = .next (respond (if ∃ h ∈ x.held, h.1 = n then s1 else
          { s1 with host := { s1.host with sessions := kept } }) rq 0x06 index sub stOk []))) ∧
    (∀ x, hidden s index = false → findSession s rq.src index sub = some x →
      let s1 := touchSession s0 rq.src index sub
      (x.upload = true → exec (.segEnd rq ix sb) s = .next (respond (dropSession s0 rq.src index sub) rq 0x08 index sub stOk [])) ∧
      (x.upload = false → x.held.length ≠ x.segments.toNat →
        exec (.segEnd rq ix sb) s = .next (respond s1 rq 0x08 index sub stSegOrder [])) ∧
      (x.upload = false → x.held.length = x.segments.toNat → crc32 (wholeObject x) ≠ x.crc →
        exec (.segEnd rq ix sb) s = .next (respond s1 rq 0x08 index sub stSegCrc [])) ∧
      (x.upload = false → x.held.length = x.segments.toNat → crc32 (wholeObject x) = x.crc →
        exec (.segEnd rq ix sb) s = .next (respond (applyObject (dropSession s0 rq.src index sub) rq.src index sub (wholeObject x))
          rq 0x08 index sub stOk [])) ∧
      exec (.segAbort rq ix sb) s = .next (respond (cutSession s0 rq.src index sub) rq 0x09 index sub stOk [])) ∧
    (hidden s index = false → findSession s rq.src index sub = none →
      exec (.segEnd rq ix sb) s = .next (respond s0 rq 0x08 index sub stNoSession []) ∧
      exec (.segAbort rq ix sb) s = .next (respond s0 rq 0x09 index sub stNoSession [])) ∧
    (∀ src x, findSession s src index sub = some x →
      (x.last.toNat + 125000000 ≤ now s → exec (.sessionTimeout src ix sb) s = .next (cutSession s src index sub)) ∧
      (now s < x.last.toNat + 125000000 → exec (.sessionTimeout src ix sb) s = .next s))

/-- MAILBOX_DOORBELL (R351, R352): one written before the previous response is ready is counted and ignored; else the message in the
request buffer is taken, one with a wrong MAGIC or VERSION being dropped and counted. While Falyndi trains again, or host writes before
it wait, it waits behind them; a lost link drops it (R347, R348). -/
def Obligations.MailboxDoorbell : Prop :=
  (∀ (txid : Word) (s : State),
    (s.host.linkLost = true → exec (.mailboxDoorbell txid) s = .next (dropHost s)) ∧
    (s.host.linkLost = false → hostQueued s = true →
      exec (.mailboxDoorbell txid) s = .next (holdHost s (hostPut (2 ^ 41 + 0x11000) (leBytes 8 txid.toNat))))) ∧
  ∀ (txid : Word) (s : State), s.host.linkLost = false → hostQueued s = false → s.pwr.inputOk = true → falyndiUp s = true →
    let m := mailBytes s
    let g0 := leNat (m.take 8)
    let g1 := leNat ((m.drop 8).take 8)
    let rq : Req := { txid := BitVec.ofNat 32 (bits g0 63 32), src := .mailbox }
    let s1 : State := { s with host := { s.host with mailBusy := true } }
    (s.host.mailBusy = true → exec (.mailboxDoorbell txid) s = .next (countT s 0x3116 1)) ∧
    (s.host.mailBusy = false → bits g0 15 0 ≠ 0x0C61 ∨ bits g0 23 16 ≠ 1 →
      exec (.mailboxDoorbell txid) s = .next (countT s 0x3117 1)) ∧
    (s.host.mailBusy = false → bits g0 15 0 = 0x0C61 → bits g0 23 16 = 1 → bits g1 47 32 = 0 → bits g1 7 0 = 0 →
      bits g1 63 48 ≤ 1036 →
      exec (.mailboxDoorbell txid) s =
        .next (applyMessage s1 rq (bits g0 31 24) (bits g1 23 8) (bits g1 31 24) ((m.drop 16).take (bits g1 63 48))))

/-! ### Entries with rules of their own -/

/-- quiesce_request, enabled and the core masks (R12, R13, R14): what each write does by the partition's state. A partition is disabled
only from state 3 and with an empty mask; enabling one makes it quiescent; a mask changes only in state 3, to cores that exist and no
other partition has, and the cores it loses are cleared. -/
def Obligations.PartitionEntries : Prop :=
  ∀ (rq : Req) (part : PartId) (s : State),
    let p := part.toNat
    let index := 0x2000 + p
    let s0 := awake s
    (∀ v : Byte, Served s rq index 6 →
      let s1 := pSet s0 p 6 v.toNat
      let st := pGet s1 p 5
      (1 < v.toNat → exec (.quiesceRequest rq part v) s = .next (reject s0 rq index 6 stRefused)) ∧
      (v = 1 → st = 1 → exec (.quiesceRequest rq part v) s = .next (accept (settleQuiesce (pSet s1 p 5 2) p) rq index 6 [v])) ∧
      (v = 0 → st = 2 ∨ st = 3 → exec (.quiesceRequest rq part v) s = .next (accept (pSet s1 p 5 1) rq index 6 [v])) ∧
      (v.toNat ≤ 1 → ¬(v = 1 ∧ st = 1) → ¬(v = 0 ∧ (st = 2 ∨ st = 3)) →
        exec (.quiesceRequest rq part v) s = .next (accept s1 rq index 6 [v]))) ∧
    (∀ v : Byte, Served s rq index 1 →
      (1 < v.toNat → exec (.enabled rq part v) s = .next (reject s0 rq index 1 stRefused)) ∧
      (v.toNat ≤ 1 → v.toNat = pGet s p 1 → exec (.enabled rq part v) s = .next (accept s0 rq index 1 [v])) ∧
      (v = 0 → pGet s p 1 ≠ 0 → pGet s p 5 ≠ 3 → exec (.enabled rq part v) s = .next (reject s0 rq index 1 stNotQuiescent)) ∧
      (v = 0 → pGet s p 1 ≠ 0 → pGet s p 5 = 3 → maskEmpty s p = false →
        exec (.enabled rq part v) s = .next (reject s0 rq index 1 stRefused)) ∧
      (v = 0 → pGet s p 1 ≠ 0 → pGet s p 5 = 3 → maskEmpty s p = true →
        exec (.enabled rq part v) s = .next (accept (pSet (pSet s0 p 1 0) p 5 0) rq index 1 [v])) ∧
      (v = 1 → pGet s p 1 ≠ 1 →
        exec (.enabled rq part v) s = .next (accept (pSet (pSet (pSet s0 p 1 1) p 5 3) p 6 1) rq index 1 [v]))) ∧
    (∀ (word : BitVec 2) (v : Word), word ≠ 3 → Served s rq index (2 + word.toNat) →
      let m := 2 + word.toNat
      let old := pGet s p m
      let free := ∀ i ∈ wordCores word.toNat v.toNat, i < coreCount s ∧ ∀ q < 16, q ≠ p → inMask s q i = false
      (v.toNat ≠ old → pGet s p 5 ≠ 3 → exec (.coreMask rq part word v) s = .next (reject s0 rq index m stNotQuiescent)) ∧
      (v.toNat = old ∨ pGet s p 5 = 3 → ¬free → exec (.coreMask rq part word v) s = .next (reject s0 rq index m stRefused)) ∧
      (v.toNat = old ∨ pGet s p 5 = 3 → free →
        exec (.coreMask rq part word v) s = .next (accept
          (pSet ((wordCores word.toNat (old - Nat.land old v.toNat)).foldl dropCore s0) p m v.toNat) rq index m (leBytes 8 v.toNat))))

/-- tally_base, tally_count and tally_mirror_base (R66, R69): ranges of partitions do not meet; a tally that another partition owned
last is 0 when it comes; the mirror, wherever its valid global address lies, holds every tally when its base is set: one on another node
is written by WRITEs, and the request is answered when they have ended. -/
def Obligations.TallyEntries : Prop :=
  ∀ (rq : Req) (s : State),
    let s0 := awake s
    (∀ (part : PartId) (isCount : Bool) (v : BitVec 16),
      let p := part.toNat
      let index := 0x2000 + p
      let sub := if isCount then 0xE else 0xD
      let b0 := pGet s p 0xD
      let c0 := pGet s p 0xE
      let b := if isCount then b0 else v.toNat
      let c := if isCount then v.toNat else c0
      let moves := (b, c) ≠ (b0, c0) ∧ (0 < c ∨ 0 < c0)
      let inside := c ≤ 4096 ∧ (c = 0 ∨ b + c ≤ 4096)
      let apart := ∀ q < 16, q ≠ p → rangesMeet (pGet s q 0xD, pGet s q 0xE) (b, c) = false
      Served s rq index sub →
      (moves → pGet s p 5 ≠ 3 → exec (.tallyRange rq part isCount v) s = .next (reject s0 rq index sub stNotQuiescent)) ∧
      (¬moves ∨ pGet s p 5 = 3 → ¬(inside ∧ apart) →
        exec (.tallyRange rq part isCount v) s = .next (reject s0 rq index sub stRefused)) ∧
      (¬moves ∨ pGet s p 5 = 3 → inside → apart →
        let lost := (List.range 4096).filter (fun t => decide (b0 ≤ t ∧ t < b0 + c0) && !decide (b ≤ t ∧ t < b + c))
        let gained := (List.range 4096).filter (fun t => decide (b ≤ t ∧ t < b + c) && !decide (b0 ≤ t ∧ t < b0 + c0))
        let s1 : State := { s0 with hop := { s0.hop with tallyLast := s0.hop.tallyLast ++ lost.map (fun t => (t, p)) } }
        exec (.tallyRange rq part isCount v) s =
          .next (accept (gained.foldl (gainTally p) (pSet s1 p sub v.toNat)) rq index sub (leBytes 2 v.toNat)))) ∧
    (∀ v : Word, Served s rq 0x2100 8 →
      let n := v.toNat
      let place := n % 64 = 0 ∧ gaValid s n = true ∧ gaValid s (n + 32767) = true
      let s1 := farWrite (dSet s0 (dk 0x2100 8) n) n ((List.range 4096).flatMap (fun t => leBytes 8 (tallyOf s t)))
      (allQuiet s = false → exec (.tallyMirrorBase rq v) s = .next (reject s0 rq 0x2100 8 stNotQuiescent)) ∧
      (allQuiet s = true → n = 0 →
        exec (.tallyMirrorBase rq v) s = .next (accept (dSet s0 (dk 0x2100 8) 0) rq 0x2100 8 (leBytes 8 n))) ∧
      (allQuiet s = true → n ≠ 0 → ¬place → exec (.tallyMirrorBase rq v) s = .next (reject s0 rq 0x2100 8 stRefused)) ∧
      (allQuiet s = true → n ≠ 0 → place →
        (mirrorOpen s1 n = false → exec (.tallyMirrorBase rq v) s = .next (accept s1 rq 0x2100 8 (leBytes 8 n))) ∧
        (mirrorOpen s1 n = true → exec (.tallyMirrorBase rq v) s =
          .next { s1 with hop := { s1.hop with mirrorReqs := s1.hop.mirrorReqs ++ [(rq, n)] } })))

/-- kv_pool_base and prefix_nodes (R171, R182): only while the partition is quiescent; a pool record must pass its check, and its
counter of deferred frees starts at 0; a prefix region must lie in HBM, its buckets become empty and its nodes the free list. -/
def Obligations.CacheEntries : Prop :=
  ∀ (rq : Req) (part : PartId) (s : State),
    let p := part.toNat
    let index := 0x2610 + p
    let s0 := awake s
    (∀ v : Word, Served s rq index 3 →
      (partQuiet s p = false → exec (.kvPoolBase rq part v) s = .next (reject s0 rq index 3 stNotQuiescent)) ∧
      (partQuiet s p = true → v = 0 →
        exec (.kvPoolBase rq part v) s = .next (accept (dSet s0 (dk index 3) 0) rq index 3 (leBytes 8 0))) ∧
      (partQuiet s p = true → v ≠ 0 → poolGood s v.toNat = false →
        exec (.kvPoolBase rq part v) s = .next (reject s0 rq index 3 stRefused)) ∧
      (partQuiet s p = true → v ≠ 0 → poolGood s v.toNat = true →
        exec (.kvPoolBase rq part v) s =
          .next (accept (stWord (dSet s0 (dk index 3) v.toNat) (v.toNat + 16) 8 0) rq index 3 (leBytes 8 v.toNat)))) ∧
    (∀ v : BitVec 32, Served s rq index 8 →
      let n := v.toNat
      let base := kvGet s p 6
      let fits := inLocalHbm s base (nodeAddr s p n - base) = true
      (partQuiet s p = false → exec (.prefixNodes rq part v) s = .next (reject s0 rq index 8 stNotQuiescent)) ∧
      (partQuiet s p = true → n ≠ 0 → ¬fits → exec (.prefixNodes rq part v) s = .next (reject s0 rq index 8 stRefused)) ∧
      (partQuiet s p = true → n = 0 →
        exec (.prefixNodes rq part v) s = .next (accept (setFreeList (dSet s0 (dk index 8) 0) p noNode 0) rq index 8 (leBytes 4 0))) ∧
      (partQuiet s p = true → n ≠ 0 → fits →
        let s1 := (List.range (2 ^ kvGet s p 7)).foldl (fun s i => stWord s (base + 4 * i) 4 noNode) (dSet s0 (dk index 8) n)
        let s2 := (List.range n).foldl (fun s i =>
          storeM s (nodeAddr s p i) (freeNode (if i + 1 < n then i + 1 else noNode))) s1
        exec (.prefixNodes rq part v) s = .next (accept (setFreeList s2 p 0 n) rq index 8 (leBytes 4 n))))

/-- Watch slots, taps, the record selector, the event acknowledgement and region0_lost (R130, R240, R314, R363, R395): a write of a slot
or a tap resets what it has gathered; acknowledging the loss of region 0 leaves its content undefined (free values, log entry 4). -/
def Obligations.WatchEntries : Prop :=
  ∀ (rq : Req) (s : State),
    let s0 := awake s
    (∀ (slot : BitVec 6) (v : BitVec 32), Served s rq 0x2301 (slot.toNat + 1) →
      (bits v.toNat 30 28 ≠ 0 → exec (.vanishWatch rq slot v) s = .next (reject s0 rq 0x2301 (slot.toNat + 1) stRefused)) ∧
      (bits v.toNat 30 28 = 0 → exec (.vanishWatch rq slot v) s = .next (accept
        (dSet (dSet s0 (dk 0x2301 (slot.toNat + 1)) v.toNat) (dk 0x3230 (slot.toNat + 1)) 0) rq 0x2301 (slot.toNat + 1)
        (leBytes 4 v.toNat)))) ∧
    (∀ (tap : BitVec 8) (v : BitVec 32),
      let index := 0x2830 + tap.toNat / 128
      let sub := tap.toNat % 128 + 1
      Served s rq index sub →
      (bits v.toNat 30 29 = 3 ∨ bit v.toNat 28 = true → exec (.tapConfig rq tap v) s = .next (reject s0 rq index sub stRefused)) ∧
      (bits v.toNat 30 29 ≠ 3 → bit v.toNat 28 = false → exec (.tapConfig rq tap v) s = .next (accept
        (dSet (dSet s0 (dk index sub) v.toNat) (dk (0x2832 + tap.toNat / 128) sub) 0) rq index sub (leBytes 4 v.toNat)))) ∧
    (∀ v : BitVec 32, Served s rq 0x4001 1 →
      ((∃ r ∈ s.hlth.log, faultIdOf r.seq.toNat = v.toNat) → exec (.recordSelect rq v) s =
        .next (accept (dSet s0 (dk 0x4001 1) v.toNat) rq 0x4001 1 (leBytes 4 v.toNat))) ∧
      ((∀ r ∈ s.hlth.log, faultIdOf r.seq.toNat ≠ v.toNat) →
        exec (.recordSelect rq v) s = .next (reject s0 rq 0x4001 1 stRefused))) ∧
    (∀ v : Word, Served s rq 0x1200 3 →
      (dGet s (dk 0x1200 2) < v.toNat → exec (.eventAck rq v) s = .next (reject s0 rq 0x1200 3 stRefused)) ∧
      (v.toNat ≤ dGet s (dk 0x1200 2) → exec (.eventAck rq v) s =
        .next (accept (dSet s0 (dk 0x1200 3) v.toNat) rq 0x1200 3 (leBytes 8 v.toNat)))) ∧
    (∀ v : Byte, Served s rq 0x2400 7 →
      (v ≠ 0 → exec (.region0Lost rq v) s = .next (reject s0 rq 0x2400 7 stRefused)) ∧
      (v = 0 → dGet s (dk 0x2400 7) = 0 → exec (.region0Lost rq v) s = .next (accept s0 rq 0x2400 7 [0])) ∧
      (v = 0 → dGet s (dk 0x2400 7) ≠ 0 → Sys2Proof.State.canonical s → ∃ t,
        exec (.region0Lost rq v) s = .next (accept t rq 0x2400 7 [0]) ∧
        dGet t (dk 0x2400 7) = 0 ∧ ∀ k < 2 ^ 40, keyByte t k = Config.freeByte s.fresh k))

/-! ### Firmware and attestation (R405 to R410, R361) -/

/-- A whole bundle or nonce arriving, CANCEL, ROLLBACK, secver_commit and factory test mode. A bundle makes the slot that is not
active STAGED; CANCEL returns a staged slot to EMPTY, or to PREVIOUS when a rollback staged it; ROLLBACK stages the PREVIOUS slot unless
its SECVER is below the count; secver_commit raises the count, up to 128, and the slots below it become FAILED. -/
def Obligations.FirmwareCommands : Prop :=
  ∀ (rq : Req) (s : State),
    let s0 := awake s
    (∀ object, Heard s rq →
      (blocked s (dk 0x1301 1) = true ∨ stagingOpen s = true ∨ 4 ≤ s.host.sessions.length →
        exec (.fwBundle rq object) s = .next (respond s0 rq 0x05 0x1301 1 stBusy [])) ∧
      (blocked s (dk 0x1301 1) = false → stagingOpen s = false → s.host.sessions.length < 4 →
        (slotBytes < object.length → exec (.fwBundle rq object) s = .next (respond s0 rq 0x05 0x1301 1 stRefused [])) ∧
        (object.length ≤ slotBytes →
          exec (.fwBundle rq object) s = .next (respond (journalObject
            (setSlotState (putSlot s0 (spareSlot s) { bytes := object, byRollback := false }) (spareSlot s) 2)
            rq.src 0x1301 1 object) rq 0x08 0x1301 1 stOk [])))) ∧
    (∀ nonce, Heard s rq → blocked s (dk 0x1340 1) = false → s.host.sessions = [] →
      (nonce.length ≠ 32 → exec (.attestRequest rq nonce) s = .next (respond s0 rq 0x05 0x1340 1 stRefused [])) ∧
      (nonce.length = 32 → exec (.attestRequest rq nonce) s =
        .next (respond (journalObject (attest s0 nonce) rq.src 0x1340 1 nonce) rq 0x08 0x1340 1 stOk []))) ∧
    (Served s rq 0x1301 2 →
      (stagingOpen s = true → exec (.cancel rq) s = .next (reject s0 rq 0x1301 2 stRefused) ∧
        exec (.rollback rq) s = .next (reject s0 rq 0x1301 2 stRefused)) ∧
      (stagingOpen s = false → slotState s 0 ≠ 2 → slotState s 1 ≠ 2 →
        exec (.cancel rq) s = .next (reject s0 rq 0x1301 2 stRefused)) ∧
      (∀ i < 2, stagingOpen s = false → slotState s i = 2 → slotState s (1 - i) ≠ 2 →
        exec (.cancel rq) s = .next (accept (setSlotState s0 i (if (slotOf s i).byRollback then 5 else 0)) rq 0x1301 2 [1])) ∧
      (∀ i < 2, stagingOpen s = false → slotState s i = 5 → slotState s (1 - i) ≠ 5 →
        (bundleSecver (slotOf s i).bytes < dGet s (dk 0x1310 2) → exec (.rollback rq) s = .next (reject s0 rq 0x1301 2 stRefused)) ∧
        (dGet s (dk 0x1310 2) ≤ bundleSecver (slotOf s i).bytes → exec (.rollback rq) s =
          .next (accept (setSlotState (putSlot s0 i { slotOf s i with byRollback := true }) i 2) rq 0x1301 2 [2])))) ∧
    (∀ v : Byte, Served s rq 0x1310 3 →
      let count := dGet s (dk 0x1310 2)
      let new := min (liveValue s0 (dk 0x1310 1)) 128
      (v ≠ 1 → exec (.secverCommit rq v) s = .next (reject s0 rq 0x1310 3 stRefused)) ∧
      (v = 1 → count = 128 → exec (.secverCommit rq v) s = .next (accept (dSet s0 (dk 0x1310 4) 2) rq 0x1310 3 [v])) ∧
      (v = 1 → count ≠ 128 → new ≤ count →
        exec (.secverCommit rq v) s = .next (accept (dSet s0 (dk 0x1310 4) 1) rq 0x1310 3 [v])) ∧
      (v = 1 → count ≠ 128 → count < new → exec (.secverCommit rq v) s = .next (accept ([0, 1].foldl (failOld new)
        (dSet (dSet s0 (dk 0x1310 2) new) (dk 0x1310 4) 0)) rq 0x1310 3 [v]))) ∧
    (s.pwr.inputOk = true → exec .factoryTestMode s = .next { s with host := { s.host with factoryTest := true } })

/-! ### The fabric: lending, ports, targets, sources (R255 to R289) -/

/-- The four events of a published window (R273 to R276): PUBLISH by the first check that fails, or the highest free place, zeroed and
ACTIVE; REVOKE of an ACTIVE window tells its borrowers and starts the notice, or ends it at once when the notice is 0; the notice's end
makes the window REVOKED; a freed window's range is zeroed. Nothing else happens where a condition does not hold (log entry 6). -/
def Obligations.LendingCommands : Prop :=
  (∀ (rq : Req) (window : BitVec 6) (part : PartId) (notice : BitVec 16) (size : BitVec 34) (s : State), Served s rq 0x2710 1 →
    let w := window.toNat
    let s0 := awake s
    let bytes := size.toNat * 2 ^ 21
    let word (op : Nat) := leBytes 8 (lendWord op w part.toNat notice.toNat size.toNat)
    let published (t : State) (code : Nat) : Prop :=
      exec (.publish rq window part notice size) s = .next (accept (dSet t (dk 0x2710 2) code) rq 0x2710 1 (word 1))
    let revoked (t : State) (code : Nat) : Prop :=
      exec (.revoke rq window part notice size) s = .next (accept (dSet t (dk 0x2710 2) code) rq 0x2710 1 (word 2))
    (notice ≠ 0 ∨ size = 0 → published s0 4) ∧
    (notice = 0 → size ≠ 0 → winGet s w 1 ≠ 0 → published s0 1) ∧
    (notice = 0 → size ≠ 0 → winGet s w 1 = 0 → quotaAllows s part.toNat 2 bytes = false → published s0 2) ∧
    (notice = 0 → size ≠ 0 → winGet s w 1 = 0 → quotaAllows s part.toNat 2 bytes = true →
      (publishPlace s size.toNat = none → published s0 3) ∧
      (∀ off, publishPlace s size.toNat = some off → published (publishAt s0 w part.toNat size.toNat off) 0)) ∧
    (part ≠ 0 ∨ size ≠ 0 → revoked s0 4) ∧
    (part = 0 → size = 0 → winGet s w 1 ≠ 1 → revoked s0 1) ∧
    (part = 0 → size = 0 → winGet s w 1 = 1 →
      let ticks := notice.toNat * 25000
      let s1 := asks none s0 ((borrowersOf s w).map (fun n => Ask.plain kMessage n (winGet s w 2) ticks []))
      (notice = 0 → revoked (endNotice s1 w) 0) ∧
      (notice ≠ 0 →
        let s2 := winSet s1 w 1 2
        revoked { s2 with fab := { s2.fab with noticeEnd := s2.fab.noticeEnd.filter (fun x => x.1 != w) ++
          [(w, BitVec.ofNat 64 (now s2 + ticks))] } } 0))) ∧
  (∀ (window : BitVec 6) (s : State),
    let w := window.toNat
    (live s = true → winGet s w 1 = 2 → noticeLeft s w = 0 → exec (.noticeExpiry window) s = .next (winSet
      { s with fab := { s.fab with noticeEnd := s.fab.noticeEnd.filter (fun x => x.1 != w) } } w 1 3)) ∧
    (live s = true → winGet s w 1 = 3 → exec (.windowFreed window) s =
      .next (freeWindow (zeroRange s (winGet s w 2) (winGet s w 3)) w)) ∧
    (live s = false → exec (.noticeExpiry window) s = .next s ∧ exec (.windowFreed window) s = .next s))

/-- The bywash and the ports (R262, R277 to R281): bywash_force closes the bywash and, written 0, opens nothing by itself; the bywash
opens, and every port that is not disabled trains, only when R278 is met; a port that lost its partner's signal trains again; training
ends when the port is locked (R256), with an active port and its partner at a version both have (R7), or an inactive one without. -/
def Obligations.PortCommands : Prop :=
  (∀ (rq : Req) (v : Byte) (s : State), Served s rq 0x2700 0xB →
    (1 < v.toNat → exec (.bywashForce rq v) s = .next (reject (awake s) rq 0x2700 0xB stRefused)) ∧
    (v = 0 → exec (.bywashForce rq v) s = .next (accept (dSet (awake s) (dk 0x2700 0xB) 0) rq 0x2700 0xB [0])) ∧
    (v = 1 → exec (.bywashForce rq v) s = .next (accept (closeBywash (dSet (awake s) (dk 0x2700 0xB) 1)) rq 0x2700 0xB [1]))) ∧
  (∀ (lasers : BitVec 6) (s : State),
    let s1 : State := { s with fab := { s.fab with lasersReady := lasers } }
    let may := bywashClosed s = true ∧ coordsValid s = true ∧ lasers = 0x3F ∧ mustClose s = false ∧
      s.fab.dedupCleared.toNat + 2500000 ≤ now s
    (¬may → exec (.bywashOpen lasers) s = .next s1) ∧
    (may → exec (.bywashOpen lasers) s = .next ((List.range 6).foldl (fun s i =>
      if portState s i = 4 then s else portSet s i 1 1) (dSet s1 (dk 0x2700 0xC) 0)))) ∧
  (∀ (port : BitVec 3) (s : State), port.toNat < 6 → bywashClosed s = false →
    let i := port.toNat
    (portState s i ≠ 4 → portState s i ≠ 1 → exec (.portRetrain port) s = .next (count (portSet s i 1 1) 0x3286 (i + 1) 1)) ∧
    (∀ r : TrainResult, portState s i = 1 → locked r = false → exec (.portTrainingDone port r) s = .next s) ∧
    (∀ r : TrainResult, portState s i = 1 → locked r = true →
      let off := portSet (portSet s i 1 0) i 2 0xFFFF
      let version := bestVersion Config.kraurVersions r.versions.toNat
      (trainLanes s i r.goodLanes = none → exec (.portTrainingDone port r) s = .next off) ∧
      (∀ x, trainLanes s i r.goodLanes = some x →
        (partnerGood s i r = false ∨ version = none →
          exec (.portTrainingDone port r) s = .next (raiseEvent off 1 0 none (0x2701 + i) 1 0)) ∧
        (∀ v, partnerGood s i r = true → version = some v →
          let node := trainNode s r.coords
          let s1 := setLink s i { getLink s i with spareFor := x.2, version := v }
          let s2 := portSet (portSet (portSet (portSet s1 i 3 x.1) i 4 r.delay.toNat) i 2 node) i 1 2
          exec (.portTrainingDone port r) s = .next (pump (joinPartner s2 i node r.lack) i)))))

/-- Flits, NAKs, suspect lanes, forwarding and LIFE (R256 to R261, R263 to R267): a flit out of a bad block or with a bad CRC is
counted, discarded and asked for again; a good one acknowledges, and is accepted, with the credit it brings, only in order; an idle one
credits; a NAK, a flit received like any other, replays what its LACK does not cover with the LIFE that is left, and more than 16 replays
within the bound train the link again; a lane in use, the spare with them, whose corrections exceed the threshold, or that lost lock, is
reported, and its traffic moves to the spare where that is free; a transaction for another node leaves by its next hop with what is left
of its LIFE. What Falyndi accepts is a host access (R342). -/
def Obligations.LinkCommands : Prop :=
  (∀ (link : BitVec 3) (bytes : List Byte) (good : Bool) (corrected : BitVec 16) (s : State), link ≠ 7 →
    let i := link.toNat
    let s1 := linkCount (linkCount s i 0x3283 0 corrected.toNat) i 0x3281 0 1
    (linkStays s i = false → exec (.flit link bytes good corrected) s = .next s) ∧
    (linkStays s i = true → linkStays (linkCount s i 0x3283 0 corrected.toNat) i = true →
      let h := flitHead bytes
      let l := ackReplay (getLink s1 i) (BitVec.ofNat 12 h.lack)
      let credited := takeCredit l h.crvc h.crcnt
      let received (t : State) : Prop := exec (.flit link bytes good corrected) s =
        .next (if link = 6 ∧ (getLink t 6).rxNext ≠ (getLink s i).rxNext then hostFlit t (getLink s i) bytes else t)
      (good = false → received (discardFlit (linkCount s1 i 0x3284 0 1) i)) ∧
      (good = true → flitGood bytes = false → received (discardFlit (linkCount s1 i 0x3282 0x3110 1) i)) ∧
      (good = true → flitGood bytes = true → h.type ≠ 1 → received (pump (setLink s1 i credited) i)) ∧
      (good = true → flitGood bytes = true → h.type = 1 → BitVec.ofNat 12 h.lseq ≠ l.rxNext →
        received (if l.rxDiscard then setLink s1 i l else discardFlit (setLink s1 i l) i)) ∧
      (good = true → flitGood bytes = true → h.type = 1 → BitVec.ofNat 12 h.lseq = l.rxNext →
        received (pump (setLink s1 i
          (acceptSlots { credited with rxNext := l.rxNext + 1, rxDiscard := false, ackDue := true } h (bytes.drop 16))) i)))) ∧
  (∀ (link : BitVec 3) (lack : BitVec 12) (corrected : BitVec 16) (s : State), link ≠ 7 →
    let i := link.toNat
    let s1 := linkCount (linkCount s i 0x3283 0 corrected.toNat) i 0x3281 0 1
    let l := resendFlits s1 (ackReplay (getLink s1 i) lack)
    let sent (kept : List Word) : State :=
      linkCount (linkCount (setLink s1 i { l with replayed := kept }) i 0x3280 0 l.replay.length) i 0x3285 0x3111 1
    (linkStays s i = false → exec (.nak link lack corrected) s = .next s) ∧
    (linkStays s i = true →
    ((replaysNow s1 i).length ≤ 16 → exec (.nak link lack corrected) s = .next (pump (sent (replaysNow s1 i)) i)) ∧
    (16 < (replaysNow s1 i).length → exec (.nak link lack corrected) s =
      .next (if i = 6 then falyndiRetrain (sent []) else retrain (sent []) i)))) ∧
  (∀ (link : BitVec 3) (lane : BitVec 4) (corrections : BitVec 32) (lockLost spareGood : Bool) (s : State), link ≠ 7 →
    let i := link.toNat
    let s1 := setLink s i { getLink s i with spareClean := spareGood }
    linkStays s i = true → lane.toNat ≤ spareLane i → bit (dGet s (laneMapKey i)) lane.toNat = true →
    (corrections.toNat ≤ dGet s (dk 0x2700 0xE) → lockLost = false →
      exec (.laneSwap link lane ⟨corrections, lockLost⟩ spareGood) s = .next s1) ∧
    (dGet s (dk 0x2700 0xE) < corrections.toNat ∨ lockLost = true →
      let s2 := (detectError s1 (laneReport i lane.toNat) none).1
      ((getLink s1 i).spareFor.isSome = true → exec (.laneSwap link lane ⟨corrections, lockLost⟩ spareGood) s =
        .next (if i = 6 then falyndiRetrain s2 else retrain s2 i)) ∧
      ((getLink s1 i).spareFor = none → exec (.laneSwap link lane ⟨corrections, lockLost⟩ spareGood) s =
        .next (if (getLink s2 i).spareFor = some lane.toNat then sendCtrl s2 i 1 lane.toNat else s2)))) ∧
  (∀ (p : Packet) (inPort : Option (BitVec 3)) (vc : BitVec 2) (residency : BitVec 32) (s : State), fabricOn s = true →
    let hop := nextHop s p.dest (inPort.map (·.toNat)) vc.toNat
    ((hop = .here → exec (.forward p inPort vc residency) s = .next s) ∧
      (∀ lost, hop = .absent lost → p.kind = kResponse →
        exec (.forward p inPort vc residency) s = .next (if lost then countT s 0x3291 1 else s)) ∧
      (∀ lost, hop = .absent lost → p.kind ≠ kResponse →
        let s1 := if lost then countT s 0x3291 1 else s
        exec (.forward p inPort vc residency) s = .next (if p.src = nodeId s1 then
          { s1 with fab := { s1.fab with sent := s1.fab.sent ++ [{ port := 6, vc := 0, pkt := absentAnswer p }] } }
          else sendPacket s1 (absentAnswer p))) ∧
      (∀ port v, hop = .out port v →
        let spent := residency.toNat + 1 + dGet s (dk (0x2701 + port) 4)
        (p.life ≤ spent → exec (.forward p inPort vc residency) s = .next (countT s 0x3290 1)) ∧
        (spent < p.life → exec (.forward p inPort vc residency) s = .next (putOut s port v (packetLife p (p.life - spent)))))) ∧
    exec (.lifeExpiry p) s =
      .next (countT { s with fab := { s.fab with
        arrivals := s.fab.arrivals.filter (fun a => a.1 != p)
        links := s.fab.links.map (fun l => { l with queue := (dropHeads (headsTxn p) [] l.queue).1 }) } } 0x3290 1))

namespace Sys2Proof.Claims

/-- A transaction as its target handles it: with the tick of LIFE spent that handling it takes (R267). -/
def taken (p : Packet) : Packet := packetLife p (p.life - 1)

/-- A transaction for this module that it takes in at once, with LIFE left: the state after the wake that it triggers (R271, R367). No
row that it meets is under test (R384), and no injection is armed. -/
def TakesIn (s : State) (p : Packet) (kind : Nat) (s1 : State) : Prop :=
  p.kind = kind ∧ p.dest = nodeId s ∧ fabricOn s = true ∧ live s = true ∧ s1 = wakeFrom s [2] ∧ serving s1 = true ∧
  packetHeld s1 p = false ∧ (taken p).life ≠ 0 ∧ s1.hlth.injections = []

/-- A transaction for this module, in P0, P1 or P3, from a node whose tags the deduplication table holds none of yet, with room for it. -/
def Comes (s : State) (p : Packet) (kind : Nat) : Prop :=
  p.kind = kind ∧ p.dest = nodeId s ∧ fabricOn s = true ∧ live s = true ∧ pState s ∈ [0, 1, 3] ∧ s.pwr.transition = none ∧
  packetHeld s p = false ∧ (taken p).life ≠ 0 ∧ s.hlth.injections = [] ∧
  (∀ e ∈ s.fab.dedup, e.node ≠ p.src) ∧ s.fab.dedup.length < 4096

/-- The `n` bytes at the transaction's address lie in a window of this module that takes another borrower (R270, R274), and nothing
of them is lost. -/
def Reaches (s : State) (p : Packet) (n : Nat) : Prop :=
  gaNode p.addr = nodeId s ∧ gaRegion p.addr = 0 ∧ (∃ w, windowOf s p.addr n = some w ∧ (borrowersOf s w).length < 64) ∧
  lostIn s p.addr n = false ∧ ∀ x ∈ partialWords p.addr n, lostIn s x.1 x.2 = false

/-- Where each transaction COMPLETES (R68, R237, R266 to R271, R275, R282, R288), at every state and with every operand that meets these
conditions: a READ is answered DONE with the bytes there; a WRITE is answered DONE with its bytes stored; a scalar ATOMIC is answered
with what it read; a TALLY is added and answered; a LEND_NOTICE and a COLL_ABORT are answered; a chunk is staged for its instance and
answered. -/
def TargetCompletes (p : Packet) (s : State) : Prop :=
  let done (i : Instr) (t : State) (data : List Byte) (operand : Nat) : Prop := exec i s = .next (answer t (taken p) 0 data operand)
  (Comes s p kRead → Reaches s p p.len → ∃ t, done (.kraurRead p) t (ldBytes s p.addr p.len) 0) ∧
  (Comes s p kWrite → Reaches s p p.data.length → ∃ t, done (.kraurWrite p) t [] 0 ∧
    ∀ i, i < p.data.length → keyByte t (memKey s p.addr + i) = p.data.getD i 0) ∧
  (Comes s p kAtomic → scalarAtomic p.code = true → atomicWidth p.code p.w64 ≠ 0 → Reaches s p (atomicWidth p.code p.w64) →
    ∃ t, done (.atomic p) t [] (ldNat s p.addr (atomicWidth p.code p.w64))) ∧
  (∀ q, Comes s p kTally → tallyOwner s (p.addr % 4096) = some q → pGet s q 0xF = 1 → ∃ t, done (.tally p) t [] 0 ∧
    tallyOf t (p.addr % 4096) = min (tallyOf s (p.addr % 4096) + p.operand) (2 ^ 64 - 1)) ∧
  (Comes s p kMessage → p.code = 0 → ∃ t, done (.lendNotice p) t [] 0 ∧ ∀ k ∈ noticedBy s p.addr, k ∈ t.fab.noticed) ∧
  (Comes s p kMessage → p.code = 1 → ∃ t, done (.collAbort p) t [] 0) ∧
  (∀ c inst, Comes s p kCollective → instanceOf s (p.addr / 2 ^ 32) = some c → c.coll = some inst →
    inst.signature.toNat = p.operand / 2 ^ 32 → stagingFits s p.data.length = true →
    ∃ t, done (.collective p) t [] 0 ∧ t.fab.staged = s.fab.staged ++ [{ node := p.src, pkt := taken p }])

end Sys2Proof.Claims

/-- The module as a target (R55, R68 to R70, R237, R240, R267 to R271, R274, R275, R282, R288): where each transaction completes
(`TargetCompletes`), in a state of canonical data; and, whatever the state, what a transaction whose tag is new does;
a WRITE, ATOMIC, TALLY, message or chunk whose tag has been applied is not applied again but answered DONE, an ATOMIC with the value it
read; with the table full it is answered RETRY; while the module cannot take it in it waits at the port; with no LIFE left it is dropped. -/
def Obligations.TargetRequests : Prop :=
  ∀ (p : Packet) (s s1 : State),
    let q := taken p
    let again (i : Instr) (operand : State → Nat) : Prop := ∀ s2, lookDedup s1 q = (s2, .old) →
      exec i s = .next (answer (countT s2 0x328E 1) q 0 [] (operand (countT s2 0x328E 1)))
    let full (i : Instr) : Prop := ∀ s2, lookDedup s1 q = (s2, .full) → exec i s = .next (answer s2 q 3 [] 0)
    (Sys2Proof.State.canonical s → TargetCompletes p s) ∧
    (TakesIn s p kRead s1 → full (.kraurRead p) ∧ ∀ s2, lookDedup s1 q = (s2, .new) →
      (lent s2 q.src q.addr q.len = none → exec (.kraurRead p) s = .next (answer (countT s2 0x3292 1) q 2 [] 0)) ∧
      (∀ s3, lent s2 q.src q.addr q.len = some s3 →
        (∀ a, firstLost s3 q.addr q.len = some a → exec (.kraurRead p) s =
          .next (answer (detectError s3 (uncorrectableRead s3 0 a false) none).1 q 5 [] 0)) ∧
        (firstLost s3 q.addr q.len = none → exec (.kraurRead p) s =
          .next (answer (touchRange none false (markDedup s3 q none) q.addr q.len) q 0 (ldBytes s3 q.addr q.len) 0)))) ∧
    (TakesIn s p kWrite s1 → full (.kraurWrite p) ∧ again (.kraurWrite p) (fun _ => 0) ∧ ∀ s2, lookDedup s1 q = (s2, .new) →
      (lent s2 q.src q.addr q.data.length = none → exec (.kraurWrite p) s = .next (answer (countT s2 0x3292 1) q 2 [] 0)) ∧
      (∀ s3, lent s2 q.src q.addr q.data.length = some s3 →
        lostRead s3 (partialWords q.addr q.data.length) = none →
        exec (.kraurWrite p) s = .next (answer (gWrite (markDedup s3 q none) q.addr q.data) q 0 [] 0))) ∧
    (TakesIn s p kAtomic s1 → atomicWidth q.code q.w64 ≠ 0 → full (.atomic p) ∧
      again (.atomic p) (fun t => (((t.fab.dedup.find? (fun e => e.node == q.src)).bind
        (fun e => e.slots.find? (fun x => x.1.toNat == q.tag))).map (·.2.toNat)).getD 0) ∧
      ∀ s2, lookDedup s1 q = (s2, .new) →
      (lent s2 q.src q.addr (atomicWidth q.code q.w64) = none →
        exec (.atomic p) s = .next (answer (countT s2 0x3292 1) q 2 [] 0)) ∧
      (∀ s3, lent s2 q.src q.addr (atomicWidth q.code q.w64) = some s3 → firstLost s3 q.addr (atomicWidth q.code q.w64) = none →
        let n := atomicWidth q.code q.w64
        let old := ldNat s3 q.addr n
        let counted (v : Nat) : State :=
          touchLine none true (countT (tickFresh (markDedup s3 q (some (BitVec.ofNat 64 v)))) 0x327A 1) (lineAddr q.addr)
        (scalarAtomic q.code = true → exec (.atomic p) s = .next (answer (storeM (counted old) q.addr
          (leBytes n (atomicScalar s3.fresh q.code n old q.operand (leNat (q.data.take 8))))) q 0 [] old)) ∧
        (scalarAtomic q.code = false → exec (.atomic p) s = .next (answer (storeM (counted 0) q.addr
          (atomicVector q.code (ldBytes s3 q.addr 128) q.data)) q 0 [] 0)))) ∧
    (TakesIn s p kTally s1 → full (.tally p) ∧ again (.tally p) (fun _ => 0) ∧ ∀ s2, lookDedup s1 q = (s2, .new) →
      let t := q.addr % 4096
      (tallyOwner s2 t = none → exec (.tally p) s = .next (answer (countT s2 0x3211 1) q 4 [] 0)) ∧
      (∀ o, tallyOwner s2 t = some o →
        (pGet s2 o 0xF ≠ 1 → exec (.tally p) s = .next (answer (countP s2 0x3211 o 1) q 4 [] 0)) ∧
        (pGet s2 o 0xF = 1 → exec (.tally p) s = .next (answer (tallyAdd (markDedup s2 q none) t q.operand) q 0 [] 0)))) ∧
    (TakesIn s p kMessage s1 → q.code = 0 → full (.lendNotice p) ∧ again (.lendNotice p) (fun _ => 0) ∧
      ∀ s2, lookDedup s1 q = (s2, .new) →
      exec (.lendNotice p) s = .next (noticeTarget q s2)) ∧
    (TakesIn s p kMessage s1 → q.code = 1 → full (.collAbort p) ∧ again (.collAbort p) (fun _ => 0) ∧
      ∀ s2, lookDedup s1 q = (s2, .new) → exec (.collAbort p) s = .next (abortTarget q s2)) ∧
    (TakesIn s p kCollective s1 → full (.collective p) ∧ again (.collective p) (fun _ => 0) ∧
      ∀ s2, lookDedup s1 q = (s2, .new) →
      (instanceOf s2 (q.addr / 2 ^ 32) = none → exec (.collective p) s = .next (answer s2 q 3 [] 0)) ∧
      (∀ c inst, instanceOf s2 (q.addr / 2 ^ 32) = some c → c.coll = some inst →
        (inst.signature.toNat ≠ q.operand / 2 ^ 32 →
          exec (.collective p) s = .next (answer (countT s2 0x3293 1) q 3 [] 0)) ∧
        (inst.signature.toNat = q.operand / 2 ^ 32 → stagingFits s2 q.data.length = true →
          let s3 := markDedup s2 q none
          let s4 : State := { s3 with fab := { s3.fab with staged := s3.fab.staged ++ [{ node := q.src, pkt := q }] } }
          exec (.collective p) s = .next (answer (setFlight s4 c.ring (fun f => { f with
            coll := some { inst with lastTick := BitVec.ofNat 64 (now s4) } })) q 0 [] 0)))) ∧
    (∀ i kind, (i, kind) ∈ [(Instr.kraurRead p, kRead), (.kraurWrite p, kWrite), (.atomic p, kAtomic), (.tally p, kTally),
        (.collective p, kCollective)] ++ (if p.code = 0 then [(.lendNotice p, kMessage)] else []) ++
        (if p.code = 1 then [(.collAbort p, kMessage)] else []) →
      p.kind = kind → p.dest = nodeId s → fabricOn s = true → (kind = kAtomic → atomicWidth p.code p.w64 ≠ 0) →
      (live s = false →
        exec i s = .next { s with fab := { s.fab with arrivals := s.fab.arrivals ++ [(p, BitVec.ofNat 64 (now s))] } }) ∧
      (live s = true → s1 = wakeFrom s [2] → serving s1 = true → packetHeld s1 p = false → p.life ≤ 1 → exec i s = .next (countT s1 0x3290 1)))

/-- The module as a source (R70, R240, R266, R268, R282, R288, R289): a DONE response completes its transaction, its data going to their
place; NODE_ABSENT and NOT_LENT fail the command with 0x32 and 0x34; a RETRY leaves it outstanding; a response to nothing outstanding is
discarded. A retry repeats the tag with the LIFE that is left; a timeout fails the command with 0x33; so does a collective whose wait
limit passes, which tells the other members. -/
def Obligations.SourceEnds : Prop :=
  (∀ (p : Packet) (s : State), tableRuns s = true → p.kind = kResponse → p.dest = nodeId s → p.life ≠ 0 →
    (findTxn s p.src (BitVec.ofNat 32 p.tag) = none → exec (.response p) s = .next s) ∧
    (∀ t, findTxn s p.src (BitVec.ofNat 32 p.tag) = some t →
      (p.code = 0 → exec (.response p) s = .next (endTxn (noteAck (takeDone s t p) t) t)) ∧
      (p.code = 1 → exec (.response p) s = .next (endTxn (failTxn (countT s 0x328D 1) t 0x32) t)) ∧
      (p.code = 2 → exec (.response p) s = .next (endTxn (failTxn s t 0x34) t)) ∧
      (p.code = 3 → t.pkt.kind ≠ kCollective → exec (.response p) s = .next s) ∧
      (p.code = 3 → t.pkt.kind = kCollective → exec (.response p) s = .next (resendChunk (endTxn s t) t)) ∧
      (4 ≤ p.code → t.pkt.kind = kTally → exec (.response p) s = .next (endTxn (failTxn s t 0x34) t)) ∧
      (4 ≤ p.code → t.pkt.kind ≠ kTally → exec (.response p) s = .next (remoteFault (endTxn s t) t)))) ∧
  (∀ (node : BitVec 16) (tag : BitVec 32) (s : State) (t : Txn), tableRuns s = true → findTxn s node.toNat tag = some t →
    (now s < t.deadline.toNat → exec (.txnRetry node tag) s = .next (sendPacket (countT s 0x328B 1)
        (packetLife t.pkt (t.deadline.toNat - now s))) ∧
      exec (.fabricTimeout node tag) s = .next s) ∧
    (t.deadline.toNat ≤ now s → exec (.txnRetry node tag) s = .next s ∧
      exec (.fabricTimeout node tag) s = .next (if t.pkt.kind = kCollective then resendChunk (endTxn (countT s 0x328C 1) t) t
        else endTxn (failTxn (countT s 0x328C 1) t 0x33) t))) ∧
  (∀ (ring : RingId) (s : State) (c : InFlight) (inst : CollInst), live s = true → flightOf s ring.toNat = some c →
    c.coll = some inst → c.discard = none → sealedOn s ring.toNat = false →
    (now s < inst.lastTick.toNat + max (collWaitMs c.desc * 25000) (txnTicks s) → exec (.collWaitTimeout ring) s = .next s) ∧
    (inst.lastTick.toNat + max (collWaitMs c.desc * 25000) (txnTicks s) ≤ now s →
      exec (.collWaitTimeout ring) s = .next (failColl s ring.toNat 0x33)))

/-- Falyndi (R341 to R349, R354): training with version 1 and enough lanes brings the link up, resends from the host's LACK and lets what
waited go; without version 1 it stays down, or goes on waiting for its restore; a loss makes it retrain; falyndi_restore_ms after the loss
that ends as a fault: the held writes dropped, the waiting reads answered with all ones, LINK_LOST standing until the driver clears it.
Host accesses reach memory, doorbells and the mailbox while the link is up, wait in their order while it retrains or others wait before
them, and once LINK_LOST stands writes are dropped and reads get all ones. -/
def Obligations.FalyndiCommands : Prop :=
  ∀ s : State,
    (∀ (host : HostEnd) (good : BitVec 5),
      (mayTrain s = false → exec (.falyndiTraining host good) s = .next s) ∧
      (mayTrain s = true → bit host.versions.toNat 1 = false →
        let down := if dGet s (dk 0x1100 1) = 3 ∨ dGet s (dk 0x1100 1) = 4 then s else dSet s (dk 0x1100 1) 0
        exec (.falyndiTraining host good) s =
          .next (raiseEvent (countT (dSet down (dk 0x1100 2) 0) 0x3114 1) 1 0 none 0x3114 0xFF 0)) ∧
      (mayTrain s = true → bit host.versions.toNat 1 = true → falyndiLanes (falyndiGood s good) = none →
        exec (.falyndiTraining host good) s = .next s) ∧
      (∀ x, mayTrain s = true → bit host.versions.toNat 1 = true → falyndiLanes (falyndiGood s good) = some x →
        let l := resendFlits s (ackReplay s.host.link host.lack)
        let s1 : State := { s with host := { s.host with link := { l with spareFor := x.2, version := 1 } } }
        exec (.falyndiTraining host good) s =
          .next (flushHeld (dSet (dSet (dSet s1 (dk 0x1100 4) x.1) (dk 0x1100 2) 1) (dk 0x1100 1) 2)))) ∧
    (s.pwr.inputOk = true → falyndiTrained s = true →
      exec .falyndiLinkLoss s = .next (countT
        (dSet (dSet { s with host := { s.host with downAt := BitVec.ofNat 64 (now s) } } (dk 0x1100 1) 3) (dk 0x1100 2) 0) 0x3112 1)) ∧
    (s.pwr.inputOk = false ∨ falyndiTrained s = false → exec .falyndiLinkLoss s = .next s) ∧
    (live s = true → dGet s (dk 0x1100 1) = 3 → now s < s.host.downAt.toNat + dGet s (dk 0x1100 5) * 25000 →
      exec .falyndiRestoreExpiry s = .next s) ∧
    (live s = true → dGet s (dk 0x1100 1) = 3 → s.host.downAt.toNat + dGet s (dk 0x1100 5) * 25000 ≤ now s →
      let s1 := dSet (dSet s (dk 0x1100 1) 4) (dk 0x1100 2) 0
      let reads := s.host.fhaBuf.filter (fun x => !x.isWrite)
      let s2 : State := { s1 with host := { s1.host with
        linkLost := true
        dropped := s.host.dropped + (s.host.fhaBuf.length - reads.length)
        fhaBuf := []
        hostRead := (reads.getLast?.map (fun x => List.replicate x.len 0xFF)).getD s.host.hostRead } }
      exec .falyndiRestoreExpiry s = .next (detectError s2 falyndiFault none).1) ∧
    exec .linkLostClear s = .next { s with host := { s.host with linkLost := false } } ∧
    (∀ (w : Bool) (address : Word) (len : BitVec 16) (data : List Byte), 256 < len.toNat →
      exec (.falyndiHostAccess w address len data) s = .next s) ∧
    (∀ (address : Word) (len : BitVec 16) (data : List Byte), len.toNat ≤ 256 →
      let a := address.toNat
      let n := len.toNat
      let bs := padTo n data
      let ones := List.replicate n 0xFF
      let put := hostPut a bs
      let get : HostAccess := { isWrite := false, addr := a, len := n, data := [], tag := 0 }
      let write (t : State) : Prop := exec (.falyndiHostAccess true address len data) s = .next t
      let read (t : State) : Prop := exec (.falyndiHostAccess false address len data) s = .next t
      (2 ^ 41 ≤ a → a < 2 ^ 41 + 0x10000 → write s ∧ read (controlRead s (a - 2 ^ 41) n 0)) ∧
      (¬(2 ^ 41 ≤ a ∧ a < 2 ^ 41 + 0x10000) →
      (s.host.linkLost = true → write { s with host := { s.host with dropped := s.host.dropped + 1 } } ∧
        read { s with host := { s.host with hostRead := ones } }) ∧
      (s.host.linkLost = false → hostQueued s = true →
        write { s with host := { s.host with fhaBuf := s.host.fhaBuf ++ [put] } } ∧
        read { s with host := { s.host with fhaBuf := s.host.fhaBuf ++ [get] } }) ∧
      (s.host.linkLost = false → hostQueued s = false →
        (accessHeld s put = true → write { s with host := { s.host with fhaBuf := s.host.fhaBuf ++ [put] } }) ∧
        (accessHeld s get = true → read { s with host := { s.host with fhaBuf := s.host.fhaBuf ++ [get] } })) ∧
      (s.host.linkLost = false → hostQueued s = false → falyndiUp s = true → a < 2 ^ 41 →
        let g := gaMake (nodeId s) (a / 2 ^ 40) (a % 2 ^ 40)
        (accessHeld s get = false →
          (barRange s (a / 2 ^ 40) (a % 2 ^ 40) n = false → read (hostReply (countT s 0x3115 1) 0 ones)) ∧
          (barRange s (a / 2 ^ 40) (a % 2 ^ 40) n = true → lostIn s g n = false → s.hlth.injections = [] →
            ∃ t, read t ∧ t.host.hostRead = ldBytes s g n)) ∧
        (accessHeld s put = false →
          (barRange s (a / 2 ^ 40) (a % 2 ^ 40) bs.length = false → write (countT s 0x3115 1)) ∧
          (barRange s (a / 2 ^ 40) (a % 2 ^ 40) bs.length = true →
            write (mirrorWrite (touchRange none true (storeM s g bs) g bs.length) g bs)))) ∧
      (s.host.linkLost = false → hostQueued s = false → falyndiUp s = true → 2 ^ 41 + 0x10000 ≤ a → a < 2 ^ 41 + 2 ^ 24 →
        write (controlWrite s (a - 2 ^ 41) bs) ∧ read (controlRead s (a - 2 ^ 41) n 0)) ∧
      (s.host.linkLost = false → hostQueued s = false → falyndiUp s = true → 2 ^ 41 + 2 ^ 24 ≤ a → write s ∧ read s) ∧
      (s.host.linkLost = false → hostQueued s = false → falyndiUp s = false → accessHeld s put = false → accessHeld s get = false →
        write s ∧ read { s with host := { s.host with hostRead := ones } })))

/-! ### Power, resets, health, upkeep -/

/-- Power states, power cap and temperatures (R366 to R375). An entry into P2, P3 or P4 begins only from P0 or P1, with every partition
quiescent and nothing in flight, for P4 with no window lent, without margining and with no test, retirement or migration open, and its requester is answered when
the state is reached; a refused one leaves its code in power_result. A return to P1 answers when the module has woken. An idle module
parks in P1. The cap's average is of the last 10 samples. A reading at trip_temp_c, or THERM_TRIP_N, trips the module. -/
def Obligations.PowerCommands : Prop :=
  (∀ (rq : Req) (i : Req → Instr) (t : Nat) (s : State),
    (i, t) = (Instr.enterDoze, 2) ∨ (i, t) = (Instr.enterLend, 3) ∨ (i, t) = (Instr.enterSleep, 4) → Served s rq 0x1400 3 →
    let s0 := awake s
    let refused (code : Nat) : Prop := exec (i rq) s = .next (reject (dSet s0 (dk 0x1400 5) code) rq 0x1400 3 stRefused)
    (resetting s = true → exec (i rq) s = .next (reject s0 rq 0x1400 3 stBusy)) ∧
    (resetting s = false → s.pwr.transition.isSome = true → refused 6) ∧
    (resetting s = false → s.pwr.transition = none → entryBar s t ≠ 0 → refused (entryBar s t)) ∧
    (resetting s = false → s.pwr.transition = none → pState s < 2 → idleModule s = true → (t = 4 → windowsUp s = false) →
      dGet s (dk 0x2413 1) ≠ 1 → dGet s (dk 0x2707 1) ≠ 1 → s.hlth.tests = [] →
      s.mem.migration = none → s.mem.retireQueue = [] → s.mem.evacRanges = [] →
      exec (i rq) s = .next { s0 with pwr := { s0.pwr with transition := some (t, false), transReq := some rq } })) ∧
  (∀ (rq : Req) (v : Byte) (s : State), Served s rq 0x1400 3 → resetting s = false →
    let s0 := awake s
    let refused (code : Nat) : Prop :=
      exec (.returnToP1 rq v) s = .next (reject (dSet s0 (dk 0x1400 5) code) rq 0x1400 3 stRefused)
    let waking (t : State) : Prop :=
      exec (.returnToP1 rq v) s = .next { t with pwr := { t.pwr with transition := some (1, true), transReq := some rq } }
    (4 < v.toNat → refused 4) ∧
    (v.toNat < 2 → s.pwr.transition = none → pState s < 2 → refused 4) ∧
    (v.toNat < 2 → s.pwr.transition = none → 2 ≤ pState s → waking s0) ∧
    (∀ t, v.toNat < 2 → s.pwr.transition = some (t, true) → refused 6) ∧
    (∀ t, v.toNat < 2 → s.pwr.transition = some (t, false) → waking (wakeFrom s0 [2, 3, 4]))) ∧
  (∀ s : State, live s = true →
    (pState s = 0 → s.hop.inflight = [] → s.pwr.transition = none → s.pwr.idleSince.toNat + dGet s (dk 0x1400 4) ≤ now s →
      exec .park s = .next (dAdd (dSet s (dk 0x1400 2) 1) (dk 0x3140 1) 1)) ∧
    (pState s ≠ 0 ∨ s.hop.inflight ≠ [] ∨ s.pwr.transition ≠ none ∨ now s < s.pwr.idleSince.toNat + dGet s (dk 0x1400 4) →
      exec .park s = .next s) ∧
    exec .millerClockStop s = .next { s with pwr := { s.pwr with millerClock := false } } ∧
    (s.pwr.transition = none → exec .powerStateReached s = .next s) ∧
    (∀ t, s.pwr.transition = some (t, false) → exec .powerStateReached s = .next (endTransition (enterState s t) stOk 0)) ∧
    (∀ t rq, s.pwr.transition = some (t, true) → s.pwr.transReq = some rq →
      exec .powerStateReached s = .next (releaseArrivals ((List.range 7).foldl pump
        (endTransition (wakeUp s) stOk (if dGet s (dk 0x1400 5) = 3 then 3 else 0))))) ∧
    (∀ t, s.pwr.transition = some (t, true) → s.pwr.transReq = none →
      exec .powerStateReached s = .next (releaseArrivals ((List.range 7).foldl pump
        (endTransition (wakeUp s) stOk (dGet s (dk 0x1400 5)))))) ∧
    (∀ watts : BitVec 16,
      let l := keepLast 10 (s.pwr.samples ++ [watts])
      let sum := (l.map (·.toNat)).sum
      let limit := dGet s (dk 0x1401 1) * l.length
      ∃ t, exec (.powerCapSample watts) s = .next t ∧ t.pwr.samples = l ∧
        (tableWf (dictDefault s.variant) s.dict = true → dGet t (dk 0x1401 2) = sum / l.length % 2 ^ 64) ∧
        t.pwr.duty = (if s.pwr.throttling = true ∨ limit < sum then s.pwr.duty - 1
          else if 100 * sum < 97 * limit then min 64 (s.pwr.duty + 1) else s.pwr.duty))) ∧
  (∀ s : State, s.pwr.inputOk = true →
    (∀ sensor celsius : BitVec 8,
      let s1 := readSensor s sensor celsius
      let limit := dGet s1 (dk 0x1402 1)
      (tooHot s1 = true → exec (.throttle sensor celsius) s = .next (trip s1)) ∧
      (tooHot s1 = false → exec (.throttle sensor celsius) s = .next { s1 with pwr := { s1.pwr with
        throttling := s1.pwr.sensors.any (fun x => decide (limit ≤ x.2.toNat)) ||
          (s1.pwr.throttling && !s1.pwr.sensors.all (fun x => decide (x.2.toNat < limit - 2))) } })) ∧
    (∀ reading : BitVec 32,
      let s1 := dSet s (dk 0x1402 4) reading.toNat
      (0x42200000 < reading.toNat → reading.toNat ≤ 0x7F800000 →
        exec (.coolantInletWarning reading) s = .next (raiseEvent s1 1 0 none 0x1402 4 0)) ∧
      (reading.toNat ≤ 0x42200000 → exec (.coolantInletWarning reading) s = .next s1)) ∧
    (∀ celsius : BitVec 8,
      (celsius.toNat < dGet s (dk 0x1402 2) → exec (.thermalTrip celsius) s = .next s) ∧
      (dGet s (dk 0x1402 2) ≤ celsius.toNat →
        exec (.thermalTrip celsius) s = .next (trip (dSet { s with pwr := { s.pwr with
          sensors := s.pwr.sensors.filter (fun x => x.1 != 256) ++ [(256, celsius)] } }
          (dk 0x1402 3) (max (dGet s (dk 0x1402 3)) celsius.toNat))))) ∧
    exec (.thermTripN true) s = .next (trip { s with pwr := { s.pwr with thermLow := true } }) ∧
    exec (.thermTripN false) s = .next { s with pwr := { s.pwr with thermLow := false } })

/-- Resets (R48, R49, R375 to R379, R413, R414, R420): what each command does when it is not absorbed, and what absorbs it. A cold reset
and a module reset give the state of R380 and start the module, with last_reset_cause 0, 1, 2 or 5; a cold reset reads the EEPROM; a trip holds the module until 60 s
have passed and a module reset has come; a warm reset discards what is in flight, and its recovery ends it once no transaction is
outstanding: the checkers' failures first (R378 step 4), then the commands (step 5), and its event last, after what waited for Falyndi; a
partition reset discards one partition's commands and abandons a transition. -/
def Obligations.ResetCommands : Prop :=
  (∀ (info : StartInfo) (s : State),
    let s1 := readEeprom { s with
      pwr := { s.pwr with inputOk := true, tripped := none, held := false, modRstLow := false, sensors := [] }
      host := { s.host with factoryTest := false } }
    let up := start (dSet (wipe s1 true) (dk 0x1500 3) 0) info
    (info.modRstLow = false → exec (.coldReset info) s = .next up) ∧
    (info.modRstLow = true → exec (.coldReset info) s = .next (
      if up.pwr.tripped.isSome = true then { up with pwr := { up.pwr with modRstLow := true, resetWaits := true } }
      else if up.pwr.held = true then countT { up with pwr := { up.pwr with modRstLow := true } } 0x3144 1
      else holdByPin (wipe up false)))) ∧
  (∀ (seen : SupplySeen) (s : State), s.pwr.inputOk = true →
    let mv := seen.millivolts.toNat
    let s1 := dSet s (dk 0x1401 4) mv
    (41000 ≤ mv → mv ≤ 58000 → exec (.inputLoss seen) s =
      .next { s1 with pwr := { s1.pwr with pgood := seen.railsGood && s1.pwr.tripped.isNone } }) ∧
    (mv < 41000 ∨ 58000 < mv →
      exec (.inputLoss seen) s = .next (closeBywash (dSet (dSet
        { s1 with pwr := { s1.pwr with inputOk := false, pgood := false } } (dk 0x1100 1) 0) (dk 0x1100 2) 0)))) ∧
  (∀ (info : StartInfo) (s : State), s.pwr.inputOk = true →
    (s.pwr.tripped = none → s.pwr.held = false → exec (.moduleReset none info) s = .next (holdByPin (wipe s false))) ∧
    (s.pwr.tripped = none → s.pwr.held = true →
      exec (.moduleReset none info) s = .next (countT { s with pwr := { s.pwr with modRstLow := true } } 0x3144 1)) ∧
    (s.pwr.tripped.isSome = true →
      exec (.moduleReset none info) s = .next { s with pwr := { s.pwr with modRstLow := true, resetWaits := true } }) ∧
    (∀ rq, Heard s rq →
      let s1 := respond (awake s) rq 0x02 0x1500 1 stOk []
      (s1.pwr.tripped = none → s1.pwr.held = false →
        exec (.moduleReset (some rq) info) s = .next (start (dSet (wipe s1 false) (dk 0x1500 3) 2) info)) ∧
      (s1.pwr.tripped = none → s1.pwr.held = true → exec (.moduleReset (some rq) info) s = .next (countT s1 0x3144 1)) ∧
      (∀ t, s1.pwr.tripped = some t → t.toNat + 1500000000 ≤ now s1 → s1.pwr.modRstLow = false →
        exec (.moduleReset (some rq) info) s = .next (start (dSet (wipe s1 false) (dk 0x1500 3) 5) info))) ∧
    (s.pwr.modRstLow = true →
      let s1 : State := { s with pwr := { s.pwr with modRstLow := false } }
      (s.pwr.tripped = none → s.pwr.held = true → exec (.modRstNRelease info) s = .next (start s1 info)) ∧
      (∀ t, s.pwr.tripped = some t → now s < t.toNat + 1500000000 → exec (.modRstNRelease info) s = .next s1) ∧
      (∀ t, s.pwr.tripped = some t → t.toNat + 1500000000 ≤ now s →
        exec (.modRstNRelease info) s = .next (start (dSet (wipe s1 false) (dk 0x1500 3) 5) info))) ∧
    (s.pwr.tripped = none → exec (.tripHoldExpiry info) s = .next s) ∧
    (∀ t, s.pwr.tripped = some t → s.pwr.resetWaits = true → s.pwr.modRstLow = false →
      (now s < t.toNat + 1500000000 → exec (.tripHoldExpiry info) s = .next s) ∧
      (t.toNat + 1500000000 ≤ now s →
        exec (.tripHoldExpiry info) s = .next (start (dSet (wipe s false) (dk 0x1500 3) 5) info)))) ∧
  (∀ (rq : Req) (s : State), Heard s rq →
    let s1 := respond (awake s) rq 0x02 0x1500 1 stOk []
    (s1.pwr.resetRunning.isSome = true ∨ s1.pwr.held = true → exec (.warmReset rq) s = .next (countT s1 0x3144 1)) ∧
    (s1.pwr.resetRunning = none → s1.pwr.held = false → exec (.warmReset rq) s = .next (beginWarm s1 3))) ∧
  (∀ s : State, s.pwr.inputOk = true →
    (dGet s (dk 0x1500 4) = 0 → exec .millerWatchdog s = .next s) ∧
    (dGet s (dk 0x1500 4) ≠ 0 → s.pwr.resetRunning = none → s.pwr.held = false → exec .millerWatchdog s = .next (beginWarm s 4)) ∧
    (∀ fails abandoned, s.pwr.resetRunning ≠ some .warm → exec (.warmResetRecovery ⟨fails, abandoned⟩) s = .next s) ∧
    (∀ fails abandoned, (∃ t ∈ s.fab.txns, t.issued = true) → exec (.warmResetRecovery ⟨fails, abandoned⟩) s = .next s) ∧
    (∀ fails abandoned, s.pwr.resetRunning = some .warm → (∀ t ∈ s.fab.txns, t.issued = false) →
      let failed := fails.foldl warmFail s
      let lost := failed.fab.txns.foldl loseWaiting failed
      let s1 := abandoned.foldl (fun s x => countAbandoned x.1.toNat s x.2) (answerMirrors { lost with fab := { lost.fab with txns := [] } })
      let s2 := (s1.hop.inflight.map (·.ring)).foldl recoverFlight s1
      let s3 := (s2.hop.rings.map (·.1)).foldl (haltIdle 0x11) s2
      let s4 := (s3.hop.rings.map (·.1)).foldl closeSegs s3
      let s5 : State := { dSet s4 (dk 0x1400 2) 1 with
        hop := { s4.hop with stopped := [] }
        pwr := { s4.pwr with resetRunning := none, idleSince := BitVec.ofNat 64 (now s4) } }
      let s6 := ((s5.fab.txns.map (·.node)).eraseDups).foldl issueAll s5
      exec (.warmResetRecovery ⟨fails, abandoned⟩) s =
        .next (raiseEvent (flushHeld (releaseArrivals ((List.range 6).foldl pump s6))) 0 0 none 0x1500 3 0))) ∧
  (∀ (rq : Req) (v : Byte) (s : State), Served s rq 0x1500 2 →
    (15 < v.toNat → exec (.partitionReset rq v) s = .next (reject (awake s) rq 0x1500 2 stRefused)) ∧
    (v.toNat ≤ 15 → resetting s = true ∨ partResetting s v.toNat = true →
      exec (.partitionReset rq v) s = .next (accept (countT (awake s) 0x3144 1) rq 0x1500 2 [v])) ∧
    (v.toNat ≤ 15 → resetting s = false → partResetting s v.toNat = false →
      exec (.partitionReset rq v) s = .next (accept (resetPart (abandonTransition (awake s)) v.toNat) rq 0x1500 2 [v])))

/-- What a cold or module reset leaves (R50, R380, R426): every ring FREE, no COMMITTED_SEQ, tallies 0; HBM reads zeros, no page is
mapped; ledger_epoch one higher; class-P entries as they were, where no lane is being margined (R291); of the repair map, the retired channels and the moved cores. -/
def Obligations.WipeRetention : Prop :=
  ∀ (s : State) (cold : Bool), Sys2Proof.State.canonical s →
    let t := wipe s cold
    (∀ n : Nat, ringOf t n = Ring.free ∧ committedSeq t n = 0 ∧ tallyOf t n = 0) ∧ t.hop.inflight = [] ∧
    (∀ k, k < 2 ^ 41 → keyByte t k = 0) ∧ (∀ part va : Nat, findMap t part va = none) ∧
    dGet t (dk 0x2100 5) = (dGet s (dk 0x2100 5) + 1) % 2 ^ 64 ∧
    (s.fab.margined = none → ∀ k, dictClass s.variant k = .p → k ≠ dk 0x2100 5 → dGet t k = dGet s k) ∧
    t.mem.retired = s.mem.retired ∧ t.cores.moved = s.cores.moved ∧ t.cores.retiredPhys = s.cores.retiredPhys

/-- Errors, tests and injections (R384 to R389, R393, R398): a report is detected (discard, withhold, record, test) unless its source
does not exist, and a lane's traffic moves to its spare or its link trains again; the first queued test starts that may; a result ends the running test of its record; a lost die is handled once; an
injection is armed, or fired at once on a lane, and DISARM disarms all. -/
def Obligations.HealthCommands : Prop :=
  (∀ s : State, live s = true →
    (∀ e : ErrorReport, e.source = 0x13 → exec (.errorDetected e) s = .next (loseDie s e.unit.toNat)) ∧
    (∀ (e : ErrorReport) (x : Injection) (t : State), e.source ≠ 0 → e.source.toNat ≤ 0x15 → e.source ≠ 0x13 →
      takeInjection s (armedFor s e) = some (x, t) → exec (.errorDetected e) s = .next (reportError t e (some x.persist))) ∧
    (∀ e : ErrorReport, s.hlth.injections = [] → e.source ≠ 0x13 →
      (e.source = 0 ∨ 0x15 < e.source.toNat → exec (.errorDetected e) s = .next s) ∧
      (e.source ≠ 0 → e.source.toNat ≤ 0x15 →
        let s1 := (detectError s e none).1
        let lane := laneOf (blankRec e.source.toNat e.unitKind.toNat e.unit.toNat 0)
        (e.source ≠ 0x0D → e.source ≠ 0x0E → exec (.errorDetected e) s = .next s1) ∧
        (e.source = 0x0D ∨ e.source = 0x0E →
          ((getLink s lane.1).spareFor.isSome = true →
            exec (.errorDetected e) s = .next (if lane.1 = 6 then falyndiRetrain s1 else retrain s1 lane.1)) ∧
          ((getLink s lane.1).spareFor = none → exec (.errorDetected e) s =
            .next (if (getLink s1 lane.1).spareFor = some lane.2 then sendCtrl s1 lane.1 1 lane.2 else s1))))) ∧
    (nextTest s = none → exec .targetedTest s = .next s) ∧
    (∀ t r, nextTest s = some (t, r) →
      let s1 := countT s 0x32C4 1
      let s2 : State := { s1 with hlth := { s1.hlth with
        tests := modifyFirst (fun x => x.seq == t.seq) (fun x => { x with running := true }) s1.hlth.tests } }
      let core := physOf s2 r.unit.toNat
      let s3 := if t.verify = true then s2 else resetCore s2 core
      exec .targetedTest s = .next (if r.unitKind = 1 ∧ (r.source = 1 ∨ r.source = 2 ∨ t.verify = true)
        then { s3 with cores := { s3.cores with runnerMode := insertNat core s3.cores.runnerMode } }
        else s2)) ∧
    (∀ (fid : BitVec 24) (o : TestOutcome) (ticks : BitVec 32),
      (∀ t, s.hlth.tests.find? (fun t => t.running && faultIdOf t.seq.toNat == fid.toNat) = some t →
        exec (.testResult fid o ticks) s = .next (endTest s t o ticks.toNat)) ∧
      (s.hlth.tests.find? (fun t => t.running && faultIdOf t.seq.toNat == fid.toNat) = none →
        exec (.testResult fid o ticks) s = .next s)) ∧
    (∀ die : BitVec 3, 6 ≤ die.toNat ∨ die.toNat ∈ s.cores.lostDies → exec (.dieLost die) s = .next s) ∧
    (∀ die : BitVec 3, die.toNat < 6 → die.toNat ∉ s.cores.lostDies → ∃ t, exec (.dieLost die) s = .next t ∧
      t = loseDie s die.toNat)) ∧
  (∀ (rq : Req) (word : BitVec 60) (s : State), Served s rq 0x4200 1 →
    let s0 := awake s
    let w := word.toNat
    let i := injOf s0 w
    let k := i.kind.toNat
    let bytes (op : Nat) := leBytes 8 (op * 2 ^ 60 + w)
    let bad := k = 0 ∨ 10 < k ∨ i.persist = 3 ∨ bits w 53 48 ≠ 0 ∨ 16 ≤ s.hlth.injections.length ∨ 2 ≤ pState s ∨
      dGet s (dk 0x4000 3) = 3 ∨ (i.persist = 2 ∧ dGet s (dk 0x4200 3) = 0) ∨
      ((k = 5 ∨ k = 6) ∧ inLocalHbm s i.addr.toNat 1 = false)
    (bad → exec (.arm rq word) s = .next (reject s0 rq 0x4200 1 stRefused)) ∧
    (¬bad → k = 7 ∨ k = 8 → exec (.arm rq word) s = .next (accept
      (reportError (countT s0 0x32C7 1) { injError s0 i with byCommand := false } (some i.persist)) rq 0x4200 1 (bytes 1))) ∧
    (¬bad → k ≠ 7 → k ≠ 8 → exec (.arm rq word) s = .next (accept
      { s0 with hlth := { s0.hlth with injections := s0.hlth.injections ++ [i] } } rq 0x4200 1 (bytes 1))) ∧
    exec (.disarm rq word) s = .next (accept { s0 with hlth := { s0.hlth with injections := [] } } rq 0x4200 1 (bytes 2)))

/-- HBM and link upkeep (R227, R240 to R245, R250, R291): retraining of a channel, the migration of a retirement, scrubbing, background
zeroing, margining. A channel that fails three retrains in a row retires, and a stack whose PHY fails retires whole; while lines are
scrubbed, an armed injection that they meet fires first (R430). -/
def Obligations.UpkeepCommands : Prop :=
  (∀ s : State, hbmOn s = true →
    (∀ (channel : BitVec 9) (hold : BitVec 32), channel.toNat < 384 → channel.toNat ∉ s.mem.retired →
      let ch := channel.toNat
      let s1 := count (count s 0x3273 (ch / 32 + 1) 1) 0x3272 (ch / 32 + 1) hold.toNat
      let s2 := setFails s1 ch (failsOf s1 ch + 1)
      exec (.hbmRetrain channel .passed hold) s = .next (setFails s1 ch 0) ∧
      exec (.hbmRetrain channel .phyFailed hold) s = .next (beginRetire s1 (liveOfStack s (ch / 32)) 0) ∧
      (failsOf s2 ch < 3 → exec (.hbmRetrain channel .failed hold) s = .next s2) ∧
      (3 ≤ failsOf s2 ch → exec (.hbmRetrain channel .failed hold) s = .next (beginRetire s2 [ch] 0))) ∧
    (∀ (channel : BitVec 9) (hold : BitVec 32), channel.toNat ∈ s.mem.retired →
      exec (.hbmRetrain channel .phyFailed hold) s = .next s ∧
      ((∀ m, s.mem.migration = some m → channel.toNat ∉ m.channels) → ∀ r, exec (.hbmRetrain channel r hold) s = .next s)) ∧
    (∀ (corrected bad : List Word) (lines : BitVec 32),
      (dGet s (dk 0x2412 1) = 0 → exec (.scrub corrected bad lines) s = .next s) ∧
      (dGet s (dk 0x2412 1) ≠ 0 →
        let total := (scrubLines s).1 + 12 * (scrubLines s).2
        let at_ := scrubPlace s (dGet s (dk 0x2412 2)) + lines.toNat
        let s0 := (List.range (min lines.toNat s.hlth.injections.length)).foldl
          (fun t _ => scrubFires t (dGet s (dk 0x2412 2)) lines.toNat) s
        let s1 := corrected.foldl (fun s a => scrubFixed s a.toNat) s0
        let s2 := dSet (countT s1 0x3276 (at_ / total)) (dk 0x2412 2) (scrubLine s1 (at_ % total))
        exec (.scrub corrected bad lines) s =
          .next (bad.foldl (fun s a => (detectError s (uncorrectableRead s 0 a.toNat false) none).1) s2))) ∧
    (s.mem.unzeroed = [] → exec .pageZeroed s = .next s) ∧
    (∀ u rest, s.mem.unzeroed = u :: rest →
      exec .pageZeroed s = .next (zeroRange { s with mem := { s.mem with unzeroed := rest } } u.1 u.2))) ∧
  (∀ s : State, live s = true →
    let ranges (s : State) : State := s.mem.evacRanges.foldl evacRange s
    (s.mem.migration = none → exec .evacuationResume s = .next (ranges s) ∧ exec .migrationEnd s = .next s) ∧
    (∀ m, s.mem.migration = some m →
      (m.blocked = true → exec .evacuationResume s = .next (ranges (evacuateStep s)) ∧ exec .migrationEnd s = .next s) ∧
      (m.blocked = false → exec .evacuationResume s = .next (ranges s) ∧
        let s1 : State := { s with mem := { s.mem with
          migration := none
          chanState := s.mem.chanState.filter (fun x => !m.channels.contains x.1)
          chanFails := s.mem.chanFails.filter (fun x => !m.channels.contains x.1) } }
        let s2 := raiseHealth s1 2
        exec .migrationEnd s =
          .next (nextPass (m.channels.foldl (channelRecord m.recSeq) ((deadStacks s1 m.channels).foldl loseStack s2)))))) ∧
  (∀ (rq : Req) (v : Byte) (s : State), Served s rq 0x2413 1 →
    let s0 := awake s
    let free := (∀ p < 16, pGet s p 5 = 0) ∧ ∀ r ∈ s.hop.rings, r.2.state = .free
    (1 < v.toNat → exec (.marginEnable rq v) s = .next (reject s0 rq 0x2413 1 stRefused)) ∧
    (v = 0 → exec (.marginEnable rq v) s =
      .next (accept { dSet s0 (dk 0x2413 1) 0 with mem := { s0.mem with marginTrained := true } } rq 0x2413 1 [v])) ∧
    (v = 1 → free → exec (.marginEnable rq v) s = .next (accept (dSet s0 (dk 0x2413 1) 1) rq 0x2413 1 [v])) ∧
    (v = 1 → ¬free → exec (.marginEnable rq v) s = .next (reject s0 rq 0x2413 1 stRefused))) ∧
  (∀ (rq : Req) (v : Byte) (passed inRange : Bool) (errors : BitVec 32) (s : State),
    let s0 := awake s
    let word := (if passed then 2 ^ 63 else 0) + errors.toNat
    (Served s rq 0x2413 5 →
      (1 < v.toNat ∨ dGet s (dk 0x2413 1) = 0 ∨ (v = 1 ∧ inRange = false) →
        exec (.marginRun rq v passed errors inRange) s = .next (reject s0 rq 0x2413 5 stRefused)) ∧
      (v = 0 → dGet s (dk 0x2413 1) ≠ 0 → exec (.marginRun rq v passed errors inRange) s = .next (accept s0 rq 0x2413 5 [v])) ∧
      (v = 1 → dGet s (dk 0x2413 1) ≠ 0 → inRange = true → exec (.marginRun rq v passed errors inRange) s =
        .next (accept { dSet s0 (dk 0x2413 6) word with mem := { s0.mem with marginTrained := false } } rq 0x2413 5 [v]))) ∧
    (Served s rq 0x2707 6 →
      (1 < v.toNat ∨ dGet s (dk 0x2707 1) = 0 ∨ (v = 1 ∧ inRange = false) →
        exec (.lmarginRun rq v passed errors inRange) s = .next (reject s0 rq 0x2707 6 stRefused)) ∧
      (v = 0 → dGet s (dk 0x2707 1) ≠ 0 → exec (.lmarginRun rq v passed errors inRange) s = .next (accept s0 rq 0x2707 6 [v])) ∧
      (v = 1 → dGet s (dk 0x2707 1) ≠ 0 → inRange = true → exec (.lmarginRun rq v passed errors inRange) s =
        .next (accept (dSet s0 (dk 0x2707 7) word) rq 0x2707 6 [v])))) ∧
  (∀ (rq : Req) (v : Byte) (s : State), Served s rq 0x2707 1 →
    let s0 := awake s
    let port := dGet s (dk 0x2707 2)
    let lane := dGet s (dk 0x2707 3)
    (1 < v.toNat → exec (.lmarginEnable rq v) s = .next (reject s0 rq 0x2707 1 stRefused)) ∧
    (v.toNat ≤ 1 → v.toNat = dGet s (dk 0x2707 1) → exec (.lmarginEnable rq v) s = .next (accept s0 rq 0x2707 1 [v])) ∧
    (v = 1 → dGet s (dk 0x2707 1) ≠ 1 → portState s port ≠ 2 ∨ (getLink s port).spareFor.isSome = true ∨
        (lane ≠ 12 ∧ (swapLane s0 port lane).2 = false) →
      exec (.lmarginEnable rq v) s = .next (reject s0 rq 0x2707 1 stRefused)) ∧
    (v = 1 → dGet s (dk 0x2707 1) ≠ 1 → portState s port = 2 → (getLink s port).spareFor = none →
      lane = 12 ∨ (swapLane s0 port lane).2 = true →
      let moved := if lane = 12 then s0 else (swapLane s0 port lane).1
      let s1 := dSet { moved with fab := { moved.fab with margined := some (port, lane) } } (dk 0x2707 1) 1
      exec (.lmarginEnable rq v) s = .next (accept (if lane = 12 then s1 else sendCtrl s1 port 1 lane) rq 0x2707 1 [v])) ∧
    (v = 0 → dGet s (dk 0x2707 1) ≠ 0 →
      (s.fab.margined = none → exec (.lmarginEnable rq v) s = .next (accept s0 rq 0x2707 1 [v])) ∧
      (∀ i k, s.fab.margined = some (i, k) →
        let s1 := dSet { s0 with fab := { s0.fab with margined := none } } (dk 0x2707 1) 0
        ((getLink s i).spareFor ≠ some k → exec (.lmarginEnable rq v) s = .next (accept s1 rq 0x2707 1 [v])) ∧
        ((getLink s i).spareFor = some k →
          exec (.lmarginEnable rq v) s = .next (accept (laneBack s1 i k) rq 0x2707 1 [v])))))

/-! ### Encodings -/

/-- Flits (R258): every header whose fields fit their widths is read back from the flit that carries it, the payload of at most 256
bytes follows it, padded with zeros, the CRC holds, and with any other CRC word it does not. (The places of the header's fields are the
header table's; the padding is the model's, log entry 15.) -/
def Obligations.FlitRoundTrip : Prop :=
  ∀ (h : FlitHead) (payload : List Byte),
    h.type < 2 ^ 4 → h.vc < 2 ^ 2 → h.bgmap < 2 ^ 8 → h.lseq < 2 ^ 12 → h.lack < 2 ^ 12 → h.crvc < 2 ^ 3 → h.crcnt < 2 ^ 7 →
    h.slotv < 2 ^ 8 → payload.length ≤ 256 →
    let f := flitBytes h payload
    f.length = 272 ∧ flitHead f = h ∧ f.drop 16 = payload ++ List.replicate (256 - payload.length) 0 ∧ flitGood f = true ∧
    ∀ w, w < 2 ^ 32 → leBytes 4 w ≠ (f.drop 8).take 4 → flitGood (f.take 8 ++ leBytes 4 w ++ f.drop 12) = false

/-- The floating formats (R110, R111): in each of FP32, FP16, BF16, E4M3, E5M2, E2M1 and A20, rounding what a pattern stands for gives
that pattern back, zeros with their sign, subnormals and infinities included; of the patterns that are NaN it gives the canonical one,
with sign 0. -/
def Obligations.NumberFormats : Prop :=
  (∀ f ∈ [fmtF32, fmtF16, fmtBF16, fmtE4M3, fmtE5M2, fmtE2M1, fmtA20], ∀ b, b < 2 ^ f.width →
    (f.decode b ≠ .nan → f.round (f.decode b) = b) ∧ (f.decode b = .nan → f.round (f.decode b) = f.nanBits)) ∧
  fmtF32.nanBits = 0x7FC00000 ∧ fmtF16.nanBits = 0x7E00 ∧ fmtBF16.nanBits = 0x7FC0 ∧ fmtE4M3.nanBits = 0x7F ∧
  fmtE5M2.nanBits = 0x7E ∧ fmtA20.nanBits = 0x7FC00
end

