-- ==== Sys2Proof/Laws/Table.lean ====
section
/-! SUPPORT. Laws of the sparse tables: a write keeps the canonical form, a read after a write, and what a filter keeps. -/

namespace Sys2Proof.Machine

/-- Every key of a table is at least `n`. -/
def keysFrom {α : Type} (n : Nat) (t : List (Nat × α)) : Prop := ∀ e ∈ t, n ≤ e.1

theorem tableWf_cons {α : Type} [DecidableEq α] (dflt : Nat → α) (k : Nat) (v : α) (t : List (Nat × α)) :
    tableWf dflt ((k, v) :: t) = true ↔ v ≠ dflt k ∧ keysFrom (k + 1) t ∧ tableWf dflt t = true := by
  induction t generalizing k v with
  | nil => simp [tableWf, keysFrom]
  | cons e t ih =>
    obtain ⟨k', v'⟩ := e
    constructor
    · intro h
      simp only [tableWf, Bool.and_eq_true, decide_eq_true_eq] at h
      refine ⟨h.1.1, ?_, h.2⟩
      intro e he
      rcases List.mem_cons.mp he with rfl | he
      · exact h.1.2
      · have := ((ih k' v').mp h.2).2.1 e he
        have := h.1.2
        omega
    · rintro ⟨h1, h2, h3⟩
      simp only [tableWf, Bool.and_eq_true, decide_eq_true_eq]
      exact ⟨⟨h1, h2 (k', v') (List.mem_cons_self)⟩, h3⟩

theorem tableWf_nil {α : Type} [DecidableEq α] (dflt : Nat → α) : tableWf dflt [] = true := rfl

/-- What a write leaves listed was listed before or is the entry written. -/
theorem mem_tableSet {α : Type} [DecidableEq α] (dflt : Nat → α) (k : Nat) (v : α) (t : List (Nat × α)) (e : Nat × α)
    (he : e ∈ tableSet dflt k v t) : e = (k, v) ∨ e ∈ t := by
  induction t with
  | nil =>
    simp only [tableSet] at he
    split at he
    · cases he
    · exact Or.inl (List.mem_singleton.mp he)
  | cons x t ih =>
    simp only [tableSet] at he
    repeat' split at he
    all_goals
      first
      | exact Or.inr he
      | exact Or.inr (List.mem_cons_of_mem _ he)
      | (rcases List.mem_cons.mp he with h | h
         · first
           | exact Or.inl h
           | exact Or.inr (h ▸ List.mem_cons_self)
         · first
           | exact Or.inr h
           | exact Or.inr (List.mem_cons_of_mem _ h)
           | exact (ih h).imp id (List.mem_cons_of_mem _))

theorem tableSet_keysFrom {α : Type} [DecidableEq α] (dflt : Nat → α) (n k : Nat) (v : α) (t : List (Nat × α))
    (h : keysFrom n t) (hk : n ≤ k) : keysFrom n (tableSet dflt k v t) := by
  intro e he
  rcases mem_tableSet dflt k v t e he with rfl | he
  · exact hk
  · exact h e he

/-- A write keeps the canonical form. -/
theorem tableSet_wf {α : Type} [DecidableEq α] (dflt : Nat → α) (k : Nat) (v : α) (t : List (Nat × α))
    (h : tableWf dflt t = true) : tableWf dflt (tableSet dflt k v t) = true := by
  induction t with
  | nil =>
    simp only [tableSet]
    split
    · rfl
    · simp_all [tableWf]
  | cons e t ih =>
    obtain ⟨k', v'⟩ := e
    obtain ⟨h1, h2, h3⟩ := (tableWf_cons dflt k' v' t).mp h
    simp only [tableSet]
    split
    · rename_i hlt
      split
      · exact h
      · refine (tableWf_cons dflt k v _).mpr ⟨‹_›, ?_, h⟩
        intro e he
        rcases List.mem_cons.mp he with rfl | he
        · exact hlt
        · have := h2 e he; omega
    · split
      · rename_i hlt heq
        subst heq
        split
        · exact h3
        · exact (tableWf_cons dflt k v t).mpr ⟨‹_›, h2, h3⟩
      · exact (tableWf_cons dflt k' v' _).mpr ⟨h1, tableSet_keysFrom dflt (k' + 1) k v t h2 (by omega), ih h3⟩

/-- An unlisted key reads as its default. -/
theorem tableGet_keysFrom {α : Type} (dflt : Nat → α) (k : Nat) (t : List (Nat × α)) (h : keysFrom (k + 1) t) :
    tableGet dflt t k = dflt k := by
  induction t with
  | nil => rfl
  | cons e t ih =>
    obtain ⟨k', v'⟩ := e
    have := h (k', v') List.mem_cons_self
    simp only [tableGet]
    rw [if_neg (by omega)]
    exact ih (fun e he => h e (List.mem_cons_of_mem _ he))

/-- A read after a write: the written key reads as written. -/
theorem tableGet_tableSet_same {α : Type} [DecidableEq α] (dflt : Nat → α) (k : Nat) (v : α) (t : List (Nat × α))
    (h : tableWf dflt t = true) : tableGet dflt (tableSet dflt k v t) k = v := by
  induction t with
  | nil => simp only [tableSet]; split <;> simp_all [tableGet]
  | cons e t ih =>
    obtain ⟨k', v'⟩ := e
    obtain ⟨h1, h2, h3⟩ := (tableWf_cons dflt k' v' t).mp h
    simp only [tableSet]
    split
    · rename_i hlt
      split
      · rw [tableGet_keysFrom]
        · exact ‹v = _›.symm
        · intro e he
          rcases List.mem_cons.mp he with rfl | he
          · exact hlt
          · have := h2 e he; omega
      · simp [tableGet]
    · split
      · rename_i heq
        subst heq
        split
        · rw [tableGet_keysFrom dflt k t h2]; exact ‹v = _›.symm
        · simp [tableGet]
      · rename_i hne
        simp only [tableGet]
        rw [if_neg (fun hh => hne hh.symm)]
        exact ih h3

/-- A read after a write: every other key reads as before. -/
theorem tableGet_tableSet_other {α : Type} [DecidableEq α] (dflt : Nat → α) (k j : Nat) (v : α) (t : List (Nat × α))
    (hj : j ≠ k) (h : tableWf dflt t = true) : tableGet dflt (tableSet dflt k v t) j = tableGet dflt t j := by
  induction t with
  | nil => simp only [tableSet]; split <;> simp [tableGet, hj.symm]
  | cons e t ih =>
    obtain ⟨k', v'⟩ := e
    obtain ⟨h1, h2, h3⟩ := (tableWf_cons dflt k' v' t).mp h
    simp only [tableSet]
    split
    · split
      · rfl
      · simp [tableGet, hj.symm]
    · split
      · rename_i heq
        subst heq
        split
        · simp [tableGet, hj.symm]
        · simp [tableGet, hj.symm]
      · simp only [tableGet]
        split
        · rfl
        · exact ih h3

/-- A filter by key keeps the canonical form when the default of every kept key is kept too. -/
theorem tableKeep_wf {α : Type} [DecidableEq α] (d e : Nat → α) (keep : Nat → Bool) (t : List (Nat × α))
    (hd : ∀ k, keep k = true → d k = e k) (h : tableWf d t = true) : tableWf e (tableKeep keep t) = true := by
  induction t with
  | nil => rfl
  | cons x t ih =>
    obtain ⟨k, v⟩ := x
    obtain ⟨h1, h2, h3⟩ := (tableWf_cons d k v t).mp h
    have hk : keysFrom (k + 1) (tableKeep keep t) := fun y hy => h2 y (List.mem_filter.mp hy).1
    unfold tableKeep at ih ⊢ hk
    rw [List.filter_cons]
    split
    · rename_i hkeep
      exact (tableWf_cons e k v _).mpr ⟨by rw [← hd k hkeep]; exact h1, hk, ih h3⟩
    · exact ih h3

/-- Two defaults that agree on every listed key have the same canonical tables. -/
theorem tableWf_congr {α : Type} [DecidableEq α] (d e : Nat → α) (t : List (Nat × α))
    (hd : ∀ x ∈ t, d x.1 = e x.1) (h : tableWf d t = true) : tableWf e t = true := by
  induction t with
  | nil => rfl
  | cons x t ih =>
    obtain ⟨k, v⟩ := x
    obtain ⟨h1, h2, h3⟩ := (tableWf_cons d k v t).mp h
    refine (tableWf_cons e k v t).mpr ⟨?_, h2, ih (fun x hx => hd x (List.mem_cons_of_mem _ hx)) h3⟩
    rw [← hd (k, v) List.mem_cons_self]
    exact h1

end Sys2Proof.Machine
end

