-- ==== Sys2Proof/Laws/State.lean ====
section
/-! SUPPORT. One lemma per field that a state update leaves as it was, and what the updates of one field leave there. -/

namespace Sys2Proof.Machine

@[simp] theorem dSet_variant (s : State) (k v : Nat) : (dSet s k v).variant = s.variant := rfl
@[simp] theorem dSet_ident (s : State) (k v : Nat) : (dSet s k v).ident = s.ident := rfl
@[simp] theorem dSet_hop (s : State) (k v : Nat) : (dSet s k v).hop = s.hop := rfl
@[simp] theorem dSet_cores (s : State) (k v : Nat) : (dSet s k v).cores = s.cores := rfl
@[simp] theorem dSet_mem (s : State) (k v : Nat) : (dSet s k v).mem = s.mem := rfl
@[simp] theorem dSet_fab (s : State) (k v : Nat) : (dSet s k v).fab = s.fab := rfl
@[simp] theorem dSet_host (s : State) (k v : Nat) : (dSet s k v).host = s.host := rfl
@[simp] theorem dSet_pwr (s : State) (k v : Nat) : (dSet s k v).pwr = s.pwr := rfl
@[simp] theorem dSet_hlth (s : State) (k v : Nat) : (dSet s k v).hlth = s.hlth := rfl
@[simp] theorem dSet_fw (s : State) (k v : Nat) : (dSet s k v).fw = s.fw := rfl
@[simp] theorem dSet_media (s : State) (k v : Nat) : (dSet s k v).media = s.media := rfl
@[simp] theorem dSet_fresh (s : State) (k v : Nat) : (dSet s k v).fresh = s.fresh := rfl
@[simp] theorem dSet_pending (s : State) (k v : Nat) : (dSet s k v).pending = s.pending := rfl

@[simp] theorem pSet_variant (s : State) (p sub v : Nat) : (pSet s p sub v).variant = s.variant := rfl
@[simp] theorem pSet_ident (s : State) (p sub v : Nat) : (pSet s p sub v).ident = s.ident := rfl
@[simp] theorem pSet_hop (s : State) (p sub v : Nat) : (pSet s p sub v).hop = s.hop := rfl
@[simp] theorem pSet_cores (s : State) (p sub v : Nat) : (pSet s p sub v).cores = s.cores := rfl
@[simp] theorem pSet_mem (s : State) (p sub v : Nat) : (pSet s p sub v).mem = s.mem := rfl
@[simp] theorem pSet_fab (s : State) (p sub v : Nat) : (pSet s p sub v).fab = s.fab := rfl
@[simp] theorem pSet_host (s : State) (p sub v : Nat) : (pSet s p sub v).host = s.host := rfl
@[simp] theorem pSet_pwr (s : State) (p sub v : Nat) : (pSet s p sub v).pwr = s.pwr := rfl
@[simp] theorem pSet_hlth (s : State) (p sub v : Nat) : (pSet s p sub v).hlth = s.hlth := rfl
@[simp] theorem pSet_fw (s : State) (p sub v : Nat) : (pSet s p sub v).fw = s.fw := rfl
@[simp] theorem pSet_media (s : State) (p sub v : Nat) : (pSet s p sub v).media = s.media := rfl
@[simp] theorem pSet_fresh (s : State) (p sub v : Nat) : (pSet s p sub v).fresh = s.fresh := rfl
@[simp] theorem pSet_pending (s : State) (p sub v : Nat) : (pSet s p sub v).pending = s.pending := rfl

@[simp] theorem tickFresh_variant (s : State) : (tickFresh s).variant = s.variant := rfl
@[simp] theorem tickFresh_ident (s : State) : (tickFresh s).ident = s.ident := rfl
@[simp] theorem tickFresh_dict (s : State) : (tickFresh s).dict = s.dict := rfl
@[simp] theorem tickFresh_hop (s : State) : (tickFresh s).hop = s.hop := rfl
@[simp] theorem tickFresh_cores (s : State) : (tickFresh s).cores = s.cores := rfl
@[simp] theorem tickFresh_mem (s : State) : (tickFresh s).mem = s.mem := rfl
@[simp] theorem tickFresh_fab (s : State) : (tickFresh s).fab = s.fab := rfl
@[simp] theorem tickFresh_host (s : State) : (tickFresh s).host = s.host := rfl
@[simp] theorem tickFresh_pwr (s : State) : (tickFresh s).pwr = s.pwr := rfl
@[simp] theorem tickFresh_hlth (s : State) : (tickFresh s).hlth = s.hlth := rfl
@[simp] theorem tickFresh_fw (s : State) : (tickFresh s).fw = s.fw := rfl
@[simp] theorem tickFresh_media (s : State) : (tickFresh s).media = s.media := rfl
@[simp] theorem tickFresh_pending (s : State) : (tickFresh s).pending = s.pending := rfl

@[simp] theorem setFlight_variant (s : State) (ring : Nat) (f : InFlight → InFlight) : (setFlight s ring f).variant = s.variant :=
    rfl
@[simp] theorem setFlight_ident (s : State) (ring : Nat) (f : InFlight → InFlight) : (setFlight s ring f).ident = s.ident :=
    rfl
@[simp] theorem setFlight_dict (s : State) (ring : Nat) (f : InFlight → InFlight) : (setFlight s ring f).dict = s.dict :=
    rfl
@[simp] theorem setFlight_cores (s : State) (ring : Nat) (f : InFlight → InFlight) : (setFlight s ring f).cores = s.cores :=
    rfl
@[simp] theorem setFlight_mem (s : State) (ring : Nat) (f : InFlight → InFlight) : (setFlight s ring f).mem = s.mem :=
    rfl
@[simp] theorem setFlight_fab (s : State) (ring : Nat) (f : InFlight → InFlight) : (setFlight s ring f).fab = s.fab :=
    rfl
@[simp] theorem setFlight_host (s : State) (ring : Nat) (f : InFlight → InFlight) : (setFlight s ring f).host = s.host :=
    rfl
@[simp] theorem setFlight_pwr (s : State) (ring : Nat) (f : InFlight → InFlight) : (setFlight s ring f).pwr = s.pwr :=
    rfl
@[simp] theorem setFlight_hlth (s : State) (ring : Nat) (f : InFlight → InFlight) : (setFlight s ring f).hlth = s.hlth :=
    rfl
@[simp] theorem setFlight_fw (s : State) (ring : Nat) (f : InFlight → InFlight) : (setFlight s ring f).fw = s.fw :=
    rfl
@[simp] theorem setFlight_media (s : State) (ring : Nat) (f : InFlight → InFlight) : (setFlight s ring f).media = s.media :=
    rfl
@[simp] theorem setFlight_fresh (s : State) (ring : Nat) (f : InFlight → InFlight) : (setFlight s ring f).fresh = s.fresh :=
    rfl
@[simp] theorem setFlight_pending (s : State) (ring : Nat) (f : InFlight → InFlight) : (setFlight s ring f).pending = s.pending :=
    rfl

@[simp] theorem dropFlight_variant (s : State) (ring : Nat) : (dropFlight s ring).variant = s.variant := rfl
@[simp] theorem dropFlight_ident (s : State) (ring : Nat) : (dropFlight s ring).ident = s.ident := rfl
@[simp] theorem dropFlight_dict (s : State) (ring : Nat) : (dropFlight s ring).dict = s.dict := rfl
@[simp] theorem dropFlight_cores (s : State) (ring : Nat) : (dropFlight s ring).cores = s.cores := rfl
@[simp] theorem dropFlight_mem (s : State) (ring : Nat) : (dropFlight s ring).mem = s.mem := rfl
@[simp] theorem dropFlight_host (s : State) (ring : Nat) : (dropFlight s ring).host = s.host := rfl
@[simp] theorem dropFlight_pwr (s : State) (ring : Nat) : (dropFlight s ring).pwr = s.pwr := rfl
@[simp] theorem dropFlight_hlth (s : State) (ring : Nat) : (dropFlight s ring).hlth = s.hlth := rfl
@[simp] theorem dropFlight_fw (s : State) (ring : Nat) : (dropFlight s ring).fw = s.fw := rfl
@[simp] theorem dropFlight_contexts (s : State) (ring : Nat) : (dropFlight s ring).media.contexts = s.media.contexts := rfl
@[simp] theorem dropFlight_withheld (s : State) (ring : Nat) : (dropFlight s ring).media.withheld = s.media.withheld := rfl
@[simp] theorem dropFlight_fresh (s : State) (ring : Nat) : (dropFlight s ring).fresh = s.fresh := rfl
@[simp] theorem dropFlight_pending (s : State) (ring : Nat) : (dropFlight s ring).pending = s.pending := rfl

@[simp] theorem setSeg_variant (s : State) (ring seq : Nat) (f : Segment → Segment) : (setSeg s ring seq f).variant = s.variant :=
    rfl
@[simp] theorem setSeg_ident (s : State) (ring seq : Nat) (f : Segment → Segment) : (setSeg s ring seq f).ident = s.ident :=
    rfl
@[simp] theorem setSeg_dict (s : State) (ring seq : Nat) (f : Segment → Segment) : (setSeg s ring seq f).dict = s.dict :=
    rfl
@[simp] theorem setSeg_cores (s : State) (ring seq : Nat) (f : Segment → Segment) : (setSeg s ring seq f).cores = s.cores :=
    rfl
@[simp] theorem setSeg_mem (s : State) (ring seq : Nat) (f : Segment → Segment) : (setSeg s ring seq f).mem = s.mem :=
    rfl
@[simp] theorem setSeg_fab (s : State) (ring seq : Nat) (f : Segment → Segment) : (setSeg s ring seq f).fab = s.fab :=
    rfl
@[simp] theorem setSeg_host (s : State) (ring seq : Nat) (f : Segment → Segment) : (setSeg s ring seq f).host = s.host :=
    rfl
@[simp] theorem setSeg_pwr (s : State) (ring seq : Nat) (f : Segment → Segment) : (setSeg s ring seq f).pwr = s.pwr :=
    rfl
@[simp] theorem setSeg_hlth (s : State) (ring seq : Nat) (f : Segment → Segment) : (setSeg s ring seq f).hlth = s.hlth :=
    rfl
@[simp] theorem setSeg_fw (s : State) (ring seq : Nat) (f : Segment → Segment) : (setSeg s ring seq f).fw = s.fw :=
    rfl
@[simp] theorem setSeg_media (s : State) (ring seq : Nat) (f : Segment → Segment) : (setSeg s ring seq f).media = s.media :=
    rfl
@[simp] theorem setSeg_fresh (s : State) (ring seq : Nat) (f : Segment → Segment) : (setSeg s ring seq f).fresh = s.fresh :=
    rfl
@[simp] theorem setSeg_pending (s : State) (ring seq : Nat) (f : Segment → Segment) : (setSeg s ring seq f).pending = s.pending :=
    rfl

@[simp] theorem dropSeg_variant (s : State) (ring seq : Nat) : (dropSeg s ring seq).variant = s.variant := rfl
@[simp] theorem dropSeg_ident (s : State) (ring seq : Nat) : (dropSeg s ring seq).ident = s.ident := rfl
@[simp] theorem dropSeg_dict (s : State) (ring seq : Nat) : (dropSeg s ring seq).dict = s.dict := rfl
@[simp] theorem dropSeg_cores (s : State) (ring seq : Nat) : (dropSeg s ring seq).cores = s.cores := rfl
@[simp] theorem dropSeg_mem (s : State) (ring seq : Nat) : (dropSeg s ring seq).mem = s.mem := rfl
@[simp] theorem dropSeg_fab (s : State) (ring seq : Nat) : (dropSeg s ring seq).fab = s.fab := rfl
@[simp] theorem dropSeg_host (s : State) (ring seq : Nat) : (dropSeg s ring seq).host = s.host := rfl
@[simp] theorem dropSeg_pwr (s : State) (ring seq : Nat) : (dropSeg s ring seq).pwr = s.pwr := rfl
@[simp] theorem dropSeg_hlth (s : State) (ring seq : Nat) : (dropSeg s ring seq).hlth = s.hlth := rfl
@[simp] theorem dropSeg_fw (s : State) (ring seq : Nat) : (dropSeg s ring seq).fw = s.fw := rfl
@[simp] theorem dropSeg_media (s : State) (ring seq : Nat) : (dropSeg s ring seq).media = s.media := rfl
@[simp] theorem dropSeg_fresh (s : State) (ring seq : Nat) : (dropSeg s ring seq).fresh = s.fresh := rfl
@[simp] theorem dropSeg_pending (s : State) (ring seq : Nat) : (dropSeg s ring seq).pending = s.pending := rfl

@[simp] theorem stKey_variant (s : State) (k : Nat) (bs : List Byte) : (stKey s k bs).variant = s.variant := rfl
@[simp] theorem stKey_ident (s : State) (k : Nat) (bs : List Byte) : (stKey s k bs).ident = s.ident := rfl
@[simp] theorem stKey_dict (s : State) (k : Nat) (bs : List Byte) : (stKey s k bs).dict = s.dict := rfl
@[simp] theorem stKey_hop (s : State) (k : Nat) (bs : List Byte) : (stKey s k bs).hop = s.hop := rfl
@[simp] theorem stKey_cores (s : State) (k : Nat) (bs : List Byte) : (stKey s k bs).cores = s.cores := rfl
@[simp] theorem stKey_fab (s : State) (k : Nat) (bs : List Byte) : (stKey s k bs).fab = s.fab := rfl
@[simp] theorem stKey_host (s : State) (k : Nat) (bs : List Byte) : (stKey s k bs).host = s.host := rfl
@[simp] theorem stKey_pwr (s : State) (k : Nat) (bs : List Byte) : (stKey s k bs).pwr = s.pwr := rfl
@[simp] theorem stKey_hlth (s : State) (k : Nat) (bs : List Byte) : (stKey s k bs).hlth = s.hlth := rfl
@[simp] theorem stKey_fw (s : State) (k : Nat) (bs : List Byte) : (stKey s k bs).fw = s.fw := rfl
@[simp] theorem stKey_media (s : State) (k : Nat) (bs : List Byte) : (stKey s k bs).media = s.media := rfl
@[simp] theorem stKey_fresh (s : State) (k : Nat) (bs : List Byte) : (stKey s k bs).fresh = s.fresh := rfl
@[simp] theorem stKey_pending (s : State) (k : Nat) (bs : List Byte) : (stKey s k bs).pending = s.pending := rfl

@[simp] theorem store_variant (s : State) (a : Nat) (bs : List Byte) : (store s a bs).variant = s.variant := rfl
@[simp] theorem store_ident (s : State) (a : Nat) (bs : List Byte) : (store s a bs).ident = s.ident := rfl
@[simp] theorem store_dict (s : State) (a : Nat) (bs : List Byte) : (store s a bs).dict = s.dict := rfl
@[simp] theorem store_hop (s : State) (a : Nat) (bs : List Byte) : (store s a bs).hop = s.hop := rfl
@[simp] theorem store_cores (s : State) (a : Nat) (bs : List Byte) : (store s a bs).cores = s.cores := rfl
@[simp] theorem store_fab (s : State) (a : Nat) (bs : List Byte) : (store s a bs).fab = s.fab := rfl
@[simp] theorem store_host (s : State) (a : Nat) (bs : List Byte) : (store s a bs).host = s.host := rfl
@[simp] theorem store_pwr (s : State) (a : Nat) (bs : List Byte) : (store s a bs).pwr = s.pwr := rfl
@[simp] theorem store_hlth (s : State) (a : Nat) (bs : List Byte) : (store s a bs).hlth = s.hlth := rfl
@[simp] theorem store_fw (s : State) (a : Nat) (bs : List Byte) : (store s a bs).fw = s.fw := rfl
@[simp] theorem store_media (s : State) (a : Nat) (bs : List Byte) : (store s a bs).media = s.media := rfl
@[simp] theorem store_fresh (s : State) (a : Nat) (bs : List Byte) : (store s a bs).fresh = s.fresh := rfl
@[simp] theorem store_pending (s : State) (a : Nat) (bs : List Byte) : (store s a bs).pending = s.pending := rfl

@[simp] theorem stNat_variant (s : State) (a n v : Nat) : (stNat s a n v).variant = s.variant := rfl
@[simp] theorem stNat_ident (s : State) (a n v : Nat) : (stNat s a n v).ident = s.ident := rfl
@[simp] theorem stNat_dict (s : State) (a n v : Nat) : (stNat s a n v).dict = s.dict := rfl
@[simp] theorem stNat_hop (s : State) (a n v : Nat) : (stNat s a n v).hop = s.hop := rfl
@[simp] theorem stNat_cores (s : State) (a n v : Nat) : (stNat s a n v).cores = s.cores := rfl
@[simp] theorem stNat_fab (s : State) (a n v : Nat) : (stNat s a n v).fab = s.fab := rfl
@[simp] theorem stNat_host (s : State) (a n v : Nat) : (stNat s a n v).host = s.host := rfl
@[simp] theorem stNat_pwr (s : State) (a n v : Nat) : (stNat s a n v).pwr = s.pwr := rfl
@[simp] theorem stNat_hlth (s : State) (a n v : Nat) : (stNat s a n v).hlth = s.hlth := rfl
@[simp] theorem stNat_fw (s : State) (a n v : Nat) : (stNat s a n v).fw = s.fw := rfl
@[simp] theorem stNat_media (s : State) (a n v : Nat) : (stNat s a n v).media = s.media := rfl
@[simp] theorem stNat_fresh (s : State) (a n v : Nat) : (stNat s a n v).fresh = s.fresh := rfl
@[simp] theorem stNat_pending (s : State) (a n v : Nat) : (stNat s a n v).pending = s.pending := rfl

@[simp] theorem zeroRange_variant (s : State) (a n : Nat) : (zeroRange s a n).variant = s.variant := rfl
@[simp] theorem zeroRange_ident (s : State) (a n : Nat) : (zeroRange s a n).ident = s.ident := rfl
@[simp] theorem zeroRange_dict (s : State) (a n : Nat) : (zeroRange s a n).dict = s.dict := rfl
@[simp] theorem zeroRange_hop (s : State) (a n : Nat) : (zeroRange s a n).hop = s.hop := rfl
@[simp] theorem zeroRange_cores (s : State) (a n : Nat) : (zeroRange s a n).cores = s.cores := rfl
@[simp] theorem zeroRange_fab (s : State) (a n : Nat) : (zeroRange s a n).fab = s.fab := rfl
@[simp] theorem zeroRange_host (s : State) (a n : Nat) : (zeroRange s a n).host = s.host := rfl
@[simp] theorem zeroRange_pwr (s : State) (a n : Nat) : (zeroRange s a n).pwr = s.pwr := rfl
@[simp] theorem zeroRange_hlth (s : State) (a n : Nat) : (zeroRange s a n).hlth = s.hlth := rfl
@[simp] theorem zeroRange_fw (s : State) (a n : Nat) : (zeroRange s a n).fw = s.fw := rfl
@[simp] theorem zeroRange_media (s : State) (a n : Nat) : (zeroRange s a n).media = s.media := rfl
@[simp] theorem zeroRange_fresh (s : State) (a n : Nat) : (zeroRange s a n).fresh = s.fresh := rfl
@[simp] theorem zeroRange_pending (s : State) (a n : Nat) : (zeroRange s a n).pending = s.pending := rfl

@[simp] theorem loseRange_variant (s : State) (k n : Nat) : (loseRange s k n).variant = s.variant := rfl
@[simp] theorem loseRange_ident (s : State) (k n : Nat) : (loseRange s k n).ident = s.ident := rfl
@[simp] theorem loseRange_dict (s : State) (k n : Nat) : (loseRange s k n).dict = s.dict := rfl
@[simp] theorem loseRange_hop (s : State) (k n : Nat) : (loseRange s k n).hop = s.hop := rfl
@[simp] theorem loseRange_cores (s : State) (k n : Nat) : (loseRange s k n).cores = s.cores := rfl
@[simp] theorem loseRange_fab (s : State) (k n : Nat) : (loseRange s k n).fab = s.fab := rfl
@[simp] theorem loseRange_host (s : State) (k n : Nat) : (loseRange s k n).host = s.host := rfl
@[simp] theorem loseRange_pwr (s : State) (k n : Nat) : (loseRange s k n).pwr = s.pwr := rfl
@[simp] theorem loseRange_hlth (s : State) (k n : Nat) : (loseRange s k n).hlth = s.hlth := rfl
@[simp] theorem loseRange_fw (s : State) (k n : Nat) : (loseRange s k n).fw = s.fw := rfl
@[simp] theorem loseRange_media (s : State) (k n : Nat) : (loseRange s k n).media = s.media := rfl
@[simp] theorem loseRange_pending (s : State) (k n : Nat) : (loseRange s k n).pending = s.pending := rfl

@[simp] theorem moveRange_variant (s : State) (a b n : Nat) : (moveRange s a b n).variant = s.variant := rfl
@[simp] theorem moveRange_ident (s : State) (a b n : Nat) : (moveRange s a b n).ident = s.ident := rfl
@[simp] theorem moveRange_dict (s : State) (a b n : Nat) : (moveRange s a b n).dict = s.dict := rfl
@[simp] theorem moveRange_hop (s : State) (a b n : Nat) : (moveRange s a b n).hop = s.hop := rfl
@[simp] theorem moveRange_cores (s : State) (a b n : Nat) : (moveRange s a b n).cores = s.cores := rfl
@[simp] theorem moveRange_fab (s : State) (a b n : Nat) : (moveRange s a b n).fab = s.fab := rfl
@[simp] theorem moveRange_host (s : State) (a b n : Nat) : (moveRange s a b n).host = s.host := rfl
@[simp] theorem moveRange_pwr (s : State) (a b n : Nat) : (moveRange s a b n).pwr = s.pwr := rfl
@[simp] theorem moveRange_hlth (s : State) (a b n : Nat) : (moveRange s a b n).hlth = s.hlth := rfl
@[simp] theorem moveRange_fw (s : State) (a b n : Nat) : (moveRange s a b n).fw = s.fw := rfl
@[simp] theorem moveRange_media (s : State) (a b n : Nat) : (moveRange s a b n).media = s.media := rfl
@[simp] theorem moveRange_fresh (s : State) (a b n : Nat) : (moveRange s a b n).fresh = s.fresh := rfl
@[simp] theorem moveRange_pending (s : State) (a b n : Nat) : (moveRange s a b n).pending = s.pending := rfl

@[simp] theorem setWithheld_variant (s : State) (i st : Nat) : (setWithheld s i st).variant = s.variant := rfl
@[simp] theorem setWithheld_ident (s : State) (i st : Nat) : (setWithheld s i st).ident = s.ident := rfl
@[simp] theorem setWithheld_dict (s : State) (i st : Nat) : (setWithheld s i st).dict = s.dict := rfl
@[simp] theorem setWithheld_hop (s : State) (i st : Nat) : (setWithheld s i st).hop = s.hop := rfl
@[simp] theorem setWithheld_mem (s : State) (i st : Nat) : (setWithheld s i st).mem = s.mem := rfl
@[simp] theorem setWithheld_fab (s : State) (i st : Nat) : (setWithheld s i st).fab = s.fab := rfl
@[simp] theorem setWithheld_host (s : State) (i st : Nat) : (setWithheld s i st).host = s.host := rfl
@[simp] theorem setWithheld_pwr (s : State) (i st : Nat) : (setWithheld s i st).pwr = s.pwr := rfl
@[simp] theorem setWithheld_hlth (s : State) (i st : Nat) : (setWithheld s i st).hlth = s.hlth := rfl
@[simp] theorem setWithheld_fw (s : State) (i st : Nat) : (setWithheld s i st).fw = s.fw := rfl
@[simp] theorem setWithheld_media (s : State) (i st : Nat) : (setWithheld s i st).media = s.media := rfl
@[simp] theorem setWithheld_fresh (s : State) (i st : Nat) : (setWithheld s i st).fresh = s.fresh := rfl
@[simp] theorem setWithheld_pending (s : State) (i st : Nat) : (setWithheld s i st).pending = s.pending := rfl

@[simp] theorem setTag_variant (s : State) (node : Nat) (t : BitVec 32) : (setTag s node t).variant = s.variant := rfl
@[simp] theorem setTag_ident (s : State) (node : Nat) (t : BitVec 32) : (setTag s node t).ident = s.ident := rfl
@[simp] theorem setTag_dict (s : State) (node : Nat) (t : BitVec 32) : (setTag s node t).dict = s.dict := rfl
@[simp] theorem setTag_hop (s : State) (node : Nat) (t : BitVec 32) : (setTag s node t).hop = s.hop := rfl
@[simp] theorem setTag_cores (s : State) (node : Nat) (t : BitVec 32) : (setTag s node t).cores = s.cores := rfl
@[simp] theorem setTag_mem (s : State) (node : Nat) (t : BitVec 32) : (setTag s node t).mem = s.mem := rfl
@[simp] theorem setTag_host (s : State) (node : Nat) (t : BitVec 32) : (setTag s node t).host = s.host := rfl
@[simp] theorem setTag_pwr (s : State) (node : Nat) (t : BitVec 32) : (setTag s node t).pwr = s.pwr := rfl
@[simp] theorem setTag_hlth (s : State) (node : Nat) (t : BitVec 32) : (setTag s node t).hlth = s.hlth := rfl
@[simp] theorem setTag_fw (s : State) (node : Nat) (t : BitVec 32) : (setTag s node t).fw = s.fw := rfl
@[simp] theorem setTag_media (s : State) (node : Nat) (t : BitVec 32) : (setTag s node t).media = s.media := rfl
@[simp] theorem setTag_fresh (s : State) (node : Nat) (t : BitVec 32) : (setTag s node t).fresh = s.fresh := rfl
@[simp] theorem setTag_pending (s : State) (node : Nat) (t : BitVec 32) : (setTag s node t).pending = s.pending := rfl

@[simp] theorem setCtx_variant (s : State) (engine ctx : Nat) (f : MediaCtx → MediaCtx) : (setCtx s engine ctx f).variant = s.variant :=
    rfl
@[simp] theorem setCtx_ident (s : State) (engine ctx : Nat) (f : MediaCtx → MediaCtx) : (setCtx s engine ctx f).ident = s.ident :=
    rfl
@[simp] theorem setCtx_dict (s : State) (engine ctx : Nat) (f : MediaCtx → MediaCtx) : (setCtx s engine ctx f).dict = s.dict :=
    rfl
@[simp] theorem setCtx_hop (s : State) (engine ctx : Nat) (f : MediaCtx → MediaCtx) : (setCtx s engine ctx f).hop = s.hop :=
    rfl
@[simp] theorem setCtx_cores (s : State) (engine ctx : Nat) (f : MediaCtx → MediaCtx) : (setCtx s engine ctx f).cores = s.cores :=
    rfl
@[simp] theorem setCtx_mem (s : State) (engine ctx : Nat) (f : MediaCtx → MediaCtx) : (setCtx s engine ctx f).mem = s.mem :=
    rfl
@[simp] theorem setCtx_fab (s : State) (engine ctx : Nat) (f : MediaCtx → MediaCtx) : (setCtx s engine ctx f).fab = s.fab :=
    rfl
@[simp] theorem setCtx_host (s : State) (engine ctx : Nat) (f : MediaCtx → MediaCtx) : (setCtx s engine ctx f).host = s.host :=
    rfl
@[simp] theorem setCtx_pwr (s : State) (engine ctx : Nat) (f : MediaCtx → MediaCtx) : (setCtx s engine ctx f).pwr = s.pwr :=
    rfl
@[simp] theorem setCtx_hlth (s : State) (engine ctx : Nat) (f : MediaCtx → MediaCtx) : (setCtx s engine ctx f).hlth = s.hlth :=
    rfl
@[simp] theorem setCtx_fw (s : State) (engine ctx : Nat) (f : MediaCtx → MediaCtx) : (setCtx s engine ctx f).fw = s.fw :=
    rfl
@[simp] theorem setCtx_fresh (s : State) (engine ctx : Nat) (f : MediaCtx → MediaCtx) : (setCtx s engine ctx f).fresh = s.fresh :=
    rfl
@[simp] theorem setCtx_pending (s : State) (engine ctx : Nat) (f : MediaCtx → MediaCtx) : (setCtx s engine ctx f).pending = s.pending :=
    rfl

@[simp] theorem setSlotState_variant (s : State) (i v : Nat) : (setSlotState s i v).variant = s.variant := rfl
@[simp] theorem setSlotState_ident (s : State) (i v : Nat) : (setSlotState s i v).ident = s.ident := rfl
@[simp] theorem setSlotState_hop (s : State) (i v : Nat) : (setSlotState s i v).hop = s.hop := rfl
@[simp] theorem setSlotState_cores (s : State) (i v : Nat) : (setSlotState s i v).cores = s.cores := rfl
@[simp] theorem setSlotState_mem (s : State) (i v : Nat) : (setSlotState s i v).mem = s.mem := rfl
@[simp] theorem setSlotState_fab (s : State) (i v : Nat) : (setSlotState s i v).fab = s.fab := rfl
@[simp] theorem setSlotState_host (s : State) (i v : Nat) : (setSlotState s i v).host = s.host := rfl
@[simp] theorem setSlotState_pwr (s : State) (i v : Nat) : (setSlotState s i v).pwr = s.pwr := rfl
@[simp] theorem setSlotState_hlth (s : State) (i v : Nat) : (setSlotState s i v).hlth = s.hlth := rfl
@[simp] theorem setSlotState_fw (s : State) (i v : Nat) : (setSlotState s i v).fw = s.fw := rfl
@[simp] theorem setSlotState_media (s : State) (i v : Nat) : (setSlotState s i v).media = s.media := rfl
@[simp] theorem setSlotState_fresh (s : State) (i v : Nat) : (setSlotState s i v).fresh = s.fresh := rfl
@[simp] theorem setSlotState_pending (s : State) (i v : Nat) : (setSlotState s i v).pending = s.pending := rfl

@[simp] theorem dropVolatile_variant (s : State) : (dropVolatile s).variant = s.variant := rfl
@[simp] theorem dropVolatile_ident (s : State) : (dropVolatile s).ident = s.ident := rfl
@[simp] theorem dropVolatile_hop (s : State) : (dropVolatile s).hop = s.hop := rfl
@[simp] theorem dropVolatile_cores (s : State) : (dropVolatile s).cores = s.cores := rfl
@[simp] theorem dropVolatile_mem (s : State) : (dropVolatile s).mem = s.mem := rfl
@[simp] theorem dropVolatile_fab (s : State) : (dropVolatile s).fab = s.fab := rfl
@[simp] theorem dropVolatile_host (s : State) : (dropVolatile s).host = s.host := rfl
@[simp] theorem dropVolatile_pwr (s : State) : (dropVolatile s).pwr = s.pwr := rfl
@[simp] theorem dropVolatile_hlth (s : State) : (dropVolatile s).hlth = s.hlth := rfl
@[simp] theorem dropVolatile_fw (s : State) : (dropVolatile s).fw = s.fw := rfl
@[simp] theorem dropVolatile_media (s : State) : (dropVolatile s).media = s.media := rfl
@[simp] theorem dropVolatile_fresh (s : State) : (dropVolatile s).fresh = s.fresh := rfl
@[simp] theorem dropVolatile_pending (s : State) : (dropVolatile s).pending = s.pending := rfl

@[simp] theorem dropWarm_variant (s : State) (cold : Bool) : (dropWarm s cold).variant = s.variant := rfl
@[simp] theorem dropWarm_ident (s : State) (cold : Bool) : (dropWarm s cold).ident = s.ident := rfl
@[simp] theorem dropWarm_hop (s : State) (cold : Bool) : (dropWarm s cold).hop = s.hop := rfl
@[simp] theorem dropWarm_cores (s : State) (cold : Bool) : (dropWarm s cold).cores = s.cores := rfl
@[simp] theorem dropWarm_mem (s : State) (cold : Bool) : (dropWarm s cold).mem = s.mem := rfl
@[simp] theorem dropWarm_fab (s : State) (cold : Bool) : (dropWarm s cold).fab = s.fab := rfl
@[simp] theorem dropWarm_host (s : State) (cold : Bool) : (dropWarm s cold).host = s.host := rfl
@[simp] theorem dropWarm_pwr (s : State) (cold : Bool) : (dropWarm s cold).pwr = s.pwr := rfl
@[simp] theorem dropWarm_hlth (s : State) (cold : Bool) : (dropWarm s cold).hlth = s.hlth := rfl
@[simp] theorem dropWarm_fw (s : State) (cold : Bool) : (dropWarm s cold).fw = s.fw := rfl
@[simp] theorem dropWarm_media (s : State) (cold : Bool) : (dropWarm s cold).media = s.media := rfl
@[simp] theorem dropWarm_fresh (s : State) (cold : Bool) : (dropWarm s cold).fresh = s.fresh := rfl
@[simp] theorem dropWarm_pending (s : State) (cold : Bool) : (dropWarm s cold).pending = s.pending := rfl

@[simp] theorem wipeHopper_variant (s : State) : (wipeHopper s).variant = s.variant := rfl
@[simp] theorem wipeHopper_ident (s : State) : (wipeHopper s).ident = s.ident := rfl
@[simp] theorem wipeHopper_dict (s : State) : (wipeHopper s).dict = s.dict := rfl
@[simp] theorem wipeHopper_cores (s : State) : (wipeHopper s).cores = s.cores := rfl
@[simp] theorem wipeHopper_mem (s : State) : (wipeHopper s).mem = s.mem := rfl
@[simp] theorem wipeHopper_fab (s : State) : (wipeHopper s).fab = s.fab := rfl
@[simp] theorem wipeHopper_host (s : State) : (wipeHopper s).host = s.host := rfl
@[simp] theorem wipeHopper_pwr (s : State) : (wipeHopper s).pwr = s.pwr := rfl
@[simp] theorem wipeHopper_hlth (s : State) : (wipeHopper s).hlth = s.hlth := rfl
@[simp] theorem wipeHopper_fw (s : State) : (wipeHopper s).fw = s.fw := rfl
@[simp] theorem wipeHopper_media (s : State) : (wipeHopper s).media = s.media := rfl
@[simp] theorem wipeHopper_fresh (s : State) : (wipeHopper s).fresh = s.fresh := rfl
@[simp] theorem wipeHopper_pending (s : State) : (wipeHopper s).pending = s.pending := rfl

@[simp] theorem wipeCores_variant (s : State) : (wipeCores s).variant = s.variant := rfl
@[simp] theorem wipeCores_ident (s : State) : (wipeCores s).ident = s.ident := rfl
@[simp] theorem wipeCores_dict (s : State) : (wipeCores s).dict = s.dict := rfl
@[simp] theorem wipeCores_hop (s : State) : (wipeCores s).hop = s.hop := rfl
@[simp] theorem wipeCores_mem (s : State) : (wipeCores s).mem = s.mem := rfl
@[simp] theorem wipeCores_fab (s : State) : (wipeCores s).fab = s.fab := rfl
@[simp] theorem wipeCores_host (s : State) : (wipeCores s).host = s.host := rfl
@[simp] theorem wipeCores_pwr (s : State) : (wipeCores s).pwr = s.pwr := rfl
@[simp] theorem wipeCores_hlth (s : State) : (wipeCores s).hlth = s.hlth := rfl
@[simp] theorem wipeCores_fw (s : State) : (wipeCores s).fw = s.fw := rfl
@[simp] theorem wipeCores_pending (s : State) : (wipeCores s).pending = s.pending := rfl

@[simp] theorem wipeMemory_variant (s : State) : (wipeMemory s).variant = s.variant := rfl
@[simp] theorem wipeMemory_ident (s : State) : (wipeMemory s).ident = s.ident := rfl
@[simp] theorem wipeMemory_dict (s : State) : (wipeMemory s).dict = s.dict := rfl
@[simp] theorem wipeMemory_hop (s : State) : (wipeMemory s).hop = s.hop := rfl
@[simp] theorem wipeMemory_cores (s : State) : (wipeMemory s).cores = s.cores := rfl
@[simp] theorem wipeMemory_fab (s : State) : (wipeMemory s).fab = s.fab := rfl
@[simp] theorem wipeMemory_host (s : State) : (wipeMemory s).host = s.host := rfl
@[simp] theorem wipeMemory_pwr (s : State) : (wipeMemory s).pwr = s.pwr := rfl
@[simp] theorem wipeMemory_hlth (s : State) : (wipeMemory s).hlth = s.hlth := rfl
@[simp] theorem wipeMemory_fw (s : State) : (wipeMemory s).fw = s.fw := rfl
@[simp] theorem wipeMemory_media (s : State) : (wipeMemory s).media = s.media := rfl
@[simp] theorem wipeMemory_fresh (s : State) : (wipeMemory s).fresh = s.fresh := rfl
@[simp] theorem wipeMemory_pending (s : State) : (wipeMemory s).pending = s.pending := rfl

@[simp] theorem wipeFabric_variant (s : State) : (wipeFabric s).variant = s.variant := rfl
@[simp] theorem wipeFabric_ident (s : State) : (wipeFabric s).ident = s.ident := rfl
@[simp] theorem wipeFabric_dict (s : State) : (wipeFabric s).dict = s.dict := rfl
@[simp] theorem wipeFabric_hop (s : State) : (wipeFabric s).hop = s.hop := rfl
@[simp] theorem wipeFabric_cores (s : State) : (wipeFabric s).cores = s.cores := rfl
@[simp] theorem wipeFabric_mem (s : State) : (wipeFabric s).mem = s.mem := rfl
@[simp] theorem wipeFabric_host (s : State) : (wipeFabric s).host = s.host := rfl
@[simp] theorem wipeFabric_pwr (s : State) : (wipeFabric s).pwr = s.pwr := rfl
@[simp] theorem wipeFabric_hlth (s : State) : (wipeFabric s).hlth = s.hlth := rfl
@[simp] theorem wipeFabric_fw (s : State) : (wipeFabric s).fw = s.fw := rfl
@[simp] theorem wipeFabric_media (s : State) : (wipeFabric s).media = s.media := rfl
@[simp] theorem wipeFabric_fresh (s : State) : (wipeFabric s).fresh = s.fresh := rfl
@[simp] theorem wipeFabric_pending (s : State) : (wipeFabric s).pending = s.pending := rfl

@[simp] theorem finishRun_variant (s : State) (ring status : Nat) (acts : List CommitAct) (wrote : List (Nat × Nat))
    (results : List (Nat × List Byte)) (reserve : List PageRes) : (finishRun s ring status acts wrote results reserve).variant = s.variant :=
    rfl
@[simp] theorem finishRun_ident (s : State) (ring status : Nat) (acts : List CommitAct) (wrote : List (Nat × Nat))
    (results : List (Nat × List Byte)) (reserve : List PageRes) : (finishRun s ring status acts wrote results reserve).ident = s.ident :=
    rfl
@[simp] theorem finishRun_dict (s : State) (ring status : Nat) (acts : List CommitAct) (wrote : List (Nat × Nat))
    (results : List (Nat × List Byte)) (reserve : List PageRes) : (finishRun s ring status acts wrote results reserve).dict = s.dict :=
    rfl
@[simp] theorem finishRun_cores (s : State) (ring status : Nat) (acts : List CommitAct) (wrote : List (Nat × Nat))
    (results : List (Nat × List Byte)) (reserve : List PageRes) : (finishRun s ring status acts wrote results reserve).cores = s.cores :=
    rfl
@[simp] theorem finishRun_mem (s : State) (ring status : Nat) (acts : List CommitAct) (wrote : List (Nat × Nat))
    (results : List (Nat × List Byte)) (reserve : List PageRes) : (finishRun s ring status acts wrote results reserve).mem = s.mem :=
    rfl
@[simp] theorem finishRun_fab (s : State) (ring status : Nat) (acts : List CommitAct) (wrote : List (Nat × Nat))
    (results : List (Nat × List Byte)) (reserve : List PageRes) : (finishRun s ring status acts wrote results reserve).fab = s.fab :=
    rfl
@[simp] theorem finishRun_host (s : State) (ring status : Nat) (acts : List CommitAct) (wrote : List (Nat × Nat))
    (results : List (Nat × List Byte)) (reserve : List PageRes) : (finishRun s ring status acts wrote results reserve).host = s.host :=
    rfl
@[simp] theorem finishRun_pwr (s : State) (ring status : Nat) (acts : List CommitAct) (wrote : List (Nat × Nat))
    (results : List (Nat × List Byte)) (reserve : List PageRes) : (finishRun s ring status acts wrote results reserve).pwr = s.pwr :=
    rfl
@[simp] theorem finishRun_hlth (s : State) (ring status : Nat) (acts : List CommitAct) (wrote : List (Nat × Nat))
    (results : List (Nat × List Byte)) (reserve : List PageRes) : (finishRun s ring status acts wrote results reserve).hlth = s.hlth :=
    rfl
@[simp] theorem finishRun_fw (s : State) (ring status : Nat) (acts : List CommitAct) (wrote : List (Nat × Nat))
    (results : List (Nat × List Byte)) (reserve : List PageRes) : (finishRun s ring status acts wrote results reserve).fw = s.fw :=
    rfl
@[simp] theorem finishRun_media (s : State) (ring status : Nat) (acts : List CommitAct) (wrote : List (Nat × Nat))
    (results : List (Nat × List Byte)) (reserve : List PageRes) : (finishRun s ring status acts wrote results reserve).media = s.media :=
    rfl
@[simp] theorem finishRun_pending (s : State) (ring status : Nat) (acts : List CommitAct) (wrote : List (Nat × Nat))
    (results : List (Nat × List Byte)) (reserve : List PageRes) : (finishRun s ring status acts wrote results reserve).pending = s.pending :=
    rfl

@[simp] theorem winSet_variant (s : State) (w sub v : Nat) : (winSet s w sub v).variant = s.variant := rfl
@[simp] theorem winSet_ident (s : State) (w sub v : Nat) : (winSet s w sub v).ident = s.ident := rfl
@[simp] theorem winSet_hop (s : State) (w sub v : Nat) : (winSet s w sub v).hop = s.hop := rfl
@[simp] theorem winSet_cores (s : State) (w sub v : Nat) : (winSet s w sub v).cores = s.cores := rfl
@[simp] theorem winSet_mem (s : State) (w sub v : Nat) : (winSet s w sub v).mem = s.mem := rfl
@[simp] theorem winSet_fab (s : State) (w sub v : Nat) : (winSet s w sub v).fab = s.fab := rfl
@[simp] theorem winSet_host (s : State) (w sub v : Nat) : (winSet s w sub v).host = s.host := rfl
@[simp] theorem winSet_pwr (s : State) (w sub v : Nat) : (winSet s w sub v).pwr = s.pwr := rfl
@[simp] theorem winSet_hlth (s : State) (w sub v : Nat) : (winSet s w sub v).hlth = s.hlth := rfl
@[simp] theorem winSet_fw (s : State) (w sub v : Nat) : (winSet s w sub v).fw = s.fw := rfl
@[simp] theorem winSet_media (s : State) (w sub v : Nat) : (winSet s w sub v).media = s.media := rfl
@[simp] theorem winSet_fresh (s : State) (w sub v : Nat) : (winSet s w sub v).fresh = s.fresh := rfl
@[simp] theorem winSet_pending (s : State) (w sub v : Nat) : (winSet s w sub v).pending = s.pending := rfl

@[simp] theorem falyndiOut_variant (s : State) (vc : Nat) (p : Packet) : (falyndiOut s vc p).variant = s.variant := rfl
@[simp] theorem falyndiOut_ident (s : State) (vc : Nat) (p : Packet) : (falyndiOut s vc p).ident = s.ident := rfl
@[simp] theorem falyndiOut_dict (s : State) (vc : Nat) (p : Packet) : (falyndiOut s vc p).dict = s.dict := rfl
@[simp] theorem falyndiOut_hop (s : State) (vc : Nat) (p : Packet) : (falyndiOut s vc p).hop = s.hop := rfl
@[simp] theorem falyndiOut_cores (s : State) (vc : Nat) (p : Packet) : (falyndiOut s vc p).cores = s.cores := rfl
@[simp] theorem falyndiOut_mem (s : State) (vc : Nat) (p : Packet) : (falyndiOut s vc p).mem = s.mem := rfl
@[simp] theorem falyndiOut_fab (s : State) (vc : Nat) (p : Packet) : (falyndiOut s vc p).fab = s.fab := rfl
@[simp] theorem falyndiOut_pwr (s : State) (vc : Nat) (p : Packet) : (falyndiOut s vc p).pwr = s.pwr := rfl
@[simp] theorem falyndiOut_hlth (s : State) (vc : Nat) (p : Packet) : (falyndiOut s vc p).hlth = s.hlth := rfl
@[simp] theorem falyndiOut_fw (s : State) (vc : Nat) (p : Packet) : (falyndiOut s vc p).fw = s.fw := rfl
@[simp] theorem falyndiOut_media (s : State) (vc : Nat) (p : Packet) : (falyndiOut s vc p).media = s.media := rfl
@[simp] theorem falyndiOut_fresh (s : State) (vc : Nat) (p : Packet) : (falyndiOut s vc p).fresh = s.fresh := rfl
@[simp] theorem falyndiOut_pending (s : State) (vc : Nat) (p : Packet) : (falyndiOut s vc p).pending = s.pending := rfl

@[simp] theorem holdHost_variant (s : State) (x : HostAccess) : (holdHost s x).variant = s.variant := rfl
@[simp] theorem holdHost_ident (s : State) (x : HostAccess) : (holdHost s x).ident = s.ident := rfl
@[simp] theorem holdHost_dict (s : State) (x : HostAccess) : (holdHost s x).dict = s.dict := rfl
@[simp] theorem holdHost_hop (s : State) (x : HostAccess) : (holdHost s x).hop = s.hop := rfl
@[simp] theorem holdHost_cores (s : State) (x : HostAccess) : (holdHost s x).cores = s.cores := rfl
@[simp] theorem holdHost_mem (s : State) (x : HostAccess) : (holdHost s x).mem = s.mem := rfl
@[simp] theorem holdHost_fab (s : State) (x : HostAccess) : (holdHost s x).fab = s.fab := rfl
@[simp] theorem holdHost_pwr (s : State) (x : HostAccess) : (holdHost s x).pwr = s.pwr := rfl
@[simp] theorem holdHost_hlth (s : State) (x : HostAccess) : (holdHost s x).hlth = s.hlth := rfl
@[simp] theorem holdHost_fw (s : State) (x : HostAccess) : (holdHost s x).fw = s.fw := rfl
@[simp] theorem holdHost_media (s : State) (x : HostAccess) : (holdHost s x).media = s.media := rfl
@[simp] theorem holdHost_fresh (s : State) (x : HostAccess) : (holdHost s x).fresh = s.fresh := rfl
@[simp] theorem holdHost_pending (s : State) (x : HostAccess) : (holdHost s x).pending = s.pending := rfl

@[simp] theorem dropHost_variant (s : State) : (dropHost s).variant = s.variant := rfl
@[simp] theorem dropHost_ident (s : State) : (dropHost s).ident = s.ident := rfl
@[simp] theorem dropHost_dict (s : State) : (dropHost s).dict = s.dict := rfl
@[simp] theorem dropHost_hop (s : State) : (dropHost s).hop = s.hop := rfl
@[simp] theorem dropHost_cores (s : State) : (dropHost s).cores = s.cores := rfl
@[simp] theorem dropHost_mem (s : State) : (dropHost s).mem = s.mem := rfl
@[simp] theorem dropHost_fab (s : State) : (dropHost s).fab = s.fab := rfl
@[simp] theorem dropHost_pwr (s : State) : (dropHost s).pwr = s.pwr := rfl
@[simp] theorem dropHost_hlth (s : State) : (dropHost s).hlth = s.hlth := rfl
@[simp] theorem dropHost_fw (s : State) : (dropHost s).fw = s.fw := rfl
@[simp] theorem dropHost_media (s : State) : (dropHost s).media = s.media := rfl
@[simp] theorem dropHost_fresh (s : State) : (dropHost s).fresh = s.fresh := rfl
@[simp] theorem dropHost_pending (s : State) : (dropHost s).pending = s.pending := rfl

@[simp] theorem withMaps_variant (s : State) (l : List Mapping) : (withMaps s l).variant = s.variant := rfl
@[simp] theorem withMaps_ident (s : State) (l : List Mapping) : (withMaps s l).ident = s.ident := rfl
@[simp] theorem withMaps_dict (s : State) (l : List Mapping) : (withMaps s l).dict = s.dict := rfl
@[simp] theorem withMaps_hop (s : State) (l : List Mapping) : (withMaps s l).hop = s.hop := rfl
@[simp] theorem withMaps_cores (s : State) (l : List Mapping) : (withMaps s l).cores = s.cores := rfl
@[simp] theorem withMaps_fab (s : State) (l : List Mapping) : (withMaps s l).fab = s.fab := rfl
@[simp] theorem withMaps_host (s : State) (l : List Mapping) : (withMaps s l).host = s.host := rfl
@[simp] theorem withMaps_pwr (s : State) (l : List Mapping) : (withMaps s l).pwr = s.pwr := rfl
@[simp] theorem withMaps_hlth (s : State) (l : List Mapping) : (withMaps s l).hlth = s.hlth := rfl
@[simp] theorem withMaps_fw (s : State) (l : List Mapping) : (withMaps s l).fw = s.fw := rfl
@[simp] theorem withMaps_media (s : State) (l : List Mapping) : (withMaps s l).media = s.media := rfl
@[simp] theorem withMaps_fresh (s : State) (l : List Mapping) : (withMaps s l).fresh = s.fresh := rfl
@[simp] theorem withMaps_pending (s : State) (l : List Mapping) : (withMaps s l).pending = s.pending := rfl

@[simp] theorem dropLine_variant (s : State) (addr : Nat) : (dropLine s addr).variant = s.variant := rfl
@[simp] theorem dropLine_ident (s : State) (addr : Nat) : (dropLine s addr).ident = s.ident := rfl
@[simp] theorem dropLine_dict (s : State) (addr : Nat) : (dropLine s addr).dict = s.dict := rfl
@[simp] theorem dropLine_hop (s : State) (addr : Nat) : (dropLine s addr).hop = s.hop := rfl
@[simp] theorem dropLine_cores (s : State) (addr : Nat) : (dropLine s addr).cores = s.cores := rfl
@[simp] theorem dropLine_fab (s : State) (addr : Nat) : (dropLine s addr).fab = s.fab := rfl
@[simp] theorem dropLine_host (s : State) (addr : Nat) : (dropLine s addr).host = s.host := rfl
@[simp] theorem dropLine_pwr (s : State) (addr : Nat) : (dropLine s addr).pwr = s.pwr := rfl
@[simp] theorem dropLine_hlth (s : State) (addr : Nat) : (dropLine s addr).hlth = s.hlth := rfl
@[simp] theorem dropLine_fw (s : State) (addr : Nat) : (dropLine s addr).fw = s.fw := rfl
@[simp] theorem dropLine_media (s : State) (addr : Nat) : (dropLine s addr).media = s.media := rfl
@[simp] theorem dropLine_fresh (s : State) (addr : Nat) : (dropLine s addr).fresh = s.fresh := rfl
@[simp] theorem dropLine_pending (s : State) (addr : Nat) : (dropLine s addr).pending = s.pending := rfl

@[simp] theorem holdHost_fhaBuf (s : State) (x : HostAccess) : (holdHost s x).host.fhaBuf = s.host.fhaBuf ++ [x] := rfl
@[simp] theorem dropHost_dropped (s : State) : (dropHost s).host.dropped = s.host.dropped + 1 := rfl
@[simp] theorem falyndiOut_msix (s : State) (vc : Nat) (p : Packet) : (falyndiOut s vc p).host.msix = s.host.msix := rfl
@[simp] theorem withMaps_maps (s : State) (l : List Mapping) : (withMaps s l).mem.maps = s.mem.maps ++ l := rfl
@[simp] theorem withMaps_bytes (s : State) (l : List Mapping) : (withMaps s l).mem.bytes = s.mem.bytes := rfl
@[simp] theorem dropLine_bytes (s : State) (addr : Nat) : (dropLine s addr).mem.bytes = s.mem.bytes := rfl
@[simp] theorem tickFresh_fresh (s : State) : (tickFresh s).fresh = s.fresh + 1 := rfl
@[simp] theorem dSet_dict (s : State) (k v : Nat) :
    (dSet s k v).dict = tableSet (dictDefault s.variant) k (BitVec.ofNat 64 v) s.dict := rfl
@[simp] theorem setFlight_inflight (s : State) (ring : Nat) (f : InFlight → InFlight) :
    (setFlight s ring f).hop.inflight = modifyFirst (fun c => c.ring == ring) f s.hop.inflight := rfl
@[simp] theorem setFlight_rings (s : State) (ring : Nat) (f : InFlight → InFlight) :
    (setFlight s ring f).hop.rings = s.hop.rings := rfl
@[simp] theorem setFlight_tallies (s : State) (ring : Nat) (f : InFlight → InFlight) :
    (setFlight s ring f).hop.tallies = s.hop.tallies := rfl
@[simp] theorem store_maps (s : State) (a : Nat) (bs : List Byte) : (store s a bs).mem.maps = s.mem.maps := rfl
@[simp] theorem store_undef (s : State) (a : Nat) (bs : List Byte) : (store s a bs).mem.undef = s.mem.undef := rfl
@[simp] theorem reset_pending : State.reset.pending = [] := rfl

/-- A dictionary value reads as written (canonical store). -/
theorem dGet_dSet_same (s : State) (k v : Nat) (h : tableWf (dictDefault s.variant) s.dict = true) :
    dGet (dSet s k v) k = v % 2 ^ 64 := by
  unfold dGet
  rw [dSet_variant, dSet_dict, tableGet_tableSet_same _ _ _ _ h, BitVec.toNat_ofNat]

/-- Every other dictionary value reads as before. -/
theorem dGet_dSet_other (s : State) (k j v : Nat) (hj : j ≠ k) (h : tableWf (dictDefault s.variant) s.dict = true) :
    dGet (dSet s k v) j = dGet s j := by
  unfold dGet
  rw [dSet_variant, dSet_dict, tableGet_tableSet_other _ _ _ _ _ hj h]

end Sys2Proof.Machine
end

