-- ==== Sys2Proof/Laws/Frames.lean ====
section
/-! SUPPORT. What the operations that a plan is carried out with leave alone: the hopper's state (rings, commands in flight, segments,
ledger, tallies) does not change while a plan makes its accesses. -/

namespace Sys2Proof.Machine

theorem countP_hop (s : State) (index part n : Nat) : (countP s index part n).hop = s.hop := by
  unfold countP count dAdd; repeat' split
  all_goals simp

theorem count_hop (s : State) (index sub n : Nat) : (count s index sub n).hop = s.hop := by
  unfold count dAdd; repeat' split
  all_goals simp

theorem countT_hop (s : State) (index n : Nat) : (countT s index n).hop = s.hop := by
  unfold countT dAdd; repeat' split
  all_goals simp

theorem fold_hop {α : Type} (f : State → α → State) (hf : ∀ s x, (f s x).hop = s.hop) (l : List α)
    (s : State) : (l.foldl f s).hop = s.hop :=
  l.foldlRecOn (motive := fun t => t.hop = s.hop) f rfl (fun t g x _ => (hf t x).trans g)

theorem touchLine_hop (o : Option Nat) (w : Bool) (s : State) (l : Nat) : (touchLine o w s l).hop = s.hop := by
  unfold touchLine; dsimp only
  split <;> cases o <;> simp only [countP_hop, countT_hop]

theorem touchWhole_hop (o : Option Nat) (s : State) (l : Nat) : (touchWhole o s l).hop = s.hop := touchLine_hop _ _ _ _

theorem touchPart_hop (o : Option Nat) (m : Nat) (s : State) (l : Nat) : (touchPart o m s l).hop = s.hop := by
  unfold touchPart; dsimp only
  split
  · exact touchLine_hop _ _ _ _
  · cases o <;> simp only [countP_hop, countT_hop]

theorem touchRange_hop (o : Option Nat) (w : Bool) (s : State) (a n : Nat) : (touchRange o w s a n).hop = s.hop := by
  unfold touchRange; split
  · refine fold_hop _ (fun s l => ?_) _ _
    repeat' split
    · exact touchWhole_hop _ _ _
    · exact touchPart_hop _ _ _ _
    · exact touchLine_hop _ _ _ _
  · rfl

theorem touchAll_hop (part : Nat) (w : Bool) (l : List (Nat × Nat)) : ∀ s, (touchAll part w s l).hop = s.hop := by
  induction l with
  | nil => intro s; rfl
  | cons x t ih => intro s; unfold touchAll; rw [ih, touchRange_hop]

theorem xlatTouch_hop (agent part : Nat) (s : State) (l : List (Nat × Nat)) : (xlatTouch s agent part l).hop = s.hop := by
  refine fold_hop _ (fun s m => ?_) _ _
  unfold xlatPage; split
  · rfl
  · exact countP_hop _ _ _ _

theorem undefine_hop (l : List (Nat × Nat)) : ∀ s, (undefine s l).hop = s.hop := by
  induction l with
  | nil => intro s; rfl
  | cons x t ih => intro s; unfold undefine; rw [ih]; simp

theorem addCounts_hop (l : List (Nat × Nat)) : ∀ s, (addCounts s l).hop = s.hop := by
  induction l with
  | nil => intro s; rfl
  | cons x t ih => intro s; unfold addCounts; rw [ih]; unfold dAdd; repeat' split
                   all_goals simp

theorem meter_hop (c : InFlight) (l : List (Nat × Nat)) (s : State) : (meter c l s).hop = s.hop := by
  refine fold_hop _ (fun s b => ?_) _ _
  dsimp only; split <;> rfl

theorem zeroPages_hop (l : List Mapping) : ∀ s, (zeroPages s l).hop = s.hop := by
  induction l with
  | nil => intro s; rfl
  | cons x t ih => intro s; unfold zeroPages; rw [ih]; split <;> rfl

theorem setLink_hop (s : State) (i : Nat) (l : Link) : (setLink s i l).hop = s.hop := by
  unfold setLink; split <;> rfl

theorem linkCount_hop (s : State) (i k f n : Nat) : (linkCount s i k f n).hop = s.hop := by
  unfold linkCount; repeat' split
  · rfl
  · exact countT_hop _ _ _
  · exact count_hop _ _ _ _

theorem pumpRun_hop (i : Nat) : ∀ (n : Nat) (s : State), (pumpRun i n s).hop = s.hop := by
  intro n
  induction n with
  | zero => intro s; rfl
  | succ n ih =>
    intro s; unfold pumpRun; dsimp only
    repeat' split
    all_goals simp only [ih, count_hop, linkCount_hop, setLink_hop]

theorem pump_hop (s : State) (i : Nat) : (pump s i).hop = s.hop := by
  unfold pump expireQueue; dsimp only
  rw [pumpRun_hop]; split
  · rfl
  · rw [countT_hop, setLink_hop]

theorem launch_hop (s : State) (port vc r : Nat) (p : Packet) : (launch s port vc r p).hop = s.hop := by
  unfold launch; dsimp only; split
  · unfold dropExpired; exact countT_hop _ _ _
  · unfold putOut enqueue; dsimp only; rw [pump_hop]; exact setLink_hop _ _ _

theorem sendPacket_hop (s : State) (p : Packet) : (sendPacket s p).hop = s.hop := by
  unfold sendPacket; split
  · exact launch_hop _ _ _ _ _
  · rfl
  · dsimp only
    repeat' split
    all_goals simp only [countT_hop]

theorem issueTo_hop (node : Nat) : ∀ (n : Nat) (s : State), (issueTo node n s).hop = s.hop := by
  intro n
  induction n with
  | zero => intro s; rfl
  | succ n ih =>
    intro s; unfold issueTo; repeat' split
    all_goals first | rfl | (dsimp only; rw [ih, sendPacket_hop])

theorem ask_hop (s : State) (ring : Option Nat) (a : Ask) : (ask s ring a).hop = s.hop := by
  unfold ask issueAll; dsimp only; split
  · rfl
  · rw [issueTo_hop]; rfl

theorem asks_hop (ring : Option Nat) (l : List Ask) : ∀ s, (asks ring s l).hop = s.hop := by
  induction l with
  | nil => intro s; rfl
  | cons x t ih => intro s; unfold asks; rw [ih, ask_hop]

/-- The accesses of a plan that takes no page off a pool's stacks leave the hopper as it is. -/
theorem planStores_hop (s : State) (w : Who) (c : InFlight) (p : Plan) (t : Touched) (h : p.reserve = []) :
    (planStores s w c p t).hop = s.hop := by
  unfold planStores
  dsimp only
  rw [asks_hop, h]
  show (addCounts _ _).hop = _
  rw [addCounts_hop, meter_hop, undefine_hop, touchAll_hop, touchAll_hop,
    fold_hop _ (fun s a => xlatTouch_hop a c.part s p.ranges), zeroPages_hop]
  rfl

/-- With no injection armed, no access fires one (R430). -/
theorem takeInjection_none {s : State} (h : s.hlth.injections = []) (p : Injection → Bool) : takeInjection s p = none := by
  unfold takeInjection; rw [h]; rfl

@[simp] theorem fireInjection_none {s : State} (h : s.hlth.injections = []) (part : Nat) (p : Injection → Bool) :
    fireInjection s part p = s := by
  unfold fireInjection; rw [takeInjection_none h]

@[simp] theorem fireRead_none {s : State} (h : s.hlth.injections = []) (a n : Nat) : fireRead s a n = s := by
  simp [fireRead, takeInjection_none h]

@[simp] theorem fireFed_none {s : State} (h : s.hlth.injections = []) (agent : Nat) (x : Nat × Nat × Nat) :
    fireFed s agent x = s := by
  unfold fireFed; split
  · rfl
  · exact fireInjection_none h _ _

/-- The command in flight on a ring after an update of its record. -/
theorem flightOf_setFlight (s : State) (ring : Nat) (f : InFlight → InFlight) (hf : ∀ c, (f c).ring = c.ring) :
    flightOf (setFlight s ring f) ring = (flightOf s ring).map f := by
  unfold flightOf setFlight
  dsimp only
  generalize s.hop.inflight = l
  induction l with
  | nil => rfl
  | cons y l ih =>
    unfold modifyFirst
    split
    · rename_i hy
      rw [List.find?_cons_of_pos, List.find?_cons_of_pos (by simpa using hy)]
      · rfl
      · rw [hf]; exact hy
    · rename_i hy
      rw [List.find?_cons_of_neg (by simpa using hy), List.find?_cons_of_neg (by simpa using hy)]; exact ih

end Sys2Proof.Machine
end

