-- ==== Sys2Proof/Laws/Memory.lean ====
section
/-! SUPPORT. Laws of memory: every memory operation keeps the canonical form, a byte reads as written, and every other
byte reads as before. -/

namespace Sys2Proof.Machine

/-! ### Lists of cells -/

theorem memSet_wf (u : List (Nat × Nat × Nat)) (k : Nat) (b : Byte) (m : List Host.Cell) (h : Memory.wf u m) :
    Memory.wf u (memSet u k b m) := tableSet_wf _ k b m h

theorem memSets_wf (u : List (Nat × Nat × Nat)) (bs : List Byte) :
    ∀ (k : Nat) (m : List Host.Cell), Memory.wf u m → Memory.wf u (memSets u k bs m) := by
  induction bs with
  | nil => intro k m h; exact h
  | cons b t ih => intro k m h; exact ih (k + 1) _ (memSet_wf u k b m h)

/-- The byte written at a key is read there. -/
theorem memSet_read (u : List (Nat × Nat × Nat)) (k : Nat) (b : Byte) (m : List Host.Cell) (h : Memory.wf u m) :
    tableGet (memDefault u) (memSet u k b m) k = b := tableGet_tableSet_same _ k b m h

/-- Every other key reads as before. -/
theorem memSet_other (u : List (Nat × Nat × Nat)) (k j : Nat) (b : Byte) (m : List Host.Cell) (hj : j ≠ k)
    (h : Memory.wf u m) : tableGet (memDefault u) (memSet u k b m) j = tableGet (memDefault u) m j :=
  tableGet_tableSet_other _ k j b m hj h

/-- Keys outside the written ones read as before. -/
theorem memSets_other (u : List (Nat × Nat × Nat)) (j : Nat) (bs : List Byte) :
    ∀ (k : Nat) (m : List Host.Cell), (j < k ∨ k + bs.length ≤ j) → Memory.wf u m →
      tableGet (memDefault u) (memSets u k bs m) j = tableGet (memDefault u) m j := by
  induction bs with
  | nil => intro k m _ _; rfl
  | cons b t ih =>
    intro k m hj h
    simp only [List.length_cons] at hj
    rw [memSets, ih (k + 1) _ (by omega) (memSet_wf u k b m h), memSet_other u k j b m (by omega) h]

/-- The written keys read as written. -/
theorem memSets_read (u : List (Nat × Nat × Nat)) (bs : List Byte) :
    ∀ (k i : Nat) (m : List Host.Cell), i < bs.length → Memory.wf u m →
      tableGet (memDefault u) (memSets u k bs m) (k + i) = bs.getD i 0 := by
  induction bs with
  | nil => intro k i m hi _; exact absurd hi (Nat.not_lt_zero _)
  | cons b t ih =>
    intro k i m hi h
    have hw := memSet_wf u k b m h
    cases i with
    | zero =>
      have h0 := memSets_other u k t (k + 1) _ (by omega) hw
      rw [memSet_read u k b m h] at h0
      exact h0
    | succ i =>
      have : k + (i + 1) = k + 1 + i := by omega
      rw [memSets, this, ih (k + 1) i _ (by simpa using hi) hw]
      rfl

/-- Outside a carved range the undefined ranges are as before. -/
theorem memDefault_carve (k n x : Nat) (u : List (Nat × Nat × Nat)) (hx : ¬(k ≤ x ∧ x < k + n)) :
    memDefault (carve k n u) x = memDefault u x := by
  have key : (carve k n u).find? (fun r => decide (r.1 ≤ x ∧ x < r.1 + r.2.1)) = none ∧
        u.find? (fun r => decide (r.1 ≤ x ∧ x < r.1 + r.2.1)) = none ∨
      ∃ r r', (carve k n u).find? (fun r => decide (r.1 ≤ x ∧ x < r.1 + r.2.1)) = some r ∧
        u.find? (fun r => decide (r.1 ≤ x ∧ x < r.1 + r.2.1)) = some r' ∧ r.2.2 = r'.2.2 := by
    induction u with
    | nil => exact Or.inl ⟨rfl, rfl⟩
    | cons r u ih =>
      obtain ⟨a, l, g⟩ := r
      have hc : carve k n ((a, l, g) :: u) =
          ((if a < k then [(a, min l (k - a), g)] else []) ++
            (if k + n < a + l then [(max a (k + n), a + l - max a (k + n), g)] else [])) ++ carve k n u := rfl
      rw [hc, List.find?_append]
      by_cases hin : a ≤ x ∧ x < a + l
      · refine Or.inr ?_
        have h2 : ((a, l, g) :: u).find? (fun r => decide (r.1 ≤ x ∧ x < r.1 + r.2.1)) = some (a, l, g) := by
          simp [hin]
        rw [h2]
        by_cases hlt : x < k
        · have h1 : a < k := by omega
          have h3 : x < a + min l (k - a) := by omega
          exact ⟨(a, min l (k - a), g), (a, l, g), by simp [h1, hin.1, h3], rfl, rfl⟩
        · have h1 : k + n < a + l := by omega
          have h3 : max a (k + n) ≤ x := by omega
          have h4 : x < max a (k + n) + (a + l - max a (k + n)) := by omega
          refine ⟨(max a (k + n), a + l - max a (k + n), g), (a, l, g), ?_, rfl, rfl⟩
          by_cases h5 : a < k
          · have h6 : ¬ x < a + min l (k - a) := by omega
            simp only [h5, h1, if_true, List.cons_append, List.nil_append, List.find?_cons]
            simp [h6, h3, h4]
          · simp only [h5, h1, if_true, if_false, List.nil_append, List.find?_cons]
            simp [h3, h4]
      · have h2 : ((a, l, g) :: u).find? (fun r => decide (r.1 ≤ x ∧ x < r.1 + r.2.1)) =
            u.find? (fun r => decide (r.1 ≤ x ∧ x < r.1 + r.2.1)) := by
          rw [List.find?_cons]
          simp [hin]
        have h1 : ((if a < k then [(a, min l (k - a), g)] else []) ++
            (if k + n < a + l then [(max a (k + n), a + l - max a (k + n), g)] else [])).find?
              (fun r => decide (r.1 ≤ x ∧ x < r.1 + r.2.1)) = none := by
          rw [List.find?_eq_none]
          intro r hr
          simp only [List.mem_append] at hr
          rcases hr with hr | hr
          · split at hr
            · rw [List.mem_singleton.mp hr]; simp only [decide_eq_true_eq]; omega
            · cases hr
          · split at hr
            · rw [List.mem_singleton.mp hr]; simp only [decide_eq_true_eq]; omega
            · cases hr
        rw [h1, h2]
        exact ih
  unfold memDefault
  rcases key with ⟨h1, h2⟩ | ⟨r, r', h1, h2, h3⟩
  · rw [h1, h2]
  · rw [h1, h2]; simp only [h3]

/-- Dropping the bytes of a range and carving it out of the undefined ranges keeps the canonical form. -/
theorem drop_range_wf (k n : Nat) (u : List (Nat × Nat × Nat)) (m : List Host.Cell) (keep : Nat → Bool)
    (hk : ∀ x, keep x = true → ¬(k ≤ x ∧ x < k + n)) (h : Memory.wf u m) :
    Memory.wf (carve k n u) (tableKeep keep m) :=
  tableKeep_wf _ _ keep m (fun x hx => (memDefault_carve k n x u (hk x hx)).symm) h

/-- The same, with the range undefined from then on. -/
theorem lose_range_wf (k n g : Nat) (u : List (Nat × Nat × Nat)) (m : List Host.Cell) (keep : Nat → Bool)
    (hk : ∀ x, keep x = true → ¬(k ≤ x ∧ x < k + n)) (h : Memory.wf u m) :
    Memory.wf ((k, n, g) :: carve k n u) (tableKeep keep m) := by
  refine tableKeep_wf _ _ keep m (fun x hx => ?_) h
  rw [← memDefault_carve k n x u (hk x hx)]
  unfold memDefault
  rw [List.find?_cons]
  have := hk x hx
  simp [this]

theorem memSet_foldl_wf (u : List (Nat × Nat × Nat)) (f : Host.Cell → Nat) (l : List Host.Cell) :
    ∀ m, Memory.wf u m → Memory.wf u (l.foldl (fun m x => memSet u (f x) x.2 m) m) := by
  induction l with
  | nil => intro m h; exact h
  | cons x l ih => intro m h; exact ih _ (memSet_wf u (f x) x.2 m h)

/-- Undefined ranges in front that meet no listed byte leave the canonical form. -/
theorem undef_front_wf (k n : Nat) (v u : List (Nat × Nat × Nat)) (m : List Host.Cell)
    (hv : ∀ r ∈ v, k ≤ r.1 ∧ r.1 + r.2.1 ≤ k + n) (hm : ∀ x ∈ m, ¬(k ≤ x.1 ∧ x.1 < k + n)) (h : Memory.wf u m) :
    Memory.wf (v ++ u) m := by
  refine tableWf_congr _ _ m (fun x hx => ?_) h
  have hn := hm x hx
  unfold memDefault
  rw [List.find?_append]
  have : v.find? (fun r => decide (r.1 ≤ x.1 ∧ x.1 < r.1 + r.2.1)) = none := by
    rw [List.find?_eq_none]
    intro r hr
    have := hv r hr
    simp only [decide_eq_true_eq]
    omega
  rw [this]
  rfl

/-! ### Operations on the state -/

/-- The memory of a state is in canonical form. -/
def memOk (s : State) : Prop := Memory.wf s.mem.undef s.mem.bytes

theorem stKey_wf (s : State) (k : Nat) (bs : List Byte) (h : memOk s) : memOk (stKey s k bs) :=
  memSets_wf s.mem.undef bs k s.mem.bytes h

theorem store_wf (s : State) (a : Nat) (bs : List Byte) (h : memOk s) : memOk (store s a bs) :=
  stKey_wf s (memKey s a) bs h

theorem stNat_wf (s : State) (a n v : Nat) (h : memOk s) : memOk (stNat s a n v) := store_wf s a _ h

theorem zeroRange_wf (s : State) (a n : Nat) (h : memOk s) : memOk (zeroRange s a n) :=
  drop_range_wf (memKey s a) n s.mem.undef s.mem.bytes (fun x => !(decide (memKey s a ≤ x ∧ x < memKey s a + n)))
    (fun x hx => by simp only [Bool.not_eq_true', decide_eq_false_iff_not] at hx; exact hx) h

theorem undefine_wf (l : List (Nat × Nat)) : ∀ s, memOk s → memOk (undefine s l) := by
  induction l with
  | nil => intro s h; exact h
  | cons x l ih => intro s h; exact ih _ (store_wf s x.1 (freeBytes s x.2) h)

theorem loseRange_wf (s : State) (k n : Nat) (h : memOk s) : memOk (loseRange s k n) :=
  lose_range_wf k n s.fresh s.mem.undef s.mem.bytes (fun x => !(decide (k ≤ x ∧ x < k + n)))
    (fun x hx => by simp only [Bool.not_eq_true', decide_eq_false_iff_not] at hx; exact hx) h

theorem zeroRange_outside (s : State) (a n : Nat) :
    ∀ x ∈ (zeroRange s a n).mem.bytes, ¬(memKey s a ≤ x.1 ∧ x.1 < memKey s a + n) := by
  intro x hx
  have := (List.mem_filter.mp hx).2
  simp only [Bool.not_eq_true', decide_eq_false_iff_not] at this
  exact this

theorem moveRange_wf (s : State) (a b n : Nat) (h : memOk s) : memOk (moveRange s a b n) := by
  unfold memOk moveRange
  refine memSet_foldl_wf _ (fun x => x.1 - memKey s a + memKey s b) _ _ ?_
  refine undef_front_wf (memKey s b) n _ _ _ ?_ (zeroRange_outside (zeroRange s a n) b n)
    (zeroRange_wf _ b n (zeroRange_wf s a n h))
  intro r hr
  obtain ⟨x, _, hx⟩ := List.mem_filterMap.mp hr
  simp only at hx
  split at hx
  · cases hx
    simp only
    omega
  · cases hx

theorem wipeMemory_wf (s : State) (h : memOk s) : memOk (wipeMemory s) :=
  drop_range_wf 0 (2 ^ 41) s.mem.undef s.mem.bytes (fun k => decide (2 ^ 41 ≤ k)) (fun x hx => by
    have := of_decide_eq_true hx
    omega) h

/-- Nothing is listed at reset. -/
theorem reset_memOk : memOk State.reset := rfl

/-! ### Reading after a store -/

/-- The bytes stored at a global address are read there. -/
theorem store_read (s : State) (a i : Nat) (bs : List Byte) (hi : i < bs.length) (h : memOk s) :
    keyByte (store s a bs) (memKey s a + i) = bs.getD i 0 :=
  memSets_read s.mem.undef bs (memKey s a) i s.mem.bytes hi h

/-- Every byte outside the stored ones reads as before. -/
theorem store_other (s : State) (a j : Nat) (bs : List Byte) (hj : j < memKey s a ∨ memKey s a + bs.length ≤ j)
    (h : memOk s) : keyByte (store s a bs) j = keyByte s j :=
  memSets_other s.mem.undef j bs (memKey s a) s.mem.bytes hj h

end Sys2Proof.Machine
end

