-- ==== Sys2Proof/Laws/Keeps.lean ====
section
/-! SUPPORT. What every operation of the module keeps: the ordering number, the identity from manufacture, the queue of
commands, and the canonical form of memory and of the dictionary store. `Keeps z s` says so of a state `s` that operations
have made from `z`; each operation has one lemma that carries the relation through it. -/

namespace Sys2Proof.Machine

/-- The dictionary store of a state is in canonical form. -/
def dictOk (s : State) : Prop := tableWf (dictDefault s.variant) s.dict = true

/-- The other sparse tables of a state: rings, ledger, tallies and the mailbox request buffer. -/
def tablesOf (s : State) : List (Nat × Ring) × List (Nat × BitVec 48) × List (Nat × Word) × List (Nat × Byte) :=
  (s.hop.rings, s.hop.ledger, s.hop.tallies, s.host.mailReq)

/-- These tables are in canonical form. -/
def tablesOk (s : State) : Prop :=
  tableWf ringDefault s.hop.rings = true ∧ tableWf ledgerDefault s.hop.ledger = true ∧
  tableWf tallyDefault s.hop.tallies = true ∧ tableWf (fun _ => (0 : Byte)) s.host.mailReq = true

theorem tablesOk_congr {s t : State} (e : tablesOf t = tablesOf s) (h : tablesOk s) : tablesOk t := by
  simp only [tablesOf, Prod.mk.injEq] at e
  unfold tablesOk
  rw [e.1, e.2.1, e.2.2.1, e.2.2.2]
  exact h

/-- What operations keep. -/
structure Keeps (z s : State) : Prop where
  variant : s.variant = z.variant
  ident : s.ident = z.ident
  pending : s.pending = z.pending
  mem : memOk z → memOk s
  dict : dictOk z → dictOk s
  tables : tablesOk z → tablesOk s

theorem Keeps.refl (s : State) : Keeps s s := ⟨rfl, rfl, rfl, id, id, id⟩

theorem Keeps.trans {z s t : State} (h : Keeps z s) (g : Keeps s t) : Keeps z t :=
  ⟨g.variant.trans h.variant, g.ident.trans h.ident, g.pending.trans h.pending, g.mem ∘ h.mem, g.dict ∘ h.dict,
    g.tables ∘ h.tables⟩

/-- An update of anything but the identity, the queue, the dictionary store and the bytes of memory. -/
theorem Keeps.put {z s : State} {hop : Hopper} {cores : Cores} {mem : MemSys} {fab : Fabric} {host : HostSide}
    {pwr : Power} {hlth : Health} {fw : Firmware} {media : Media} {fresh : Nat} (h : Keeps z s)
    (hb : mem.bytes = s.mem.bytes) (hu : mem.undef = s.mem.undef)
    (ht : (hop.rings, hop.ledger, hop.tallies, host.mailReq) = tablesOf s) :
    Keeps z (State.mk s.variant s.ident s.dict hop cores mem fab host pwr hlth fw media fresh s.pending) :=
  ⟨h.variant, h.ident, h.pending, fun hz => by unfold memOk; rw [hb, hu]; exact h.mem hz, h.dict,
    fun hz => tablesOk_congr ht (h.tables hz)⟩

/-- The same, with the bytes of memory changed in a way that keeps the canonical form. -/
theorem Keeps.putMem {z s : State} {hop : Hopper} {cores : Cores} {mem : MemSys} {fab : Fabric} {host : HostSide}
    {pwr : Power} {hlth : Health} {fw : Firmware} {media : Media} {fresh : Nat} (h : Keeps z s)
    (hw : memOk s → Memory.wf mem.undef mem.bytes)
    (ht : (hop.rings, hop.ledger, hop.tallies, host.mailReq) = tablesOf s) :
    Keeps z (State.mk s.variant s.ident s.dict hop cores mem fab host pwr hlth fw media fresh s.pending) :=
  ⟨h.variant, h.ident, h.pending, fun hz => hw (h.mem hz), h.dict,
    fun hz => tablesOk_congr ht (h.tables hz)⟩

/-- The same, with other tables, all in canonical form when those before are. -/
theorem Keeps.putTables {z s : State} {hop : Hopper} {cores : Cores} {mem : MemSys} {fab : Fabric} {host : HostSide}
    {pwr : Power} {hlth : Health} {fw : Firmware} {media : Media} {fresh : Nat} (h : Keeps z s)
    (hb : mem.bytes = s.mem.bytes) (hu : mem.undef = s.mem.undef)
    (ht : tablesOk s → tableWf ringDefault hop.rings = true ∧ tableWf ledgerDefault hop.ledger = true ∧
      tableWf tallyDefault hop.tallies = true ∧ tableWf (fun _ => (0 : Byte)) host.mailReq = true) :
    Keeps z (State.mk s.variant s.ident s.dict hop cores mem fab host pwr hlth fw media fresh s.pending) :=
  ⟨h.variant, h.ident, h.pending, fun hz => by unfold memOk; rw [hb, hu]; exact h.mem hz, h.dict,
    fun hz => ht (h.tables hz)⟩

/-- A pair whose first component keeps. -/
theorem Keeps.ofPair {α : Type} {z t : State} {x : α} {p : State × α} (e : p = (t, x)) (h : Keeps z p.1) : Keeps z t := by
  rw [e] at h; exact h

/-- An optional state that keeps wherever there is one. -/
theorem Keeps.ofSome {z t : State} {p : Option State} (e : p = some t) (h : ∀ t, p = some t → Keeps z t) : Keeps z t := h t e

theorem Keeps.ofSomePair {α : Type} {z t : State} {x : α} {p : Option (State × α)} (e : p = some (t, x))
    (h : ∀ y, p = some y → Keeps z y.1) : Keeps z t := h (t, x) e

theorem foldl_keeps {α : Type} {z : State} (f : State → α → State) (hf : ∀ s x, Keeps z s → Keeps z (f s x)) (l : List α)
    (s : State) (h : Keeps z s) : Keeps z (l.foldl f s) :=
  l.foldlRecOn (motive := Keeps z) f h (fun t g x _ => hf t x g)

/-! ### Operations on memory and the dictionary store -/

theorem dSet_keeps {z s : State} (h : Keeps z s) (k v : Nat) : Keeps z (dSet s k v) :=
  ⟨h.variant, h.ident, h.pending, h.mem, fun hz => tableSet_wf _ k _ _ (h.dict hz), h.tables⟩

theorem dropVolatile_keeps {z s : State} (h : Keeps z s) : Keeps z (dropVolatile s) :=
  ⟨h.variant, h.ident, h.pending, h.mem, fun hz =>
    tableKeep_wf _ _ (fun k => dictClass s.variant k != .v) _ (fun _ _ => rfl) (h.dict hz), h.tables⟩

theorem dropWarm_keeps {z s : State} (h : Keeps z s) (cold : Bool) : Keeps z (dropWarm s cold) :=
  ⟨h.variant, h.ident, h.pending, h.mem, fun hz =>
    tableKeep_wf _ _ (fun k => dictClass s.variant k == .p || (k == dk 0x1400 1 && !cold)) _ (fun _ _ => rfl) (h.dict hz), h.tables⟩

theorem stKey_keeps {z s : State} (h : Keeps z s) (k : Nat) (bs : List Byte) : Keeps z (stKey s k bs) :=
  ⟨h.variant, h.ident, h.pending, fun hz => stKey_wf s k bs (h.mem hz), h.dict, h.tables⟩

theorem store_keeps {z s : State} (h : Keeps z s) (a : Nat) (bs : List Byte) : Keeps z (store s a bs) :=
  ⟨h.variant, h.ident, h.pending, fun hz => store_wf s a bs (h.mem hz), h.dict, h.tables⟩

theorem zeroRange_keeps {z s : State} (h : Keeps z s) (a n : Nat) : Keeps z (zeroRange s a n) :=
  ⟨h.variant, h.ident, h.pending, fun hz => zeroRange_wf s a n (h.mem hz), h.dict, h.tables⟩

theorem loseRange_keeps {z s : State} (h : Keeps z s) (k n : Nat) : Keeps z (loseRange s k n) :=
  ⟨h.variant, h.ident, h.pending, fun hz => loseRange_wf s k n (h.mem hz), h.dict, h.tables⟩

theorem moveRange_keeps {z s : State} (h : Keeps z s) (a b n : Nat) : Keeps z (moveRange s a b n) :=
  ⟨h.variant, h.ident, h.pending, fun hz => moveRange_wf s a b n (h.mem hz), h.dict, h.tables⟩

theorem wipeMemory_keeps {z s : State} (h : Keeps z s) : Keeps z (wipeMemory s) :=
  ⟨h.variant, h.ident, h.pending, fun hz => wipeMemory_wf s (h.mem hz), h.dict, h.tables⟩

end Sys2Proof.Machine
end

