-- ==== Sys2Proof/Laws/KeepsOps.lean ====
section
/-! SUPPORT. `Keeps` carried through the shared operations over memory, the dictionary store, rings, links, pools and plans. -/

namespace Sys2Proof.Machine

theorem dAdd_keeps {z s : State} (h : Keeps z s) (k n : Nat) :
    Keeps z (dAdd s k n) := by
  unfold dAdd
  try dsimp only
  repeat' (first
    | (with_reducible assumption) | (with_reducible apply dSet_keeps) | split)

theorem count_keeps {z s : State} (h : Keeps z s) (index sub n : Nat) :
    Keeps z (count s index sub n) := by
  unfold count
  try dsimp only
  repeat' (first
    | (with_reducible assumption) | (with_reducible apply dAdd_keeps))

theorem countP_keeps {z s : State} (h : Keeps z s) (index part n : Nat) :
    Keeps z (countP s index part n) := by
  unfold countP
  try dsimp only
  repeat' (first
    | (with_reducible assumption) | (with_reducible apply count_keeps))

theorem countT_keeps {z s : State} (h : Keeps z s) (index n : Nat) :
    Keeps z (countT s index n) := by
  unfold countT
  try dsimp only
  repeat' (first
    | (with_reducible assumption) | (with_reducible apply dAdd_keeps))

theorem pSet_keeps {z s : State} (h : Keeps z s) (p sub v : Nat) :
    Keeps z (pSet s p sub v) := by
  unfold pSet
  try dsimp only
  repeat' (first
    | (with_reducible assumption) | (with_reducible apply dSet_keeps))

theorem stNat_keeps {z s : State} (h : Keeps z s) (a n v : Nat) :
    Keeps z (stNat s a n v) := by
  unfold stNat
  try dsimp only
  repeat' (first
    | (with_reducible assumption) | (with_reducible apply store_keeps))

theorem zeroPages_keeps {z s : State} (h : Keeps z s) (l : List Mapping) : Keeps z (zeroPages s l) := by
  induction l generalizing s with
  | nil => exact h
  | cons m l ih =>
    unfold zeroPages
    split
    · exact ih (zeroRange_keeps h m.addr m.size)
    · exact ih h

theorem tickFresh_keeps {z s : State} (h : Keeps z s) :
    Keeps z (tickFresh s) := by
  unfold tickFresh
  try dsimp only
  repeat' (first
    | (with_reducible assumption) | (fail_if_no_progress with_reducible refine Keeps.put ?_ rfl rfl rfl))

theorem undefine_keeps {z s : State} (h : Keeps z s) (l : List (Nat × Nat)) : Keeps z (undefine s l) := by
  induction l generalizing s with
  | nil => exact h
  | cons x l ih => exact ih (tickFresh_keeps (store_keeps h x.1 (freeBytes s x.2)))

theorem touchLine_keeps {z s : State} (h : Keeps z s) (owner : Option Nat) (write : Bool) (l : Nat) :
    Keeps z (touchLine owner write s l) := by
  unfold touchLine
  try dsimp only
  repeat' (first
    | (with_reducible assumption) | (with_reducible apply countP_keeps) | (with_reducible apply countT_keeps)
    | (fail_if_no_progress with_reducible refine Keeps.put ?_ rfl rfl rfl) | split)

theorem touchPart_keeps {z s : State} (h : Keeps z s) (owner : Option Nat) (mask l : Nat) :
    Keeps z (touchPart owner mask s l) := by
  unfold touchPart
  try dsimp only
  repeat' (first
    | (with_reducible assumption) | (with_reducible apply touchLine_keeps) | (with_reducible apply countP_keeps)
    | (with_reducible apply countT_keeps) | (fail_if_no_progress with_reducible refine Keeps.put ?_ rfl rfl rfl)
    | split)

theorem touchWhole_keeps {z s : State} (h : Keeps z s) (owner : Option Nat) (l : Nat) :
    Keeps z (touchWhole owner s l) := by
  unfold touchWhole
  try dsimp only
  repeat' (first
    | (with_reducible assumption) | (with_reducible apply touchLine_keeps)
    | (fail_if_no_progress with_reducible refine Keeps.put ?_ rfl rfl rfl))

theorem touchRange_keeps {z s : State} (h : Keeps z s) (owner : Option Nat) (write : Bool) (a n : Nat) :
    Keeps z (touchRange owner write s a n) := by
  unfold touchRange
  try dsimp only
  repeat' (first
    | (with_reducible assumption) | (with_reducible apply touchWhole_keeps) | (with_reducible apply touchPart_keeps)
    | (with_reducible apply touchLine_keeps) | split | (with_reducible apply foldl_keeps) | intro _)

theorem falyndiOut_keeps {z s : State} (h : Keeps z s) (vc : Nat) (p : Packet) :
    Keeps z (falyndiOut s vc p) := by
  unfold falyndiOut
  try dsimp only
  repeat' (first
    | (with_reducible assumption) | (fail_if_no_progress with_reducible refine Keeps.put ?_ rfl rfl rfl))

theorem holdHost_keeps {z s : State} (h : Keeps z s) (x : HostAccess) :
    Keeps z (holdHost s x) := by
  unfold holdHost
  try dsimp only
  repeat' (first
    | (with_reducible assumption) | (fail_if_no_progress with_reducible refine Keeps.put ?_ rfl rfl rfl))

theorem dropHost_keeps {z s : State} (h : Keeps z s) :
    Keeps z (dropHost s) := by
  unfold dropHost
  try dsimp only
  repeat' (first
    | (with_reducible assumption) | (fail_if_no_progress with_reducible refine Keeps.put ?_ rfl rfl rfl))

theorem hostWrite_keeps {z s : State} (h : Keeps z s) (a : Nat) (bs : List Byte) :
    Keeps z (hostWrite s a bs) := by
  unfold hostWrite
  try dsimp only
  repeat' (first
    | (with_reducible assumption) | (with_reducible apply falyndiOut_keeps) | (with_reducible apply store_keeps)
    | (fail_if_no_progress with_reducible refine Keeps.put ?_ rfl rfl rfl) | split
    | (with_reducible apply foldl_keeps) | intro _)

theorem hostFetch_keeps {z s : State} (h : Keeps z s) (a n : Nat) :
    Keeps z (hostFetch s a n) := by
  unfold hostFetch
  try dsimp only
  repeat' (first
    | (with_reducible assumption) | (with_reducible apply falyndiOut_keeps) | (with_reducible apply foldl_keeps)
    | intro _)

theorem sendMsix_keeps {z s : State} (h : Keeps z s) (v : Nat) :
    Keeps z (sendMsix s v) := by
  unfold sendMsix
  try dsimp only
  repeat' (first
    | (with_reducible assumption) | (with_reducible apply falyndiOut_keeps)
    | (fail_if_no_progress with_reducible refine Keeps.put ?_ rfl rfl rfl) | split)

theorem busSend_keeps {z s : State} (h : Keeps z s) (d : Datagram) :
    Keeps z (busSend s d) := by
  unfold busSend
  try dsimp only
  repeat' (first
    | (with_reducible assumption) | (fail_if_no_progress with_reducible refine Keeps.put ?_ rfl rfl rfl) | split)

theorem raiseEvent_keeps {z s : State} (h : Keeps z s) (sev faultId : Nat) (part : Option Nat) (index sub detail :
      Nat) :
    Keeps z (raiseEvent s sev faultId part index sub detail) := by
  unfold raiseEvent
  try dsimp only
  repeat' (first
    | (with_reducible assumption) | (with_reducible apply dSet_keeps) | (with_reducible apply busSend_keeps)
    | (with_reducible apply sendMsix_keeps) | (fail_if_no_progress with_reducible refine Keeps.put ?_ rfl rfl rfl)
    | split)

theorem recordEvent_keeps {z s : State} (h : Keeps z s) (r : HealthRec) (discards : Bool) :
    Keeps z (recordEvent s r discards) := by
  unfold recordEvent
  try dsimp only
  repeat' (first
    | (with_reducible assumption) | (with_reducible apply raiseEvent_keeps)
    | (fail_if_no_progress with_reducible refine Keeps.put ?_ rfl rfl rfl) | split)

theorem noteRec_keeps {z s : State} (h : Keeps z s) (r : HealthRec) :
    Keeps z (noteRec s r).1 := by
  unfold noteRec
  try dsimp only
  repeat' (first
    | (with_reducible assumption) | (with_reducible apply dSet_keeps) | (with_reducible apply countT_keeps)
    | (fail_if_no_progress with_reducible refine Keeps.put ?_ rfl rfl rfl))

theorem writeHealth_keeps {z s : State} (h : Keeps z s) (r : HealthRec) (discards : Bool) :
    Keeps z (writeHealth s r discards).1 := by
  unfold writeHealth
  try dsimp only
  repeat' (first
    | (with_reducible assumption) | (with_reducible apply noteRec_keeps) | (with_reducible apply recordEvent_keeps))

theorem updateRec_keeps {z s : State} (h : Keeps z s) (seq : Nat) (f : HealthRec → HealthRec) :
    Keeps z (updateRec s seq f) := by
  unfold updateRec
  try dsimp only
  repeat' (first
    | (with_reducible assumption) | (with_reducible apply countT_keeps) | (with_reducible apply recordEvent_keeps)
    | (fail_if_no_progress with_reducible refine Keeps.put ?_ rfl rfl rfl) | split)

theorem mirrorRing_keeps {z s : State} (h : Keeps z s) (n : Nat) :
    Keeps z (mirrorRing s n) := by
  unfold mirrorRing
  try dsimp only
  repeat' (first
    | (with_reducible assumption) | (with_reducible apply stKey_keeps) | split)

theorem putRing_keeps {z s : State} (h : Keeps z s) (n : Nat) (r : Ring) : Keeps z (putRing s n r) := by
  unfold putRing
  refine mirrorRing_keeps ?_ n
  exact Keeps.putTables h rfl rfl (fun g => ⟨tableSet_wf _ _ _ _ g.1, g.2⟩)

theorem putLedger_keeps {z s : State} (h : Keeps z s) (n seq : Nat) : Keeps z (putLedger s n seq) := by
  unfold putLedger
  refine mirrorRing_keeps ?_ n
  exact Keeps.putTables h rfl rfl (fun g => ⟨g.1, tableSet_wf _ _ _ _ g.2.1, g.2.2⟩)

theorem setFlight_keeps {z s : State} (h : Keeps z s) (ring : Nat) (f : InFlight → InFlight) :
    Keeps z (setFlight s ring f) := by
  unfold setFlight
  try dsimp only
  repeat' (first
    | (with_reducible assumption) | (fail_if_no_progress with_reducible refine Keeps.put ?_ rfl rfl rfl))

theorem dropFlight_keeps {z s : State} (h : Keeps z s) (ring : Nat) :
    Keeps z (dropFlight s ring) := by
  unfold dropFlight
  try dsimp only
  repeat' (first
    | (with_reducible assumption) | (fail_if_no_progress with_reducible refine Keeps.put ?_ rfl rfl rfl))

theorem settleQuiesce_keeps {z s : State} (h : Keeps z s) (p : Nat) :
    Keeps z (settleQuiesce s p) := by
  unfold settleQuiesce
  try dsimp only
  repeat' (first
    | (with_reducible assumption) | (with_reducible apply pSet_keeps) | split)

theorem discardParts_keeps {z s : State} (h : Keeps z s) (parts : List Nat) (status faultId : Nat) :
    Keeps z (discardParts s parts status faultId) := by
  unfold discardParts
  try dsimp only
  repeat' (first
    | (with_reducible assumption) | (fail_if_no_progress with_reducible refine Keeps.put ?_ rfl rfl rfl))

theorem setWithheld_keeps {z s : State} (h : Keeps z s) (i st : Nat) :
    Keeps z (setWithheld s i st) := by
  unfold setWithheld
  try dsimp only
  repeat' (first
    | (with_reducible assumption) | (fail_if_no_progress with_reducible refine Keeps.put ?_ rfl rfl rfl))

theorem agentCount_keeps {z s : State} (h : Keeps z s) (agent index n : Nat) :
    Keeps z (agentCount s agent index n) := by
  unfold agentCount
  try dsimp only
  repeat' (first
    | (with_reducible assumption) | (with_reducible apply count_keeps) | (with_reducible apply countT_keeps) | split)

theorem loseLine_keeps {z s : State} (h : Keeps z s) (addr : Nat) :
    Keeps z (loseLine s addr).1 := by
  unfold loseLine
  try dsimp only
  repeat' (first
    | (with_reducible assumption) | (with_reducible apply dSet_keeps)
    | (fail_if_no_progress with_reducible refine Keeps.put ?_ rfl rfl rfl) | split)

theorem countError_keeps {z s : State} (h : Keeps z s) (e : ErrorReport) :
    Keeps z (countError s e) := by
  unfold countError
  try dsimp only
  repeat' (first
    | (with_reducible assumption) | (with_reducible apply count_keeps) | (with_reducible apply countP_keeps)
    | (with_reducible apply countT_keeps) | (with_reducible apply dAdd_keeps) | split)

theorem swapLane_keeps {z s : State} (h : Keeps z s) (link lane : Nat) :
    Keeps z (swapLane s link lane).1 := by
  unfold swapLane
  try dsimp only
  repeat' (first
    | (with_reducible assumption) | (with_reducible apply countT_keeps) | (with_reducible apply dSet_keeps)
    | (with_reducible apply count_keeps) | (fail_if_no_progress with_reducible refine Keeps.put ?_ rfl rfl rfl)
    | split)

theorem withholdUnit_keeps {z s : State} (h : Keeps z s) (e : ErrorReport) :
    Keeps z (withholdUnit s e) := by
  unfold withholdUnit
  try dsimp only
  repeat' (first
    | (with_reducible assumption) | (with_reducible apply setWithheld_keeps) | (with_reducible apply swapLane_keeps)
    | (fail_if_no_progress with_reducible refine Keeps.put ?_ rfl rfl rfl)
    | (with_reducible refine Keeps.ofPair (by with_reducible assumption) ?_) | split)

theorem dropLine_keeps {z s : State} (h : Keeps z s) (addr : Nat) :
    Keeps z (dropLine s addr) := by
  unfold dropLine
  try dsimp only
  repeat' (first
    | (with_reducible assumption) | (fail_if_no_progress with_reducible refine Keeps.put ?_ rfl rfl rfl))

theorem detectError_keeps {z s : State} (h : Keeps z s) (e : ErrorReport) (persist : Option (BitVec 2)) :
    Keeps z (detectError s e persist).1 := by
  unfold detectError
  try dsimp only
  repeat' (first
    | (with_reducible assumption) | (with_reducible apply countError_keeps) | (with_reducible apply dropLine_keeps)
    | (with_reducible apply loseLine_keeps) | (with_reducible apply countT_keeps)
    | (with_reducible apply discardParts_keeps) | (with_reducible apply withholdUnit_keeps)
    | (with_reducible apply writeHealth_keeps) | (fail_if_no_progress with_reducible refine Keeps.put ?_ rfl rfl rfl)
    | (with_reducible refine Keeps.ofPair (by with_reducible assumption) ?_) | split)

theorem chargeMismatch_keeps {z s : State} (h : Keeps z s) (agent place : Nat) (column : Bool) :
    Keeps z (chargeMismatch s agent place column) := by
  unfold chargeMismatch
  try dsimp only
  repeat' (first
    | (with_reducible assumption) | (with_reducible apply detectError_keeps) | (with_reducible apply countT_keeps)
    | split)

theorem chargeOne_keeps {z s : State} (h : Keeps z s) (agent : Nat) (x : Nat × Nat) :
    Keeps z (chargeOne s agent x) := by
  unfold chargeOne
  try dsimp only
  repeat' (first
    | (with_reducible assumption) | (with_reducible apply chargeMismatch_keeps)
    | (with_reducible apply agentCount_keeps) | split)

theorem chargeUnits_keeps {z s : State} (h : Keeps z s) (ring : Nat) :
    Keeps z (chargeUnits s ring) := by
  unfold chargeUnits
  try dsimp only
  repeat' (first
    | (with_reducible assumption) | (with_reducible apply setFlight_keeps) | (with_reducible apply chargeOne_keeps)
    | (fail_if_no_progress with_reducible refine Keeps.put ?_ rfl rfl rfl) | split
    | (with_reducible apply foldl_keeps) | intro _)

theorem storeM_keeps {z s : State} (h : Keeps z s) (a : Nat) (bs : List Byte) :
    Keeps z (storeM s a bs) := by
  unfold storeM
  try dsimp only
  repeat' (first
    | (with_reducible assumption) | (with_reducible apply detectError_keeps) | (with_reducible apply store_keeps)
    | split)

theorem stWord_keeps {z s : State} (h : Keeps z s) (a n v : Nat) :
    Keeps z (stWord s a n v) := by
  unfold stWord
  try dsimp only
  repeat' (first
    | (with_reducible assumption) | (with_reducible apply storeM_keeps))

theorem gWrite_keeps {z s : State} (h : Keeps z s) (a : Nat) (bs : List Byte) :
    Keeps z (gWrite s a bs) := by
  unfold gWrite
  try dsimp only
  repeat' (first
    | (with_reducible assumption) | (with_reducible apply hostWrite_keeps) | (with_reducible apply touchRange_keeps)
    | (with_reducible apply storeM_keeps) | split)

theorem sendVector_keeps {z s : State} (h : Keeps z s) (v : Nat) :
    Keeps z (sendVector s v) := by
  unfold sendVector
  try dsimp only
  repeat' (first
    | (with_reducible assumption) | (with_reducible apply sendMsix_keeps)
    | (fail_if_no_progress with_reducible refine Keeps.put ?_ rfl rfl rfl) | split)

theorem notify_keeps {z s : State} (h : Keeps z s) (ring : Nat) :
    Keeps z (notify s ring) := by
  unfold notify
  try dsimp only
  repeat' (first
    | (with_reducible assumption) | (with_reducible apply sendVector_keeps) | split)

theorem writeCompletion_keeps {z s : State} (h : Keeps z s) (n : Nat) (e : EndInfo) :
    Keeps z (writeCompletion s n e) := by
  unfold writeCompletion
  try dsimp only
  repeat' (first
    | (with_reducible assumption) | (with_reducible apply gWrite_keeps) | (with_reducible apply countP_keeps)
    | (with_reducible apply dAdd_keeps) | (with_reducible apply notify_keeps) | split)

theorem setSeg_keeps {z s : State} (h : Keeps z s) (ring seq : Nat) (f : Segment → Segment) :
    Keeps z (setSeg s ring seq f) := by
  unfold setSeg
  try dsimp only
  repeat' (first
    | (with_reducible assumption) | (fail_if_no_progress with_reducible refine Keeps.put ?_ rfl rfl rfl))

theorem dropSeg_keeps {z s : State} (h : Keeps z s) (ring seq : Nat) :
    Keeps z (dropSeg s ring seq) := by
  unfold dropSeg
  try dsimp only
  repeat' (first
    | (with_reducible assumption) | (fail_if_no_progress with_reducible refine Keeps.put ?_ rfl rfl rfl))

theorem segmentEnd_keeps {z s : State} (h : Keeps z s) (ring seq : Nat) (d : List Word) :
    Keeps z (segmentEnd s ring seq d) := by
  unfold segmentEnd
  try dsimp only
  repeat' (first
    | (with_reducible assumption) | (with_reducible apply setSeg_keeps) | (with_reducible apply dropSeg_keeps)
    | (fail_if_no_progress with_reducible refine Keeps.put ?_ rfl rfl rfl) | split)

theorem reopenSeg_keeps {z s : State} (h : Keeps z s) (ring : Nat) :
    Keeps z (reopenSeg s ring) := by
  unfold reopenSeg
  try dsimp only
  repeat' (first
    | (with_reducible assumption) | (with_reducible apply putRing_keeps)
    | (fail_if_no_progress with_reducible refine Keeps.put ?_ rfl rfl rfl))

theorem haltRing_keeps {z s : State} (h : Keeps z s) (n consumer nextSeq status : Nat) :
    Keeps z (haltRing s n consumer nextSeq status) := by
  unfold haltRing
  try dsimp only
  repeat' (first
    | (with_reducible assumption) | (with_reducible apply reopenSeg_keeps) | (with_reducible apply putRing_keeps))

theorem endHead_keeps {z s : State} (h : Keeps z s) (n status faultId busy stall elapsed : Nat) :
    Keeps z (endHead s n status faultId busy stall elapsed) := by
  unfold endHead
  try dsimp only
  repeat' (first
    | (with_reducible assumption) | (with_reducible apply putRing_keeps)
    | (with_reducible apply writeCompletion_keeps) | (with_reducible apply haltRing_keeps)
    | (with_reducible apply putLedger_keeps) | (with_reducible apply segmentEnd_keeps)
    | (fail_if_no_progress with_reducible refine Keeps.put ?_ rfl rfl rfl) | split)

theorem settleRing_keeps {z s : State} (h : Keeps z s) (n k : Nat) : Keeps z (settleRing n k s) := by
  induction k generalizing s with
  | zero => exact h
  | succ k ih =>
    unfold settleRing
    dsimp only
    repeat' split
    all_goals first
      | exact h
      | exact ih (endHead_keeps h _ _ _ _ _ _)
      | exact endHead_keeps h _ _ _ _ _ _

theorem settle_keeps {z s : State} (h : Keeps z s) (n : Nat) :
    Keeps z (settle s n) := by
  unfold settle
  try dsimp only
  repeat' (first
    | (with_reducible assumption) | (with_reducible apply settleRing_keeps))

theorem takeInjection_keeps {z s : State} (h : Keeps z s) (p : Injection → Bool) :
    ∀ x t, takeInjection s p = some (x, t) → Keeps z t := by
  intro x t ht
  unfold takeInjection at ht
  try dsimp only at ht
  repeat' split at ht
  all_goals (first | cases ht)
  all_goals repeat' (first
    | (with_reducible assumption) | (with_reducible apply countT_keeps)
    | (fail_if_no_progress with_reducible refine Keeps.put ?_ rfl rfl rfl))

theorem fireInjection_keeps {z s : State} (h : Keeps z s) (part : Nat) (p : Injection → Bool) :
    Keeps z (fireInjection s part p) := by
  unfold fireInjection
  try dsimp only
  repeat' (first
    | (with_reducible assumption)
    | (with_reducible refine takeInjection_keeps ?_ _ _ _ (by with_reducible assumption))
    | (with_reducible apply detectError_keeps) | (fail_if_no_progress with_reducible refine Keeps.put ?_ rfl rfl rfl)
    | (with_reducible refine Keeps.ofPair (by with_reducible assumption) ?_) | split)

theorem fireRead_keeps {z s : State} (h : Keeps z s) (a n : Nat) :
    Keeps z (fireRead s a n) := by
  unfold fireRead
  try dsimp only
  repeat' (first
    | (with_reducible assumption)
    | (with_reducible refine takeInjection_keeps ?_ _ _ _ (by with_reducible assumption))
    | (with_reducible apply detectError_keeps) | (fail_if_no_progress with_reducible refine Keeps.put ?_ rfl rfl rfl)
    | (with_reducible refine Keeps.ofPair (by with_reducible assumption) ?_) | split
    | (with_reducible apply foldl_keeps) | intro _)

theorem setLink_keeps {z s : State} (h : Keeps z s) (i : Nat) (l : Link) :
    Keeps z (setLink s i l) := by
  unfold setLink
  try dsimp only
  repeat' (first
    | (with_reducible assumption) | (fail_if_no_progress with_reducible refine Keeps.put ?_ rfl rfl rfl) | split)

theorem linkCount_keeps {z s : State} (h : Keeps z s) (i kraur falyndi n : Nat) :
    Keeps z (linkCount s i kraur falyndi n) := by
  unfold linkCount
  try dsimp only
  repeat' (first
    | (with_reducible assumption) | (with_reducible apply countT_keeps) | (with_reducible apply count_keeps) | split)

theorem expireQueue_keeps {z s : State} (h : Keeps z s) (i : Nat) :
    Keeps z (expireQueue s i) := by
  unfold expireQueue
  try dsimp only
  repeat' (first
    | (with_reducible assumption) | (with_reducible apply countT_keeps) | (with_reducible apply setLink_keeps)
    | (fail_if_no_progress with_reducible refine Keeps.put ?_ rfl rfl rfl) | split)

theorem sendCtrl_keeps {z s : State} (h : Keeps z s) (i purpose arg : Nat) :
    Keeps z (sendCtrl s i purpose arg) := by
  unfold sendCtrl
  try dsimp only
  repeat' (first
    | (with_reducible assumption) | (with_reducible apply linkCount_keeps) | (with_reducible apply setLink_keeps)
    | (fail_if_no_progress with_reducible refine Keeps.put ?_ rfl rfl rfl) | split)

theorem pumpRun_keeps {z s : State} (h : Keeps z s) (i n : Nat) : Keeps z (pumpRun i n s) := by
  induction n generalizing s with
  | zero => exact h
  | succ n ih =>
    unfold pumpRun
    repeat' split
    · exact h
    · exact h
    · exact ih (linkCount_keeps (setLink_keeps h i _) i 0x3280 0 1)
    · exact ih (linkCount_keeps (setLink_keeps h i _) i 0x3280 0 1)
    · exact ih (count_keeps (linkCount_keeps (setLink_keeps h i _) i 0x3280 0 1) 0x328A (i + 1) _)

theorem pump_keeps {z s : State} (h : Keeps z s) (i : Nat) :
    Keeps z (pump s i) := by
  unfold pump
  try dsimp only
  repeat' (first
    | (with_reducible assumption) | (with_reducible apply expireQueue_keeps) | (with_reducible apply pumpRun_keeps))

theorem enqueue_keeps {z s : State} (h : Keeps z s) (port vc : Nat) (p : Packet) :
    Keeps z (enqueue s port vc p) := by
  unfold enqueue
  try dsimp only
  repeat' (first
    | (with_reducible assumption) | (with_reducible apply setLink_keeps))

theorem putOut_keeps {z s : State} (h : Keeps z s) (port vc : Nat) (p : Packet) :
    Keeps z (putOut s port vc p) := by
  unfold putOut
  try dsimp only
  repeat' (first
    | (with_reducible assumption) | (with_reducible apply enqueue_keeps) | (with_reducible apply pump_keeps)
    | (fail_if_no_progress with_reducible refine Keeps.put ?_ rfl rfl rfl))

theorem dropExpired_keeps {z s : State} (h : Keeps z s) :
    Keeps z (dropExpired s) := by
  unfold dropExpired
  try dsimp only
  repeat' (first
    | (with_reducible assumption) | (with_reducible apply countT_keeps))

theorem launch_keeps {z s : State} (h : Keeps z s) (port vc residency : Nat) (p : Packet) :
    Keeps z (launch s port vc residency p) := by
  unfold launch
  try dsimp only
  repeat' (first
    | (with_reducible assumption) | (with_reducible apply dropExpired_keeps) | (with_reducible apply putOut_keeps)
    | split)

theorem sendPacket_keeps {z s : State} (h : Keeps z s) (p : Packet) :
    Keeps z (sendPacket s p) := by
  unfold sendPacket
  try dsimp only
  repeat' (first
    | (with_reducible assumption) | (with_reducible apply launch_keeps) | (with_reducible apply countT_keeps)
    | (fail_if_no_progress with_reducible refine Keeps.put ?_ rfl rfl rfl) | split)

theorem turnBack_keeps {z s : State} (h : Keeps z s) (p : Packet) (lost : Bool) :
    Keeps z (turnBack s p lost) := by
  unfold turnBack
  try dsimp only
  repeat' (first
    | (with_reducible assumption) | (with_reducible apply countT_keeps) | (with_reducible apply sendPacket_keeps)
    | (fail_if_no_progress with_reducible refine Keeps.put ?_ rfl rfl rfl) | split)

theorem discardFlit_keeps {z s : State} (h : Keeps z s) (i : Nat) :
    Keeps z (discardFlit s i) := by
  unfold discardFlit
  try dsimp only
  repeat' (first
    | (with_reducible assumption) | (with_reducible apply sendCtrl_keeps) | (with_reducible apply setLink_keeps))

theorem receiveFlit_keeps {z s : State} (h : Keeps z s) (i : Nat) (bs : List Byte) (blockGood : Bool) :
    Keeps z (receiveFlit s i bs blockGood) := by
  unfold receiveFlit
  try dsimp only
  repeat' (first
    | (with_reducible assumption) | (with_reducible apply linkCount_keeps) | (with_reducible apply discardFlit_keeps)
    | (with_reducible apply pump_keeps) | (with_reducible apply setLink_keeps)
    | (fail_if_no_progress with_reducible refine Keeps.put ?_ rfl rfl rfl) | split)

theorem setTag_keeps {z s : State} (h : Keeps z s) (node : Nat) (t : BitVec 32) :
    Keeps z (setTag s node t) := by
  unfold setTag
  try dsimp only
  repeat' (first
    | (with_reducible assumption) | (fail_if_no_progress with_reducible refine Keeps.put ?_ rfl rfl rfl))

theorem issueTo_keeps {z s : State} (h : Keeps z s) (node n : Nat) : Keeps z (issueTo node n s) := by
  induction n generalizing s with
  | zero => exact h
  | succ n ih =>
    unfold issueTo
    split
    · exact h
    · dsimp only
      split
      · exact ih (sendPacket_keeps (Keeps.put h rfl rfl rfl) _)
      · exact h

theorem issueAll_keeps {z s : State} (h : Keeps z s) (node : Nat) :
    Keeps z (issueAll s node) := by
  unfold issueAll
  try dsimp only
  repeat' (first
    | (with_reducible assumption) | (with_reducible apply issueTo_keeps) | split)

theorem ask_keeps {z s : State} (h : Keeps z s) (ring : Option Nat) (a : Ask) :
    Keeps z (ask s ring a) := by
  unfold ask
  try dsimp only
  repeat' (first
    | (with_reducible assumption) | (with_reducible apply setTag_keeps) | (with_reducible apply issueAll_keeps)
    | (fail_if_no_progress with_reducible refine Keeps.put ?_ rfl rfl rfl))

theorem asks_keeps {z s : State} (h : Keeps z s) (ring : Option Nat) (l : List Ask) : Keeps z (asks ring s l) := by
  induction l generalizing s with
  | nil => exact h
  | cons a l ih => exact ih (ask_keeps h ring a)

theorem collAbortAll_keeps {z s : State} (h : Keeps z s) (inst : CollInst) :
    Keeps z (collAbortAll s inst) := by
  unfold collAbortAll
  try dsimp only
  repeat' (first
    | (with_reducible assumption) | (with_reducible apply asks_keeps))

theorem farWrite_keeps {z s : State} (h : Keeps z s) (a : Nat) (bs : List Byte) :
    Keeps z (farWrite s a bs) := by
  unfold farWrite
  try dsimp only
  repeat' (first
    | (with_reducible assumption) | (with_reducible apply asks_keeps) | (with_reducible apply gWrite_keeps) | split)

theorem putTally_keeps {z s : State} (h : Keeps z s) (t v : Nat) : Keeps z (putTally s t v) := by
  have h1 : Keeps z { s with hop := { s.hop with tallies := tableSet tallyDefault t (BitVec.ofNat 64 v) s.hop.tallies } } :=
    Keeps.putTables h rfl rfl (fun g => ⟨g.1, g.2.1, tableSet_wf _ _ _ _ g.2.2.1, g.2.2.2⟩)
  unfold putTally
  dsimp only
  split
  · exact h1
  · exact farWrite_keeps h1 _ _

theorem tallyAdd_keeps {z s : State} (h : Keeps z s) (t add : Nat) :
    Keeps z (tallyAdd s t add) := by
  unfold tallyAdd
  try dsimp only
  repeat' (first
    | (with_reducible assumption) | (with_reducible apply putTally_keeps) | (with_reducible apply countP_keeps)
    | (with_reducible apply countT_keeps) | split)

theorem popPage_keeps {z s : State} (h : Keeps z s) (p c : Nat) :
    Keeps z (popPage s p c) := by
  unfold popPage
  try dsimp only
  repeat' (first
    | (with_reducible assumption) | (with_reducible apply stWord_keeps) | split)

theorem pushPage_keeps {z s : State} (h : Keeps z s) (p c page : Nat) :
    Keeps z (pushPage s p c page) := by
  unfold pushPage
  try dsimp only
  repeat' (first
    | (with_reducible assumption) | (with_reducible apply stWord_keeps) | split)

theorem pushBack_keeps {z s : State} (h : Keeps z s) (l : List PageRes) : Keeps z (pushBack s l) := by
  induction l with
  | nil => exact h
  | cons r l ih => exact pushPage_keeps ih r.part r.cls r.page

theorem setRef_keeps {z s : State} (h : Keeps z s) (pool : Pool) (c page n : Nat) :
    Keeps z (setRef s pool c page n) := by
  unfold setRef
  try dsimp only
  repeat' (first
    | (with_reducible assumption) | (with_reducible apply stWord_keeps))

theorem deferPage_keeps {z s : State} (h : Keeps z s) (p c page : Nat) :
    Keeps z (deferPage s p c page) := by
  unfold deferPage
  try dsimp only
  repeat' (first
    | (with_reducible assumption) | (with_reducible apply stWord_keeps) | split)

theorem returnPages_keeps {z s : State} (h : Keeps z s) (p fence n : Nat) : Keeps z (returnPages p fence n s) := by
  induction n generalizing s with
  | zero => exact h
  | succ n ih =>
    unfold returnPages
    split
    · exact h
    · split
      · exact h
      · dsimp only
        split
        · exact ih (countP_keeps (stWord_keeps (pushPage_keeps h _ _ _) _ _ _) _ _ _)
        · exact h

theorem updateFence_keeps {z s : State} (h : Keeps z s) (p : Nat) :
    Keeps z (updateFence s p) := by
  unfold updateFence
  try dsimp only
  repeat' (first
    | (with_reducible assumption) | (with_reducible apply putTally_keeps) | (with_reducible apply returnPages_keeps)
    | split)

theorem walkStart_keeps {z s : State} (h : Keeps z s) (p ring unit : Nat) :
    Keeps z (walkStart s p ring unit) := by
  unfold walkStart
  try dsimp only
  repeat' (first
    | (with_reducible assumption) | (fail_if_no_progress with_reducible refine Keeps.put ?_ rfl rfl rfl))

theorem walkEnd_keeps {z s : State} (h : Keeps z s) (p ring unit : Nat) :
    Keeps z (walkEnd s p ring unit) := by
  unfold walkEnd
  try dsimp only
  repeat' (first
    | (with_reducible assumption) | (with_reducible apply updateFence_keeps)
    | (fail_if_no_progress with_reducible refine Keeps.put ?_ rfl rfl rfl))

theorem walksEnd_keeps {z s : State} (h : Keeps z s) (p ring : Nat) :
    Keeps z (walksEnd s p ring) := by
  unfold walksEnd
  try dsimp only
  repeat' (first
    | (with_reducible assumption) | (with_reducible apply updateFence_keeps)
    | (fail_if_no_progress with_reducible refine Keeps.put ?_ rfl rfl rfl) | split)

theorem flipEntry_keeps {z s : State} (h : Keeps z s) (p idx : Nat) :
    Keeps z (flipEntry s p idx) := by
  unfold flipEntry
  try dsimp only
  repeat' (first
    | (with_reducible assumption) | (with_reducible apply storeM_keeps))

theorem touchAll_keeps {z s : State} (h : Keeps z s) (part : Nat) (write : Bool) (l : List (Nat × Nat)) :
    Keeps z (touchAll part write s l) := by
  induction l generalizing s with
  | nil => exact h
  | cons x l ih => exact ih (touchRange_keeps h (some part) write x.1 x.2)

theorem applyResults_keeps {z s : State} (h : Keeps z s) (l : List (Nat × List Byte)) : Keeps z (applyResults s l) := by
  induction l generalizing s with
  | nil => exact h
  | cons x l ih => exact ih (stKey_keeps h (memKey s x.1) x.2)

theorem ownView_keeps {z s : State} (h : Keeps z s) (c : InFlight) :
    Keeps z (ownView s c) := by
  unfold ownView
  try dsimp only
  repeat' (first
    | (with_reducible assumption) | (with_reducible apply applyResults_keeps))

theorem xlatPage_keeps {z s : State} (h : Keeps z s) (agent part : Nat) (m : Mapping) :
    Keeps z (xlatPage agent part s m) := by
  unfold xlatPage
  try dsimp only
  repeat' (first
    | (with_reducible assumption) | (with_reducible apply countP_keeps)
    | (fail_if_no_progress with_reducible refine Keeps.put ?_ rfl rfl rfl) | split)

theorem xlatTouch_keeps {z s : State} (h : Keeps z s) (agent part : Nat) (l : List (Nat × Nat)) :
    Keeps z (xlatTouch s agent part l) := by
  unfold xlatTouch
  try dsimp only
  repeat' (first
    | (with_reducible assumption) | (with_reducible apply xlatPage_keeps) | (with_reducible apply foldl_keeps)
    | intro _)

theorem addCounts_keeps {z s : State} (h : Keeps z s) (l : List (Nat × Nat)) : Keeps z (addCounts s l) := by
  induction l generalizing s with
  | nil => exact h
  | cons x l ih => exact ih (dAdd_keeps h x.1 x.2)

theorem meter_keeps {z s : State} (h : Keeps z s) (c : InFlight) (l : List (Nat × Nat)) :
    Keeps z (meter c l s) := by
  unfold meter
  try dsimp only
  repeat' (first
    | (with_reducible assumption) | (fail_if_no_progress with_reducible refine Keeps.put ?_ rfl rfl rfl) | split
    | (with_reducible apply foldl_keeps) | intro _)

theorem payWeirs_keeps {z s : State} (h : Keeps z s) (ring : Nat) (c : InFlight) (l : List (Nat × Nat)) :
    Keeps z (payWeirs s ring c l) := by
  unfold payWeirs
  try dsimp only
  repeat' (first
    | (with_reducible assumption) | (with_reducible apply setFlight_keeps) | (with_reducible apply meter_keeps))

theorem finishRun_keeps {z s : State} (h : Keeps z s) (ring status : Nat) (acts : List CommitAct) (wrote : List (Nat
      × Nat)) (results : List (Nat × List Byte)) (reserve : List PageRes) :
    Keeps z (finishRun s ring status acts wrote results reserve) := by
  unfold finishRun
  try dsimp only
  repeat' (first
    | (with_reducible assumption) | (with_reducible apply setFlight_keeps) | (with_reducible apply tickFresh_keeps))

theorem failRun_keeps {z s : State} (h : Keeps z s) (ring status : Nat) (wrote : List (Nat × Nat)) :
    Keeps z (failRun s ring status wrote) := by
  unfold failRun
  try dsimp only
  repeat' (first
    | (with_reducible assumption) | (with_reducible apply collAbortAll_keeps)
    | (with_reducible apply finishRun_keeps) | split)

theorem withMaps_keeps {z s : State} (h : Keeps z s) (l : List Mapping) :
    Keeps z (withMaps s l) := by
  unfold withMaps
  try dsimp only
  repeat' (first
    | (with_reducible assumption) | (fail_if_no_progress with_reducible refine Keeps.put ?_ rfl rfl rfl))

theorem planStores_keeps {z s : State} (h : Keeps z s) (w : Who) (c : InFlight) (p : Plan) (t : Touched) :
    Keeps z (planStores s w c p t) := by
  unfold planStores
  try dsimp only
  repeat' (first
    | (with_reducible assumption) | (with_reducible apply withMaps_keeps) | (with_reducible apply zeroPages_keeps)
    | (with_reducible apply xlatTouch_keeps) | (with_reducible apply undefine_keeps)
    | (with_reducible apply touchAll_keeps) | (with_reducible apply addCounts_keeps)
    | (with_reducible apply meter_keeps) | (with_reducible apply popPage_keeps) | (with_reducible apply asks_keeps)
    | (with_reducible apply foldl_keeps) | intro _)

theorem fetchOperands_keeps {z s : State} (h : Keeps z s) (ring : Nat) (c : InFlight) (l : List (Nat × Nat)) :
    Keeps z (fetchOperands s ring c l) := by
  unfold fetchOperands
  try dsimp only
  repeat' (first
    | (with_reducible assumption) | (with_reducible apply asks_keeps) | (with_reducible apply setFlight_keeps))

theorem carryOut_keeps {z s : State} (h : Keeps z s) (ring : Nat) (c : InFlight) (p : Plan) (t : Touched) :
    Keeps z (carryOut s ring c p t) := by
  unfold carryOut
  try dsimp only
  repeat' (first
    | (with_reducible assumption) | (with_reducible apply fireInjection_keeps)
    | (with_reducible apply withMaps_keeps) | (with_reducible apply hostFetch_keeps)
    | (with_reducible apply finishRun_keeps) | (with_reducible apply planStores_keeps)
    | (with_reducible apply setFlight_keeps) | (with_reducible apply chargeUnits_keeps)
    | (fail_if_no_progress with_reducible refine Keeps.put ?_ rfl rfl rfl) | split
    | (with_reducible apply foldl_keeps) | intro _)

theorem runPlan_keeps {z s : State} (h : Keeps z s) (ring : Nat) (c : InFlight) (p : Plan) :
    Keeps z (runPlan s ring c p) := by
  unfold runPlan
  try dsimp only
  repeat' (first
    | (with_reducible assumption) | (with_reducible apply withMaps_keeps) | (with_reducible apply detectError_keeps)
    | (with_reducible apply setFlight_keeps) | (with_reducible apply failRun_keeps)
    | (with_reducible apply payWeirs_keeps) | (with_reducible apply fetchOperands_keeps)
    | (with_reducible apply carryOut_keeps) | (fail_if_no_progress with_reducible refine Keeps.put ?_ rfl rfl rfl)
    | split)

theorem planView_keeps {z s : State} (h : Keeps z s) (c : InFlight) :
    Keeps z (planView s c) := by
  unfold planView
  try dsimp only
  repeat' (first
    | (with_reducible assumption) | (with_reducible apply dSet_keeps))

theorem runOp_keeps {z s : State} (h : Keeps z s) (ring : RingId) (opc : Nat) (plan : State → InFlight → Plan) :
    Keeps z (runOp s ring opc plan) := by
  unfold runOp
  try dsimp only
  repeat' (first
    | (with_reducible assumption) | (with_reducible apply runPlan_keeps) | (with_reducible apply planView_keeps)
    | split)

theorem setFreeList_keeps {z s : State} (h : Keeps z s) (p head count : Nat) :
    Keeps z (setFreeList s p head count) := by
  unfold setFreeList
  try dsimp only
  repeat' (first
    | (with_reducible assumption) | (with_reducible apply count_keeps)
    | (fail_if_no_progress with_reducible refine Keeps.put ?_ rfl rfl rfl))

theorem unmapPage_keeps {z s : State} (h : Keeps z s) (part va : Nat) :
    Keeps z (unmapPage s part va) := by
  unfold unmapPage
  try dsimp only
  repeat' (first
    | (with_reducible assumption) | (fail_if_no_progress with_reducible refine Keeps.put ?_ rfl rfl rfl) | split)

theorem mapDone_keeps {z s : State} (h : Keeps z s) (part va : Nat) :
    Keeps z (mapDone s part va) := by
  unfold mapDone
  try dsimp only
  repeat' (first
    | (with_reducible assumption) | (fail_if_no_progress with_reducible refine Keeps.put ?_ rfl rfl rfl))

theorem dropMaps_keeps {z s : State} (h : Keeps z s) (part ring : Nat) :
    Keeps z (dropMaps s part ring) := by
  unfold dropMaps
  try dsimp only
  repeat' (first
    | (with_reducible assumption) | (with_reducible apply unmapPage_keeps) | (with_reducible apply foldl_keeps)
    | intro _)

end Sys2Proof.Machine
end

