-- ==== Sys2Proof/Laws/KeepsCommands.lean ====
section
/-! SUPPORT. `Keeps` carried through what ring commands, their commits and the dictionary entries do. -/

namespace Sys2Proof.Machine

theorem failInst_keeps {z s : State} (h : Keeps z s) (ring status : Nat) :
    Keeps z (failInst s ring status) := by
  unfold failInst
  try dsimp only
  repeat' (first
    | (with_reducible assumption) | (with_reducible apply setFlight_keeps)
    | (fail_if_no_progress with_reducible refine Keeps.put ?_ rfl rfl rfl) | split)

theorem failColl_keeps {z s : State} (h : Keeps z s) (ring status : Nat) :
    Keeps z (failColl s ring status) := by
  unfold failColl
  try dsimp only
  repeat' (first
    | (with_reducible assumption) | (with_reducible apply collAbortAll_keeps) | (with_reducible apply failInst_keeps)
    | split)

theorem collBlocked_keeps {z s : State} (h : Keeps z s) (ring : Nat) (c : InFlight) (reads : List (Nat × Nat)) :
    ∀ t, collBlocked s ring c reads = some t → Keeps z t := by
  intro t ht
  unfold collBlocked at ht
  try dsimp only at ht
  repeat' split at ht
  all_goals (first | cases ht)
  all_goals repeat' (first
    | (with_reducible assumption) | (with_reducible apply detectError_keeps) | (with_reducible apply failColl_keeps)
    | (with_reducible apply fetchOperands_keeps))

theorem runColl_keeps {z s : State} (h : Keeps z s) (ring opc : Nat) :
    Keeps z (runColl s ring opc) := by
  unfold runColl
  try dsimp only
  repeat' (first
    | (with_reducible assumption)
    | (with_reducible refine collBlocked_keeps ?_ _ _ _ _ (by with_reducible assumption))
    | (with_reducible apply setFlight_keeps) | (with_reducible apply asks_keeps)
    | (with_reducible apply runPlan_keeps) | (fail_if_no_progress with_reducible refine Keeps.put ?_ rfl rfl rfl)
    | split)

theorem setCtx_keeps {z s : State} (h : Keeps z s) (engine ctx : Nat) (f : MediaCtx → MediaCtx) :
    Keeps z (setCtx s engine ctx f) := by
  unfold setCtx
  try dsimp only
  repeat' (first
    | (with_reducible assumption) | (fail_if_no_progress with_reducible refine Keeps.put ?_ rfl rfl rfl))

theorem ctxFlip_keeps {z s : State} (h : Keeps z s) (engine ctx : Nat) :
    Keeps z (ctxFlip s engine ctx) := by
  unfold ctxFlip
  try dsimp only
  repeat' (first
    | (with_reducible assumption) | (with_reducible apply setCtx_keeps))

theorem ctxReset_keeps {z s : State} (h : Keeps z s) (engine ctx : Nat) :
    Keeps z (ctxReset s engine ctx) := by
  unfold ctxReset
  try dsimp only
  repeat' (first
    | (with_reducible assumption) | (with_reducible apply setCtx_keeps))

theorem ctxFree_keeps {z s : State} (h : Keeps z s) (engine ctx : Nat) :
    Keeps z (ctxFree s engine ctx) := by
  unfold ctxFree
  try dsimp only
  repeat' (first
    | (with_reducible assumption) | (fail_if_no_progress with_reducible refine Keeps.put ?_ rfl rfl rfl))

theorem ctxCreate_keeps {z s : State} (h : Keeps z s) (c : MediaCtx) :
    Keeps z (ctxCreate s c) := by
  unfold ctxCreate
  try dsimp only
  repeat' (first
    | (with_reducible assumption) | (fail_if_no_progress with_reducible refine Keeps.put ?_ rfl rfl rfl))

theorem noteCtx_keeps {z s : State} (h : Keeps z s) (engine ctx pictures : Nat) :
    Keeps z (noteCtx s engine ctx pictures) := by
  unfold noteCtx
  try dsimp only
  repeat' (first
    | (with_reducible assumption) | (with_reducible apply count_keeps)
    | (fail_if_no_progress with_reducible refine Keeps.put ?_ rfl rfl rfl) | split)

theorem runMedia_keeps {z s : State} (h : Keeps z s) (ring opc : Nat) (f : State → InFlight → MediaRun) :
    Keeps z (runMedia s ring opc f) := by
  unfold runMedia
  try dsimp only
  repeat' (first
    | (with_reducible assumption) | (with_reducible apply fireInjection_keeps) | (with_reducible apply runPlan_keeps)
    | (with_reducible apply noteCtx_keeps) | (with_reducible apply setCtx_keeps)
    | (fail_if_no_progress with_reducible refine Keeps.put ?_ rfl rfl rfl) | split)

theorem setVersion_keeps {z s : State} (h : Keeps z s) (p idx : Nat) (cur : Bool) (version : Nat) :
    Keeps z (setVersion s p idx cur version) := by
  unfold setVersion
  try dsimp only
  repeat' (first
    | (with_reducible assumption) | (with_reducible apply store_keeps))

theorem setStream_keeps {z s : State} (h : Keeps z s) (p slot seed ctr : Nat) :
    Keeps z (setStream s p slot seed ctr) := by
  unfold setStream
  try dsimp only
  repeat' (first
    | (with_reducible assumption) | (with_reducible apply dSet_keeps))

theorem advanceStream_keeps {z s : State} (h : Keeps z s) (p slot : Nat) :
    Keeps z (advanceStream s p slot) := by
  unfold advanceStream
  try dsimp only
  repeat' (first
    | (with_reducible assumption) | (with_reducible apply dSet_keeps))

theorem runInstance_keeps {z s : State} (h : Keeps z s) (ring : Nat) (c : InFlight) (inst : CollInst) (p : Plan) :
    Keeps z (runInstance s ring c inst p) := by
  unfold runInstance
  try dsimp only
  repeat' (first
    | (with_reducible assumption) | (with_reducible apply runPlan_keeps) | (with_reducible apply collAbortAll_keeps)
    | split)

theorem takeChunks_keeps {z s : State} (h : Keeps z s) (ring : Nat) (c : InFlight) (inst : CollInst) :
    Keeps z (takeChunks s ring c inst) := by
  unfold takeChunks
  try dsimp only
  repeat' (first
    | (with_reducible assumption) | (with_reducible apply setFlight_keeps)
    | (fail_if_no_progress with_reducible refine Keeps.put ?_ rfl rfl rfl))

theorem runParity_keeps {z s : State} (h : Keeps z s) (ring opc : Nat) :
    Keeps z (runParity s ring opc) := by
  unfold runParity
  try dsimp only
  repeat' (first
    | (with_reducible assumption) | (with_reducible apply runInstance_keeps)
    | (with_reducible apply takeChunks_keeps) | (fail_if_no_progress with_reducible refine Keeps.put ?_ rfl rfl rfl)
    | split)

theorem commitWrite_keeps {z s : State} (h : Keeps z s) (ring a : Nat) (bs : List Byte) :
    Keeps z (commitWrite ring s a bs) := by
  unfold commitWrite
  try dsimp only
  repeat' (first
    | (with_reducible assumption) | (with_reducible apply gWrite_keeps) | (with_reducible apply asks_keeps) | split)

theorem scatter_keeps {z s : State} (h : Keeps z s) (ring : Nat) (l : List Nat) (bs : List Byte) :
    Keeps z (scatter ring s l bs) := by
  match l with
  | [] => exact h
  | [_] => exact h
  | a :: n :: t => exact scatter_keeps (commitWrite_keeps h ring a (bs.take n)) ring t (bs.drop n)

theorem clearTaps_keeps {z s : State} (h : Keeps z s) (first count : Nat) :
    Keeps z (clearTaps s first count) := by
  unfold clearTaps
  try dsimp only
  repeat' (first
    | (with_reducible assumption) | (with_reducible apply count_keeps) | (with_reducible apply dSet_keeps)
    | (with_reducible apply foldl_keeps) | intro _)

theorem addTap_keeps {z s : State} (h : Keeps z s) (t add : Nat) :
    Keeps z (addTap s t add) := by
  unfold addTap
  try dsimp only
  repeat' (first
    | (with_reducible assumption) | (with_reducible apply dSet_keeps))

theorem deliver_keeps {z s : State} (h : Keeps z s) (rq : Req) (bs : List Byte) :
    Keeps z (deliver s rq bs) := by
  unfold deliver
  try dsimp only
  repeat' (first
    | (with_reducible assumption) | (with_reducible apply sendMsix_keeps) | (with_reducible apply busSend_keeps)
    | (fail_if_no_progress with_reducible refine Keeps.put ?_ rfl rfl rfl) | split)

theorem respond_keeps {z s : State} (h : Keeps z s) (rq : Req) (type index sub status : Nat) (payload : List Byte) :
    Keeps z (respond s rq type index sub status payload) := by
  unfold respond
  try dsimp only
  repeat' (first
    | (with_reducible assumption) | (with_reducible apply deliver_keeps) | (with_reducible apply countT_keeps)
    | (fail_if_no_progress with_reducible refine Keeps.put ?_ rfl rfl rfl))

theorem handle_keeps {z s : State} (h : Keeps z s) (rq : Req) (type index sub : Nat) (f : State → State)
    (h_f : ∀ s, Keeps z s → Keeps z (f s)) : Keeps z (handle s rq type index sub f) := by
  have ha : Keeps z { s with pwr := { s.pwr with millerClock := true } } := Keeps.put h rfl rfl rfl
  unfold handle
  dsimp only
  split
  · exact h
  · split
    · exact countT_keeps h _ _
    · exact deliver_keeps ha _ _
    · split
      · exact respond_keeps ha _ _ _ _ _ _
      · exact h_f _ ha

theorem appendJournal_keeps {z s : State} (h : Keeps z s) (src : Source) (typeCode index sub : Nat) (value : List
      Byte) :
    Keeps z (appendJournal s src typeCode index sub value) := by
  unfold appendJournal
  try dsimp only
  repeat' (first
    | (with_reducible assumption) | (with_reducible apply dSet_keeps)
    | (fail_if_no_progress with_reducible refine Keeps.put ?_ rfl rfl rfl))

theorem journalWrite_keeps {z s : State} (h : Keeps z s) (src : Source) (k : Nat) (value : List Byte) :
    Keeps z (journalWrite s src k value) := by
  unfold journalWrite
  try dsimp only
  repeat' (first
    | (with_reducible assumption) | (with_reducible apply appendJournal_keeps) | split)

theorem handleWrite_keeps {z s : State} (h : Keeps z s) (rq : Req) (index sub : Nat) (value : List Byte)
      (op : State → State × Option Nat) (h_op : ∀ s , Keeps z s → Keeps z (op s ).1) :
    Keeps z (handleWrite s rq index sub value op) := by
  unfold handleWrite
  try dsimp only
  repeat' (first
    | (with_reducible assumption) | (with_reducible apply journalWrite_keeps) | (with_reducible apply respond_keeps)
    | (with_reducible apply handle_keeps) | (with_reducible apply h_op) | split | intro _
    | (with_reducible refine Keeps.ofPair (by with_reducible assumption) ?_))

theorem answerMirrors_keeps {z s : State} (h : Keeps z s) :
    Keeps z (answerMirrors s) := by
  unfold answerMirrors
  try dsimp only
  repeat' (first
    | (with_reducible assumption) | (with_reducible apply respond_keeps) | (with_reducible apply journalWrite_keeps)
    | (fail_if_no_progress with_reducible refine Keeps.put ?_ rfl rfl rfl) | (with_reducible apply foldl_keeps)
    | intro _)

theorem endTransition_keeps {z s : State} (h : Keeps z s) (status result : Nat) :
    Keeps z (endTransition s status result) := by
  unfold endTransition
  try dsimp only
  repeat' (first
    | (with_reducible assumption) | (with_reducible apply dSet_keeps) | (with_reducible apply respond_keeps)
    | (fail_if_no_progress with_reducible refine Keeps.put ?_ rfl rfl rfl) | split)

theorem wakeFrom_keeps {z s : State} (h : Keeps z s) (states : List Nat) :
    Keeps z (wakeFrom s states) := by
  unfold wakeFrom
  try dsimp only
  repeat' (first
    | (with_reducible assumption) | (with_reducible apply endTransition_keeps) | (with_reducible apply dAdd_keeps)
    | (fail_if_no_progress with_reducible refine Keeps.put ?_ rfl rfl rfl) | split)

theorem enterRun_keeps {z s : State} (h : Keeps z s) :
    Keeps z (enterRun s) := by
  unfold enterRun
  try dsimp only
  repeat' (first
    | (with_reducible assumption) | (with_reducible apply dSet_keeps) | split)

theorem markIdle_keeps {z s : State} (h : Keeps z s) :
    Keeps z (markIdle s) := by
  unfold markIdle
  try dsimp only
  repeat' (first
    | (with_reducible assumption) | (fail_if_no_progress with_reducible refine Keeps.put ?_ rfl rfl rfl) | split)

theorem entryFault_keeps {z s : State} (h : Keeps z s) (p : Nat) (d : List Word) :
    Keeps z (entryFault s p d).1 := by
  unfold entryFault
  try dsimp only
  repeat' (first
    | (with_reducible assumption) | (with_reducible apply detectError_keeps)
    | (with_reducible refine Keeps.ofPair (by with_reducible assumption) ?_) | split)

theorem mirrorTo_keeps {z s : State} (h : Keeps z s) (a : Nat) (bs : List Byte) (r : Ring) :
    Keeps z (mirrorTo a bs s r) := by
  unfold mirrorTo
  try dsimp only
  repeat' (first
    | (with_reducible assumption) | (with_reducible apply gWrite_keeps) | split)

theorem mirrorWrite_keeps {z s : State} (h : Keeps z s) (a : Nat) (bs : List Byte) :
    Keeps z (mirrorWrite s a bs) := by
  unfold mirrorWrite
  try dsimp only
  repeat' (first
    | (with_reducible assumption) | (with_reducible apply mirrorTo_keeps) | (with_reducible apply foldl_keeps)
    | intro _)

theorem countRing_keeps {z s : State} (h : Keeps z s) (n ix : Nat) :
    Keeps z (countRing s n ix) := by
  unfold countRing
  try dsimp only
  repeat' (first
    | (with_reducible assumption) | (with_reducible apply countP_keeps))

theorem hopperEvent_keeps {z s : State} (h : Keeps z s) (n ix producer : Nat) :
    Keeps z (hopperEvent s n ix producer) := by
  unfold hopperEvent
  try dsimp only
  repeat' (first
    | (with_reducible assumption) | (with_reducible apply raiseEvent_keeps))

theorem ringDoorbell_keeps {z s : State} (h : Keeps z s) (n word : Nat) :
    Keeps z (ringDoorbell s n word) := by
  unfold ringDoorbell
  try dsimp only
  repeat' (first
    | (with_reducible assumption) | (with_reducible apply countT_keeps) | (with_reducible apply countRing_keeps)
    | (with_reducible apply hopperEvent_keeps) | (with_reducible apply putRing_keeps)
    | (fail_if_no_progress with_reducible refine Keeps.put ?_ rfl rfl rfl) | split)

theorem ringCreate_keeps {z s : State} (h : Keeps z s) (n : Nat) :
    Keeps z (ringCreate s n).1 := by
  unfold ringCreate
  try dsimp only
  repeat' (first
    | (with_reducible assumption) | (with_reducible apply putLedger_keeps) | (with_reducible apply putRing_keeps)
    | (with_reducible apply tickFresh_keeps) | (fail_if_no_progress with_reducible refine Keeps.put ?_ rfl rfl rfl)
    | split)

theorem ringDestroy_keeps {z s : State} (h : Keeps z s) (n : Nat) :
    Keeps z (ringDestroy s n).1 := by
  unfold ringDestroy
  try dsimp only
  repeat' (first
    | (with_reducible assumption) | (with_reducible apply putLedger_keeps) | (with_reducible apply putRing_keeps)
    | (fail_if_no_progress with_reducible refine Keeps.put ?_ rfl rfl rfl) | split)

theorem ringResume_keeps {z s : State} (h : Keeps z s) (n : Nat) :
    Keeps z (ringResume s n).1 := by
  unfold ringResume
  try dsimp only
  repeat' (first
    | (with_reducible assumption) | (with_reducible apply putRing_keeps) | (with_reducible apply haltRing_keeps)
    | (fail_if_no_progress with_reducible refine Keeps.put ?_ rfl rfl rfl) | split)

theorem ringCmd_keeps {z s : State} (h : Keeps z s) (word : Nat) :
    Keeps z (ringCmd word s).1 := by
  unfold ringCmd
  try dsimp only
  repeat' (first
    | (with_reducible assumption) | (with_reducible apply ringCreate_keeps)
    | (with_reducible apply ringDestroy_keeps) | (with_reducible apply ringResume_keeps)
    | (with_reducible apply putRing_keeps) | (fail_if_no_progress with_reducible refine Keeps.put ?_ rfl rfl rfl)
    | (with_reducible refine Keeps.ofPair (by with_reducible assumption) ?_) | split)

theorem ringRequest_keeps {z s : State} (h : Keeps z s) (rq : Req) (op : Nat) (ring : RingId) (rsv : BitVec 46) :
    Keeps z (ringRequest s rq op ring rsv) := by
  unfold ringRequest
  try dsimp only
  repeat' (first
    | (with_reducible assumption) | (with_reducible apply ringCmd_keeps) | (with_reducible apply handleWrite_keeps)
    | intro _)

theorem beginStall_keeps {z s : State} (h : Keeps z s) (index p : Nat) :
    Keeps z (beginStall s index p) := by
  unfold beginStall
  try dsimp only
  repeat' (first
    | (with_reducible assumption) | (with_reducible apply countP_keeps)
    | (fail_if_no_progress with_reducible refine Keeps.put ?_ rfl rfl rfl) | split)

theorem stopAtLimit_keeps {z s : State} (h : Keeps z s) (n : Nat) :
    Keeps z (stopAtLimit s n) := by
  unfold stopAtLimit
  try dsimp only
  repeat' (first
    | (with_reducible assumption) | (with_reducible apply hopperEvent_keeps) | (with_reducible apply countP_keeps)
    | (fail_if_no_progress with_reducible refine Keeps.put ?_ rfl rfl rfl) | split)

theorem endStalls_keeps {z s : State} (h : Keeps z s) (p n : Nat) :
    Keeps z (endStalls s p n) := by
  unfold endStalls
  try dsimp only
  repeat' (first
    | (with_reducible assumption) | (fail_if_no_progress with_reducible refine Keeps.put ?_ rfl rfl rfl))

theorem haltUnread_keeps {z s : State} (h : Keeps z s) (n : Nat) :
    Keeps z (haltUnread s n) := by
  unfold haltUnread
  try dsimp only
  repeat' (first
    | (with_reducible assumption) | (with_reducible apply haltRing_keeps) | (with_reducible apply detectError_keeps))

theorem readSlot_keeps {z s : State} (h : Keeps z s) (n a : Nat) :
    Keeps z (readSlot s n a) := by
  unfold readSlot
  try dsimp only
  repeat' (first
    | (with_reducible assumption) | (with_reducible apply countRing_keeps) | (with_reducible apply putRing_keeps)
    | (with_reducible apply endStalls_keeps) | (fail_if_no_progress with_reducible refine Keeps.put ?_ rfl rfl rfl)
    | split)

theorem readFired_keeps {z s : State} (h : Keeps z s) (n : Nat) :
    Keeps z (readFired s n) := by
  unfold readFired
  try dsimp only
  repeat' (first
    | (with_reducible assumption) | (with_reducible apply haltUnread_keeps) | (with_reducible apply readSlot_keeps)
    | split)

theorem fetchNext_keeps {z s : State} (h : Keeps z s) (n : Nat) :
    Keeps z (fetchNext s n) := by
  unfold fetchNext
  try dsimp only
  repeat' (first
    | (with_reducible assumption) | (with_reducible apply beginStall_keeps)
    | (with_reducible apply stopAtLimit_keeps) | (with_reducible apply haltUnread_keeps)
    | (with_reducible apply readFired_keeps) | (with_reducible apply fireRead_keeps) | split)

theorem acceptCell_keeps {z s : State} (h : Keeps z s) (n : Nat) (c : HCell) :
    Keeps z (acceptCell s n c) := by
  unfold acceptCell
  try dsimp only
  repeat' (first
    | (with_reducible assumption) | (with_reducible apply putRing_keeps) | (with_reducible apply accepted_keeps)
    | (fail_if_no_progress with_reducible refine Keeps.put ?_ rfl rfl rfl) | split)

theorem stopAt_keeps {z s : State} (h : Keeps z s) (n : Nat) (c : HCell) :
    Keeps z (stopAt s n c) := by
  unfold stopAt
  try dsimp only
  repeat' (first
    | (with_reducible assumption) | (with_reducible apply countRing_keeps) | (with_reducible apply putRing_keeps))

theorem acceptNext_keeps {z s : State} (h : Keeps z s) (n : Nat) :
    Keeps z (acceptNext s n) := by
  unfold acceptNext
  try dsimp only
  repeat' (first
    | (with_reducible assumption) | (with_reducible apply putRing_keeps) | (with_reducible apply stopAt_keeps)
    | (with_reducible apply acceptCell_keeps) | (with_reducible apply entryFault_keeps)
    | (fail_if_no_progress with_reducible refine Keeps.put ?_ rfl rfl rfl) | split)

theorem refDecrement_keeps {z s : State} (h : Keeps z s) (p cls page : Nat) :
    Keeps z (refDecrement s p cls page) := by
  unfold refDecrement
  try dsimp only
  repeat' (first
    | (with_reducible assumption) | (with_reducible apply raiseEvent_keeps) | (with_reducible apply countP_keeps)
    | (with_reducible apply setRef_keeps) | (with_reducible apply deferPage_keeps) | split)

theorem refWrite_keeps {z s : State} (h : Keeps z s) (p cls page : Nat) (f : Nat → Nat) :
    Keeps z (refWrite s p cls page f) := by
  unfold refWrite
  try dsimp only
  repeat' (first
    | (with_reducible assumption) | (with_reducible apply setRef_keeps) | split)

theorem advanceEpoch_keeps {z s : State} (h : Keeps z s) (p : Nat) (always : Bool) :
    Keeps z (advanceEpoch s p always) := by
  unfold advanceEpoch
  try dsimp only
  repeat' (first
    | (with_reducible assumption) | (with_reducible apply updateFence_keeps) | (with_reducible apply dSet_keeps)
    | split)

theorem releaseSegment_keeps {z s : State} (h : Keeps z s) (ring seq : Nat) :
    Keeps z (releaseSegment s ring seq) := by
  unfold releaseSegment
  try dsimp only
  repeat' (first
    | (with_reducible assumption) | (with_reducible apply dropSeg_keeps) | (with_reducible apply setSeg_keeps)
    | (fail_if_no_progress with_reducible refine Keeps.put ?_ rfl rfl rfl) | split)

theorem sendTally_keeps {z s : State} (h : Keeps z s) (ring node tally : Nat) (addend : Word) :
    Keeps z (sendTally s ring node tally addend) := by
  unfold sendTally
  try dsimp only
  repeat' (first
    | (with_reducible assumption) | (with_reducible apply asks_keeps))

theorem applyAct_keeps {z s : State} (h : Keeps z s) (ring : Nat) (a : CommitAct) :
    Keeps z (applyAct ring s a) := by
  unfold applyAct
  try dsimp only
  repeat' (first
    | (with_reducible assumption) | (with_reducible apply flipEntry_keeps) | (with_reducible apply setVersion_keeps)
    | (with_reducible apply tallyAdd_keeps) | (with_reducible apply gWrite_keeps)
    | (with_reducible apply countP_keeps) | (with_reducible apply refWrite_keeps)
    | (with_reducible apply refDecrement_keeps) | (with_reducible apply advanceEpoch_keeps)
    | (with_reducible apply commitWrite_keeps) | (with_reducible apply setFreeList_keeps)
    | (with_reducible apply advanceStream_keeps) | (with_reducible apply setStream_keeps)
    | (with_reducible apply addTap_keeps) | (with_reducible apply scatter_keeps)
    | (with_reducible apply clearTaps_keeps) | (with_reducible apply mapDone_keeps)
    | (with_reducible apply unmapPage_keeps) | (with_reducible apply releaseSegment_keeps)
    | (with_reducible apply ctxFlip_keeps) | (with_reducible apply ctxCreate_keeps)
    | (with_reducible apply store_keeps) | (with_reducible apply ctxReset_keeps)
    | (with_reducible apply ctxFree_keeps) | (with_reducible apply sendTally_keeps)
    | (fail_if_no_progress with_reducible refine Keeps.put ?_ rfl rfl rfl) | split)

theorem applyActs_keeps {z s : State} (h : Keeps z s) (ring : Nat) (l : List CommitAct) : Keeps z
      (applyActs ring s l) := by
  induction l generalizing s with
  | nil => exact h
  | cons a l ih => exact ih (applyAct_keeps h ring a)

theorem afterEnd_keeps {z s : State} (h : Keeps z s) (ring part : Nat) :
    Keeps z (afterEnd s ring part) := by
  unfold afterEnd
  try dsimp only
  repeat' (first
    | (with_reducible assumption) | (with_reducible apply walksEnd_keeps) | (with_reducible apply dropFlight_keeps)
    | (with_reducible apply settle_keeps) | (with_reducible apply markIdle_keeps)
    | (with_reducible apply settleQuiesce_keeps)
    | (fail_if_no_progress with_reducible refine Keeps.put ?_ rfl rfl rfl))

theorem parityFailed_keeps {z s : State} (h : Keeps z s) (c : InFlight) :
    Keeps z (parityFailed s c) := by
  unfold parityFailed
  try dsimp only
  repeat' (first
    | (with_reducible assumption) | (with_reducible apply countP_keeps) | split)

theorem lostRecord_keeps {z s : State} (h : Keeps z s) (c : InFlight) :
    Keeps z (lostRecord s c).1 := by
  unfold lostRecord
  try dsimp only
  repeat' (first
    | (with_reducible assumption) | (with_reducible apply writeHealth_keeps)
    | (fail_if_no_progress with_reducible refine Keeps.put ?_ rfl rfl rfl)
    | (with_reducible refine Keeps.ofPair (by with_reducible assumption) ?_) | split)

theorem applySealed_keeps {z s : State} (h : Keeps z s) (j : JournalRec) :
    Keeps z (applySealed s j) := by
  unfold applySealed
  try dsimp only
  repeat' (first
    | (with_reducible assumption) | (with_reducible apply applyActs_keeps)
    | (fail_if_no_progress with_reducible refine Keeps.put ?_ rfl rfl rfl))

theorem commitPoint_keeps {z s : State} (h : Keeps z s) (c : InFlight) :
    Keeps z (commitPoint s c) := by
  unfold commitPoint
  try dsimp only
  repeat' (first
    | (with_reducible assumption) | (with_reducible apply applySealed_keeps)
    | (with_reducible apply applyResults_keeps) | (with_reducible apply putLedger_keeps)
    | (fail_if_no_progress with_reducible refine Keeps.put ?_ rfl rfl rfl))

theorem commitRecord_keeps {z s : State} (h : Keeps z s) (c : InFlight) :
    Keeps z (commitRecord s c) := by
  unfold commitRecord
  try dsimp only
  repeat' (first
    | (with_reducible assumption) | (with_reducible apply lostRecord_keeps) | (with_reducible apply putRing_keeps)
    | (with_reducible apply writeCompletion_keeps) | (with_reducible apply segmentEnd_keeps)
    | (with_reducible apply haltRing_keeps) | (with_reducible apply afterEnd_keeps)
    | (fail_if_no_progress with_reducible refine Keeps.put ?_ rfl rfl rfl) | split)

theorem noteHalted_keeps {z s : State} (h : Keeps z s) (c : InFlight) :
    Keeps z (noteHalted s c) := by
  unfold noteHalted
  try dsimp only
  repeat' (first
    | (with_reducible assumption) | (fail_if_no_progress with_reducible refine Keeps.put ?_ rfl rfl rfl) | split)

theorem endUncommitted_keeps {z s : State} (h : Keeps z s) (c : InFlight) :
    Keeps z (endUncommitted s c) := by
  unfold endUncommitted
  try dsimp only
  repeat' (first
    | (with_reducible assumption) | (with_reducible apply parityFailed_keeps) | (with_reducible apply dropMaps_keeps)
    | (with_reducible apply pushBack_keeps) | (with_reducible apply noteHalted_keeps)
    | (with_reducible apply undefine_keeps) | (with_reducible apply applyResults_keeps)
    | (with_reducible apply endHead_keeps) | (with_reducible apply afterEnd_keeps))

theorem endFlight_keeps {z s : State} (h : Keeps z s) (c : InFlight) :
    Keeps z (endFlight s c) := by
  unfold endFlight
  try dsimp only
  repeat' (first
    | (with_reducible assumption) | (with_reducible apply commitRecord_keeps)
    | (with_reducible apply endUncommitted_keeps) | (with_reducible apply commitPoint_keeps) | split)

theorem countCycles_keeps {z s : State} (h : Keeps z s) (c : InFlight) (agent : Nat) (k : UnitCycles) :
    Keeps z (countCycles s c agent k) := by
  unfold countCycles
  try dsimp only
  repeat' (first
    | (with_reducible assumption) | (with_reducible apply dAdd_keeps) | (with_reducible apply agentCount_keeps)
    | (with_reducible apply countP_keeps) | (with_reducible apply setFlight_keeps)
    | (fail_if_no_progress with_reducible refine Keeps.put ?_ rfl rfl rfl) | split
    | (with_reducible apply foldl_keeps) | intro _)

theorem countAbandoned_keeps {z s : State} (h : Keeps z s) (ring : Nat) (x : BitVec 8 × UnitCycles) :
    Keeps z (countAbandoned ring s x) := by
  unfold countAbandoned
  try dsimp only
  repeat' (first
    | (with_reducible assumption) | (with_reducible apply countCycles_keeps) | split)

theorem undoFlight_keeps {z s : State} (h : Keeps z s) (c : InFlight) :
    Keeps z (undoFlight s c) := by
  unfold undoFlight
  try dsimp only
  repeat' (first
    | (with_reducible assumption) | (with_reducible apply dropMaps_keeps) | (with_reducible apply pushBack_keeps)
    | (with_reducible apply setSeg_keeps) | (with_reducible apply collAbortAll_keeps)
    | (fail_if_no_progress with_reducible refine Keeps.put ?_ rfl rfl rfl) | split)

theorem endDiscard_keeps {z s : State} (h : Keeps z s) (c : InFlight) (status : Nat) :
    Keeps z (endDiscard s c status) := by
  unfold endDiscard
  try dsimp only
  repeat' (first
    | (with_reducible assumption) | (with_reducible apply undefine_keeps) | (with_reducible apply parityFailed_keeps)
    | (with_reducible apply undoFlight_keeps) | (with_reducible apply endHead_keeps)
    | (with_reducible apply dropFlight_keeps) | (with_reducible apply afterEnd_keeps)
    | (fail_if_no_progress with_reducible refine Keeps.put ?_ rfl rfl rfl))

theorem discardRing_keeps {z s : State} (h : Keeps z s) (ring : Nat) (abandoned : List (BitVec 8 × UnitCycles)) :
    Keeps z (discardRing s ring abandoned) := by
  unfold discardRing
  try dsimp only
  repeat' (first
    | (with_reducible assumption) | (with_reducible apply countAbandoned_keeps)
    | (with_reducible apply endDiscard_keeps) | split | (with_reducible apply foldl_keeps) | intro _)

theorem holdoffEnd_keeps {z s : State} (h : Keeps z s) (v : Nat) :
    Keeps z (holdoffEnd s v) := by
  unfold holdoffEnd
  try dsimp only
  repeat' (first
    | (with_reducible assumption) | (with_reducible apply sendVector_keeps)
    | (fail_if_no_progress with_reducible refine Keeps.put ?_ rfl rfl rfl) | split)

theorem dispatchEffects_keeps {z s : State} (h : Keeps z s) (w : Who) (d : List Word) :
    Keeps z (dispatchEffects s w d) := by
  unfold dispatchEffects
  try dsimp only
  repeat' (first
    | (with_reducible assumption) | (with_reducible apply walkStart_keeps) | (with_reducible apply popPage_keeps)
    | (with_reducible apply zeroPages_keeps) | (with_reducible apply setSeg_keeps)
    | (fail_if_no_progress with_reducible refine Keeps.put ?_ rfl rfl rfl) | split
    | (with_reducible apply foldl_keeps) | intro _)

theorem firstWrites_keeps {z s : State} (h : Keeps z s) (w : Who) (d : List Word) (f : InFlight) :
    Keeps z (firstWrites s w d f).1 := by
  unfold firstWrites
  try dsimp only
  repeat' (first
    | (with_reducible assumption) | (with_reducible apply undefine_keeps) | (with_reducible apply touchAll_keeps)
    | (fail_if_no_progress with_reducible refine Keeps.put ?_ rfl rfl rfl)
    | (with_reducible refine Keeps.ofPair (by with_reducible assumption) ?_) | split)

theorem placeFlight_keeps {z s : State} (h : Keeps z s) (w : Who) (c : HCell) (st : Nat) :
    Keeps z (placeFlight s w c st) := by
  unfold placeFlight
  try dsimp only
  repeat' (first
    | (with_reducible assumption) | (with_reducible apply enterRun_keeps) | (with_reducible apply firstWrites_keeps)
    | (with_reducible apply dispatchEffects_keeps) | (with_reducible apply countP_keeps)
    | (with_reducible apply putRing_keeps) | (with_reducible apply asks_keeps)
    | (fail_if_no_progress with_reducible refine Keeps.put ?_ rfl rfl rfl)
    | (with_reducible refine Keeps.ofPair (by with_reducible assumption) ?_) | split)

theorem restoreRefused_keeps {z s : State} (h : Keeps z s) (w : Who) (d : List Word) :
    Keeps z (restoreRefused s w d) := by
  unfold restoreRefused
  try dsimp only
  repeat' (first
    | (with_reducible assumption) | (with_reducible apply gWrite_keeps) | (with_reducible apply asks_keeps) | split
    | (with_reducible apply foldl_keeps) | intro _)

theorem startReading_keeps {z s : State} (h : Keeps z s) (w : Who) (c : HCell) (l : List (Nat × Nat)) :
    Keeps z (startReading s w c l) := by
  unfold startReading
  try dsimp only
  repeat' (first
    | (with_reducible assumption) | (with_reducible apply enterRun_keeps)
    | (with_reducible apply fetchOperands_keeps) | (with_reducible apply putRing_keeps)
    | (fail_if_no_progress with_reducible refine Keeps.put ?_ rfl rfl rfl))

theorem dispatchHead_keeps {z s : State} (h : Keeps z s) (w : Who) (c : HCell) :
    Keeps z (dispatchHead s w c) := by
  unfold dispatchHead
  try dsimp only
  repeat' (first
    | (with_reducible assumption) | (with_reducible apply detectError_keeps)
    | (with_reducible apply placeFlight_keeps) | (with_reducible apply entryFault_keeps)
    | (with_reducible apply endHead_keeps) | (with_reducible apply restoreRefused_keeps) | split)

theorem resumeHead_keeps {z s : State} (h : Keeps z s) (c : InFlight) :
    Keeps z (resumeHead s c) := by
  unfold resumeHead
  try dsimp only
  repeat' (first
    | (with_reducible assumption) | (with_reducible apply setFlight_keeps)
    | (with_reducible apply dispatchHead_keeps) | (with_reducible apply dropFlight_keeps)
    | (with_reducible apply fetchOperands_keeps)
    | (fail_if_no_progress with_reducible refine Keeps.put ?_ rfl rfl rfl) | split)

theorem dispatchNew_keeps {z s : State} (h : Keeps z s) (p : Nat) :
    Keeps z (dispatchNew s p) := by
  unfold dispatchNew
  try dsimp only
  repeat' (first
    | (with_reducible assumption) | (with_reducible apply dispatchHead_keeps)
    | (with_reducible apply startReading_keeps)
    | (fail_if_no_progress with_reducible refine Keeps.put ?_ rfl rfl rfl) | split)

theorem dispatchPart_keeps {z s : State} (h : Keeps z s) (p : Nat) :
    Keeps z (dispatchPart s p) := by
  unfold dispatchPart
  try dsimp only
  repeat' (first
    | (with_reducible assumption) | (with_reducible apply resumeHead_keeps)
    | (with_reducible apply dispatchNew_keeps) | split)

theorem fillWindow_keeps {z s : State} (h : Keeps z s) (agent : Nat) (x : Nat × Nat) :
    Keeps z (fillWindow agent s x) := by
  unfold fillWindow
  try dsimp only
  repeat' (first
    | (with_reducible assumption) | (with_reducible apply tickFresh_keeps)
    | (fail_if_no_progress with_reducible refine Keeps.put ?_ rfl rfl rfl))

theorem stageInto_keeps {z s : State} (h : Keeps z s) (agent : Nat) (d : List Word) :
    Keeps z (stageInto s agent d) := by
  unfold stageInto
  try dsimp only
  repeat' (first
    | (with_reducible assumption) | (with_reducible apply fillWindow_keeps) | split
    | (with_reducible apply foldl_keeps) | intro _)

theorem fireFed_keeps {z s : State} (h : Keeps z s) (agent : Nat) (x : Nat × Nat × Nat) :
    Keeps z (fireFed s agent x) := by
  unfold fireFed
  try dsimp only
  repeat' (first
    | (with_reducible assumption) | (with_reducible apply fireInjection_keeps) | split)

theorem takeUnit_keeps {z s : State} (h : Keeps z s) (c : InFlight) (agent u : Nat) (fed : Bool) :
    Keeps z (takeUnit s c agent u fed) := by
  unfold takeUnit
  try dsimp only
  repeat' (first
    | (with_reducible assumption) | (with_reducible apply setFlight_keeps) | (with_reducible apply countP_keeps)
    | (with_reducible apply walkStart_keeps) | (with_reducible apply fireFed_keeps)
    | (with_reducible apply stageInto_keeps) | (fail_if_no_progress with_reducible refine Keeps.put ?_ rfl rfl rfl)
    | split | (with_reducible apply foldl_keeps) | intro _)

theorem claimUnit_keeps {z s : State} (h : Keeps z s) (c : InFlight) (agent : Nat) (fed : Bool) :
    Keeps z (claimUnit s c agent fed) := by
  unfold claimUnit
  try dsimp only
  repeat' (first
    | (with_reducible assumption) | (with_reducible apply countT_keeps) | (with_reducible apply countP_keeps)
    | (with_reducible apply setFlight_keeps) | (with_reducible apply takeUnit_keeps)
    | (fail_if_no_progress with_reducible refine Keeps.put ?_ rfl rfl rfl) | split)

theorem endWalks_keeps {z s : State} (h : Keeps z s) (ring : Nat) :
    Keeps z (endWalks s ring) := by
  unfold endWalks
  try dsimp only
  repeat' (first
    | (with_reducible assumption) | (with_reducible apply walkEnd_keeps) | split | (with_reducible apply foldl_keeps)
    | intro _)

theorem completeUnit_keeps {z s : State} (h : Keeps z s) (c : InFlight) (agent unit : Nat) (k : UnitCycles) :
    Keeps z (completeUnit s c agent unit k) := by
  unfold completeUnit
  try dsimp only
  repeat' (first
    | (with_reducible assumption) | (with_reducible apply countCycles_keeps) | (with_reducible apply fireFed_keeps)
    | (with_reducible apply setFlight_keeps) | (with_reducible apply endWalks_keeps)
    | (with_reducible apply chargeUnits_keeps) | (fail_if_no_progress with_reducible refine Keeps.put ?_ rfl rfl rfl)
    | split)

theorem partEnds_keeps {z s : State} (h : Keeps z s) (ring st : Nat) :
    Keeps z (partEnds s ring st) := by
  unfold partEnds
  try dsimp only
  repeat' (first
    | (with_reducible assumption) | (with_reducible apply setFlight_keeps))

theorem partRan_keeps {z s : State} (h : Keeps z s) (w : Who) (d : List Word) (before c : InFlight) :
    Keeps z (partRan s w d before c) := by
  unfold partRan
  try dsimp only
  repeat' (first
    | (with_reducible assumption) | (with_reducible apply countP_keeps) | (with_reducible apply applyActs_keeps)
    | (with_reducible apply setFlight_keeps) | (with_reducible apply partEnds_keeps)
    | (with_reducible apply endWalks_keeps) | (fail_if_no_progress with_reducible refine Keeps.put ?_ rfl rfl rfl)
    | split)

theorem startPart_keeps {z s : State} (h : Keeps z s) (c : InFlight) (d : List Word) :
    Keeps z (startPart s c d) := by
  unfold startPart
  try dsimp only
  repeat' (first
    | (with_reducible assumption) | (with_reducible apply ownView_keeps) | (with_reducible apply fetchOperands_keeps)
    | (with_reducible apply detectError_keeps) | (with_reducible apply partEnds_keeps)
    | (with_reducible apply setFlight_keeps) | (with_reducible apply runPlan_keeps)
    | (with_reducible apply planView_keeps) | (with_reducible apply partRan_keeps)
    | (fail_if_no_progress with_reducible refine Keeps.put ?_ rfl rfl rfl) | split)

theorem rewindStep_keeps {z s : State} (h : Keeps z s) (c : InFlight) :
    Keeps z (rewindStep s c) := by
  unfold rewindStep
  try dsimp only
  repeat' (first
    | (with_reducible assumption) | (with_reducible apply setFlight_keeps) | (with_reducible apply partEnds_keeps)
    | (with_reducible apply startPart_keeps) | (fail_if_no_progress with_reducible refine Keeps.put ?_ rfl rfl rfl)
    | split)

theorem accepted_keeps {z s : State} (h : Keeps z s) :
    Keeps z (accepted s).1 := by
  unfold accepted
  try dsimp only
  repeat' (first
    | (with_reducible assumption))

theorem refuse_keeps {z s : State} (h : Keeps z s) :
    Keeps z (refuse s).1 := by
  unfold refuse
  try dsimp only
  repeat' (first
    | (with_reducible assumption))

theorem notQuiet_keeps {z s : State} (h : Keeps z s) :
    Keeps z (notQuiet s).1 := by
  unfold notQuiet
  try dsimp only
  repeat' (first
    | (with_reducible assumption))

theorem quiesceOp_keeps {z s : State} (h : Keeps z s) (p v : Nat) :
    Keeps z (quiesceOp p v s).1 := by
  unfold quiesceOp
  try dsimp only
  repeat' (first
    | (with_reducible assumption) | (with_reducible apply refuse_keeps) | (with_reducible apply pSet_keeps)
    | (with_reducible apply accepted_keeps) | (with_reducible apply settleQuiesce_keeps) | split)

theorem enabledOp_keeps {z s : State} (h : Keeps z s) (p v : Nat) :
    Keeps z (enabledOp p v s).1 := by
  unfold enabledOp
  try dsimp only
  repeat' (first
    | (with_reducible assumption) | (with_reducible apply refuse_keeps) | (with_reducible apply accepted_keeps)
    | (with_reducible apply notQuiet_keeps) | (with_reducible apply pSet_keeps) | split)

theorem clearCore_keeps {z s : State} (h : Keeps z s) (i : Nat) :
    Keeps z (clearCore s i) := by
  unfold clearCore
  try dsimp only
  repeat' (first
    | (with_reducible assumption) | (fail_if_no_progress with_reducible refine Keeps.put ?_ rfl rfl rfl))

theorem dropCore_keeps {z s : State} (h : Keeps z s) (i : Nat) :
    Keeps z (dropCore s i) := by
  unfold dropCore
  try dsimp only
  repeat' (first
    | (with_reducible assumption) | (with_reducible apply clearCore_keeps)
    | (fail_if_no_progress with_reducible refine Keeps.put ?_ rfl rfl rfl) | split)

theorem coreMaskOp_keeps {z s : State} (h : Keeps z s) (p word v : Nat) :
    Keeps z (coreMaskOp p word v s).1 := by
  unfold coreMaskOp
  try dsimp only
  repeat' (first
    | (with_reducible assumption) | (with_reducible apply notQuiet_keeps) | (with_reducible apply refuse_keeps)
    | (with_reducible apply dropCore_keeps) | (with_reducible apply accepted_keeps)
    | (with_reducible apply pSet_keeps) | split | (with_reducible apply foldl_keeps) | intro _)

theorem gainTally_keeps {z s : State} (h : Keeps z s) (p t : Nat) :
    Keeps z (gainTally p s t) := by
  unfold gainTally
  try dsimp only
  repeat' (first
    | (with_reducible assumption) | (with_reducible apply putTally_keeps)
    | (fail_if_no_progress with_reducible refine Keeps.put ?_ rfl rfl rfl) | split)

theorem tallyRangeOp_keeps {z s : State} (h : Keeps z s) (p : Nat) (isCount : Bool) (v : Nat) :
    Keeps z (tallyRangeOp p isCount v s).1 := by
  unfold tallyRangeOp
  try dsimp only
  repeat' (first
    | (with_reducible assumption) | (with_reducible apply notQuiet_keeps) | (with_reducible apply refuse_keeps)
    | (with_reducible apply accepted_keeps) | (with_reducible apply gainTally_keeps)
    | (with_reducible apply pSet_keeps) | (fail_if_no_progress with_reducible refine Keeps.put ?_ rfl rfl rfl)
    | (with_reducible refine Keeps.ofPair (by with_reducible assumption) ?_) | split
    | (with_reducible apply foldl_keeps) | intro _)

theorem tallyMirrorOp_keeps {z s : State} (h : Keeps z s) (rq : Req) (v : Nat) :
    Keeps z (tallyMirrorOp rq v s).1 := by
  unfold tallyMirrorOp
  try dsimp only
  repeat' (first
    | (with_reducible assumption) | (with_reducible apply notQuiet_keeps) | (with_reducible apply accepted_keeps)
    | (with_reducible apply dSet_keeps) | (with_reducible apply farWrite_keeps) | (with_reducible apply refuse_keeps)
    | (fail_if_no_progress with_reducible refine Keeps.put ?_ rfl rfl rfl)
    | (with_reducible refine Keeps.ofPair (by with_reducible assumption) ?_) | split)

theorem mirrorRequest_keeps {z s : State} (h : Keeps z s) (rq : Req) (v : Nat) :
    Keeps z (mirrorRequest s rq v) := by
  unfold mirrorRequest
  try dsimp only
  repeat' (first
    | (with_reducible assumption) | (with_reducible apply handleWrite_keeps)
    | (with_reducible apply tallyMirrorOp_keeps) | intro _)

theorem kvPoolOp_keeps {z s : State} (h : Keeps z s) (p v : Nat) :
    Keeps z (kvPoolOp p v s).1 := by
  unfold kvPoolOp
  try dsimp only
  repeat' (first
    | (with_reducible assumption) | (with_reducible apply notQuiet_keeps) | (with_reducible apply accepted_keeps)
    | (with_reducible apply dSet_keeps) | (with_reducible apply stWord_keeps) | (with_reducible apply refuse_keeps)
    | split)

theorem prefixNodesOp_keeps {z s : State} (h : Keeps z s) (p v : Nat) :
    Keeps z (prefixNodesOp p v s).1 := by
  unfold prefixNodesOp
  try dsimp only
  repeat' (first
    | (with_reducible assumption) | (with_reducible apply notQuiet_keeps) | (with_reducible apply refuse_keeps)
    | (with_reducible apply dSet_keeps) | (with_reducible apply accepted_keeps)
    | (with_reducible apply setFreeList_keeps) | (with_reducible apply stWord_keeps)
    | (with_reducible apply storeM_keeps) | split | (with_reducible apply foldl_keeps) | intro _)

theorem walkFenceOp_keeps {z s : State} (h : Keeps z s) (p v : Nat) :
    Keeps z (walkFenceOp p v s).1 := by
  unfold walkFenceOp
  try dsimp only
  repeat' (first
    | (with_reducible assumption) | (with_reducible apply notQuiet_keeps) | (with_reducible apply accepted_keeps)
    | (with_reducible apply updateFence_keeps) | (with_reducible apply dSet_keeps)
    | (with_reducible apply refuse_keeps) | split)

theorem vanishOp_keeps {z s : State} (h : Keeps z s) (slot v : Nat) :
    Keeps z (vanishOp slot v s).1 := by
  unfold vanishOp
  try dsimp only
  repeat' (first
    | (with_reducible assumption) | (with_reducible apply refuse_keeps) | (with_reducible apply accepted_keeps)
    | (with_reducible apply dSet_keeps) | split)

theorem tapOp_keeps {z s : State} (h : Keeps z s) (tap v : Nat) :
    Keeps z (tapOp tap v s).1 := by
  unfold tapOp
  try dsimp only
  repeat' (first
    | (with_reducible assumption) | (with_reducible apply refuse_keeps) | (with_reducible apply accepted_keeps)
    | (with_reducible apply dSet_keeps) | split)

theorem recordSelectOp_keeps {z s : State} (h : Keeps z s) (v : Nat) :
    Keeps z (recordSelectOp v s).1 := by
  unfold recordSelectOp
  try dsimp only
  repeat' (first
    | (with_reducible assumption) | (with_reducible apply accepted_keeps) | (with_reducible apply dSet_keeps)
    | (with_reducible apply refuse_keeps) | split)

theorem eventAckOp_keeps {z s : State} (h : Keeps z s) (v : Nat) :
    Keeps z (eventAckOp v s).1 := by
  unfold eventAckOp
  try dsimp only
  repeat' (first
    | (with_reducible assumption) | (with_reducible apply refuse_keeps) | (with_reducible apply accepted_keeps)
    | (with_reducible apply dSet_keeps) | split)

theorem region0Op_keeps {z s : State} (h : Keeps z s) (v : Nat) : Keeps z (region0Op v s).1 := by
  unfold region0Op
  repeat' split
  · exact refuse_keeps h
  · exact accepted_keeps h
  · refine accepted_keeps (tickFresh_keeps (Keeps.putMem (dSet_keeps h _ _) ?_ rfl))
    exact fun g => lose_range_wf 0 (2 ^ 40) s.fresh _ _ (fun k => decide (2 ^ 40 ≤ k))
      (fun x hx => by have := of_decide_eq_true hx; omega) g

theorem plainOp_keeps {z s : State} (h : Keeps z s) (access : Access) (index sub v : Nat) :
    Keeps z (plainOp access index sub v s).1 := by
  unfold plainOp
  try dsimp only
  repeat' (first
    | (with_reducible assumption) | (with_reducible apply notQuiet_keeps) | (with_reducible apply accepted_keeps)
    | (with_reducible apply dSet_keeps) | (with_reducible apply refuse_keeps) | split)

end Sys2Proof.Machine
end

