-- ==== Sys2Proof/Laws/KeepsModule.lean ====
section
/-! SUPPORT. `Keeps` carried through ports, targets, lending, HBM service, repair, resets, power, the management channels, the host side and the tick. -/

namespace Sys2Proof.Machine

theorem portSet_keeps {z s : State} (h : Keeps z s) (i sub v : Nat) :
    Keeps z (portSet s i sub v) := by
  unfold portSet
  try dsimp only
  repeat' (first
    | (with_reducible assumption) | (with_reducible apply dSet_keeps))

theorem closeBywash_keeps {z s : State} (h : Keeps z s) :
    Keeps z (closeBywash s) := by
  unfold closeBywash
  try dsimp only
  repeat' (first
    | (with_reducible assumption) | (with_reducible apply portSet_keeps) | (with_reducible apply dSet_keeps) | split
    | (with_reducible apply foldl_keeps) | intro _)

theorem startTraining_keeps {z s : State} (h : Keeps z s) (i : Nat) :
    Keeps z (startTraining s i) := by
  unfold startTraining
  try dsimp only
  repeat' (first
    | (with_reducible assumption) | (with_reducible apply portSet_keeps) | split)

theorem openBywash_keeps {z s : State} (h : Keeps z s) (lasers : BitVec 6) :
    Keeps z (openBywash s lasers) := by
  unfold openBywash
  try dsimp only
  repeat' (first
    | (with_reducible assumption) | (with_reducible apply startTraining_keeps) | (with_reducible apply dSet_keeps)
    | (fail_if_no_progress with_reducible refine Keeps.put ?_ rfl rfl rfl) | split
    | (with_reducible apply foldl_keeps) | intro _)

theorem bywashForceOp_keeps {z s : State} (h : Keeps z s) (v : Nat) :
    Keeps z (bywashForceOp v s).1 := by
  unfold bywashForceOp
  try dsimp only
  repeat' (first
    | (with_reducible assumption) | (with_reducible apply dSet_keeps) | (with_reducible apply closeBywash_keeps)
    | split)

theorem retrain_keeps {z s : State} (h : Keeps z s) (i : Nat) :
    Keeps z (retrain s i) := by
  unfold retrain
  try dsimp only
  repeat' (first
    | (with_reducible assumption) | (with_reducible apply count_keeps) | (with_reducible apply portSet_keeps) | split)

theorem reroute_keeps {z s : State} (h : Keeps z s) (port cls : Nat) (g : List QSlot) :
    Keeps z (reroute port cls s g) := by
  unfold reroute
  try dsimp only
  repeat' (first
    | (with_reducible assumption) | (with_reducible apply turnBack_keeps) | (with_reducible apply pump_keeps)
    | (with_reducible apply enqueue_keeps) | split)

theorem rerouteAll_keeps {z s : State} (h : Keeps z s) (port : Nat) (q : List QSlot) :
    Keeps z (rerouteAll s port q) := by
  unfold rerouteAll
  try dsimp only
  repeat' (first
    | (with_reducible assumption) | (with_reducible apply reroute_keeps) | (with_reducible apply foldl_keeps)
    | intro _)

theorem joinPartner_keeps {z s : State} (h : Keeps z s) (i node : Nat) (lack : BitVec 12) :
    Keeps z (joinPartner s i node lack) := by
  unfold joinPartner
  try dsimp only
  repeat' (first
    | (with_reducible assumption) | (with_reducible apply setLink_keeps) | (with_reducible apply count_keeps)
    | (with_reducible apply rerouteAll_keeps) | (fail_if_no_progress with_reducible refine Keeps.put ?_ rfl rfl rfl)
    | split)

theorem trainingDone_keeps {z s : State} (h : Keeps z s) (i : Nat) (r : TrainResult) :
    Keeps z (trainingDone s i r) := by
  unfold trainingDone
  try dsimp only
  repeat' (first
    | (with_reducible assumption) | (with_reducible apply portSet_keeps) | (with_reducible apply raiseEvent_keeps)
    | (with_reducible apply setLink_keeps) | (with_reducible apply joinPartner_keeps)
    | (with_reducible apply pump_keeps) | (fail_if_no_progress with_reducible refine Keeps.put ?_ rfl rfl rfl)
    | split)

theorem falyndiRetrain_keeps {z s : State} (h : Keeps z s) :
    Keeps z (falyndiRetrain s) := by
  unfold falyndiRetrain
  try dsimp only
  repeat' (first
    | (with_reducible assumption) | (with_reducible apply countT_keeps) | (with_reducible apply dSet_keeps)
    | (fail_if_no_progress with_reducible refine Keeps.put ?_ rfl rfl rfl) | split)

theorem retrainLink_keeps {z s : State} (h : Keeps z s) (i : Nat) :
    Keeps z (retrainLink s i) := by
  unfold retrainLink
  try dsimp only
  repeat' (first
    | (with_reducible assumption) | (with_reducible apply falyndiRetrain_keeps)
    | (with_reducible apply retrain_keeps) | split)

theorem nakLink_keeps {z s : State} (h : Keeps z s) (i : Nat) (lack : BitVec 12) (corrected : Nat) :
    Keeps z (nakLink s i lack corrected) := by
  unfold nakLink
  try dsimp only
  repeat' (first
    | (with_reducible assumption) | (with_reducible apply linkCount_keeps) | (with_reducible apply setLink_keeps)
    | (with_reducible apply retrainLink_keeps) | (with_reducible apply pump_keeps)
    | (fail_if_no_progress with_reducible refine Keeps.put ?_ rfl rfl rfl) | split)

theorem laneBack_keeps {z s : State} (h : Keeps z s) (i lane : Nat) :
    Keeps z (laneBack s i lane) := by
  unfold laneBack
  try dsimp only
  repeat' (first
    | (with_reducible assumption) | (with_reducible apply sendCtrl_keeps) | (with_reducible apply dSet_keeps)
    | (with_reducible apply setLink_keeps))

theorem laneError_keeps {z s : State} (h : Keeps z s) (i lane : Nat) (e : ErrorReport) (persist : Option (BitVec 2)) :
    Keeps z (laneError s i lane e persist) := by
  unfold laneError
  try dsimp only
  repeat' (first
    | (with_reducible assumption) | (with_reducible apply detectError_keeps)
    | (with_reducible apply retrainLink_keeps) | (with_reducible apply sendCtrl_keeps) | split)

theorem laneSuspect_keeps {z s : State} (h : Keeps z s) (i lane corrections : Nat) (lockLost spareGood : Bool) :
    Keeps z (laneSuspect s i lane corrections lockLost spareGood) := by
  unfold laneSuspect
  try dsimp only
  repeat' (first
    | (with_reducible assumption) | (with_reducible apply setLink_keeps) | (with_reducible apply laneError_keeps)
    | (fail_if_no_progress with_reducible refine Keeps.put ?_ rfl rfl rfl) | split)

theorem retirePort_keeps {z s : State} (h : Keeps z s) (i : Nat) :
    Keeps z (retirePort s i) := by
  unfold retirePort
  try dsimp only
  repeat' (first
    | (with_reducible assumption) | (with_reducible apply rerouteAll_keeps) | (with_reducible apply setLink_keeps)
    | (with_reducible apply portSet_keeps) | (fail_if_no_progress with_reducible refine Keeps.put ?_ rfl rfl rfl)
    | split)

theorem endMargin_keeps {z s : State} (h : Keeps z s) :
    Keeps z (endMargin s) := by
  unfold endMargin
  try dsimp only
  repeat' (first
    | (with_reducible assumption) | (with_reducible apply dSet_keeps) | (with_reducible apply laneBack_keeps)
    | (fail_if_no_progress with_reducible refine Keeps.put ?_ rfl rfl rfl) | split)

theorem forwardPacket_keeps {z s : State} (h : Keeps z s) (p : Packet) (inPort : Option Nat) (vc residency : Nat) :
    Keeps z (forwardPacket s p inPort vc residency) := by
  unfold forwardPacket
  try dsimp only
  repeat' (first
    | (with_reducible assumption) | (with_reducible apply turnBack_keeps) | (with_reducible apply launch_keeps)
    | split)

theorem lifeOut_keeps {z s : State} (h : Keeps z s) (p : Packet) :
    Keeps z (lifeOut s p) := by
  unfold lifeOut
  try dsimp only
  repeat' (first
    | (with_reducible assumption) | (with_reducible apply dropExpired_keeps)
    | (fail_if_no_progress with_reducible refine Keeps.put ?_ rfl rfl rfl) | split)

theorem answer_keeps {z s : State} (h : Keeps z s) (p : Packet) (code : Nat) (data : List Byte) (operand : Nat) :
    Keeps z (answer s p code data operand) := by
  unfold answer
  try dsimp only
  repeat' (first
    | (with_reducible assumption) | (with_reducible apply sendPacket_keeps))

theorem putDedup_keeps {z s : State} (h : Keeps z s) (e : Dedup) :
    Keeps z (putDedup s e) := by
  unfold putDedup
  try dsimp only
  repeat' (first
    | (with_reducible assumption) | (fail_if_no_progress with_reducible refine Keeps.put ?_ rfl rfl rfl))

theorem lookDedup_keeps {z s : State} (h : Keeps z s) (p : Packet) :
    Keeps z (lookDedup s p).1 := by
  unfold lookDedup
  try dsimp only
  repeat' (first
    | (with_reducible assumption) | (with_reducible apply putDedup_keeps) | (with_reducible apply countT_keeps)
    | (fail_if_no_progress with_reducible refine Keeps.put ?_ rfl rfl rfl) | split)

theorem markDedup_keeps {z s : State} (h : Keeps z s) (p : Packet) (slot : Option Word) :
    Keeps z (markDedup s p slot) := by
  unfold markDedup
  try dsimp only
  repeat' (first
    | (with_reducible assumption) | (with_reducible apply putDedup_keeps)
    | (fail_if_no_progress with_reducible refine Keeps.put ?_ rfl rfl rfl) | split)

theorem receive_keeps {z s : State} (h : Keeps z s) (p : Packet) (again fresh : State → State)
      (h_again : ∀ s , Keeps z s → Keeps z (again s )) (h_fresh : ∀ s , Keeps z s → Keeps z (fresh s )) :
    Keeps z (receive s p again fresh) := by
  unfold receive
  try dsimp only
  repeat' (first
    | (with_reducible assumption) | (with_reducible apply dropExpired_keeps) | (with_reducible apply lookDedup_keeps)
    | (with_reducible apply answer_keeps) | (with_reducible apply countT_keeps) | (with_reducible apply h_again)
    | (with_reducible apply h_fresh) | split | intro _
    | (with_reducible refine Keeps.ofPair (by with_reducible assumption) ?_))

theorem ackAgain_keeps {z s : State} (h : Keeps z s) (p : Packet) :
    Keeps z (ackAgain p s) := by
  unfold ackAgain
  try dsimp only
  repeat' (first
    | (with_reducible assumption) | (with_reducible apply answer_keeps))

theorem lent_keeps {z s : State} (h : Keeps z s) (node a n : Nat) :
    ∀ t, lent s node a n = some t → Keeps z t := by
  intro t ht
  unfold lent at ht
  try dsimp only at ht
  repeat' split at ht
  all_goals (first | cases ht)
  all_goals repeat' (first
    | (with_reducible assumption) | (with_reducible apply dSet_keeps)
    | (fail_if_no_progress with_reducible refine Keeps.put ?_ rfl rfl rfl))

theorem notLent_keeps {z s : State} (h : Keeps z s) (p : Packet) :
    Keeps z (notLent s p) := by
  unfold notLent
  try dsimp only
  repeat' (first
    | (with_reducible assumption) | (with_reducible apply answer_keeps) | (with_reducible apply countT_keeps))

theorem lenderError_keeps {z s : State} (h : Keeps z s) (p : Packet) (a : Nat) :
    Keeps z (lenderError s p a) := by
  unfold lenderError
  try dsimp only
  repeat' (first
    | (with_reducible assumption) | (with_reducible apply answer_keeps) | (with_reducible apply detectError_keeps))

theorem readWindow_keeps {z s : State} (h : Keeps z s) (p : Packet) :
    Keeps z (readWindow p s) := by
  unfold readWindow
  try dsimp only
  repeat' (first
    | (with_reducible assumption) | (with_reducible refine lent_keeps ?_ _ _ _ _ (by with_reducible assumption))
    | (with_reducible apply notLent_keeps) | (with_reducible apply fireRead_keeps)
    | (with_reducible apply lenderError_keeps) | (with_reducible apply answer_keeps)
    | (with_reducible apply touchRange_keeps) | (with_reducible apply markDedup_keeps) | split)

theorem writeWindow_keeps {z s : State} (h : Keeps z s) (p : Packet) :
    Keeps z (writeWindow p s) := by
  unfold writeWindow
  try dsimp only
  repeat' (first
    | (with_reducible assumption) | (with_reducible refine lent_keeps ?_ _ _ _ _ (by with_reducible assumption))
    | (with_reducible apply notLent_keeps) | (with_reducible apply fireRead_keeps)
    | (with_reducible apply lenderError_keeps) | (with_reducible apply answer_keeps)
    | (with_reducible apply gWrite_keeps) | (with_reducible apply markDedup_keeps) | split
    | (with_reducible apply foldl_keeps) | intro _)

theorem atomicWindow_keeps {z s : State} (h : Keeps z s) (p : Packet) :
    Keeps z (atomicWindow p s) := by
  unfold atomicWindow
  try dsimp only
  repeat' (first
    | (with_reducible assumption) | (with_reducible refine lent_keeps ?_ _ _ _ _ (by with_reducible assumption))
    | (with_reducible apply notLent_keeps) | (with_reducible apply fireRead_keeps)
    | (with_reducible apply lenderError_keeps) | (with_reducible apply countT_keeps)
    | (with_reducible apply tickFresh_keeps) | (with_reducible apply markDedup_keeps)
    | (with_reducible apply touchLine_keeps) | (with_reducible apply answer_keeps)
    | (with_reducible apply storeM_keeps) | split)

theorem atomicAgain_keeps {z s : State} (h : Keeps z s) (p : Packet) :
    Keeps z (atomicAgain p s) := by
  unfold atomicAgain
  try dsimp only
  repeat' (first
    | (with_reducible assumption) | (with_reducible apply answer_keeps))

theorem serveRead_keeps {z s : State} (h : Keeps z s) (p : Packet) :
    Keeps z (serveRead s p) := by
  unfold serveRead
  try dsimp only
  repeat' (first
    | (with_reducible assumption) | (with_reducible apply receive_keeps) | (with_reducible apply readWindow_keeps)
    | intro _)

theorem serveWrite_keeps {z s : State} (h : Keeps z s) (p : Packet) :
    Keeps z (serveWrite s p) := by
  unfold serveWrite
  try dsimp only
  repeat' (first
    | (with_reducible assumption) | (with_reducible apply receive_keeps) | (with_reducible apply ackAgain_keeps)
    | (with_reducible apply writeWindow_keeps) | intro _)

theorem serveAtomic_keeps {z s : State} (h : Keeps z s) (p : Packet) :
    Keeps z (serveAtomic s p) := by
  unfold serveAtomic
  try dsimp only
  repeat' (first
    | (with_reducible assumption) | (with_reducible apply receive_keeps) | (with_reducible apply atomicAgain_keeps)
    | (with_reducible apply atomicWindow_keeps) | split | intro _)

theorem tallyTarget_keeps {z s : State} (h : Keeps z s) (p : Packet) :
    Keeps z (tallyTarget p s) := by
  unfold tallyTarget
  try dsimp only
  repeat' (first
    | (with_reducible assumption) | (with_reducible apply answer_keeps) | (with_reducible apply tallyAdd_keeps)
    | (with_reducible apply markDedup_keeps) | (with_reducible apply countP_keeps)
    | (with_reducible apply countT_keeps) | split)

theorem serveTally_keeps {z s : State} (h : Keeps z s) (p : Packet) :
    Keeps z (serveTally s p) := by
  unfold serveTally
  try dsimp only
  repeat' (first
    | (with_reducible assumption) | (with_reducible apply receive_keeps) | (with_reducible apply ackAgain_keeps)
    | (with_reducible apply tallyTarget_keeps) | intro _)

theorem noticeTarget_keeps {z s : State} (h : Keeps z s) (p : Packet) :
    Keeps z (noticeTarget p s) := by
  unfold noticeTarget
  try dsimp only
  repeat' (first
    | (with_reducible assumption) | (with_reducible apply answer_keeps) | (with_reducible apply raiseEvent_keeps)
    | (with_reducible apply markDedup_keeps) | (fail_if_no_progress with_reducible refine Keeps.put ?_ rfl rfl rfl))

theorem serveNotice_keeps {z s : State} (h : Keeps z s) (p : Packet) :
    Keeps z (serveNotice s p) := by
  unfold serveNotice
  try dsimp only
  repeat' (first
    | (with_reducible assumption) | (with_reducible apply receive_keeps) | (with_reducible apply ackAgain_keeps)
    | (with_reducible apply noticeTarget_keeps) | intro _)

theorem abortTarget_keeps {z s : State} (h : Keeps z s) (p : Packet) :
    Keeps z (abortTarget p s) := by
  unfold abortTarget
  try dsimp only
  repeat' (first
    | (with_reducible assumption) | (with_reducible apply markDedup_keeps) | (with_reducible apply countT_keeps)
    | (with_reducible apply failInst_keeps) | (with_reducible apply answer_keeps) | split)

theorem serveAbort_keeps {z s : State} (h : Keeps z s) (p : Packet) :
    Keeps z (serveAbort s p) := by
  unfold serveAbort
  try dsimp only
  repeat' (first
    | (with_reducible assumption) | (with_reducible apply receive_keeps) | (with_reducible apply ackAgain_keeps)
    | (with_reducible apply abortTarget_keeps) | intro _)

theorem chunkTarget_keeps {z s : State} (h : Keeps z s) (p : Packet) :
    Keeps z (chunkTarget p s) := by
  unfold chunkTarget
  try dsimp only
  repeat' (first
    | (with_reducible assumption) | (with_reducible apply answer_keeps) | (with_reducible apply countT_keeps)
    | (with_reducible apply markDedup_keeps) | (with_reducible apply setFlight_keeps)
    | (fail_if_no_progress with_reducible refine Keeps.put ?_ rfl rfl rfl) | split)

theorem serveChunk_keeps {z s : State} (h : Keeps z s) (p : Packet) :
    Keeps z (serveChunk s p) := by
  unfold serveChunk
  try dsimp only
  repeat' (first
    | (with_reducible assumption) | (with_reducible apply receive_keeps) | (with_reducible apply ackAgain_keeps)
    | (with_reducible apply chunkTarget_keeps) | intro _)

theorem holdPacket_keeps {z s : State} (h : Keeps z s) (p : Packet) :
    Keeps z (holdPacket s p) := by
  unfold holdPacket
  try dsimp only
  repeat' (first
    | (with_reducible assumption) | (fail_if_no_progress with_reducible refine Keeps.put ?_ rfl rfl rfl))

theorem arrive_keeps {z s : State} (h : Keeps z s) (p : Packet) (kind : Nat) (serve : State → Packet → State)
    (h_serve : ∀ s x0, Keeps z s → Keeps z (serve s x0)) : Keeps z (arrive s p kind serve) := by
  have hw : Keeps z (if live s then wakeFrom s [2] else s) := by
    split
    · exact wakeFrom_keeps h _
    · exact h
  unfold arrive
  dsimp only
  split
  · exact h
  · generalize (if live s then wakeFrom s [2] else s) = t at hw ⊢
    split
    · exact h_serve _ _ hw
    · exact holdPacket_keeps hw _

theorem serveAny_keeps {z s : State} (h : Keeps z s) (p : Packet) :
    Keeps z (serveAny s p) := by
  unfold serveAny
  try dsimp only
  repeat' (first
    | (with_reducible assumption) | (with_reducible apply serveRead_keeps) | (with_reducible apply serveWrite_keeps)
    | (with_reducible apply serveAtomic_keeps) | (with_reducible apply serveTally_keeps)
    | (with_reducible apply serveNotice_keeps) | (with_reducible apply serveAbort_keeps)
    | (with_reducible apply serveChunk_keeps) | split)

theorem releaseArrivals_keeps {z s : State} (h : Keeps z s) :
    Keeps z (releaseArrivals s) := by
  unfold releaseArrivals
  try dsimp only
  repeat' (first
    | (with_reducible assumption) | (with_reducible apply dropExpired_keeps) | (with_reducible apply serveAny_keeps)
    | (fail_if_no_progress with_reducible refine Keeps.put ?_ rfl rfl rfl) | split
    | (with_reducible apply foldl_keeps) | intro _)

theorem winSet_keeps {z s : State} (h : Keeps z s) (w sub v : Nat) :
    Keeps z (winSet s w sub v) := by
  unfold winSet
  try dsimp only
  repeat' (first
    | (with_reducible assumption) | (with_reducible apply dSet_keeps))

theorem lendResult_keeps {z s : State} (h : Keeps z s) (code : Nat) :
    Keeps z (lendResult s code).1 := by
  unfold lendResult
  try dsimp only
  repeat' (first
    | (with_reducible assumption) | (with_reducible apply dSet_keeps))

theorem zeroWaiting_keeps {z s : State} (h : Keeps z s) (off n : Nat) :
    Keeps z (zeroWaiting s off n) := by
  unfold zeroWaiting
  try dsimp only
  repeat' (first
    | (with_reducible assumption) | (with_reducible apply zeroRange_keeps)
    | (fail_if_no_progress with_reducible refine Keeps.put ?_ rfl rfl rfl) | (with_reducible apply foldl_keeps)
    | intro _)

theorem setBorrowers_keeps {z s : State} (h : Keeps z s) (w : Nat) (l : List Nat) :
    Keeps z (setBorrowers s w l) := by
  unfold setBorrowers
  try dsimp only
  repeat' (first
    | (with_reducible assumption) | (fail_if_no_progress with_reducible refine Keeps.put ?_ rfl rfl rfl))

theorem publishAt_keeps {z s : State} (h : Keeps z s) (w part size off : Nat) :
    Keeps z (publishAt s w part size off) := by
  unfold publishAt
  try dsimp only
  repeat' (first
    | (with_reducible assumption) | (with_reducible apply zeroRange_keeps) | (with_reducible apply zeroWaiting_keeps)
    | (with_reducible apply winSet_keeps) | (with_reducible apply setBorrowers_keeps))

theorem publishOp_keeps {z s : State} (h : Keeps z s) (w part notice size : Nat) :
    Keeps z (publishOp w part notice size s).1 := by
  unfold publishOp
  try dsimp only
  repeat' (first
    | (with_reducible assumption) | (with_reducible apply lendResult_keeps) | (with_reducible apply publishAt_keeps)
    | split)

theorem tellBorrowers_keeps {z s : State} (h : Keeps z s) (w ticks : Nat) :
    Keeps z (tellBorrowers s w ticks) := by
  unfold tellBorrowers
  try dsimp only
  repeat' (first
    | (with_reducible assumption) | (with_reducible apply asks_keeps))

theorem endNotice_keeps {z s : State} (h : Keeps z s) (w : Nat) :
    Keeps z (endNotice s w) := by
  unfold endNotice
  try dsimp only
  repeat' (first
    | (with_reducible assumption) | (with_reducible apply winSet_keeps)
    | (fail_if_no_progress with_reducible refine Keeps.put ?_ rfl rfl rfl))

theorem revokeOp_keeps {z s : State} (h : Keeps z s) (w part notice size : Nat) :
    Keeps z (revokeOp w part notice size s).1 := by
  unfold revokeOp
  try dsimp only
  repeat' (first
    | (with_reducible assumption) | (with_reducible apply lendResult_keeps)
    | (with_reducible apply tellBorrowers_keeps) | (with_reducible apply endNotice_keeps)
    | (with_reducible apply winSet_keeps) | (fail_if_no_progress with_reducible refine Keeps.put ?_ rfl rfl rfl)
    | (with_reducible refine Keeps.ofPair (by with_reducible assumption) ?_) | split)

theorem lendOp_keeps {z s : State} (h : Keeps z s) (word : Nat) :
    Keeps z (lendOp word s).1 := by
  unfold lendOp
  try dsimp only
  repeat' (first
    | (with_reducible assumption) | (with_reducible apply publishOp_keeps) | (with_reducible apply revokeOp_keeps)
    | (with_reducible refine Keeps.ofPair (by with_reducible assumption) ?_) | split)

theorem freeWindow_keeps {z s : State} (h : Keeps z s) (w : Nat) :
    Keeps z (freeWindow s w) := by
  unfold freeWindow
  try dsimp only
  repeat' (first
    | (with_reducible assumption) | (with_reducible apply setBorrowers_keeps) | (with_reducible apply winSet_keeps))

theorem endTxn_keeps {z s : State} (h : Keeps z s) (t : Txn) :
    Keeps z (endTxn s t) := by
  unfold endTxn
  try dsimp only
  repeat' (first
    | (with_reducible assumption) | (with_reducible apply answerMirrors_keeps)
    | (with_reducible apply issueAll_keeps) | (fail_if_no_progress with_reducible refine Keeps.put ?_ rfl rfl rfl))

theorem resendChunk_keeps {z s : State} (h : Keeps z s) (t : Txn) :
    Keeps z (resendChunk s t) := by
  unfold resendChunk
  try dsimp only
  repeat' (first
    | (with_reducible assumption) | (with_reducible apply ask_keeps) | split)

theorem loseAdd_keeps {z s : State} (h : Keeps z s) (ring : Nat) (t : Txn) :
    Keeps z (loseAdd s ring t) := by
  unfold loseAdd
  try dsimp only
  repeat' (first
    | (with_reducible assumption) | (with_reducible apply setFlight_keeps) | (with_reducible apply countP_keeps)
    | (fail_if_no_progress with_reducible refine Keeps.put ?_ rfl rfl rfl) | split)

theorem failTxn_keeps {z s : State} (h : Keeps z s) (t : Txn) (status : Nat) :
    Keeps z (failTxn s t status) := by
  unfold failTxn
  try dsimp only
  repeat' (first
    | (with_reducible assumption) | (with_reducible apply loseAdd_keeps) | (with_reducible apply failColl_keeps)
    | (with_reducible apply setFlight_keeps) | (fail_if_no_progress with_reducible refine Keeps.put ?_ rfl rfl rfl)
    | split)

theorem takeOutput_keeps {z s : State} (h : Keeps z s) (ring a : Nat) (bs : List Byte) :
    Keeps z (takeOutput s ring a bs) := by
  unfold takeOutput
  try dsimp only
  repeat' (first
    | (with_reducible assumption) | (with_reducible apply setFlight_keeps) | (with_reducible apply asks_keeps)
    | (fail_if_no_progress with_reducible refine Keeps.put ?_ rfl rfl rfl) | split)

theorem takeDone_keeps {z s : State} (h : Keeps z s) (t : Txn) (p : Packet) :
    Keeps z (takeDone s t p) := by
  unfold takeDone
  try dsimp only
  repeat' (first
    | (with_reducible assumption) | (with_reducible apply store_keeps) | (with_reducible apply takeOutput_keeps)
    | (with_reducible apply gWrite_keeps) | split)

theorem noteAck_keeps {z s : State} (h : Keeps z s) (t : Txn) :
    Keeps z (noteAck s t) := by
  unfold noteAck
  try dsimp only
  repeat' (first
    | (with_reducible assumption) | (with_reducible apply setFlight_keeps)
    | (fail_if_no_progress with_reducible refine Keeps.put ?_ rfl rfl rfl) | split)

theorem remoteFault_keeps {z s : State} (h : Keeps z s) (t : Txn) :
    Keeps z (remoteFault s t) := by
  unfold remoteFault
  try dsimp only
  repeat' (first
    | (with_reducible assumption) | (with_reducible apply discardParts_keeps) | split)

theorem takeResponse_keeps {z s : State} (h : Keeps z s) (p : Packet) :
    Keeps z (takeResponse s p) := by
  unfold takeResponse
  try dsimp only
  repeat' (first
    | (with_reducible assumption) | (with_reducible apply dropExpired_keeps) | (with_reducible apply endTxn_keeps)
    | (with_reducible apply noteAck_keeps) | (with_reducible apply takeDone_keeps)
    | (with_reducible apply failTxn_keeps) | (with_reducible apply countT_keeps)
    | (with_reducible apply resendChunk_keeps) | (with_reducible apply remoteFault_keeps) | split)

theorem retryTxn_keeps {z s : State} (h : Keeps z s) (node : Nat) (tag : BitVec 32) :
    Keeps z (retryTxn s node tag) := by
  unfold retryTxn
  try dsimp only
  repeat' (first
    | (with_reducible assumption) | (with_reducible apply sendPacket_keeps) | (with_reducible apply countT_keeps)
    | split)

theorem timeoutTxn_keeps {z s : State} (h : Keeps z s) (node : Nat) (tag : BitVec 32) :
    Keeps z (timeoutTxn s node tag) := by
  unfold timeoutTxn
  try dsimp only
  repeat' (first
    | (with_reducible assumption) | (with_reducible apply countT_keeps) | (with_reducible apply resendChunk_keeps)
    | (with_reducible apply endTxn_keeps) | (with_reducible apply failTxn_keeps) | split)

theorem collTimeout_keeps {z s : State} (h : Keeps z s) (ring : Nat) :
    Keeps z (collTimeout s ring) := by
  unfold collTimeout
  try dsimp only
  repeat' (first
    | (with_reducible assumption) | (with_reducible apply failColl_keeps) | split)

theorem followMove_keeps {z s : State} (h : Keeps z s) (a b n : Nat) :
    Keeps z (followMove s a b n) := by
  unfold followMove
  try dsimp only
  repeat' (first
    | (with_reducible assumption) | (fail_if_no_progress with_reducible refine Keeps.put ?_ rfl rfl rfl))

theorem movePage_keeps {z s : State} (h : Keeps z s) (m : Mapping) : ∀ t, movePage s m = some t → Keeps z t := by
  intro t ht
  unfold movePage at ht
  cases hr : refuge s m.size with
  | none => rw [hr] at ht; cases ht
  | some o =>
    rw [hr] at ht
    injection ht with ht
    subst ht
    exact Keeps.put (followMove_keeps (moveRange_keeps h m.addr _ m.size) _ _ _) rfl rfl rfl

theorem movePagesOut_keeps {z s : State} (h : Keeps z s) (l : List Mapping) : Keeps z (movePagesOut l s).1 := by
  induction l generalizing s with
  | nil => exact h
  | cons m l ih =>
    unfold movePagesOut
    split
    · exact h
    · exact ih (movePage_keeps h m _ (by assumption))

theorem evacuate_keeps {z s : State} (h : Keeps z s) :
    Keeps z (evacuate s).1 := by
  unfold evacuate
  try dsimp only
  repeat' (first
    | (with_reducible assumption) | (with_reducible apply movePagesOut_keeps))

theorem shrinkQuotas_keeps {z s : State} (h : Keeps z s) (n : Nat) :
    Keeps z (shrinkQuotas s n) := by
  unfold shrinkQuotas
  try dsimp only
  repeat' (first
    | (with_reducible assumption) | (with_reducible apply pSet_keeps) | split | (with_reducible apply foldl_keeps)
    | intro _)

theorem enterRetired_keeps {z s : State} (h : Keeps z s) (ch : Nat) :
    Keeps z (enterRetired s ch) := by
  unfold enterRetired
  try dsimp only
  repeat' (first
    | (with_reducible assumption) | (with_reducible apply shrinkQuotas_keeps)
    | (fail_if_no_progress with_reducible refine Keeps.put ?_ rfl rfl rfl) | split)

theorem evacuateStep_keeps {z s : State} (h : Keeps z s) :
    Keeps z (evacuateStep s) := by
  unfold evacuateStep
  try dsimp only
  repeat' (first
    | (with_reducible assumption) | (with_reducible apply evacuate_keeps) | (with_reducible apply raiseEvent_keeps)
    | (fail_if_no_progress with_reducible refine Keeps.put ?_ rfl rfl rfl)
    | (with_reducible refine Keeps.ofPair (by with_reducible assumption) ?_) | split)

theorem beginRetire_keeps {z s : State} (h : Keeps z s) (chans : List Nat) (recSeq : Nat) :
    Keeps z (beginRetire s chans recSeq) := by
  unfold beginRetire
  try dsimp only
  repeat' (first
    | (with_reducible assumption) | (with_reducible apply enterRetired_keeps)
    | (with_reducible apply evacuateStep_keeps)
    | (fail_if_no_progress with_reducible refine Keeps.put ?_ rfl rfl rfl) | split
    | (with_reducible apply foldl_keeps) | intro _)

theorem raiseHealth_keeps {z s : State} (h : Keeps z s) (v : Nat) :
    Keeps z (raiseHealth s v) := by
  unfold raiseHealth
  try dsimp only
  repeat' (first
    | (with_reducible assumption) | (with_reducible apply dSet_keeps) | split)

theorem ringLosesStack_keeps {z s : State} (h : Keeps z s) (st n : Nat) :
    Keeps z (ringLosesStack st n s) := by
  unfold ringLosesStack
  try dsimp only
  repeat' (first
    | (with_reducible assumption) | (with_reducible apply writeHealth_keeps) | (with_reducible apply putRing_keeps)
    | (fail_if_no_progress with_reducible refine Keeps.put ?_ rfl rfl rfl) | split)

theorem tableLosesStack_keeps {z s : State} (h : Keeps z s) (st : Nat) :
    Keeps z (tableLosesStack st s) := by
  unfold tableLosesStack
  try dsimp only
  repeat' (first
    | (with_reducible assumption) | (with_reducible apply writeHealth_keeps) | (with_reducible apply dSet_keeps)
    | split)

theorem loseStack_keeps {z s : State} (h : Keeps z s) (st : Nat) :
    Keeps z (loseStack s st) := by
  unfold loseStack
  try dsimp only
  repeat' (first
    | (with_reducible assumption) | (with_reducible apply loseRange_keeps)
    | (with_reducible apply tableLosesStack_keeps) | (with_reducible apply ringLosesStack_keeps)
    | (with_reducible apply foldl_keeps) | intro _)

theorem channelRecord_keeps {z s : State} (h : Keeps z s) (recSeq ch : Nat) :
    Keeps z (channelRecord recSeq s ch) := by
  unfold channelRecord
  try dsimp only
  repeat' (first
    | (with_reducible assumption) | (with_reducible apply updateRec_keeps) | (with_reducible apply writeHealth_keeps)
    | (fail_if_no_progress with_reducible refine Keeps.put ?_ rfl rfl rfl) | split)

theorem nextPass_keeps {z s : State} (h : Keeps z s) :
    Keeps z (nextPass s) := by
  unfold nextPass
  try dsimp only
  repeat' (first
    | (with_reducible assumption) | (with_reducible apply beginRetire_keeps)
    | (fail_if_no_progress with_reducible refine Keeps.put ?_ rfl rfl rfl) | split)

theorem migrateTick_keeps {z s : State} (h : Keeps z s) :
    Keeps z (migrateTick s) := by
  unfold migrateTick
  try dsimp only
  repeat' (first
    | (with_reducible assumption) | (fail_if_no_progress with_reducible refine Keeps.put ?_ rfl rfl rfl) | split)

theorem endMigration_keeps {z s : State} (h : Keeps z s) :
    Keeps z (endMigration s) := by
  unfold endMigration
  try dsimp only
  repeat' (first
    | (with_reducible assumption) | (with_reducible apply loseStack_keeps) | (with_reducible apply raiseHealth_keeps)
    | (with_reducible apply nextPass_keeps) | (with_reducible apply channelRecord_keeps)
    | (fail_if_no_progress with_reducible refine Keeps.put ?_ rfl rfl rfl) | split
    | (with_reducible apply foldl_keeps) | intro _)

theorem evacRange_keeps {z s : State} (h : Keeps z s) (base : Nat) :
    Keeps z (evacRange s base) := by
  unfold evacRange
  try dsimp only
  repeat' (first
    | (with_reducible assumption) | (with_reducible apply movePagesOut_keeps)
    | (with_reducible apply raiseEvent_keeps) | (fail_if_no_progress with_reducible refine Keeps.put ?_ rfl rfl rfl)
    | (with_reducible refine Keeps.ofPair (by with_reducible assumption) ?_) | split)

theorem setFails_keeps {z s : State} (h : Keeps z s) (ch n : Nat) :
    Keeps z (setFails s ch n) := by
  unfold setFails
  try dsimp only
  repeat' (first
    | (with_reducible assumption) | (fail_if_no_progress with_reducible refine Keeps.put ?_ rfl rfl rfl))

theorem loseRegion0_keeps {z s : State} (h : Keeps z s) (ch : Nat) :
    Keeps z (loseRegion0 s ch) := by
  unfold loseRegion0
  try dsimp only
  repeat' (first
    | (with_reducible assumption) | (with_reducible apply dSet_keeps) | (with_reducible apply writeHealth_keeps)
    | (with_reducible apply discardParts_keeps))

theorem failPhy_keeps {z s : State} (h : Keeps z s) (ch hold : Nat) :
    Keeps z (failPhy s ch hold) := by
  unfold failPhy
  try dsimp only
  repeat' (first
    | (with_reducible assumption) | (with_reducible apply beginRetire_keeps) | (with_reducible apply count_keeps)
    | split)

theorem retrainChannel_keeps {z s : State} (h : Keeps z s) (ch : Nat) (passed : Bool) (hold : Nat) :
    Keeps z (retrainChannel s ch passed hold) := by
  unfold retrainChannel
  try dsimp only
  repeat' (first
    | (with_reducible assumption) | (with_reducible apply count_keeps) | (with_reducible apply setFails_keeps)
    | (with_reducible apply loseRegion0_keeps) | (with_reducible apply beginRetire_keeps) | split)

theorem scrubFixed_keeps {z s : State} (h : Keeps z s) (a : Nat) :
    Keeps z (scrubFixed s a) := by
  unfold scrubFixed
  try dsimp only
  repeat' (first
    | (with_reducible assumption) | (with_reducible apply detectError_keeps) | (with_reducible apply count_keeps))

theorem scrubFires_keeps {z s : State} (h : Keeps z s) (pos n : Nat) :
    Keeps z (scrubFires s pos n) := by
  unfold scrubFires
  try dsimp only
  repeat' (first
    | (with_reducible assumption) | (with_reducible apply fireRead_keeps) | split)

theorem scrubSome_keeps {z s : State} (h : Keeps z s) (corrected : List Nat) (lines : Nat) (bad : List Nat) :
    Keeps z (scrubSome s corrected lines bad) := by
  unfold scrubSome
  try dsimp only
  repeat' (first
    | (with_reducible assumption) | (with_reducible apply scrubFixed_keeps) | (with_reducible apply scrubFires_keeps)
    | (with_reducible apply dSet_keeps) | (with_reducible apply countT_keeps)
    | (with_reducible apply detectError_keeps) | split | (with_reducible apply foldl_keeps) | intro _)

theorem zeroNext_keeps {z s : State} (h : Keeps z s) :
    Keeps z (zeroNext s) := by
  unfold zeroNext
  try dsimp only
  repeat' (first
    | (with_reducible assumption) | (with_reducible apply zeroRange_keeps)
    | (fail_if_no_progress with_reducible refine Keeps.put ?_ rfl rfl rfl) | split)

theorem retireRange_keeps {z s : State} (h : Keeps z s) (a : Nat) :
    Keeps z (retireRange s a) := by
  unfold retireRange
  try dsimp only
  repeat' (first
    | (with_reducible assumption) | (with_reducible apply countT_keeps) | (with_reducible apply evacRange_keeps)
    | (fail_if_no_progress with_reducible refine Keeps.put ?_ rfl rfl rfl) | split)

theorem repairRow_keeps {z s : State} (h : Keeps z s) (ch row : Nat) :
    Keeps z (repairRow s ch row).1 := by
  unfold repairRow
  try dsimp only
  repeat' (first
    | (with_reducible assumption) | (with_reducible apply raiseHealth_keeps)
    | (with_reducible apply retireRange_keeps) | (with_reducible apply count_keeps)
    | (fail_if_no_progress with_reducible refine Keeps.put ?_ rfl rfl rfl) | split
    | (with_reducible apply foldl_keeps) | intro _)

theorem marginEnableOp_keeps {z s : State} (h : Keeps z s) (v : Nat) :
    Keeps z (marginEnableOp v s).1 := by
  unfold marginEnableOp
  try dsimp only
  repeat' (first
    | (with_reducible assumption) | (with_reducible apply refuse_keeps) | (with_reducible apply accepted_keeps)
    | (with_reducible apply dSet_keeps) | (fail_if_no_progress with_reducible refine Keeps.put ?_ rfl rfl rfl)
    | split)

theorem marginRunOp_keeps {z s : State} (h : Keeps z s) (v : Nat) (passed inRange : Bool) (errors : Nat) :
    Keeps z (marginRunOp v passed inRange errors s).1 := by
  unfold marginRunOp
  try dsimp only
  repeat' (first
    | (with_reducible assumption) | (with_reducible apply refuse_keeps) | (with_reducible apply accepted_keeps)
    | (with_reducible apply dSet_keeps) | (fail_if_no_progress with_reducible refine Keeps.put ?_ rfl rfl rfl)
    | split)

theorem lmarginEnableOp_keeps {z s : State} (h : Keeps z s) (v : Nat) :
    Keeps z (lmarginEnableOp v s).1 := by
  unfold lmarginEnableOp
  try dsimp only
  repeat' (first
    | (with_reducible assumption) | (with_reducible apply refuse_keeps) | (with_reducible apply accepted_keeps)
    | (with_reducible apply endMargin_keeps) | (with_reducible apply swapLane_keeps)
    | (with_reducible apply dSet_keeps) | (with_reducible apply sendCtrl_keeps)
    | (fail_if_no_progress with_reducible refine Keeps.put ?_ rfl rfl rfl)
    | (with_reducible refine Keeps.ofPair (by with_reducible assumption) ?_) | split)

theorem lmarginRunOp_keeps {z s : State} (h : Keeps z s) (v : Nat) (passed inRange : Bool) (errors : Nat) :
    Keeps z (lmarginRunOp v passed inRange errors s).1 := by
  unfold lmarginRunOp
  try dsimp only
  repeat' (first
    | (with_reducible assumption) | (with_reducible apply refuse_keeps) | (with_reducible apply accepted_keeps)
    | (with_reducible apply dSet_keeps) | split)

theorem dropXlat_keeps {z s : State} (h : Keeps z s) (phys : Nat) :
    Keeps z (dropXlat s phys) := by
  unfold dropXlat
  try dsimp only
  repeat' (first
    | (with_reducible assumption) | (fail_if_no_progress with_reducible refine Keeps.put ?_ rfl rfl rfl))

theorem resetCore_keeps {z s : State} (h : Keeps z s) (phys : Nat) :
    Keeps z (resetCore s phys) := by
  unfold resetCore
  try dsimp only
  repeat' (first
    | (with_reducible assumption) | (with_reducible apply tickFresh_keeps) | (with_reducible apply dropXlat_keeps)
    | (with_reducible apply dAdd_keeps) | (fail_if_no_progress with_reducible refine Keeps.put ?_ rfl rfl rfl))

theorem enterRunnerMode_keeps {z s : State} (h : Keeps z s) (phys : Nat) :
    Keeps z (enterRunnerMode s phys) := by
  unfold enterRunnerMode
  try dsimp only
  repeat' (first
    | (with_reducible assumption) | (fail_if_no_progress with_reducible refine Keeps.put ?_ rfl rfl rfl))

theorem leaveRunnerMode_keeps {z s : State} (h : Keeps z s) (phys : Nat) :
    Keeps z (leaveRunnerMode s phys) := by
  unfold leaveRunnerMode
  try dsimp only
  repeat' (first
    | (with_reducible assumption) | (with_reducible apply resetCore_keeps) | split)

theorem zeroCore_keeps {z s : State} (h : Keeps z s) (phys : Nat) :
    Keeps z (zeroCore s phys) := by
  unfold zeroCore
  try dsimp only
  repeat' (first
    | (with_reducible assumption) | (fail_if_no_progress with_reducible refine Keeps.put ?_ rfl rfl rfl))

theorem returnCore_keeps {z s : State} (h : Keeps z s) (i : Nat) :
    Keeps z (returnCore s i) := by
  unfold returnCore
  try dsimp only
  repeat' (first
    | (with_reducible assumption) | (with_reducible apply setWithheld_keeps) | (with_reducible apply zeroCore_keeps)
    | (fail_if_no_progress with_reducible refine Keeps.put ?_ rfl rfl rfl) | split)

theorem setQuern_keeps {z s : State} (h : Keeps z s) (die st : Nat) :
    Keeps z (setQuern s die st) := by
  unfold setQuern
  try dsimp only
  repeat' (first
    | (with_reducible assumption) | (fail_if_no_progress with_reducible refine Keeps.put ?_ rfl rfl rfl))

theorem setEngine_keeps {z s : State} (h : Keeps z s) (e st : Nat) :
    Keeps z (setEngine s e st) := by
  unfold setEngine
  try dsimp only
  repeat' (first
    | (with_reducible assumption) | (fail_if_no_progress with_reducible refine Keeps.put ?_ rfl rfl rfl))

theorem endRunner_keeps {z s : State} (h : Keeps z s) (r : HealthRec) :
    Keeps z (endRunner s r) := by
  unfold endRunner
  try dsimp only
  repeat' (first
    | (with_reducible assumption) | (with_reducible apply leaveRunnerMode_keeps)
    | (with_reducible apply zeroCore_keeps) | split)

theorem rejoinUnit_keeps {z s : State} (h : Keeps z s) (r : HealthRec) :
    Keeps z (rejoinUnit s r) := by
  unfold rejoinUnit
  try dsimp only
  repeat' (first
    | (with_reducible assumption) | (with_reducible apply returnCore_keeps) | (with_reducible apply endRunner_keeps)
    | (with_reducible apply setQuern_keeps) | (with_reducible apply setEngine_keeps) | split)

theorem giveLaneBack_keeps {z s : State} (h : Keeps z s) (r : HealthRec) :
    Keeps z (giveLaneBack s r) := by
  unfold giveLaneBack
  try dsimp only
  repeat' (first
    | (with_reducible assumption) | (with_reducible apply laneBack_keeps) | split)

theorem dropTest_keeps {z s : State} (h : Keeps z s) (seq : Word) :
    Keeps z (dropTest s seq) := by
  unfold dropTest
  try dsimp only
  repeat' (first
    | (with_reducible assumption) | (fail_if_no_progress with_reducible refine Keeps.put ?_ rfl rfl rfl))

theorem amendRec_keeps {z s : State} (h : Keeps z s) (seq : Nat) (f : HealthRec → HealthRec) :
    Keeps z (amendRec s seq f) := by
  unfold amendRec
  try dsimp only
  repeat' (first
    | (with_reducible assumption) | (fail_if_no_progress with_reducible refine Keeps.put ?_ rfl rfl rfl))

theorem startTest_keeps {z s : State} (h : Keeps z s) :
    Keeps z (startTest s) := by
  unfold startTest
  try dsimp only
  repeat' (first
    | (with_reducible assumption) | (with_reducible apply countT_keeps)
    | (with_reducible apply enterRunnerMode_keeps) | (with_reducible apply resetCore_keeps)
    | (fail_if_no_progress with_reducible refine Keeps.put ?_ rfl rfl rfl) | split)

theorem verifyLater_keeps {z s : State} (h : Keeps z s) (t : Test) (r : HealthRec) (action newUnit : Nat) :
    Keeps z (verifyLater s t r action newUnit) := by
  unfold verifyLater
  try dsimp only
  repeat' (first
    | (with_reducible assumption) | (with_reducible apply amendRec_keeps) | (with_reducible apply raiseHealth_keeps)
    | (with_reducible apply setWithheld_keeps) | (with_reducible apply setQuern_keeps)
    | (fail_if_no_progress with_reducible refine Keeps.put ?_ rfl rfl rfl) | split)

theorem closeTest_keeps {z s : State} (h : Keeps z s) (t : Test) (r : HealthRec) (outcome action newUnit : Nat) :
    Keeps z (closeTest s t r outcome action newUnit) := by
  unfold closeTest
  try dsimp only
  repeat' (first
    | (with_reducible assumption) | (with_reducible apply updateRec_keeps) | (with_reducible apply dropTest_keeps))

theorem retireUnit_keeps {z s : State} (h : Keeps z s) (t : Test) (r : HealthRec) :
    Keeps z (retireUnit s t r) := by
  unfold retireUnit
  try dsimp only
  repeat' (first
    | (with_reducible assumption) | (with_reducible apply closeTest_keeps) | (with_reducible apply raiseHealth_keeps))

theorem useSpare_keeps {z s : State} (h : Keeps z s) (phys a col : Nat) :
    ∀ t x, useSpare s phys a col = some (t, x) → Keeps z t := by
  intro t x ht
  unfold useSpare at ht
  try dsimp only at ht
  repeat' split at ht
  all_goals (first | cases ht)
  all_goals repeat' (first
    | (with_reducible assumption) | (with_reducible apply dSet_keeps))

theorem useSpares_keeps {z s : State} (h : Keeps z s) (phys : Nat) (l : List (Nat × Nat)) (i : Nat) :
    ∀ t x, useSpares phys l s i = some (t, x) → Keeps z t := by
  induction l generalizing s i with
  | nil => intro t x ht; cases ht; exact h
  | cons a l ih =>
    intro t x ht
    unfold useSpares at ht
    split at ht
    · cases ht
    · exact ih (useSpare_keeps h phys _ _ _ _ (by assumption)) _ t x ht

theorem moveCore_keeps {z s : State} (h : Keeps z s) (i : Nat) :
    ∀ t x, moveCore s i = some (t, x) → Keeps z t := by
  intro t x ht
  unfold moveCore at ht
  try dsimp only at ht
  repeat' split at ht
  all_goals (first | cases ht)
  all_goals repeat' (first
    | (with_reducible assumption) | (with_reducible apply dropXlat_keeps) | (with_reducible apply zeroCore_keeps)
    | (with_reducible apply dAdd_keeps) | (fail_if_no_progress with_reducible refine Keeps.put ?_ rfl rfl rfl))

theorem retireCore_keeps {z s : State} (h : Keeps z s) (i : Nat) :
    Keeps z (retireCore s i) := by
  unfold retireCore
  try dsimp only
  repeat' (first
    | (with_reducible assumption) | (with_reducible apply setWithheld_keeps)
    | (fail_if_no_progress with_reducible refine Keeps.put ?_ rfl rfl rfl))

theorem replaceCore_keeps {z s : State} (h : Keeps z s) (t : Test) (r : HealthRec) :
    Keeps z (replaceCore s t r) := by
  unfold replaceCore
  try dsimp only
  repeat' (first
    | (with_reducible assumption) | (with_reducible refine moveCore_keeps ?_ _ _ _ (by with_reducible assumption))
    | (with_reducible apply verifyLater_keeps) | (with_reducible apply retireUnit_keeps)
    | (with_reducible apply retireCore_keeps)
    | (with_reducible refine Keeps.ofPair (by with_reducible assumption) ?_) | split)

theorem setWaySpare_keeps {z s : State} (h : Keeps z s) (g i v : Nat) :
    Keeps z (setWaySpare s g i v) := by
  unfold setWaySpare
  try dsimp only
  repeat' (first
    | (with_reducible assumption) | (fail_if_no_progress with_reducible refine Keeps.put ?_ rfl rfl rfl) | split)

theorem retireWay_keeps {z s : State} (h : Keeps z s) (g way : Nat) :
    Keeps z (retireWay s g way) := by
  unfold retireWay
  try dsimp only
  repeat' (first
    | (with_reducible assumption) | (fail_if_no_progress with_reducible refine Keeps.put ?_ rfl rfl rfl))

theorem repairWay_keeps {z s : State} (h : Keeps z s) (g way : Nat) :
    Keeps z (repairWay s g way).1 := by
  unfold repairWay
  try dsimp only
  repeat' (first
    | (with_reducible assumption) | (with_reducible apply setWaySpare_keeps) | (with_reducible apply retireWay_keeps)
    | split)

theorem retireEngine_keeps {z s : State} (h : Keeps z s) (e : Nat) :
    Keeps z (retireEngine s e) := by
  unfold retireEngine
  try dsimp only
  repeat' (first
    | (with_reducible assumption) | (with_reducible apply setEngine_keeps)
    | (fail_if_no_progress with_reducible refine Keeps.put ?_ rfl rfl rfl))

theorem failModule_keeps {z s : State} (h : Keeps z s) (faultId block : Nat) :
    Keeps z (failModule s faultId block) := by
  unfold failModule
  try dsimp only
  repeat' (first
    | (with_reducible assumption) | (with_reducible apply discardParts_keeps) | (with_reducible apply dSet_keeps)
    | (with_reducible apply closeBywash_keeps) | (fail_if_no_progress with_reducible refine Keeps.put ?_ rfl rfl rfl)
    | split)

theorem retireCells_keeps {z s : State} (h : Keeps z s) (row : Nat) :
    Keeps z (retireCells s row) := by
  unfold retireCells
  try dsimp only
  repeat' (first
    | (with_reducible assumption) | (fail_if_no_progress with_reducible refine Keeps.put ?_ rfl rfl rfl))

theorem repairLane_keeps {z s : State} (h : Keeps z s) (t : Test) (r : HealthRec) :
    Keeps z (repairLane s t r) := by
  unfold repairLane
  try dsimp only
  repeat' (first
    | (with_reducible assumption) | (with_reducible apply closeTest_keeps) | (with_reducible apply raiseHealth_keeps)
    | (with_reducible apply retireUnit_keeps) | (with_reducible apply retirePort_keeps) | split)

theorem repairQuern_keeps {z s : State} (h : Keeps z s) (t : Test) (r : HealthRec) (cols : List Nat) :
    Keeps z (repairQuern s t r cols) := by
  unfold repairQuern
  try dsimp only
  repeat' (first
    | (with_reducible assumption) | (with_reducible apply retireUnit_keeps) | (with_reducible apply setQuern_keeps)
    | (with_reducible apply verifyLater_keeps) | (fail_if_no_progress with_reducible refine Keeps.put ?_ rfl rfl rfl)
    | split)

theorem repairUnit_keeps {z s : State} (h : Keeps z s) (t : Test) (r : HealthRec) (cols : List (Nat × Nat)) :
    Keeps z (repairUnit s t r cols) := by
  unfold repairUnit
  try dsimp only
  repeat' (first
    | (with_reducible assumption) | (with_reducible apply resetCore_keeps) | (with_reducible apply failModule_keeps)
    | (with_reducible apply retireEngine_keeps)
    | (with_reducible refine useSpares_keeps ?_ _ _ _ _ _ (by with_reducible assumption))
    | (with_reducible apply retireCells_keeps) | (with_reducible apply replaceCore_keeps)
    | (with_reducible apply verifyLater_keeps) | (with_reducible apply setQuern_keeps)
    | (with_reducible apply retireUnit_keeps) | (with_reducible apply closeTest_keeps)
    | (with_reducible apply repairRow_keeps) | (with_reducible apply repairWay_keeps)
    | (with_reducible refine Keeps.ofPair (by with_reducible assumption) ?_)
    | (with_reducible apply repairQuern_keeps) | (with_reducible apply repairLane_keeps) | intro _
    | (with_reducible apply raiseHealth_keeps) | (fail_if_no_progress with_reducible refine Keeps.put ?_ rfl rfl rfl)
    | split)

theorem noteTransient_keeps {z s : State} (h : Keeps z s) (r : HealthRec) :
    Keeps z (noteTransient s r).1 := by
  unfold noteTransient
  try dsimp only
  repeat' (first
    | (with_reducible assumption) | (fail_if_no_progress with_reducible refine Keeps.put ?_ rfl rfl rfl))

theorem loseRowLines_keeps {z s : State} (h : Keeps z s) (r : HealthRec) (outcome : TestOutcome) :
    Keeps z (loseRowLines s r outcome) := by
  unfold loseRowLines
  try dsimp only
  repeat' (first
    | (with_reducible assumption) | (with_reducible apply detectError_keeps) | split
    | (with_reducible apply foldl_keeps) | intro _)

theorem testFailed_keeps {z s : State} (h : Keeps z s) (t : Test) (r : HealthRec) (cols : List (Nat × Nat)) :
    Keeps z (testFailed s t r cols) := by
  unfold testFailed
  try dsimp only
  repeat' (first
    | (with_reducible assumption) | (with_reducible apply repairUnit_keeps) | (with_reducible apply amendRec_keeps))

theorem testPassed_keeps {z s : State} (h : Keeps z s) (t : Test) (r : HealthRec) :
    Keeps z (testPassed s t r) := by
  unfold testPassed
  try dsimp only
  repeat' (first
    | (with_reducible assumption) | (with_reducible apply updateRec_keeps) | (with_reducible apply rejoinUnit_keeps)
    | (with_reducible apply dropTest_keeps) | (with_reducible apply noteTransient_keeps)
    | (with_reducible apply amendRec_keeps) | (with_reducible apply beginRetire_keeps)
    | (with_reducible apply repairUnit_keeps) | (with_reducible apply giveLaneBack_keeps)
    | (fail_if_no_progress with_reducible refine Keeps.put ?_ rfl rfl rfl) | split)

theorem releaseRow_keeps {z s : State} (h : Keeps z s) (r : HealthRec) :
    Keeps z (releaseRow s r) := by
  unfold releaseRow
  try dsimp only
  repeat' (first
    | (with_reducible assumption) | (with_reducible apply releaseArrivals_keeps) | split)

theorem endTest_keeps {z s : State} (h : Keeps z s) (t : Test) (outcome : TestOutcome) (ticks : Nat) :
    Keeps z (endTest s t outcome ticks) := by
  unfold endTest
  try dsimp only
  repeat' (first
    | (with_reducible assumption) | (with_reducible apply dropTest_keeps) | (with_reducible apply loseRowLines_keeps)
    | (with_reducible apply countT_keeps) | (with_reducible apply amendRec_keeps)
    | (with_reducible apply testPassed_keeps) | (with_reducible apply updateRec_keeps)
    | (with_reducible apply giveLaneBack_keeps) | (with_reducible apply rejoinUnit_keeps)
    | (with_reducible apply testFailed_keeps) | (with_reducible apply releaseRow_keeps)
    | (fail_if_no_progress with_reducible refine Keeps.put ?_ rfl rfl rfl) | split)

theorem relocateCore_keeps {z s : State} (h : Keeps z s) (i : Nat) :
    Keeps z (relocateCore s i) := by
  unfold relocateCore
  try dsimp only
  repeat' (first
    | (with_reducible assumption) | (with_reducible refine moveCore_keeps ?_ _ _ _ (by with_reducible assumption))
    | (with_reducible apply retireCore_keeps) | (with_reducible apply writeHealth_keeps)
    | (with_reducible apply setWithheld_keeps) | (fail_if_no_progress with_reducible refine Keeps.put ?_ rfl rfl rfl)
    | (with_reducible refine Keeps.ofPair (by with_reducible assumption) ?_) | split)

theorem loseDie_keeps {z s : State} (h : Keeps z s) (d : Nat) :
    Keeps z (loseDie s d) := by
  unfold loseDie
  try dsimp only
  repeat' (first
    | (with_reducible assumption) | (with_reducible apply writeHealth_keeps)
    | (with_reducible apply discardParts_keeps) | (with_reducible apply setQuern_keeps)
    | (with_reducible apply relocateCore_keeps) | (with_reducible apply dSet_keeps)
    | (with_reducible apply raiseHealth_keeps) | (with_reducible apply loseStack_keeps)
    | (with_reducible apply beginRetire_keeps) | (fail_if_no_progress with_reducible refine Keeps.put ?_ rfl rfl rfl)
    | split | (with_reducible apply foldl_keeps) | intro _)

theorem reportError_keeps {z s : State} (h : Keeps z s) (e : ErrorReport) (persist : Option (BitVec 2)) :
    Keeps z (reportError s e persist) := by
  unfold reportError
  try dsimp only
  repeat' (first
    | (with_reducible assumption) | (with_reducible apply laneError_keeps) | (with_reducible apply detectError_keeps)
    | split)

theorem errorStep_keeps {z s : State} (h : Keeps z s) (e : ErrorReport) :
    Keeps z (errorStep s e) := by
  unfold errorStep
  try dsimp only
  repeat' (first
    | (with_reducible assumption) | (with_reducible apply loseDie_keeps)
    | (with_reducible refine takeInjection_keeps ?_ _ _ _ (by with_reducible assumption))
    | (with_reducible apply reportError_keeps)
    | (with_reducible refine Keeps.ofPair (by with_reducible assumption) ?_) | split)

theorem armOp_keeps {z s : State} (h : Keeps z s) (w : Nat) :
    Keeps z (armOp w s).1 := by
  unfold armOp
  try dsimp only
  repeat' (first
    | (with_reducible assumption) | (with_reducible apply refuse_keeps) | (with_reducible apply accepted_keeps)
    | (with_reducible apply reportError_keeps) | (with_reducible apply countT_keeps)
    | (fail_if_no_progress with_reducible refine Keeps.put ?_ rfl rfl rfl) | split)

theorem disarmOp_keeps {z s : State} (h : Keeps z s) :
    Keeps z (disarmOp s).1 := by
  unfold disarmOp
  try dsimp only
  repeat' (first
    | (with_reducible assumption) | (with_reducible apply accepted_keeps)
    | (fail_if_no_progress with_reducible refine Keeps.put ?_ rfl rfl rfl))

theorem injOp_keeps {z s : State} (h : Keeps z s) (w : Nat) :
    Keeps z (injOp w s).1 := by
  unfold injOp
  try dsimp only
  repeat' (first
    | (with_reducible assumption) | (with_reducible apply armOp_keeps) | (with_reducible apply disarmOp_keeps)
    | (with_reducible apply refuse_keeps) | split)

theorem setSlotState_keeps {z s : State} (h : Keeps z s) (i v : Nat) :
    Keeps z (setSlotState s i v) := by
  unfold setSlotState
  try dsimp only
  repeat' (first
    | (with_reducible assumption) | (with_reducible apply dSet_keeps))

theorem putSlot_keeps {z s : State} (h : Keeps z s) (i : Nat) (x : FwSlot) :
    Keeps z (putSlot s i x) := by
  unfold putSlot
  try dsimp only
  repeat' (first
    | (with_reducible assumption) | (fail_if_no_progress with_reducible refine Keeps.put ?_ rfl rfl rfl) | split)

theorem tryBoot_keeps {z s : State} (h : Keeps z s) (l : List Nat) : Keeps z (tryBoot l s).1 := by
  induction l generalizing s with
  | nil => exact h
  | cons i l ih =>
    unfold tryBoot
    dsimp only
    split
    · exact h
    · exact ih (setSlotState_keeps (dSet_keeps h _ _) i 4)

theorem endStaging_keeps {z s : State} (h : Keeps z s) :
    Keeps z (endStaging s) := by
  unfold endStaging
  try dsimp only
  repeat' (first
    | (with_reducible assumption) | (with_reducible apply setSlotState_keeps) | split
    | (with_reducible apply foldl_keeps) | intro _)

theorem chooseSlot_keeps {z s : State} (h : Keeps z s) (staged wasStaged : Bool) (i : Nat) :
    Keeps z (chooseSlot s staged wasStaged i) := by
  unfold chooseSlot
  try dsimp only
  repeat' (first
    | (with_reducible assumption) | (with_reducible apply setSlotState_keeps) | (with_reducible apply putSlot_keeps)
    | (with_reducible apply dSet_keeps) | (with_reducible apply raiseEvent_keeps)
    | (fail_if_no_progress with_reducible refine Keeps.put ?_ rfl rfl rfl) | split
    | (with_reducible apply foldl_keeps) | intro _)

theorem enterRecovery_keeps {z s : State} (h : Keeps z s) :
    Keeps z (enterRecovery s) := by
  unfold enterRecovery
  try dsimp only
  repeat' (first
    | (with_reducible assumption) | (with_reducible apply dSet_keeps) | (with_reducible apply tickFresh_keeps)
    | (with_reducible apply raiseEvent_keeps) | (fail_if_no_progress with_reducible refine Keeps.put ?_ rfl rfl rfl))

theorem bootSlots_keeps {z s : State} (h : Keeps z s) :
    Keeps z (bootSlots s) := by
  unfold bootSlots
  try dsimp only
  repeat' (first
    | (with_reducible assumption) | (with_reducible apply endStaging_keeps) | (with_reducible apply tryBoot_keeps)
    | (with_reducible apply enterRecovery_keeps) | (with_reducible apply chooseSlot_keeps)
    | (with_reducible refine Keeps.ofPair (by with_reducible assumption) ?_) | split)

theorem migrateEntry_keeps {z : State} (image : List Byte) (before after : Nat) (x : State × List (Nat × Nat))
    (h : Keeps z x.1) (k : Nat) : Keeps z (migrateEntry image before after x k).1 := by
  unfold migrateEntry
  dsimp only
  split
  · exact dSet_keeps h _ _
  · split <;> exact dSet_keeps h _ _

theorem migrated_keeps {z : State} (x : State × List (Nat × Nat)) (h : Keeps z x.1) (before after case : Nat) :
    Keeps z (migrated x before after case) :=
  raiseEvent_keeps (dSet_keeps (Keeps.put h rfl rfl rfl) _ _) _ _ _ _ _ _

theorem migrate_keeps {z s : State} (h : Keeps z s) : Keeps z (migrate s) := by
  have hf (image : List Byte) (before after : Nat) (l : List Nat) (x : State × List (Nat × Nat)) (hx : Keeps z x.1) :
      Keeps z (l.foldl (migrateEntry image before after) x).1 :=
    l.foldlRecOn (motive := fun y => Keeps z y.1) _ hx (fun y g k _ => migrateEntry_keeps image before after y g k)
  unfold migrate
  dsimp only
  repeat' split
  · exact h
  · refine migrated_keeps _ (hf _ _ _ _ _ ?_) _ _ _
    exact Keeps.put h rfl rfl rfl
  · exact migrated_keeps _ (foldl_keeps _ (fun s e hs => dSet_keeps hs _ _) _ _ h) _ _ _
  · exact migrated_keeps _ (foldl_keeps _ (fun s e hs => dSet_keeps hs _ _) _ _ h) _ _ _

theorem boot_keeps {z s : State} (h : Keeps z s) :
    Keeps z (boot s) := by
  unfold boot
  try dsimp only
  repeat' (first
    | (with_reducible assumption) | (with_reducible apply bootSlots_keeps) | (with_reducible apply migrate_keeps)
    | split)

theorem stageObject_keeps {z s : State} (h : Keeps z s) (object : List Byte) :
    Keeps z (stageObject s object) := by
  unfold stageObject
  try dsimp only
  repeat' (first
    | (with_reducible assumption) | (with_reducible apply setSlotState_keeps) | (with_reducible apply putSlot_keeps))

theorem journalObject_keeps {z s : State} (h : Keeps z s) (src : Source) (index sub : Nat) (object : List Byte) :
    Keeps z (journalObject s src index sub object) := by
  unfold journalObject
  try dsimp only
  repeat' (first
    | (with_reducible assumption) | (with_reducible apply appendJournal_keeps))

theorem downloadBundle_keeps {z s : State} (h : Keeps z s) (rq : Req) (object : List Byte) :
    Keeps z (downloadBundle s rq object) := by
  unfold downloadBundle
  try dsimp only
  repeat' (first
    | (with_reducible assumption) | (with_reducible apply handle_keeps) | (with_reducible apply respond_keeps)
    | (with_reducible apply journalObject_keeps) | (with_reducible apply stageObject_keeps) | split | intro _)

theorem fwStageOp_keeps {z s : State} (h : Keeps z s) (v : Nat) :
    Keeps z (fwStageOp v s).1 := by
  unfold fwStageOp
  try dsimp only
  repeat' (first
    | (with_reducible assumption) | (with_reducible apply refuse_keeps) | (with_reducible apply accepted_keeps)
    | (with_reducible apply setSlotState_keeps) | (with_reducible apply putSlot_keeps)
    | (fail_if_no_progress with_reducible refine Keeps.put ?_ rfl rfl rfl) | split)

theorem failOld_keeps {z s : State} (h : Keeps z s) (n i : Nat) :
    Keeps z (failOld n s i) := by
  unfold failOld
  try dsimp only
  repeat' (first
    | (with_reducible assumption) | (with_reducible apply setSlotState_keeps) | (with_reducible apply dSet_keeps)
    | split)

theorem secverOp_keeps {z s : State} (h : Keeps z s) (v : Nat) :
    Keeps z (secverOp v s).1 := by
  unfold secverOp
  try dsimp only
  repeat' (first
    | (with_reducible assumption) | (with_reducible apply count_keeps) | (with_reducible apply refuse_keeps)
    | (with_reducible apply accepted_keeps) | (with_reducible apply dSet_keeps)
    | (with_reducible apply failOld_keeps) | split | (with_reducible apply foldl_keeps) | intro _)

theorem attest_keeps {z s : State} (h : Keeps z s) (nonce : List Byte) :
    Keeps z (attest s nonce) := by
  unfold attest
  try dsimp only
  repeat' (first
    | (with_reducible assumption) | (with_reducible apply tickFresh_keeps)
    | (fail_if_no_progress with_reducible refine Keeps.put ?_ rfl rfl rfl))

theorem downloadNonce_keeps {z s : State} (h : Keeps z s) (rq : Req) (nonce : List Byte) :
    Keeps z (downloadNonce s rq nonce) := by
  unfold downloadNonce
  try dsimp only
  repeat' (first
    | (with_reducible assumption) | (with_reducible apply handle_keeps) | (with_reducible apply respond_keeps)
    | (with_reducible apply journalObject_keeps) | (with_reducible apply attest_keeps) | split | intro _)

theorem resetPartition_keeps {z s : State} (h : Keeps z s) (p : Nat) :
    Keeps z (resetPartition s p) := by
  unfold resetPartition
  try dsimp only
  repeat' (first
    | (with_reducible assumption) | (with_reducible apply pSet_keeps))

theorem wipeHopper_keeps {z s : State} (h : Keeps z s) : Keeps z (wipeHopper s) :=
  Keeps.putTables h rfl rfl (fun g => ⟨rfl, rfl, rfl, g.2.2.2⟩)

theorem wipeCores_keeps {z s : State} (h : Keeps z s) :
    Keeps z (wipeCores s) := by
  unfold wipeCores
  try dsimp only
  repeat' (first
    | (with_reducible assumption) | (with_reducible apply tickFresh_keeps)
    | (fail_if_no_progress with_reducible refine Keeps.put ?_ rfl rfl rfl))

theorem wipeFabric_keeps {z s : State} (h : Keeps z s) :
    Keeps z (wipeFabric s) := by
  unfold wipeFabric
  try dsimp only
  repeat' (first
    | (with_reducible assumption) | (fail_if_no_progress with_reducible refine Keeps.put ?_ rfl rfl rfl))

theorem wipeHost_keeps {z s : State} (h : Keeps z s) : Keeps z (wipeHost s) :=
  Keeps.putTables h rfl rfl (fun g => ⟨g.1, g.2.1, g.2.2.1, rfl⟩)

theorem wipePower_keeps {z s : State} (h : Keeps z s) :
    Keeps z (wipePower s) := by
  unfold wipePower
  try dsimp only
  repeat' (first
    | (with_reducible assumption) | (fail_if_no_progress with_reducible refine Keeps.put ?_ rfl rfl rfl))

theorem wipeHealth_keeps {z s : State} (h : Keeps z s) :
    Keeps z (wipeHealth s) := by
  unfold wipeHealth
  try dsimp only
  repeat' (first
    | (with_reducible assumption) | (fail_if_no_progress with_reducible refine Keeps.put ?_ rfl rfl rfl))

theorem abandonTransition_keeps {z s : State} (h : Keeps z s) :
    Keeps z (abandonTransition s) := by
  unfold abandonTransition
  try dsimp only
  repeat' (first
    | (with_reducible assumption) | (with_reducible apply endTransition_keeps) | (with_reducible apply dAdd_keeps)
    | split)

theorem noteAbandoned_keeps {z s : State} (h : Keeps z s) (was : Bool) :
    Keeps z (noteAbandoned s was) := by
  unfold noteAbandoned
  try dsimp only
  repeat' (first
    | (with_reducible assumption) | (with_reducible apply dSet_keeps) | split)

theorem wipe_keeps {z s : State} (h : Keeps z s) (cold : Bool) :
    Keeps z (wipe s cold) := by
  unfold wipe
  try dsimp only
  repeat' (first
    | (with_reducible assumption) | (with_reducible apply dSet_keeps) | (with_reducible apply dropWarm_keeps)
    | (with_reducible apply endMargin_keeps) | (with_reducible apply abandonTransition_keeps)
    | (with_reducible apply wipePower_keeps) | (with_reducible apply wipeHost_keeps)
    | (with_reducible apply wipeFabric_keeps) | (with_reducible apply wipeMemory_keeps)
    | (with_reducible apply wipeCores_keeps) | (with_reducible apply wipeHopper_keeps)
    | (with_reducible apply wipeHealth_keeps) | (with_reducible apply resetPartition_keeps)
    | (with_reducible apply closeBywash_keeps) | (with_reducible apply noteAbandoned_keeps)
    | (fail_if_no_progress with_reducible refine Keeps.put ?_ rfl rfl rfl) | (with_reducible apply foldl_keeps)
    | intro _)

theorem startRetire_keeps {z s : State} (h : Keeps z s) (f : StartupFail) :
    Keeps z (startRetire s f) := by
  unfold startRetire
  try dsimp only
  repeat' (first
    | (with_reducible assumption) | (with_reducible apply writeHealth_keeps)
    | (with_reducible apply enterRetired_keeps) | (with_reducible apply raiseHealth_keeps)
    | (fail_if_no_progress with_reducible refine Keeps.put ?_ rfl rfl rfl) | (with_reducible apply foldl_keeps)
    | intro _)

theorem retireSpare_keeps {z s : State} (h : Keeps z s) (f : StartupFail) (x : Nat × Nat × Nat × Nat) :
    Keeps z (retireSpare s f x) := by
  unfold retireSpare
  try dsimp only
  repeat' (first
    | (with_reducible assumption) | (with_reducible apply writeHealth_keeps)
    | (with_reducible apply raiseHealth_keeps) | (fail_if_no_progress with_reducible refine Keeps.put ?_ rfl rfl rfl))

theorem startRepair_keeps {z s : State} (h : Keeps z s) (f : StartupFail) :
    Keeps z (startRepair s f) := by
  unfold startRepair
  try dsimp only
  repeat' (first
    | (with_reducible assumption) | (with_reducible apply noteRec_keeps) | (with_reducible apply swapLane_keeps)
    | (with_reducible apply repairUnit_keeps) | (with_reducible apply testPassed_keeps)
    | (fail_if_no_progress with_reducible refine Keeps.put ?_ rfl rfl rfl) | split)

theorem startFail_keeps {z s : State} (h : Keeps z s) (f : StartupFail) :
    Keeps z (startFail s f) := by
  unfold startFail
  try dsimp only
  repeat' (first
    | (with_reducible assumption) | (with_reducible apply startRetire_keeps)
    | (with_reducible apply retireSpare_keeps) | (with_reducible apply startRepair_keeps) | split)

theorem placeTable_keeps {z s : State} (h : Keeps z s) :
    Keeps z (placeTable s) := by
  unfold placeTable
  try dsimp only
  repeat' (first
    | (with_reducible assumption) | (with_reducible apply dSet_keeps) | (with_reducible apply writeHealth_keeps)
    | split)

theorem selfTest_keeps {z s : State} (h : Keeps z s) (info : StartInfo) :
    Keeps z (selfTest s info) := by
  unfold selfTest
  try dsimp only
  repeat' (first
    | (with_reducible assumption) | (with_reducible apply dSet_keeps) | (with_reducible apply startFail_keeps)
    | (with_reducible apply placeTable_keeps) | (fail_if_no_progress with_reducible refine Keeps.put ?_ rfl rfl rfl)
    | (with_reducible apply foldl_keeps) | intro _)

theorem sampleSlot_keeps {z s : State} (h : Keeps z s) (info : StartInfo) :
    Keeps z (sampleSlot s info) := by
  unfold sampleSlot
  try dsimp only
  repeat' (first
    | (with_reducible assumption) | (with_reducible apply dSet_keeps) | (with_reducible apply raiseEvent_keeps)
    | split)

theorem trip_keeps {z s : State} (h : Keeps z s) :
    Keeps z (trip s) := by
  unfold trip
  try dsimp only
  repeat' (first
    | (with_reducible assumption) | (with_reducible apply dSet_keeps) | (with_reducible apply wipe_keeps)
    | (fail_if_no_progress with_reducible refine Keeps.put ?_ rfl rfl rfl) | split)

theorem readSensor_keeps {z s : State} (h : Keeps z s) (sensor celsius : BitVec 8) :
    Keeps z (readSensor s sensor celsius) := by
  unfold readSensor
  try dsimp only
  repeat' (first
    | (with_reducible assumption) | (with_reducible apply dSet_keeps)
    | (fail_if_no_progress with_reducible refine Keeps.put ?_ rfl rfl rfl))

theorem bootLoads_keeps {z s : State} (h : Keeps z s) (info : StartInfo) (n : Nat) : Keeps z (bootLoads info n s) := by
  induction n generalizing s with
  | zero => exact h
  | succ n ih =>
    unfold bootLoads
    dsimp only
    split
    · exact ih (wipe_keeps (setSlotState_keeps (dSet_keeps (boot_keeps h) _ _) _ _) _)
    · exact boot_keeps h

theorem settleMasks_keeps {z s : State} (h : Keeps z s) : Keeps z (settleMasks s) := by
  have hp (m : List Nat) (p : Nat) (t : State) (ht : Keeps z t) :
      Keeps z ((List.range 3).foldl (fun s w => pSet s p (2 + w) (m.getD w 0)) t) :=
    foldl_keeps _ (fun t w g => pSet_keeps g p (2 + w) _) _ _ ht
  have hf : Keeps z (allParts.foldl (fun (x : State × List Nat) p =>
      let m := (List.range 3).map (fun w =>
        let v := Nat.land (pGet x.1 p (2 + w)) (maskBits s w)
        v - Nat.land v (x.2.getD w 0))
      ((List.range 3).foldl (fun s w => pSet s p (2 + w) (m.getD w 0)) x.1, List.zipWith Nat.lor m x.2)) (s, [0, 0, 0])).1 :=
    allParts.foldlRecOn (motive := fun (x : State × List Nat) => Keeps z x.1) _ h (fun x g p _ => hp _ p x.1 g)
  exact tickFresh_keeps (Keeps.put hf rfl rfl rfl)

theorem startSensors_keeps {z s : State} (h : Keeps z s) (info : StartInfo) :
    Keeps z (startSensors s info) := by
  unfold startSensors
  try dsimp only
  repeat' (first
    | (with_reducible assumption) | (with_reducible apply readSensor_keeps)
    | (fail_if_no_progress with_reducible refine Keeps.put ?_ rfl rfl rfl) | split
    | (with_reducible apply foldl_keeps) | intro _)

theorem start_keeps {z s : State} (h : Keeps z s) (info : StartInfo) :
    Keeps z (start s info) := by
  unfold start
  try dsimp only
  repeat' (first
    | (with_reducible assumption) | (with_reducible apply sampleSlot_keeps)
    | (with_reducible apply startSensors_keeps) | (with_reducible apply settleMasks_keeps)
    | (with_reducible apply bootLoads_keeps) | (with_reducible apply resetPartition_keeps)
    | (with_reducible apply selfTest_keeps) | (with_reducible apply trip_keeps)
    | (fail_if_no_progress with_reducible refine Keeps.put ?_ rfl rfl rfl) | split
    | (with_reducible apply foldl_keeps) | intro _)

theorem holdByPin_keeps {z s : State} (h : Keeps z s) :
    Keeps z (holdByPin s) := by
  unfold holdByPin
  try dsimp only
  repeat' (first
    | (with_reducible assumption) | (with_reducible apply dSet_keeps)
    | (fail_if_no_progress with_reducible refine Keeps.put ?_ rfl rfl rfl))

theorem inputLoss_keeps {z s : State} (h : Keeps z s) (seen : SupplySeen) :
    Keeps z (inputLoss s seen) := by
  unfold inputLoss
  try dsimp only
  repeat' (first
    | (with_reducible assumption) | (with_reducible apply dSet_keeps) | (with_reducible apply closeBywash_keeps)
    | (fail_if_no_progress with_reducible refine Keeps.put ?_ rfl rfl rfl) | split)

theorem absorb_keeps {z s : State} (h : Keeps z s) :
    Keeps z (absorb s) := by
  unfold absorb
  try dsimp only
  repeat' (first
    | (with_reducible assumption) | (with_reducible apply countT_keeps))

theorem moduleByCommand_keeps {z s : State} (h : Keeps z s) (info : StartInfo) :
    Keeps z (moduleByCommand s info) := by
  unfold moduleByCommand
  try dsimp only
  repeat' (first
    | (with_reducible assumption) | (with_reducible apply start_keeps) | (with_reducible apply dSet_keeps)
    | (with_reducible apply wipe_keeps) | (with_reducible apply absorb_keeps)
    | (fail_if_no_progress with_reducible refine Keeps.put ?_ rfl rfl rfl) | split)

theorem moduleByPin_keeps {z s : State} (h : Keeps z s) :
    Keeps z (moduleByPin s) := by
  unfold moduleByPin
  try dsimp only
  repeat' (first
    | (with_reducible assumption) | (with_reducible apply absorb_keeps) | (with_reducible apply holdByPin_keeps)
    | (with_reducible apply wipe_keeps) | (fail_if_no_progress with_reducible refine Keeps.put ?_ rfl rfl rfl)
    | split)

theorem coldReset_keeps (s : State) (info : StartInfo) : Keeps (readEeprom s) (coldReset s info) := by
  have h : Keeps (readEeprom s) (readEeprom { s with
      pwr := { s.pwr with inputOk := true, tripped := none, held := false, modRstLow := false, sensors := [] }
      host := { s.host with factoryTest := false } }) := ⟨rfl, rfl, rfl, id, id, id⟩
  have hs := start_keeps (dSet_keeps (wipe_keeps h true) (dk 0x1500 3) 0) info
  unfold coldReset
  dsimp only
  split
  · exact moduleByPin_keeps hs
  · exact hs

theorem releasePin_keeps {z s : State} (h : Keeps z s) (info : StartInfo) :
    Keeps z (releasePin s info) := by
  unfold releasePin
  try dsimp only
  repeat' (first
    | (with_reducible assumption) | (with_reducible apply start_keeps) | (with_reducible apply dSet_keeps)
    | (with_reducible apply wipe_keeps) | (fail_if_no_progress with_reducible refine Keeps.put ?_ rfl rfl rfl)
    | split)

theorem tripExpiry_keeps {z s : State} (h : Keeps z s) (info : StartInfo) :
    Keeps z (tripExpiry s info) := by
  unfold tripExpiry
  try dsimp only
  repeat' (first
    | (with_reducible assumption) | (with_reducible apply start_keeps) | (with_reducible apply dSet_keeps)
    | (with_reducible apply wipe_keeps) | split)

theorem endStaging_host (s : State) : (endStaging s).host = s.host := by
  unfold endStaging
  dsimp only [List.foldl]
  split <;> split <;> rfl

theorem cutSessions_keeps {z s : State} (h : Keeps z s) : Keeps z (cutSessions s) := by
  have h1 := endStaging_keeps h
  unfold cutSessions
  refine Keeps.put h1 rfl rfl ?_
  show ((endStaging s).hop.rings, (endStaging s).hop.ledger, (endStaging s).hop.tallies, s.host.mailReq) = _
  rw [← endStaging_host s]
  rfl

theorem warmLoss_keeps {z s : State} (h : Keeps z s) :
    Keeps z (warmLoss s) := by
  unfold warmLoss
  try dsimp only
  repeat' (first
    | (with_reducible assumption) | (with_reducible apply tickFresh_keeps) | (with_reducible apply updateFence_keeps)
    | (fail_if_no_progress with_reducible refine Keeps.put ?_ rfl rfl rfl) | (with_reducible apply foldl_keeps)
    | intro _)

theorem beginWarm_keeps {z s : State} (h : Keeps z s) (cause : Nat) :
    Keeps z (beginWarm s cause) := by
  unfold beginWarm
  try dsimp only
  repeat' (first
    | (with_reducible assumption) | (with_reducible apply dAdd_keeps)
    | (with_reducible apply abandonTransition_keeps) | (with_reducible apply dropVolatile_keeps)
    | (with_reducible apply endMargin_keeps) | (with_reducible apply cutSessions_keeps)
    | (with_reducible apply dSet_keeps) | (with_reducible apply resetPartition_keeps)
    | (with_reducible apply noteAbandoned_keeps) | (with_reducible apply warmLoss_keeps)
    | (with_reducible apply discardParts_keeps)
    | (fail_if_no_progress with_reducible refine Keeps.put ?_ rfl rfl rfl) | (with_reducible apply foldl_keeps)
    | intro _)

theorem raiseWarm_keeps {z s : State} (h : Keeps z s) (cause : Nat) :
    Keeps z (raiseWarm s cause) := by
  unfold raiseWarm
  try dsimp only
  repeat' (first
    | (with_reducible assumption) | (with_reducible apply absorb_keeps) | (with_reducible apply beginWarm_keeps)
    | split)

theorem recoverFlight_keeps {z s : State} (h : Keeps z s) (ring : Nat) :
    Keeps z (recoverFlight s ring) := by
  unfold recoverFlight
  try dsimp only
  repeat' (first
    | (with_reducible assumption) | (with_reducible apply commitRecord_keeps)
    | (with_reducible apply endDiscard_keeps) | split)

theorem haltIdle_keeps {z s : State} (h : Keeps z s) (status n : Nat) :
    Keeps z (haltIdle status s n) := by
  unfold haltIdle
  try dsimp only
  repeat' (first
    | (with_reducible assumption) | (with_reducible apply haltRing_keeps) | split)

theorem warmFail_keeps {z s : State} (h : Keeps z s) (f : StartupFail) :
    Keeps z (warmFail s f) := by
  unfold warmFail
  try dsimp only
  repeat' (first
    | (with_reducible assumption) | (with_reducible apply noteRec_keeps) | (with_reducible apply beginRetire_keeps)
    | (with_reducible apply startFail_keeps) | (fail_if_no_progress with_reducible refine Keeps.put ?_ rfl rfl rfl)
    | split)

theorem loseWaiting_keeps {z s : State} (h : Keeps z s) (t : Txn) :
    Keeps z (loseWaiting s t) := by
  unfold loseWaiting
  try dsimp only
  repeat' (first
    | (with_reducible assumption) | (with_reducible apply loseAdd_keeps) | split)

theorem closeSegs_keeps {z s : State} (h : Keeps z s) (n : Nat) :
    Keeps z (closeSegs s n) := by
  unfold closeSegs
  try dsimp only
  repeat' (first
    | (with_reducible assumption) | (with_reducible apply putRing_keeps)
    | (fail_if_no_progress with_reducible refine Keeps.put ?_ rfl rfl rfl) | split)

theorem recoverWarm_keeps {z s : State} (h : Keeps z s) (fails : List StartupFail) (abandoned : List (RingId × BitVec
      8 × UnitCycles)) :
    Keeps z (recoverWarm s fails abandoned) := by
  unfold recoverWarm
  try dsimp only
  repeat' (first
    | (with_reducible assumption) | (with_reducible apply warmFail_keeps) | (with_reducible apply loseWaiting_keeps)
    | (with_reducible apply answerMirrors_keeps) | (with_reducible apply countAbandoned_keeps)
    | (with_reducible apply recoverFlight_keeps) | (with_reducible apply haltIdle_keeps)
    | (with_reducible apply closeSegs_keeps) | (with_reducible apply dSet_keeps)
    | (with_reducible apply issueAll_keeps) | (with_reducible apply releaseArrivals_keeps)
    | (with_reducible apply pump_keeps) | (fail_if_no_progress with_reducible refine Keeps.put ?_ rfl rfl rfl)
    | (with_reducible apply foldl_keeps) | intro _)

theorem endWarm_keeps {z s : State} (h : Keeps z s) :
    Keeps z (endWarm s) := by
  unfold endWarm
  try dsimp only
  repeat' (first
    | (with_reducible assumption) | (with_reducible apply raiseEvent_keeps))

theorem haltSealed_keeps {z s : State} (h : Keeps z s) (n : Nat) (c : InFlight) :
    Keeps z (haltSealed s n c) := by
  unfold haltSealed
  try dsimp only
  repeat' (first
    | (with_reducible assumption) | (with_reducible apply reopenSeg_keeps) | (with_reducible apply putRing_keeps))

theorem haltPartRing_keeps {z s : State} (h : Keeps z s) (p n : Nat) :
    Keeps z (haltPartRing p s n) := by
  unfold haltPartRing
  try dsimp only
  repeat' (first
    | (with_reducible assumption) | (with_reducible apply haltSealed_keeps) | (with_reducible apply haltIdle_keeps)
    | (with_reducible apply putRing_keeps) | (fail_if_no_progress with_reducible refine Keeps.put ?_ rfl rfl rfl)
    | split)

theorem resetPart_keeps {z s : State} (h : Keeps z s) (p : Nat) :
    Keeps z (resetPart s p) := by
  unfold resetPart
  try dsimp only
  repeat' (first
    | (with_reducible assumption) | (with_reducible apply dAdd_keeps) | (with_reducible apply discardParts_keeps)
    | (with_reducible apply haltPartRing_keeps) | (with_reducible apply updateFence_keeps)
    | (fail_if_no_progress with_reducible refine Keeps.put ?_ rfl rfl rfl) | (with_reducible apply foldl_keeps)
    | intro _)

theorem partitionResetOp_keeps {z s : State} (h : Keeps z s) (v : Nat) :
    Keeps z (partitionResetOp v s).1 := by
  unfold partitionResetOp
  try dsimp only
  repeat' (first
    | (with_reducible assumption) | (with_reducible apply refuse_keeps) | (with_reducible apply accepted_keeps)
    | (with_reducible apply absorb_keeps) | (with_reducible apply resetPart_keeps)
    | (with_reducible apply abandonTransition_keeps) | split)

theorem resetCmdOp_keeps {z s : State} (h : Keeps z s) (v : Nat) :
    Keeps z (resetCmdOp v s).1 := by
  unfold resetCmdOp
  try dsimp only
  repeat' (first
    | (with_reducible assumption) | (with_reducible apply accepted_keeps) | (with_reducible apply raiseWarm_keeps)
    | (with_reducible apply refuse_keeps) | split)

theorem setTransition_keeps {z s : State} (h : Keeps z s) (t : Nat) (wake : Bool) (rq : Req) :
    Keeps z (setTransition s t wake rq) := by
  unfold setTransition
  try dsimp only
  repeat' (first
    | (with_reducible assumption) | (fail_if_no_progress with_reducible refine Keeps.put ?_ rfl rfl rfl))

theorem refusePower_keeps {z s : State} (h : Keeps z s) (code : Nat) :
    Keeps z (refusePower s code).1 := by
  unfold refusePower
  try dsimp only
  repeat' (first
    | (with_reducible assumption) | (with_reducible apply refuse_keeps) | (with_reducible apply dSet_keeps))

theorem powerOp_keeps {z s : State} (h : Keeps z s) (rq : Req) (v : Nat) :
    Keeps z (powerOp rq v s).1 := by
  unfold powerOp
  try dsimp only
  repeat' (first
    | (with_reducible assumption) | (with_reducible apply refusePower_keeps)
    | (with_reducible apply setTransition_keeps) | (with_reducible apply wakeFrom_keeps)
    | (with_reducible refine Keeps.ofPair (by with_reducible assumption) ?_) | split)

theorem powerRequest_keeps {z s : State} (h : Keeps z s) (rq : Req) (v : Nat) :
    Keeps z (powerRequest s rq v) := by
  unfold powerRequest
  try dsimp only
  repeat' (first
    | (with_reducible assumption) | (with_reducible apply handleWrite_keeps) | (with_reducible apply powerOp_keeps)
    | intro _)

theorem park_keeps {z s : State} (h : Keeps z s) :
    Keeps z (park s) := by
  unfold park
  try dsimp only
  repeat' (first
    | (with_reducible assumption) | (with_reducible apply dAdd_keeps) | (with_reducible apply dSet_keeps) | split)

theorem loseKinds_keeps {z s : State} (h : Keeps z s) (kinds : List Nat) :
    Keeps z (loseKinds s kinds) := by
  unfold loseKinds
  try dsimp only
  repeat' (first
    | (with_reducible assumption) | (with_reducible apply tickFresh_keeps)
    | (fail_if_no_progress with_reducible refine Keeps.put ?_ rfl rfl rfl))

theorem clearWalks_keeps {z s : State} (h : Keeps z s) :
    Keeps z (clearWalks s) := by
  unfold clearWalks
  try dsimp only
  repeat' (first
    | (with_reducible assumption) | (with_reducible apply updateFence_keeps)
    | (fail_if_no_progress with_reducible refine Keeps.put ?_ rfl rfl rfl) | (with_reducible apply foldl_keeps)
    | intro _)

theorem drainMemory_keeps {z s : State} (h : Keeps z s) :
    Keeps z (drainMemory s) := by
  unfold drainMemory
  try dsimp only
  repeat' (first
    | (with_reducible assumption) | (fail_if_no_progress with_reducible refine Keeps.put ?_ rfl rfl rfl))

theorem rewindRing_keeps {z s : State} (h : Keeps z s) (n : Nat) :
    Keeps z (rewindRing s n) := by
  unfold rewindRing
  try dsimp only
  repeat' (first
    | (with_reducible assumption) | (with_reducible apply putRing_keeps)
    | (fail_if_no_progress with_reducible refine Keeps.put ?_ rfl rfl rfl) | split)

theorem sleepEntry_keeps {z s : State} (h : Keeps z s) :
    Keeps z (sleepEntry s) := by
  unfold sleepEntry
  try dsimp only
  repeat' (first
    | (with_reducible assumption) | (with_reducible apply rewindRing_keeps)
    | (with_reducible apply closeBywash_keeps) | (with_reducible apply answerMirrors_keeps)
    | (with_reducible apply dSet_keeps) | (fail_if_no_progress with_reducible refine Keeps.put ?_ rfl rfl rfl)
    | (with_reducible apply foldl_keeps) | intro _)

theorem enterState_keeps {z s : State} (h : Keeps z s) (t : Nat) :
    Keeps z (enterState s t) := by
  unfold enterState
  try dsimp only
  repeat' (first
    | (with_reducible assumption) | (with_reducible apply answerMirrors_keeps)
    | (with_reducible apply loseKinds_keeps) | (with_reducible apply clearWalks_keeps)
    | (with_reducible apply drainMemory_keeps) | (with_reducible apply sleepEntry_keeps)
    | (with_reducible apply dAdd_keeps) | (with_reducible apply dSet_keeps)
    | (fail_if_no_progress with_reducible refine Keeps.put ?_ rfl rfl rfl) | split)

theorem wakeUp_keeps {z s : State} (h : Keeps z s) :
    Keeps z (wakeUp s) := by
  unfold wakeUp
  try dsimp only
  repeat' (first
    | (with_reducible assumption) | (with_reducible apply dAdd_keeps) | (with_reducible apply dSet_keeps)
    | (fail_if_no_progress with_reducible refine Keeps.put ?_ rfl rfl rfl))

theorem stateReached_keeps {z s : State} (h : Keeps z s) :
    Keeps z (stateReached s) := by
  unfold stateReached
  try dsimp only
  repeat' (first
    | (with_reducible assumption) | (with_reducible apply endTransition_keeps)
    | (with_reducible apply enterState_keeps) | (with_reducible apply releaseArrivals_keeps)
    | (with_reducible apply pump_keeps) | (with_reducible apply wakeUp_keeps) | split
    | (with_reducible apply foldl_keeps) | intro _)

theorem capSample_keeps {z s : State} (h : Keeps z s) (watts : BitVec 16) :
    Keeps z (capSample s watts) := by
  unfold capSample
  try dsimp only
  repeat' (first
    | (with_reducible assumption) | (with_reducible apply dSet_keeps) | (with_reducible apply tickFresh_keeps)
    | (fail_if_no_progress with_reducible refine Keeps.put ?_ rfl rfl rfl) | split)

theorem reThrottle_keeps {z s : State} (h : Keeps z s) :
    Keeps z (reThrottle s) := by
  unfold reThrottle
  try dsimp only
  repeat' (first
    | (with_reducible assumption) | (fail_if_no_progress with_reducible refine Keeps.put ?_ rfl rfl rfl))

theorem throttleTempOp_keeps {z s : State} (h : Keeps z s) (access : Access) (v : Nat) :
    Keeps z (throttleTempOp access v s).1 := by
  unfold throttleTempOp
  try dsimp only
  repeat' (first
    | (with_reducible assumption) | (with_reducible apply plainOp_keeps) | (with_reducible apply reThrottle_keeps))

theorem throttle_keeps {z s : State} (h : Keeps z s) (sensor celsius : BitVec 8) :
    Keeps z (throttle s sensor celsius) := by
  unfold throttle
  try dsimp only
  repeat' (first
    | (with_reducible assumption) | (with_reducible apply readSensor_keeps) | (with_reducible apply trip_keeps)
    | (with_reducible apply reThrottle_keeps) | split)

theorem coolant_keeps {z s : State} (h : Keeps z s) (reading : BitVec 32) :
    Keeps z (coolant s reading) := by
  unfold coolant
  try dsimp only
  repeat' (first
    | (with_reducible assumption) | (with_reducible apply dSet_keeps) | (with_reducible apply raiseEvent_keeps)
    | split)

theorem thermalTrip_keeps {z s : State} (h : Keeps z s) (celsius : BitVec 8) :
    Keeps z (thermalTrip s celsius) := by
  unfold thermalTrip
  try dsimp only
  repeat' (first
    | (with_reducible assumption) | (with_reducible apply trip_keeps) | (with_reducible apply dSet_keeps)
    | (fail_if_no_progress with_reducible refine Keeps.put ?_ rfl rfl rfl) | split)

theorem thermPin_keeps {z s : State} (h : Keeps z s) (low : Bool) :
    Keeps z (thermPin s low) := by
  unfold thermPin
  try dsimp only
  repeat' (first
    | (with_reducible assumption) | (with_reducible apply trip_keeps)
    | (fail_if_no_progress with_reducible refine Keeps.put ?_ rfl rfl rfl) | split)

theorem poolWrite_keeps {z s : State} (h : Keeps z s) (access : Access) (index sub v : Nat) :
    Keeps z (poolWrite access index sub v s).1 := by
  unfold poolWrite
  try dsimp only
  repeat' (first
    | (with_reducible assumption) | (with_reducible apply plainOp_keeps)
    | (fail_if_no_progress with_reducible refine Keeps.put ?_ rfl rfl rfl) | split)

theorem openRun_keeps {z s : State} (h : Keeps z s) (op : Bool → Bool → Nat → State → State × Option Nat)
    (h_op : ∀ a b n s, Keeps z s → Keeps z (op a b n s).1) : Keeps z (openRun op s).1 :=
  h_op _ _ _ _ (tickFresh_keeps h)

theorem keyOp_keeps {z s : State} (h : Keeps z s) (access : Access) (index sub v : Nat) :
    Keeps z (keyOp access index sub v s).1 := by
  have ite {c : Prop} [Decidable c] {a b : State × Option Nat} (ha : Keeps z a.1) (hb : Keeps z b.1) :
      Keeps z (if c then a else b).1 := by split <;> assumption
  exact ite (eventAckOp_keeps h v) <| ite (fwStageOp_keeps h v) <| ite (secverOp_keeps h v) <|
    ite (throttleTempOp_keeps h access v) <|
    ite (partitionResetOp_keeps h v) <| ite (ringCmd_keeps h v) <|
    ite (region0Op_keeps h v) <| ite (marginEnableOp_keeps h v) <|
    ite (openRun_keeps h _ fun _ _ _ _ g => marginRunOp_keeps g _ _ _ _) <| ite (bywashForceOp_keeps h v) <|
    ite (lmarginEnableOp_keeps h v) <| ite (openRun_keeps h _ fun _ _ _ _ g => lmarginRunOp_keeps g _ _ _ _) <|
    ite (lendOp_keeps h v) <| ite (recordSelectOp_keeps h v) <| ite (injOp_keeps h v) (plainOp_keeps h access index sub v)

theorem partitionOp_keeps {z q4 : State} (h : Keeps z q4) (access : Access) (p sub v : Nat) :
    Keeps z (partitionOp access p sub v q4).1 := by
  unfold partitionOp
  try dsimp only
  repeat' (first
    | (with_reducible assumption) | (with_reducible apply tallyRangeOp_keeps)
    | (with_reducible apply coreMaskOp_keeps) | (with_reducible apply quiesceOp_keeps)
    | (with_reducible apply enabledOp_keeps) | (with_reducible apply plainOp_keeps) | split)

theorem kvOp_keeps {z q4 : State} (h : Keeps z q4) (access : Access) (p sub v : Nat) :
    Keeps z (kvOp access p sub v q4).1 := by
  unfold kvOp
  try dsimp only
  repeat' (first
    | (with_reducible assumption) | (with_reducible apply prefixNodesOp_keeps)
    | (with_reducible apply walkFenceOp_keeps) | (with_reducible apply kvPoolOp_keeps)
    | (with_reducible apply plainOp_keeps) | split)

theorem entryOp_keeps {z q4 : State} (h : Keeps z q4) (access : Access) (index sub v : Nat) :
    Keeps z (entryOp access index sub v q4).1 := by
  unfold entryOp
  try dsimp only
  repeat' (first
    | (with_reducible assumption) | (with_reducible apply tapOp_keeps) | (with_reducible apply kvOp_keeps)
    | (with_reducible apply vanishOp_keeps) | (with_reducible apply keyOp_keeps)
    | (with_reducible apply partitionOp_keeps) | (with_reducible apply poolWrite_keeps) | split)

theorem resetRequest_keeps {z s : State} (h : Keeps z s) (rq : Req) (v : Nat) :
    Keeps z (resetRequest s rq v) := by
  unfold resetRequest
  try dsimp only
  repeat' (first
    | (with_reducible assumption) | (with_reducible apply handle_keeps) | (with_reducible apply raiseWarm_keeps)
    | (with_reducible apply respond_keeps) | (with_reducible apply moduleByCommand_keeps)
    | (with_reducible apply tickFresh_keeps) | split | intro _)

theorem factoryWrite_keeps {z s : State} (h : Keeps z s) (rq : Req) (index sub : Nat) :
    Keeps z (factoryWrite s rq index sub) := by
  unfold factoryWrite
  try dsimp only
  repeat' (first
    | (with_reducible assumption) | (with_reducible apply handle_keeps) | (with_reducible apply respond_keeps)
    | split | intro _)

theorem writeRequest_keeps {z s : State} (h : Keeps z s) (rq : Req) (index sub : Nat) (value : List Byte) :
    Keeps z (writeRequest s rq index sub value) := by
  unfold writeRequest
  try dsimp only
  repeat' (first
    | (with_reducible assumption) | (with_reducible apply factoryWrite_keeps)
    | (with_reducible apply resetRequest_keeps) | (with_reducible apply powerRequest_keeps)
    | (with_reducible apply mirrorRequest_keeps) | (with_reducible apply handleWrite_keeps)
    | (with_reducible apply entryOp_keeps) | (with_reducible apply handle_keeps)
    | (with_reducible apply respond_keeps) | split | intro _)

theorem readRequest_keeps {z s : State} (h : Keeps z s) (rq : Req) (index sub : Nat) :
    Keeps z (readRequest s rq index sub) := by
  unfold readRequest
  try dsimp only
  repeat' (first
    | (with_reducible assumption) | (with_reducible apply handle_keeps) | (with_reducible apply respond_keeps)
    | intro _)

theorem describeRequest_keeps {z s : State} (h : Keeps z s) (rq : Req) (index sub : Nat) :
    Keeps z (describeRequest s rq index sub) := by
  unfold describeRequest
  try dsimp only
  repeat' (first
    | (with_reducible assumption) | (with_reducible apply handle_keeps) | (with_reducible apply respond_keeps)
    | intro _)

theorem discoverRequest_keeps {z s : State} (h : Keeps z s) (rq : Req) :
    Keeps z (discoverRequest s rq) := by
  unfold discoverRequest
  try dsimp only
  repeat' (first
    | (with_reducible assumption) | (with_reducible apply handle_keeps) | (with_reducible apply respond_keeps)
    | intro _)

theorem dropSession_keeps {z s : State} (h : Keeps z s) (src : Source) (index sub : Nat) :
    Keeps z (dropSession s src index sub) := by
  unfold dropSession
  try dsimp only
  repeat' (first
    | (with_reducible assumption) | (fail_if_no_progress with_reducible refine Keeps.put ?_ rfl rfl rfl))

theorem touchSession_keeps {z s : State} (h : Keeps z s) (src : Source) (index sub : Nat) :
    Keeps z (touchSession s src index sub) := by
  unfold touchSession
  exact Keeps.put h rfl rfl rfl

theorem cutSession_keeps {z s : State} (h : Keeps z s) (src : Source) (index sub : Nat) :
    Keeps z (cutSession s src index sub) := by
  unfold cutSession
  try dsimp only
  repeat' (first
    | (with_reducible assumption) | (with_reducible apply dropSession_keeps)
    | (with_reducible apply endStaging_keeps) | split)

theorem initUp_keeps {z s : State} (h : Keeps z s) (rq : Req) (index sub : Nat) :
    Keeps z (initUp s rq index sub) := by
  unfold initUp
  try dsimp only
  repeat' (first
    | (with_reducible assumption) | (with_reducible apply handle_keeps) | (with_reducible apply respond_keeps)
    | (with_reducible apply dropSession_keeps) | (fail_if_no_progress with_reducible refine Keeps.put ?_ rfl rfl rfl)
    | split | intro _)

theorem initDown_keeps {z s : State} (h : Keeps z s) (rq : Req) (index sub size segments : Nat) (crc : BitVec 32) :
    Keeps z (initDown s rq index sub size segments crc) := by
  unfold initDown
  try dsimp only
  repeat' (first
    | (with_reducible assumption) | (with_reducible apply handle_keeps) | (with_reducible apply respond_keeps)
    | (with_reducible apply dropSession_keeps) | (with_reducible apply setSlotState_keeps)
    | (with_reducible apply putSlot_keeps) | (fail_if_no_progress with_reducible refine Keeps.put ?_ rfl rfl rfl)
    | split | intro _)

theorem inSession_keeps {z s : State} (h : Keeps z s) (rq : Req) (type index sub : Nat) (f : State → Session → State)
    (h_f : ∀ s x, Keeps z s → Keeps z (f s x)) : Keeps z (inSession s rq type index sub f) := by
  unfold inSession
  refine handle_keeps h rq type index sub _ (fun t ht => ?_)
  split
  · exact respond_keeps ht _ _ _ _ _ _
  · split
    · exact respond_keeps ht _ _ _ _ _ _
    · exact h_f _ _ ht

theorem takeSegment_keeps {z s : State} (h : Keeps z s) (rq : Req) (index sub n len flags : Nat) (crc : BitVec 32)
      (data : List Byte) :
    Keeps z (takeSegment s rq index sub n len flags crc data) := by
  unfold takeSegment
  try dsimp only
  repeat' (first
    | (with_reducible assumption) | (with_reducible apply inSession_keeps) | (with_reducible apply respond_keeps)
    | (with_reducible apply touchSession_keeps)
    | (fail_if_no_progress with_reducible refine Keeps.put ?_ rfl rfl rfl) | split | intro _)

theorem giveSegment_keeps {z s : State} (h : Keeps z s) (rq : Req) (index sub n : Nat) :
    Keeps z (giveSegment s rq index sub n) := by
  unfold giveSegment
  try dsimp only
  repeat' (first
    | (with_reducible assumption) | (with_reducible apply inSession_keeps) | (with_reducible apply respond_keeps)
    | (with_reducible apply touchSession_keeps) | split | intro _)

theorem applyObject_keeps {z s : State} (h : Keeps z s) (src : Source) (index sub : Nat) (o : List Byte) :
    Keeps z (applyObject s src index sub o) := by
  unfold applyObject
  try dsimp only
  repeat' (first
    | (with_reducible assumption) | (with_reducible apply stageObject_keeps) | (with_reducible apply attest_keeps)
    | (with_reducible apply journalObject_keeps) | split)

theorem endSession_keeps {z s : State} (h : Keeps z s) (rq : Req) (index sub : Nat) :
    Keeps z (endSession s rq index sub) := by
  unfold endSession
  try dsimp only
  repeat' (first
    | (with_reducible assumption) | (with_reducible apply inSession_keeps) | (with_reducible apply respond_keeps)
    | (with_reducible apply dropSession_keeps) | (with_reducible apply touchSession_keeps)
    | (with_reducible apply applyObject_keeps) | split | intro _)

theorem abortSession_keeps {z s : State} (h : Keeps z s) (rq : Req) (index sub : Nat) :
    Keeps z (abortSession s rq index sub) := by
  unfold abortSession
  try dsimp only
  repeat' (first
    | (with_reducible assumption) | (with_reducible apply inSession_keeps) | (with_reducible apply respond_keeps)
    | (with_reducible apply cutSession_keeps) | intro _)

theorem lapseSession_keeps {z s : State} (h : Keeps z s) (src : Source) (index sub : Nat) :
    Keeps z (lapseSession s src index sub) := by
  unfold lapseSession
  try dsimp only
  repeat' (first
    | (with_reducible assumption) | (with_reducible apply cutSession_keeps) | split)

theorem applyMessage_keeps {z s : State} (h : Keeps z s) (rq : Req) (type index sub : Nat) (payload : List Byte) :
    Keeps z (applyMessage s rq type index sub payload) := by
  unfold applyMessage
  try dsimp only
  repeat' (first
    | (with_reducible assumption) | (with_reducible apply handle_keeps) | (with_reducible apply respond_keeps)
    | (with_reducible apply readRequest_keeps) | (with_reducible apply writeRequest_keeps)
    | (with_reducible apply describeRequest_keeps) | (with_reducible apply initUp_keeps)
    | (with_reducible apply initDown_keeps) | (with_reducible apply takeSegment_keeps)
    | (with_reducible apply giveSegment_keeps) | (with_reducible apply endSession_keeps)
    | (with_reducible apply abortSession_keeps) | (with_reducible apply discoverRequest_keeps) | split | intro _)

theorem takeMessage_keeps {z s : State} (h : Keeps z s) (src : Source) (m : List Byte) :
    Keeps z (takeMessage s src m) := by
  unfold takeMessage
  try dsimp only
  repeat' (first
    | (with_reducible assumption) | (with_reducible apply countT_keeps) | (with_reducible apply handle_keeps)
    | (with_reducible apply respond_keeps) | (with_reducible apply applyMessage_keeps)
    | (fail_if_no_progress with_reducible refine Keeps.put ?_ rfl rfl rfl) | split | intro _)

theorem mailDoorbell_keeps {z s : State} (h : Keeps z s) :
    Keeps z (mailDoorbell s) := by
  unfold mailDoorbell
  try dsimp only
  repeat' (first
    | (with_reducible assumption) | (with_reducible apply countT_keeps) | (with_reducible apply takeMessage_keeps)
    | split)

theorem hostAnswer_keeps {z s : State} (h : Keeps z s) (bs : List Byte) :
    Keeps z (hostAnswer s bs) := by
  unfold hostAnswer
  try dsimp only
  repeat' (first
    | (with_reducible assumption) | (fail_if_no_progress with_reducible refine Keeps.put ?_ rfl rfl rfl))

theorem hostReply_keeps {z s : State} (h : Keeps z s) (tag : Nat) (bs : List Byte) :
    Keeps z (hostReply s tag bs) := by
  unfold hostReply
  try dsimp only
  repeat' (first
    | (with_reducible assumption) | (with_reducible apply falyndiOut_keeps) | (with_reducible apply hostAnswer_keeps))

theorem hostStore_keeps {z s : State} (h : Keeps z s) (a : Nat) (data : List Byte) :
    Keeps z (hostStore s a data) := by
  unfold hostStore
  try dsimp only
  repeat' (first
    | (with_reducible assumption) | (with_reducible apply mirrorWrite_keeps)
    | (with_reducible apply touchRange_keeps) | (with_reducible apply storeM_keeps))

theorem hostLoad_keeps {z s : State} (h : Keeps z s) (a n tag : Nat) :
    Keeps z (hostLoad s a n tag) := by
  unfold hostLoad
  try dsimp only
  repeat' (first
    | (with_reducible assumption) | (with_reducible apply fireRead_keeps) | (with_reducible apply hostReply_keeps)
    | (with_reducible apply touchRange_keeps) | (with_reducible apply tickFresh_keeps)
    | (with_reducible apply detectError_keeps) | split)

theorem hostDoorbells_keeps {z s : State} (h : Keeps z s) (n y : Nat) (data : List Byte) :
    Keeps z (hostDoorbells n y data s) := by
  induction n generalizing s y data with
  | zero => exact h
  | succ n ih =>
    unfold hostDoorbells
    split
    · exact h
    · dsimp only
      split
      · exact ih (wakeFrom_keeps (ringDoorbell_keeps h _ _) _) _ _
      · exact ih h _ _

theorem mailWrite_keeps {z s : State} (h : Keeps z s) (o : Nat) (bs : List Byte) : Keeps z (mailWrite s o bs) := by
  induction bs generalizing s o with
  | nil => exact h
  | cons b bs ih =>
    refine ih (Keeps.putTables h rfl rfl (fun g => ⟨g.1, g.2.1, g.2.2.1, ?_⟩)) (o + 1)
    dsimp only
    split
    · exact tableSet_wf _ _ _ _ g.2.2.2
    · exact g.2.2.2

theorem controlWrite_keeps {z s : State} (h : Keeps z s) (y : Nat) (data : List Byte) :
    Keeps z (controlWrite s y data) := by
  unfold controlWrite
  try dsimp only
  repeat' (first
    | (with_reducible assumption) | (with_reducible apply mailWrite_keeps)
    | (with_reducible apply mailDoorbell_keeps) | (with_reducible apply hostDoorbells_keeps) | split)

theorem controlRead_keeps {z s : State} (h : Keeps z s) (y n tag : Nat) :
    Keeps z (controlRead s y n tag) := by
  unfold controlRead
  try dsimp only
  repeat' (first
    | (with_reducible assumption) | (with_reducible apply tickFresh_keeps) | (with_reducible apply hostAnswer_keeps)
    | (with_reducible apply hostReply_keeps) | (fail_if_no_progress with_reducible refine Keeps.put ?_ rfl rfl rfl)
    | split)

theorem deliverWrite_keeps {z s : State} (h : Keeps z s) (a : Nat) (data : List Byte) :
    Keeps z (deliverWrite s a data) := by
  unfold deliverWrite
  try dsimp only
  repeat' (first
    | (with_reducible assumption) | (with_reducible apply hostStore_keeps) | (with_reducible apply countT_keeps)
    | (with_reducible apply controlWrite_keeps) | split)

theorem deliverRead_keeps {z s : State} (h : Keeps z s) (a n tag : Nat) :
    Keeps z (deliverRead s a n tag) := by
  unfold deliverRead
  try dsimp only
  repeat' (first
    | (with_reducible assumption) | (with_reducible apply hostLoad_keeps) | (with_reducible apply hostReply_keeps)
    | (with_reducible apply countT_keeps) | (with_reducible apply controlRead_keeps) | split)

theorem deliverAccess_keeps {z s : State} (h : Keeps z s) (x : HostAccess) :
    Keeps z (deliverAccess s x) := by
  unfold deliverAccess
  try dsimp only
  repeat' (first
    | (with_reducible assumption) | (with_reducible apply deliverWrite_keeps)
    | (with_reducible apply deliverRead_keeps) | split)

theorem flushIn_keeps {z s : State} (h : Keeps z s) (n : Nat) : Keeps z (flushIn n s) := by
  induction n generalizing s with
  | zero => exact h
  | succ n ih =>
    unfold flushIn
    split
    · exact h
    · next x t _ =>
      have hd : Keeps z { s with host := { s.host with fhaBuf := t } } := Keeps.put h rfl rfl rfl
      split
      · exact h
      · exact ih (deliverAccess_keeps hd x)

theorem hostWriteAccess_keeps {z s : State} (h : Keeps z s) (a : Nat) (data : List Byte) :
    Keeps z (hostWriteAccess s a data) := by
  unfold hostWriteAccess
  try dsimp only
  repeat' (first
    | (with_reducible assumption) | (with_reducible apply dropHost_keeps) | (with_reducible apply holdHost_keeps)
    | (with_reducible apply deliverWrite_keeps) | split)

theorem hostReadAccess_keeps {z s : State} (h : Keeps z s) (a n tag : Nat) :
    Keeps z (hostReadAccess s a n tag) := by
  unfold hostReadAccess
  try dsimp only
  repeat' (first
    | (with_reducible assumption) | (with_reducible apply controlRead_keeps)
    | (with_reducible apply hostAnswer_keeps) | (with_reducible apply holdHost_keeps)
    | (with_reducible apply deliverRead_keeps) | split)

theorem hostTxn_keeps {z s : State} (h : Keeps z s) (slots : List (List Byte)) :
    Keeps z (hostTxn s slots) := by
  unfold hostTxn
  try dsimp only
  repeat' (first
    | (with_reducible assumption) | (with_reducible apply hostWriteAccess_keeps)
    | (with_reducible apply hostReadAccess_keeps) | split)

theorem hostFlit_keeps {z s : State} (h : Keeps z s) (before : Link) (bs : List Byte) :
    Keeps z (hostFlit s before bs) := by
  unfold hostFlit
  try dsimp only
  repeat' (first
    | (with_reducible assumption) | (with_reducible apply hostTxn_keeps) | split | (with_reducible apply foldl_keeps)
    | intro _)

theorem flushOne_keeps {z s : State} (h : Keeps z s) (h' : Nat × List Byte) :
    Keeps z (flushOne s h') := by
  unfold flushOne
  try dsimp only
  repeat' (first
    | (with_reducible assumption) | (with_reducible apply sendVector_keeps) | (with_reducible apply sendMsix_keeps)
    | (with_reducible apply hostWrite_keeps) | split)

theorem flushHeld_keeps {z s : State} (h : Keeps z s) :
    Keeps z (flushHeld s) := by
  unfold flushHeld
  try dsimp only
  repeat' (first
    | (with_reducible assumption) | (with_reducible apply flushOne_keeps) | (with_reducible apply pump_keeps)
    | (with_reducible apply flushIn_keeps) | (fail_if_no_progress with_reducible refine Keeps.put ?_ rfl rfl rfl)
    | split | (with_reducible apply foldl_keeps) | intro _)

theorem falyndiDown_keeps {z s : State} (h : Keeps z s) :
    Keeps z (falyndiDown s) := by
  unfold falyndiDown
  try dsimp only
  repeat' (first
    | (with_reducible assumption) | (with_reducible apply dSet_keeps) | split)

theorem falyndiTrain_keeps {z s : State} (h : Keeps z s) (host : HostEnd) (good : BitVec 5) :
    Keeps z (falyndiTrain s host good) := by
  unfold falyndiTrain
  try dsimp only
  repeat' (first
    | (with_reducible assumption) | (with_reducible apply raiseEvent_keeps) | (with_reducible apply countT_keeps)
    | (with_reducible apply falyndiDown_keeps) | (with_reducible apply flushHeld_keeps)
    | (with_reducible apply dSet_keeps) | (fail_if_no_progress with_reducible refine Keeps.put ?_ rfl rfl rfl)
    | split)

theorem restoreExpiry_keeps {z s : State} (h : Keeps z s) :
    Keeps z (restoreExpiry s) := by
  unfold restoreExpiry
  try dsimp only
  repeat' (first
    | (with_reducible assumption) | (with_reducible apply dSet_keeps) | (with_reducible apply hostAnswer_keeps)
    | (with_reducible apply detectError_keeps) | (fail_if_no_progress with_reducible refine Keeps.put ?_ rfl rfl rfl)
    | split | (with_reducible apply foldl_keeps) | intro _)

theorem refillWeirs_keeps {z s : State} (h : Keeps z s) :
    Keeps z (refillWeirs s) := by
  unfold refillWeirs
  try dsimp only
  repeat' (first
    | (with_reducible assumption) | (fail_if_no_progress with_reducible refine Keeps.put ?_ rfl rfl rfl))

theorem countActive_keeps {z s : State} (h : Keeps z s) :
    Keeps z (countActive s) := by
  unfold countActive
  try dsimp only
  repeat' (first
    | (with_reducible assumption) | (with_reducible apply dAdd_keeps) | (with_reducible apply foldl_keeps) | intro _)

theorem countEngines_keeps {z s : State} (h : Keeps z s) :
    Keeps z (countEngines s) := by
  unfold countEngines
  try dsimp only
  repeat' (first
    | (with_reducible assumption) | (with_reducible apply dAdd_keeps) | (with_reducible apply foldl_keeps) | intro _)

theorem countMedia_keeps {z s : State} (h : Keeps z s) :
    Keeps z (countMedia s) := by
  unfold countMedia
  try dsimp only
  repeat' (first
    | (with_reducible assumption) | (with_reducible apply count_keeps) | split | (with_reducible apply foldl_keeps)
    | intro _)

theorem countOver_keeps {z s : State} (h : Keeps z s) (index n : Nat) (p : Nat → Bool) :
    Keeps z (countOver s index n p) := by
  unfold countOver
  try dsimp only
  repeat' (first
    | (with_reducible assumption) | (with_reducible apply dAdd_keeps) | split | (with_reducible apply foldl_keeps)
    | intro _)

theorem countMarks_keeps {z s : State} (h : Keeps z s) :
    Keeps z (countMarks s) := by
  unfold countMarks
  try dsimp only
  repeat' (first
    | (with_reducible assumption) | (with_reducible apply countOver_keeps) | (with_reducible apply dAdd_keeps)
    | (with_reducible apply foldl_keeps) | intro _)

theorem countWeirs_keeps {z s : State} (h : Keeps z s) :
    Keeps z (countWeirs s) := by
  unfold countWeirs
  try dsimp only
  repeat' (first
    | (with_reducible assumption) | (with_reducible apply countOver_keeps))

theorem countWaits_keeps {z s : State} (h : Keeps z s) :
    Keeps z (countWaits s) := by
  unfold countWaits
  try dsimp only
  repeat' (first
    | (with_reducible assumption) | (with_reducible apply countOver_keeps) | (with_reducible apply countMarks_keeps)
    | split)

theorem falyndiTick_keeps {z s : State} (h : Keeps z s) :
    Keeps z (falyndiTick s) := by
  unfold falyndiTick
  try dsimp only
  repeat' (first
    | (with_reducible assumption) | (with_reducible apply pump_keeps) | (with_reducible apply flushIn_keeps) | split)

theorem tick_keeps {z s : State} (h : Keeps z s) :
    Keeps z (tick s) := by
  unfold tick
  try dsimp only
  repeat' (first
    | (with_reducible assumption) | (with_reducible apply dSet_keeps) | (with_reducible apply countWaits_keeps)
    | (with_reducible apply countMedia_keeps) | (with_reducible apply countEngines_keeps)
    | (with_reducible apply countActive_keeps) | (with_reducible apply refillWeirs_keeps)
    | (with_reducible apply countWeirs_keeps) | (with_reducible apply falyndiTick_keeps)
    | (with_reducible apply migrateTick_keeps) | (with_reducible apply countT_keeps) | split)

end Sys2Proof.Machine
end

