-- ==== Sys2Proof/WellFormed.lean ====
section
/-! DEFINITION. Well-formed commands: what a sender, the wire or a sensor can deliver at all (log entry 7). exec gives
every command a meaning; these are the bounds outside which an operand stands for nothing the spec describes. -/

namespace Sys2Proof

/-- A fabric transaction as it travels: at most 1,024 data bytes, zero reserved field (spec/10 "Transaction header
slot"). -/
def Packet.wf (p : Packet) : Bool :=
  decide (p.data.length ≤ 1024) && (p.x0.extractLsb' 32 10 == 0)

/-- Bounds on operands. -/
def Instr.wf : Instr → Bool
  | .flit link bytes _ _ => decide (link ≤ 6) && decide (bytes.length = 272)
  | .nak link _ _ => decide (link ≤ 6)
  | .laneSwap link lane _ _ => decide (link ≤ 6) && decide (lane ≤ (if link = 6 then 3 else 11))
  | .portRetrain port => decide (port ≤ 5)
  | .portTrainingDone port _ => decide (port ≤ 5)
  | .forward pkt inPort _ _ => pkt.wf && (match inPort with
      | some q => decide (q ≤ 5)
      | none => true)
  | .lifeExpiry pkt => pkt.wf
  | .kraurRead pkt => pkt.wf && (pkt.x0.extractLsb' 60 4 == 0)
  | .kraurWrite pkt => pkt.wf && (pkt.x0.extractLsb' 60 4 == 1)
  | .atomic pkt => pkt.wf && (pkt.x0.extractLsb' 60 4 == 2)
  | .tally pkt => pkt.wf && (pkt.x0.extractLsb' 60 4 == 3)
  | .lendNotice pkt => pkt.wf && (pkt.x0.extractLsb' 60 4 == 4)
  | .collAbort pkt => pkt.wf && (pkt.x0.extractLsb' 60 4 == 4)
  | .collective pkt => pkt.wf && (pkt.x0.extractLsb' 60 4 == 5)
  | .response pkt => pkt.wf && (pkt.x0.extractLsb' 60 4 == 8)
  | .falyndiHostAccess isWrite _ len data =>
      decide (1 ≤ len ∧ len ≤ 256) && (if isWrite then decide (data.length = len.toNat) else data.isEmpty)
  | .write _ _ _ value => decide (value.length ≤ 1036)
  | .segment _ _ _ _ seglen _ _ data => decide (seglen ≤ 1024) && decide (data.length = seglen.toNat)
  | .attestRequest _ nonce => decide (nonce.length = 32)
  | .fwBundle _ object => decide (object.length ≤ 234881024)
  | .hbmRetrain channel _ _ => decide (channel < 384)
  | .dieLost die => decide (die < 6)
  | _ => true

end Sys2Proof
end

