-- ==== Sys2Proof/Tests/Slice0.lean ====
section
/-! SUPPORT. The model's own tests: ill-formed commands are refused; single steps on small states, with results that the spec's text
gives; and for every statement with hypotheses, states and operands that meet them. -/

namespace Sys2Proof.Tests

set_option Elab.async false

open Sys2Proof Sys2Proof.Machine Sys2Proof.Claims

/-- The module after reset with Falyndi up, the bywash open and the first GiB of partition 0's addresses mapped. -/
def up : State :=
  let s := dSet (dSet State.reset (dk 0x1100 1) 2) (dk 0x2700 0xC) 0
  { s with mem := { s.mem with maps := [{ part := 0, va := 0, size := 2 ^ 30, addr := 0, tier := 2, owner := none }] } }

/-- A request on the management bus. -/
def bus : Req := { txid := 7, src := .bus { addr := 1, port := 2, slot := none, dest := eventAddr, destPort := orogusPort } }

/-- The request is no damaged datagram. -/
theorem bus_good : (∀ b : BusPath, bus.src ≠ .badBus b) = True := by simp [bus]

/-- A descriptor of sixteen words: opcode, SEQ, then further words. -/
def desc (opc seq : Nat) (l : List Word) : List Word :=
  let d := [BitVec.ofNat 64 (opc * 16 + 1), BitVec.ofNat 64 seq] ++ l
  d ++ List.replicate (16 - d.length) 0

/-- A command in flight on ring 0 of partition 0. -/
def fly (d : List Word) : InFlight :=
  blankFlight up 0 0 { pos := 0, desc := d, st := .accepted, order := 1, seg := none }

/-- `up` with one command in flight. -/
def flying (c : InFlight) : State := { up with hop := { up.hop with inflight := [c] } }

/-- Nothing stands in the way of a plan. -/
def clear (s : State) (c : InFlight) (p : Plan) : Bool :=
  match touched (withMaps s p.maps) { part := c.part, ring := c.ring } p with
  | .error _ => false
  | .ok t => !p.wait && !waitsTxn s c.ring && (t.reads ++ t.writes ++ p.far).all (fun x => !rowHeld s x.1 x.2 && !hostRange x.1 && !remoteAddr s x.1) &&
      (lostRead s (planReads t)).isNone && (toFetch s c t).isEmpty && (weirsClosed s c (t.reads ++ t.writes ++ p.far)).isEmpty &&
      s.hlth.injections.isEmpty

theorem clear_clear {s : State} {c : InFlight} {p : Plan} (h : clear s c p = true) : ∃ t, Clear s c.ring c p t := by
  unfold clear at h
  split at h
  · simp at h
  · rename_i t ht
    simp only [Bool.and_eq_true, Bool.not_eq_true', List.all_eq_true, List.isEmpty_iff, Option.isNone_iff_eq_none] at h
    obtain ⟨⟨⟨⟨⟨⟨h1, h2⟩, h3⟩, h4⟩, h5⟩, h6⟩, h7⟩ := h
    exact ⟨t, ht, h1, h2, fun x hx => (h3 x hx).1.1, fun x hx hh => absurd hh (by simp [(h3 x hx).1.2]),
      fun x hx hh => absurd hh (by simp [(h3 x hx).2]), h4, h5, h6, h7⟩

/-- Some state, command and accesses meet the hypotheses of a row. -/
def Meets (opc : Nat) (plan : State → InFlight → Plan) : Prop :=
  ∃ s c t, Ready s 0 opc c ∧ queueAhead s c.desc c.order = false ∧ Clear s 0 c (viewed plan s c) t

theorem meets (opc : Nat) (plan : State → InFlight → Plan) (l : List Word) (h1 : opcOf (desc opc 1 l) = opc)
    (h2 : (queueAhead (flying (fly (desc opc 1 l))) (desc opc 1 l) (fly (desc opc 1 l)).order = false) ∧
      clear (flying (fly (desc opc 1 l))) (fly (desc opc 1 l)) (viewed plan (flying (fly (desc opc 1 l))) (fly (desc opc 1 l))) = true) :
    Meets opc plan :=
  (clear_clear h2.2).elim (fun t ht => ⟨flying (fly (desc opc 1 l)), fly (desc opc 1 l), t, ⟨rfl, h1, rfl, rfl, rfl⟩, h2.1, ht⟩)

/-! ### The machine, rings and the hopper -/

/-- `up` with the given rings. -/
def ringed (l : List (Nat × Ring)) : State := { up with hop := { up.hop with rings := l } }

/-- `up` with dictionary entries set. -/
def dicts (s : State) (l : List (Nat × Nat)) : State := l.foldl (fun s x => dSet s x.1 x.2) s

/-- An ACTIVE ring of 64 slots at the start of stack 0's pinned area, its mirror in stack 6. -/
def act : Ring :=
  { Ring.free with state := .active, size := 64, nextSeq := 1, ringAddr := BitVec.ofNat 64 (gaMake 0 1 0),
                   mirrorAddr := BitVec.ofNat 64 (gaMake 0 1 (6 * 2 ^ 36)) }

/-- A cell with a descriptor. -/
def cell (d : List Word) (st : CellState) : HCell := { pos := 0, desc := d, st := st, order := 1, seg := none }

/-- A segment of ring 5 with `n` descriptors held. -/
def seg (n : Nat) (complete : Bool) : Segment :=
  { ring := 5, seq := 1, part := 0, held := List.replicate n (desc 0 1 []), complete := complete, releasing := false, released := false }

/-- Partition 0 runs. -/
def running (s : State) : State := pSet (pSet s 0 5 1) 0 6 0

theorem test_step_runs_the_front : (∃ t, step { up with pending := [.nop 0, .fence 0] } = .next t ∧ t.pending = [.fence 0]) :=
  ⟨_, rfl, by decide⟩

theorem test_idle_tick : (∃ t, step State.reset = .next t ∧ dGet t (dk 0x1400 1) = 1) := ⟨_, rfl, by decide⟩

theorem witness_canonical : Sys2Proof.State.canonical up ∧ ∃ t, step { up with pending := [.eventAck bus 0] } = .next t :=
  ⟨⟨by decide, by decide, by decide, by decide, by decide, by decide⟩, _, rfl⟩

theorem witness_doorbell :
    live (ringed [(5, act)]) = true ∧ (ringOf (ringed [(5, act)]) 3).state = .free ∧ (ringOf (ringed [(5, act)]) 5).state ≠ .free ∧
    (0x100000000 : Word).extractLsb' 32 32 ≠ 0 ∧ (0 : Word).extractLsb' 32 32 = 0 ∧
    (((0 : Word).setWidth 32 : BitVec 32) - act.producer).toNat = 0 ∧ 2 ^ 31 ≤ (((0x80000000 : Word).setWidth 32 : BitVec 32) - act.producer).toNat ∧
    act.size.toNat < (((65 : Word).setWidth 32 : BitVec 32) - act.commitPos).toNat ∧
    (((64 : Word).setWidth 32 : BitVec 32) - act.commitPos).toNat ≤ act.size.toNat ∧
    0 < (((64 : Word).setWidth 32 : BitVec 32) - act.producer).toNat := by decide

/-- A doorbell of 64 descriptors moves PRODUCER (R28). -/
theorem test_doorbell : (∃ t, exec (.doorbell 5 64) (ringed [(5, act)]) = .next t ∧ (ringOf t 5).producer = 64) := ⟨_, rfl, by decide⟩

/-- Configuration tables for ring 5: no table; a table of zeros; one of 64 slots on stack 0 with its completion area. -/
def table (k0 k1 : Nat) : State :=
  let s := dSet up (dk 0x2100 2) 4096
  stNat (stNat s (4096 + 80) 8 k0) (4096 + 88) 8 k1

theorem witness_refused_ring_commands :
    Served up bus 0x2100 4 ∧ (1 : BitVec 46) ≠ 0 ∧ dGet (awake up) (dk 0x2100 2) = 0 ∧
    Served (table 1024 8192) bus 0x2100 4 ∧ dGet (table 1024 8192) (dk 0x2100 2) ≠ 0 ∧ (ringOf (ringed [(5, act)]) 5).state ≠ .free ∧
    configValid (table 0 0) 0 0 = false ∧ ldNat (table 1024 8192) (4096 + 80) 8 = 1024 ∧ configValid (table 1024 8192) 1024 8192 = true ∧
    quotaAllows (pSet (table 1024 8192) 0 0x11 0) 0 2 16384 = false ∧ quotaAllows (table 1024 8192) 0 2 16384 = true ∧
    pickStack { table 1024 8192 with mem := { (table 1024 8192).mem with pinnedNow := 0 } } 0 8192 = none ∧
    act.commitPos ≠ { act with consumer := 1 }.consumer ∧ (∃ g ∈ [seg 0 true], g.ring = 5) ∧ act.state ≠ .halted := by
  unfold Served Heard; simp only [bus_good]; decide +kernel

theorem witness_created_ring :
    Served (table 1024 8192) bus 0x2100 4 ∧ tableWf ringDefault (table 1024 8192).hop.rings = true ∧
    dGet (awake (table 1024 8192)) (dk 0x2100 2) ≠ 0 ∧ (ringOf (table 1024 8192) 5).state = .free ∧
    configValid (awake (table 1024 8192)) 1024 8192 = true ∧ quotaAllows (table 1024 8192) 0 2 16384 = true ∧
    pickStack (awake (table 1024 8192)) 0 8192 = some 0 := by
  unfold Served Heard; simp only [bus_good]; decide +kernel

theorem witness_destroyed_and_resumed_ring :
    Served (ringed [(5, act)]) bus 0x2100 4 ∧ tableWf ringDefault (ringed [(5, act)]).hop.rings = true ∧
    (act.state = .active ∧ act.commitPos = act.consumer ∧ ∀ g ∈ (ringed [(5, act)]).hop.segments, g.ring ≠ 5) ∧
    (ringOf up 5).state = .free ∧ (ringOf (ringed [(5, { act with state := .halted, haltStatus := 0x11 })]) 5).state = .halted ∧
    tableWf ringDefault (ringed [(5, { act with state := .halted, haltStatus := 0x11 })]).hop.rings = true ∧
    committedSeq up 5 ≠ 2 ^ 48 - 1 ∧ committedSeq (putLedger up 5 (2 ^ 48 - 1)) 5 = 2 ^ 48 - 1 := by
  unfold Served Heard; simp only [bus_good]; decide +kernel

/-- RESUME of a ring at RGEN 255 (R24: modulo 256). -/
theorem test_resume_wraps : (∃ t, exec (.resume bus 5 0) (ringed [(5, { act with state := .halted, haltStatus := 0x11, rgen := 255 })]) = .next t ∧
    (ringOf t 5).rgen = 0 ∧ (ringOf t 5).state = .active ∧ (ringOf t 5).haltStatus = 0) := ⟨_, rfl, by decide +kernel⟩

/-- A ring with one descriptor to fetch. -/
def due : Ring := { act with producer := 1 }

/-- Stacks 0 and 6 without their lines: what the primary copy, then both copies, look like when lost. -/
def lost (l : List Nat) : State := { ringed [(5, due)] with mem := { (ringed [(5, due)]).mem with lostLines := l } }

theorem witness_descriptor_fetch :
    hopperOn (ringed [(5, due)]) = true ∧ mayFetch (ringed [(5, act)]) act 5 = false ∧ mayFetch (ringed [(5, due)]) due 5 = true ∧
    pGet (pSet (ringed [(5, due)]) 0 0xA 0) 0 0xA ≤ cellsUsed (ringed [(5, due)]) 0 ∧ 0 ∉ up.hop.stallQuota ∧
    mayFetch (pSet (ringed [(5, due)]) 0 0xA 0) due 5 = true ∧ 0 ∈ insertNat 0 up.hop.stallQuota ∧
    cellsUsed (ringed [(5, due)]) 0 < pGet (ringed [(5, due)]) 0 0xA ∧ 0 < cellsFree (ringed [(5, due)]) ∧
    cellsFree { up with hop := { up.hop with retiredCells := List.range 65536 } } = 0 ∧ segmentAhead (ringed [(5, due)]) due = false ∧
    slotAddr (ringed [(5, due)]) due 0 = some (gaMake 0 1 0) ∧ opensSeg (ringed [(5, due)]) (readDesc (ringed [(5, due)]) (gaMake 0 1 0)) = false ∧
    fetchTurnOf (ringed [(5, due)]) 5 = true ∧ fetchTurnOf (ringed [(4, due), (5, due)]) 5 = false ∧
    segmentAhead up { due with openSeg := some 1 } = true ∧
    pGet (pSet up 0 0xA 128) 0 0xA ≤ cellsHeld { up with hop := { up.hop with segments := [seg 64 false] } } 0 + 64 ∧
    cellsHeld { up with hop := { up.hop with segments := [seg 63 false] } } 0 + 64 < pGet (pSet up 0 0xA 128) 0 0xA ∧
    (let s := stNat (ringed [(5, due)]) (gaMake 0 1 0) 8 (2 ^ 28 + 1)
     opensSeg s (readDesc s (gaMake 0 1 0)) = true) ∧
    slotAddr (lost [gaMake 0 1 0 / 128, gaMake 0 1 (6 * 2 ^ 36) / 128]) due 0 = none ∧ due.cells = [] ∧
    4096 ≤ (List.replicate 4096 (seg 0 true)).length := by decide +kernel

theorem witness_descriptor_copies :
    (stackRetired up 0 = false ∧ lostIn up (gaMake 0 1 0) 128 = false) ∧
    lostIn (lost [gaMake 0 1 0 / 128]) (gaMake 0 1 0) 128 = true ∧ lostIn (lost [gaMake 0 1 0 / 128]) (gaMake 0 1 (6 * 2 ^ 36)) 128 = false ∧
    lostIn (lost [gaMake 0 1 0 / 128, gaMake 0 1 (6 * 2 ^ 36) / 128]) (gaMake 0 1 (6 * 2 ^ 36)) 128 = true := by decide +kernel

theorem witness_sequence_checks :
    levelCheck up 0 (desc 0 1 []) = 0 ∧ levelCheck up 0 [2] = 0x25 ∧ seqOf (desc 0 0 []) = 0 ∧
    seqOf (desc 0 1 []) ≤ committedSeq (putLedger up 5 1) 5 ∧ committedSeq up 5 < seqOf (desc 0 1 []) ∧
    seqOf (desc 0 1 []) < { act with nextSeq := 2 }.nextSeq.toNat ∧ act.nextSeq.toNat < seqOf (desc 0 2 []) ∧
    examine (ringed [(5, act)]) 5 (desc 0 1 []) = .take := by decide +kernel

/-- A ring whose first cell is being read. -/
def reading (d : List Word) (next : BitVec 48) : State := ringed [(5, { due with consumer := 1, nextSeq := next, cells := [cell d .reading] })]

theorem witness_acceptance :
    hopperOn (reading (desc 0 1 []) 1) = true ∧
    (ringOf (reading (desc 0 1 []) 1) 5).cells.find? (fun c => c.st == .reading) = some (cell (desc 0 1 []) .reading) ∧
    examine (reading (desc 0 1 []) 1) 5 (desc 0 1 []) = .take ∧ examine (putLedger (reading (desc 0 1 []) 2) 5 1) 5 (desc 0 1 []) = .skip ∧
    examine (reading (desc 0 1 []) 2) 5 (desc 0 1 []) = .pend ∧ examine (reading (desc 0 2 []) 1) 5 (desc 0 2 []) = .give 0x24 := by
  decide +kernel

/-- Partition 0 with an accepted head. -/
def head (d : List Word) : State := running (ringed [(5, { due with consumer := 1, nextSeq := 2, cells := [cell d .accepted] })])

/-- Partitions 0 and 1, each with a COPY at its head, partition 1's accepted first. -/
def rivals : State :=
  pSet (pSet (running (ringed [(5, { due with consumer := 1, cells := [{ cell (desc 0x500 1 []) .accepted with order := 2 }] }),
    (6, { due with part := 1, consumer := 1, cells := [cell (desc 0x500 1 []) .accepted] })])) 1 1 1) 1 5 1

theorem witness_dispatch :
    dispatcherOn (head (desc 0 1 [])) = true ∧ partDispatches (head (desc 0 1 [])) 0 = true ∧
    pickHead (head (desc 0 1 [])) 0 = some (5, cell (desc 0 1 []) .accepted) ∧
    engineTaken (head (desc 0 1 [])) 0 (5, cell (desc 0 1 []) .accepted) = false ∧
    shapeFault (head (desc 0 1 [])) { part := 0, ring := 5 } (desc 0 1 []) = none ∧
    dispatchStatus (head (desc 0 1 [])) { part := 0, ring := 5 } (desc 0 1 []) = 0 ∧
    pickHead (head (desc 5 1 [])) 0 = some (5, cell (desc 5 1 []) .accepted) ∧
    dispatchStatus (head (desc 5 1 [])) { part := 0, ring := 5 } (desc 5 1 []) = 1 ∧
    pickHead (head (desc 4 1 [])) 0 = some (5, cell (desc 4 1 []) .accepted) ∧
    dispatchStatus (head (desc 4 1 [])) { part := 0, ring := 5 } (desc 4 1 []) / 16 = 2 ∧ opcOf (desc 0 1 []) < 4 ∧
    flightOf (head (desc 0 1 [])) 5 = none ∧
    (∃ c, pickHead rivals 0 = some (5, c) ∧ engineTaken rivals 0 (5, c) = true) := by
  and_intros
  all_goals first
    | decide +kernel
    | exact ⟨{ cell (desc 0x500 1 []) .accepted with order := 2 }, by decide +kernel⟩

/-- A REWIND of ring 5's segment, at the head of that ring, which holds a PHASE_MARK whose tensor entry 0 is lost. -/
def rewindLost : State :=
  let s := head (desc 4 1 [0, 0, 5, 1])
  { pSet s 0 9 1 with hop := { s.hop with segments := [{ seg 0 true with held := [desc 0x901 1 []] }] }, mem := { s.mem with lostLines := [0] } }

theorem witness_dispatch_fault :
    Sys2Proof.State.canonical (head (desc 0 1 [])) ∧
    pickHead rewindLost 0 = some (5, cell (desc 4 1 [0, 0, 5, 1]) .accepted) ∧
    engineTaken rewindLost 0 (5, cell (desc 4 1 [0, 0, 5, 1]) .accepted) = false ∧
    shapeFault rewindLost { part := 0, ring := 5 } (desc 4 1 [0, 0, 5, 1]) = none ∧
    dispatchStatus rewindLost { part := 0, ring := 5 } (desc 4 1 [0, 0, 5, 1]) / 16 = 1 ∧
    segName (desc 4 1 [0, 0, 5, 1]) = (5, 1) ∧ findSeg rewindLost 5 1 = some { seg 0 true with held := [desc 0x901 1 []] } ∧
    [desc 0x901 1 []].find? (fun d => tensorCheck rewindLost 0 d == 0x10) = some (desc 0x901 1 []) := by
  refine ⟨by unfold Sys2Proof.State.canonical; and_intros <;> decide +kernel, ?_⟩
  decide +kernel

/-- `s` with one FP16 tensor in partition 0, at 2^20, of 256 by 1 by 1 by 1. -/
def tensed (s : State) : State :=
  stNat (stNat (stNat (pSet (pSet s 0 8 8192) 0 9 1) 8192 8 (2 ^ 63 + 2 ^ 57 + 2 ^ 20)) 8200 8 (2 ^ 32 + 256)) 8208 8 (2 ^ 32 + 1)

/-- A RESTORE at the head of ring 5, its record mapped at a global address, with lines lost. -/
def restoring (addr : Nat) (lines : List Nat) : State :=
  let s := tensed (head (desc 0x802 1 []))
  { s with mem := { s.mem with maps := [{ part := 0, va := 0, size := 2 ^ 30, addr := addr, tier := 2, owner := none }], lostLines := lines } }

/-- A SPILL with ALLOC at the head of ring 5, in a partition without quota. -/
def spilling : State :=
  let s := pSet (tensed (head (desc 0x503 1 [0, 0, 0, 64, 0x42]))) 0 0x11 0
  { s with mem := { s.mem with maps := [] } }

/-- A KV_APPEND of one position at the head of ring 5, with a pool whose classes have no page. -/
def appending : State :=
  let s := dicts (tensed (head (desc 0x302 1 [0, 0, 0, 0, 1, 2 ^ 32]))) [(dk 0x2610 3, 2 ^ 21), (dk 0x2610 1, 2 ^ 22), (dk 0x2610 2, 1)]
  stNat (stNat s (2 ^ 22 + 8) 8 (16 * 2 ^ 16)) (2 ^ 22 + 16) 8 0x44

/-- A head whose dispatch waits for the READs of its record. -/
def headReads (l : List (Nat × Nat)) : InFlight :=
  { blankFlight up 5 0 (cell (desc 0x802 1 []) .accepted) with reading := true, fetched := l }

theorem witness_dispatch_ends :
    shapeFault spilling { part := 0, ring := 5 } (desc 0x503 1 [0, 0, 0, 64, 0x42]) = none ∧
    dispatchStatus spilling { part := 0, ring := 5 } (desc 0x503 1 [0, 0, 0, 64, 0x42]) = 0x30 ∧
    shapeFault appending { part := 0, ring := 5 } (desc 0x302 1 [0, 0, 0, 0, 1, 2 ^ 32]) = none ∧
    dispatchStatus appending { part := 0, ring := 5 } (desc 0x302 1 [0, 0, 0, 0, 1, 2 ^ 32]) = 0x31 ∧
    opcOf (desc 0x302 1 [0, 0, 0, 0, 1, 2 ^ 32]) = 0x302 ∧
    (shapeFault (restoring 0 [2 ^ 20 / 128]) { part := 0, ring := 5 } (desc 0x802 1 [])).isSome = true := by decide +kernel

theorem witness_dispatch_reads :
    pickHead (restoring (gaMake 1 0 0) []) 0 = some (5, cell (desc 0x802 1 []) .accepted) ∧ headRead (restoring (gaMake 1 0 0) []) 0 = none ∧
    engineTaken (restoring (gaMake 1 0 0) []) 0 (5, cell (desc 0x802 1 []) .accepted) = false ∧
    headFetch (restoring (gaMake 1 0 0) []) { part := 0, ring := 5 } (desc 0x802 1 []) [] = [(gaMake 1 0 (2 ^ 20), 128)] ∧
    headFetch (restoring 0 []) { part := 0, ring := 5 } (desc 0x802 1 []) [] = [] ∧
    (∀ l ∈ [[], [(gaMake 1 0 (2 ^ 20), 128)]],
      let s : State := restoring (gaMake 1 0 0) []
      let s1 : State := { s with hop := { s.hop with inflight := [headReads l] } }
      dispatcherOn s1 = true ∧ headRead s1 0 = some (headReads l) ∧ (ringOf s1 5).cells = [cell (desc 0x802 1 []) .accepted] ∧
      (headFetch s1 { part := 0, ring := 5 } (desc 0x802 1 []) (headReads l).fetched = [] ↔ l ≠ [])) := by decide +kernel

/-- Every ready head of partition 0 is a NOP. -/
theorem witness_dispatch_completes :
    Sys2Proof.State.canonical (head (desc 0 1 [])) ∧ (head (desc 0 1 [])).hop.inflight = [] ∧
    (∀ x ∈ (head (desc 0 1 [])).hop.rings, ∀ c ∈ headOf x.2, opcOf c.desc = 0 ∧ headerWait (head (desc 0 1 [])) c.desc = true) ∧
    headOf { due with consumer := 1, nextSeq := 2, cells := [cell (desc 0 1 []) .accepted] } = some (cell (desc 0 1 []) .accepted) :=
  ⟨witness_dispatch_fault.1, by decide +kernel, by decide +kernel, by decide +kernel⟩

/-- Of two ready heads the one of the higher PRIO goes first (R63). -/
theorem test_head_order :
    pickHead (running (ringed [(5, { due with consumer := 1, cells := [cell (desc 0 1 []) .accepted] }),
      (6, { due with consumer := 1, cells := [{ cell ([0x03000001, 1] ++ List.replicate 14 0) .accepted with order := 9 }] })])) 0 =
      some (6, { cell ([0x03000001, 1] ++ List.replicate 14 0) .accepted with order := 9 }) := by decide +kernel

/-- A GEMM in flight with a grid of one unit, unclaimed or claimed by core 0. -/
def gemmFly (claims : List Claim) : InFlight :=
  { fly (desc 0x100 1 []) with counted := true, slotCount := 1, gridRows := 1, gridCols := 1, gridInner := 1, gridEntries := 1, claims := claims }

/-- Partition 0 runs with core 0 in its mask and a command in flight. -/
def working (c : InFlight) : State := pSet (running (flying c)) 0 2 1

theorem witness_units :
    flightOf (working (gemmFly [])) 0 = some (gemmFly []) ∧ live (working (gemmFly [])) = true ∧
    (hasUnits (gemmFly []) = true ∧ mayClaim (working (gemmFly [])) (gemmFly []) 0 = true ∧
      claimTurn (working (gemmFly [])) (gemmFly []) = true ∧ agentFree (working (gemmFly [])) (gemmFly []) 0 false = true) ∧
    claimLoop (gemmFly []) 1 0 0 = (1, 0, some 0) ∧ unitWalks (workDesc (gemmFly [])) = false ∧ up.hlth.injections = [] ∧
    ({ agent := 0, unit := 0 } : Claim) ∈ (gemmFly [{ agent := 0, unit := 0 }]).claims ∧
    unitOfSlot (gemmFly []) 0 = some 0 ∧ (gemmFly []).blockSide ∈ [1, 2, 4, 8] := by decide +kernel

/-- A transaction that a ring waits for. -/
def txn (ring : Option Nat) (pkt : Packet) : Txn :=
  { node := 1, tag := 0, pkt := pkt, ring := ring, dst := none, deadline := 10, issued := true, sentAt := 0 }

/-- `s` with transactions outstanding. -/
def asking (s : State) (l : List Txn) : State := { s with fab := { s.fab with txns := l } }

/-- A header slot. -/
def hdr (kind code : Nat) : Packet :=
  { x0 := BitVec.ofNat 64 (kind * 2 ^ 60 + code * 2 ^ 56 + 1), x1 := 100, x2 := 0, x3 := 0, data := [] }

/-- A NOP that has run with a status. -/
def ran (st : Byte) : InFlight := { fly (desc 0 1 []) with executed := true, status := st }

/-- A TALLY_SIGNAL to another node that has run. -/
def signals : InFlight := { ran 0 with desc := desc 1 1 [], acts := [.remoteAdd 0xFFFE 0 1] }

theorem witness_commit :
    flightOf (flying (ran 0)) 0 = some (ran 0) ∧ live (flying (ran 0)) = true ∧
    sealedOn { flying (ran 0) with hop := { (flying (ran 0)).hop with journal := [{ ring := 0, seq := 1, part := 0, acts := [], elapsed := 0, seg := none, interrupted := false }] } } 0 = true ∧
    waitsTxn (flying (ran 0)) 0 = false ∧ sealedOn (flying (ran 0)) 0 = false ∧ mayEnd (flying (fly (desc 0 1 []))) (fly (desc 0 1 [])) = false ∧
    mayEnd (flying (ran 0)) (ran 0) = true ∧ 0x10 ≤ (ran 0x30).status.toNat ∧ mayEnd (flying (ran 0x30)) (ran 0x30) = true ∧
    (ran 0x0F).status.toNat < 0x10 ∧ waitsTxn (commitPoint (flying (ran 0)) (ran 0)) 0 = false ∧
    tableWf ledgerDefault (flying (ran 0)).hop.ledger = true := by decide +kernel

/-- A commit with a remote add waits for it (R70). -/
theorem witness_commit_remote : mayEnd (flying signals) signals = true ∧ waitsTxn (commitPoint (flying signals) signals) 0 = true := by
  decide +kernel

/-- COMMIT of a NOP of SEQ 1 (R43, R45). -/
theorem test_commit : (∃ t, exec (.commit 0) (flying (ran 0)) = .next t ∧ committedSeq t 0 = 1 ∧ t.hop.inflight = []) :=
  ⟨_, rfl, by decide +kernel⟩

theorem witness_discard :
    flightOf (flying { ran 0 with discard := some 0x10 }) 0 = some { ran 0 with discard := some 0x10 } ∧
    live (flying { ran 0 with discard := some 0x10 }) = true ∧ waitsTxn (asking up [txn (some 0) (hdr 0 0)]) 0 = true ∧
    waitsTxn (flying { ran 0 with discard := some 0x10 }) 0 = false := by decide +kernel

/-- `up` with a vector in holdoff, t ticks after its message. -/
def holding (b : Bool) (t : Nat) : State := dSet { up with host := { up.host with holdoff := [(3, b, 0)] } } (dk 0x1400 1) t

theorem witness_holdoff :
    (∀ t ∈ [24, 25], live (holding true t) = true ∧ (holding true t).host.holdoff.find? (fun h => h.1 == 3) = some (3, true, 0) ∧
      (holding false t).host.holdoff.find? (fun h => h.1 == 3) = some (3, false, 0) ∧ falyndiUp (holding true t) = true) ∧
    ¬(0 + dGet (holding true 24) (dk 0x1100 6) ≤ now (holding true 24)) ∧
    0 + dGet (holding true 25) (dk 0x1100 6) ≤ now (holding true 25) := by decide

/-! ### Opcode rows -/

theorem witness_control_rows :
    Ready (flying (fly (desc 0 1 []))) 0 0 (fly (desc 0 1 [])) ∧ Ready (flying (fly (desc 1 1 []))) 0 1 (fly (desc 1 1 [])) ∧
    Ready (flying (fly (desc 2 1 []))) 0 2 (fly (desc 2 1 [])) ∧ Ready (flying (fly (desc 3 1 []))) 0 3 (fly (desc 3 1 [])) :=
  ⟨⟨rfl, rfl, rfl, rfl, rfl⟩, ⟨rfl, rfl, rfl, rfl, rfl⟩, ⟨rfl, rfl, rfl, rfl, rfl⟩, ⟨rfl, rfl, rfl, rfl, rfl⟩⟩

theorem witness_tally_add :
    tableWf tallyDefault up.hop.tallies = true ∧ tallyOf up 0 + (2 ^ 64 - 1) < 2 ^ 64 ∧ 2 ^ 64 ≤ tallyOf up 0 + 2 ^ 64 ∧
    tallyOwner up 0 = some 0 := by decide +kernel

/-- A tally stays at 2^64 - 1 (R68). -/
theorem test_tally_saturates : tallyOf (tallyAdd (tallyAdd up 3 (2 ^ 64 - 1)) 3 5) 3 = 2 ^ 64 - 1 := by decide +kernel

theorem witness_release :
    Ready (flying (fly (desc 5 1 []))) 0 5 (fly (desc 5 1 [])) ∧
    findSeg { up with hop := { up.hop with segments := [seg 1 true] } } 5 1 = some (seg 1 true) ∧ (seg 1 true).complete = true ∧
    findSeg { up with hop := { up.hop with segments := [seg 1 false] } } 5 1 = some (seg 1 false) ∧ (seg 1 false).complete = false := by
  refine ⟨⟨rfl, rfl, rfl, rfl, rfl⟩, ?_⟩
  decide +kernel

/-- A REWIND with parts to run. -/
def rewinds (l : List (List Word)) (on : Bool) : InFlight := { fly (desc 4 1 []) with parts := l, partOn := on }

theorem witness_rewind :
    Ready (flying (rewinds [] false)) 0 4 (rewinds [] false) ∧ Ready (flying (rewinds [desc 0 1 []] true)) 0 4 (rewinds [desc 0 1 []] true) ∧
    unitsEnded (rewinds [desc 0 1 []] true) = true ∧ waitsTxn (flying (rewinds [desc 0 1 []] true)) 0 = false ∧
    unitsEnded { rewinds [desc 0x100 1 []] true with claims := [{ agent := 0, unit := 0 }] } = false ∧
    waitsTxn (asking (flying (rewinds [desc 0 1 []] true)) [txn (some 0) (hdr 0 0)]) 0 = true ∧
    shapeFault (ownView (flying (rewinds [desc 0 1 []] false)) (rewinds [desc 0 1 []] false)) { part := 0, ring := 0 } (desc 0 1 []) = none ∧
    opShape (flying (rewinds [desc 0 1 []] false)) { part := 0, ring := 0 } (desc 0 1 []) = 0 ∧ onCores 0 = false ∧
    opShape up { part := 0, ring := 0 } (desc 0x500 1 []) ≠ 0 ∧
    (∃ o ∈ [0x100, 0x400, 0x405], onCores o = true) ∧ coresReady up 15 = false ∧ coresReady up 0 = true := by
  refine ⟨⟨rfl, rfl, rfl, rfl, rfl⟩, ⟨rfl, rfl, rfl, rfl, rfl⟩, ?_⟩
  decide +kernel

/-- A NOP as the first part of a REWIND: nothing stands in its way, and it has run. -/
def nopPart : Bool :=
  let c := rewinds [desc 0 1 []] false
  let s := flying c
  let v := ownView s c
  let c' := { c with desc := desc 0 1 [], latched := opLatch v { part := 0, ring := 0 } (desc 0 1 []) }
  let p := partPlan (planView v c') c'
  clear s c' p && (match touched (withMaps s p.maps) { part := 0, ring := 0 } p with
    | .error _ => false
    | .ok t => (flightOf (ranPlan s 0 c' p t) 0).any (fun x => x.executed))

theorem witness_rewind_part : nopPart = true ∧ flightOf (flying (rewinds [desc 0 1 []] false)) 0 = some (rewinds [desc 0 1 []] false) ∧
    queueAhead (flying (rewinds [desc 0 1 []] false)) (desc 0 1 []) up.hop.dispatchOrder = false := by decide +kernel

/-- A COPY of a REWIND waits behind one that was dispatched before it (R64). -/
theorem witness_rewind_queue : queueAhead (flying (fly (desc 0x500 1 []))) (desc 0x500 1 []) 1 = true := by decide +kernel

theorem witness_array_and_vector_rows :
    Meets 0x100 gemmPlan ∧ Meets 0x101 gemmPlan ∧ Meets 0x102 gemmPlan ∧ Meets 0x200 convPlan ∧ Meets 0x201 convPlan ∧
    Meets 0x202 convPlan ∧ Meets 0x203 convPlan ∧ Meets 0x204 convPlan ∧ Meets 0x205 convPlan ∧ Meets 0x400 vecPlan ∧
    Meets 0x401 vecPlan ∧ Meets 0x402 vecPlan ∧ Meets 0x403 vecPlan ∧ Meets 0x404 optPlan ∧ Meets 0x405 rngPlan :=
  ⟨meets _ _ [] rfl (by decide +kernel), meets _ _ [] rfl (by decide +kernel), meets _ _ [] rfl (by decide +kernel),
   meets _ _ [] rfl (by decide +kernel), meets _ _ [] rfl (by decide +kernel), meets _ _ [] rfl (by decide +kernel),
   meets _ _ [] rfl (by decide +kernel), meets _ _ [] rfl (by decide +kernel), meets _ _ [] rfl (by decide +kernel),
   meets _ _ [] rfl (by decide +kernel), meets _ _ [] rfl (by decide +kernel), meets _ _ [] rfl (by decide +kernel),
   meets _ _ [] rfl (by decide +kernel), meets _ _ [] rfl (by decide +kernel), meets _ _ [] rfl (by decide +kernel)⟩

theorem witness_attention_and_cache_rows :
    Meets 0x300 fwdPlan ∧ Meets 0x301 bwdPlan ∧ Meets 0x302 appendPlan ∧ Meets 0x303 swapPlan ∧ Meets 0x304 lookupPlan ∧
    Meets 0x305 insertPlan ∧ Meets 0x306 prefixReleasePlan :=
  ⟨meets _ _ [] rfl (by decide +kernel), meets _ _ [] rfl (by decide +kernel), meets _ _ [] rfl (by decide +kernel),
   meets _ _ [] rfl (by decide +kernel), meets _ _ [] rfl (by decide +kernel), meets _ _ [] rfl (by decide +kernel),
   meets _ _ [] rfl (by decide +kernel)⟩

theorem witness_store_and_memory_rows :
    Meets 0x501 savePlan ∧ Meets 0x502 loadPlan ∧ Meets 0x503 spillPlan ∧ Meets 0x504 spillPlan ∧ Meets 0x500 copyPlan ∧
    Meets 0x507 convertPlan ∧ Meets 0x505 mapPlan ∧ Meets 0x506 unmapPlan ∧ Meets 0x600 remotePlan ∧ Meets 0x601 remotePlan ∧
    Meets 0x601 remoteAtomicPlan :=
  ⟨meets _ _ [] rfl (by decide +kernel), meets _ _ [] rfl (by decide +kernel), meets _ _ [] rfl (by decide +kernel),
   meets _ _ [] rfl (by decide +kernel), meets _ _ [] rfl (by decide +kernel), meets _ _ [] rfl (by decide +kernel),
   meets _ _ [] rfl (by decide +kernel), meets _ _ [] rfl (by decide +kernel), meets _ _ [] rfl (by decide +kernel),
   meets _ _ [] rfl (by decide +kernel), meets _ _ [0, 0, 0, 0, 8, 0x21] rfl (by decide +kernel)⟩

theorem witness_resilience_rows :
    Meets 0x800 cutPlan ∧ Meets 0x802 restorePlan ∧ Meets 0x803 mirrorPlan ∧ Meets 0x804 digestPlan ∧ Meets 0x900 markPlan ∧
    Meets 0x901 markPlan :=
  ⟨meets _ _ [] rfl (by decide +kernel), meets _ _ [] rfl (by decide +kernel), meets _ _ [] rfl (by decide +kernel),
   meets _ _ [] rfl (by decide +kernel), meets _ _ [] rfl (by decide +kernel), meets _ _ [] rfl (by decide +kernel)⟩

/-- A collective instance of this module and node 1. -/
def inst (nodes : List Nat) : CollInst :=
  { collId := 9, signature := 5, nodes := nodes, rank := 0, sent := 0, used := [], lastTick := 0 }

/-- A collective in flight. -/
def joins (d : List Word) (nodes : List Nat) : InFlight := { fly d with coll := some (inst nodes) }

/-- A collective as its row finds it, with transactions `l` outstanding: its operands can be read, and every message that can leave has
left; whether a plan remains to run and is clear; whether a transaction is still outstanding then. -/
def collective (opc : Nat) (words : List Word) (nodes : List Nat) (l : List Txn) : Bool × Bool × Option Bool × Bool :=
  let c := joins (desc opc 1 words) nodes
  let s := asking (flying c) l
  let w : Who := { part := 0, ring := 0 }
  let s1 := (instTakes s (inst nodes)).1
  let i := (instTakes s (inst nodes)).2
  let x := collCtx s1 w c.desc i
  let out := x.ready (x.sends.drop i.sent)
  let i2 := { i with sent := i.sent + out.length }
  let s2 := asks (some 0) (setFlight s1 0 (fun f => { f with coll := some i2 })) (out.flatMap (fun y => x.chunkAsks y.1 y.2))
  (match touched s w { Plan.ok with reads := collReads s w c.desc } with
    | .error _ => false
    | .ok t => !waitsRead s 0 && t.reads.all (fun x => !hostRange x.1 && !remoteAddr s x.1) && (lostRead s t.reads).isNone &&
        (toFetch s c t).isEmpty,
   i.sent + out.length == x.sends.length,
   (collPlan s1 w c x).map (fun p => clear s2 { c with coll := some i2 } { p with reads := collReads s1 w c.desc }),
   waitsTxn s2 0)

theorem witness_collective_rows :
    (∀ opc ∈ [0x602, 0x603, 0x604, 0x605, 0x606], opcOf (joins (desc opc 1 []) [0, 1]).desc = opc ∧
      collHeld (flying (joins (desc opc 1 []) [0, 1])) (joins (desc opc 1 []) [0, 1]) = true) ∧
    (∀ opc ∈ [0x602, 0x603, 0x604, 0x605, 0x606], collective opc [] [0] [] = (true, true, some true, false)) ∧
    (∀ opc ∈ [0x602, 0x603, 0x604, 0x605, 0x606], collective opc [] [0] [txn (some 0) (hdr 1 0)] = (true, true, some false, true)) ∧
    collective 0x604 [0, 0, 0, 0, 0, 1] [0, 1] [] = (true, true, none, true) := by decide +kernel

/-- A parity command of a role. -/
def parity (opc role : Nat) (nodes : List Nat) : InFlight := joins (desc opc 1 [0, 0, 0, 0, 0, BitVec.ofNat 64 role]) nodes

/-- What its engine makes of a parity command when it takes what has arrived. -/
def took (c : InFlight) (nodes : List Nat) (f : InFlight) : InFlight :=
  { f with
    coll := some (instTakes (flying c) (inst nodes)).2
    results := if isHolder c.desc then
      ((flying c).fab.staged.filter (fun k => k.pkt.addr / 2 ^ 32 == (inst nodes).collId.toNat)).foldl xorArrival f.results else f.results }

/-- The state in which its engine has taken what has arrived. -/
def takenIn (c : InFlight) (nodes : List Nat) : State := setFlight (instTakes (flying c) (inst nodes)).1 0 (took c nodes)

theorem witness_parity_rows :
    (∀ opc ∈ [0x801, 0x803], opcOf (parity opc 0 [0]).desc = opc ∧ collHeld (flying (parity opc 0 [0])) (parity opc 0 [0]) = true) ∧
    (parFields (parity 0x801 0 [0]).desc).role = 0 ∧ (parFields (parity 0x801 1 [0]).desc).role ≠ 0 ∧
    clear (flying (parity 0x801 0 [0])) (parity 0x801 0 [0]) (memberPlan (flying (parity 0x801 0 [0])) (parity 0x801 0 [0]) (inst [0])) = true ∧
    clear (flying (parity 0x803 0 [0])) (parity 0x803 0 [0]) (memberPlan (flying (parity 0x803 0 [0])) (parity 0x803 0 [0]) (inst [0])) = true ∧
    membersDone (parity 0x801 1 [0, 1]).desc (inst [0, 1]) = false ∧ membersDone (parity 0x801 1 [0]).desc (inst [0]) = true := by
  decide +kernel

theorem witness_parity_plans :
    (let c := parity 0x801 1 [0]
     clear (takenIn c [0]) (took c [0] c) (holderPlan (takenIn c [0]) (took c [0] c)) = true) ∧
    (let c := parity 0x803 1 [0]
     rebuilderBuf (takenIn c [0]) (took c [0] c) = some 0 ∧
     clear (takenIn c [0]) (took c [0] c) (rebuilderPlan (takenIn c [0]) (took c [0] c) (inst [0]) 0) = true) ∧
    (let c := joins (desc 0x803 1 [0, 0, 0, 0, 0, 1, 5]) [0]
     rebuilderBuf (takenIn c [0]) (took c [0] c) = none ∧
     clear (takenIn c [0]) (took c [0] c) { Plan.stop 0x41 with undef := rebuilderOut (takenIn c [0]) (took c [0] c) } = true) := by
  decide +kernel

/-- A stream before its first picture. -/
def newStream : StreamCopy :=
  { token := 0, pictures := 0, taken := 0, slots := [], refs := [], waiting := [], due := 0, good := none, lost := [], needRap := false }

/-- A stream context 0 of engine 0, its store at address 0 of partition 0. -/
def context : MediaCtx :=
  { engine := 0, ctx := 0, part := 0, store := 0, codec := 0, encode := false, deep := false, maxW := 64, maxH := 64, slots := 17, cur := false,
    copyA := newStream
    copyB := newStream }

/-- A media command in flight on engine 0. -/
def plays (opc : Nat) (l : List Word) : State :=
  { flying (fly (desc opc 1 l)) with media := { up.media with contexts := [context] } }


theorem witness_decode : clear (plays 0x700 []) (fly (desc 0x700 1 [])) (decPlan (plays 0x700 []) (fly (desc 0x700 1 []))).plan = true := by
  decide +kernel

theorem witness_media_rows :
    mediaName (desc 0x700 1 []) = some (0, 0) ∧ engineFull (plays 0x700 []) (fly (desc 0x700 1 [])) 0 = false ∧
    mediaName (desc 0x701 1 []) = some (0, 0) ∧ mediaName (desc 0x702 1 []) = some (0, 0) ∧
    clear (plays 0x701 []) (fly (desc 0x701 1 [])) (encPlan (plays 0x701 []) (fly (desc 0x701 1 []))).plan = true ∧
    (∀ op ∈ [1, 2, 3], clear (plays 0x702 [0, 0, 0, BitVec.ofNat 64 (0x1000 * op)]) (fly (desc 0x702 1 [0, 0, 0, BitVec.ofNat 64 (0x1000 * op)]))
      (ctxRowPlan op (plays 0x702 []) (fly (desc 0x702 1 [0, 0, 0, BitVec.ofNat 64 (0x1000 * op)]))).plan = true) ∧
    flightOf (plays 0x700 []) 0 = some (fly (desc 0x700 1 [])) := by decide +kernel

theorem witness_run_frame :
    (touched up { part := 0, ring := 0 } { Plan.ok with writes := [(4096, [1, 2])] }).toBool = true ∧ (fly (desc 0 1 [])).ring = 0 ∧
    (fly (desc 0 1 [])).part < 16 := by decide +kernel

/-- `up` with one FP16 tensor in partition 0, of rank 1 and 256 columns, and a pool record at 2^21. -/
def shaped : State :=
  stNat (stNat (dSet (pSet (pSet up 0 8 8192) 0 9 1) (dk 0x2610 3) (2 ^ 21)) 8192 8 (2 ^ 61 + 2 ^ 57 + 2 ^ 20)) 8200 8 256

/-- What the statements of written ranges suppose: outputs as wide as what is written, tables that can be translated, a pool, a context. -/
theorem witness_row_writes :
    (tens shaped 0 0).cols = 256 ∧ (gemmFields (desc 0x100 1 [0, 0, 0, 0, 0, 2 ^ 36])).n = 16 ∧
    (convFields (desc 0x200 1 [0, 0, 0, 0, 0, 0, 2 ^ 20])).cOut = 16 ∧ (convFields (desc 0x205 1 [0, 0, 0, 0, 0, 0, 16])).isPool = true ∧
    (convFields (desc 0x205 1 [0, 0, 0, 0, 0, 0, 16])).cIn = 16 ∧ (vecFields (desc 0x402 1 [0, 0, 0, 0, 0x400, 16])).cols = 16 ∧
    (vecFields (desc 0x402 1 [0, 0, 0, 0, 0x400, 16])).sEn = true ∧ (optFields (desc 0x404 1 [0, 0, 0, 0, 0, 0, 0, 0, 0, 0, 16])).cols = 16 ∧
    (rngFields (desc 0x405 1 [0, 0, 0, 0, 0, 0, 16])).cols = 16 ∧ (attnFields (desc 0x300 1 [0, 0, 0, 0, 0, 16, 0x210])).d ≤ 256 ∧
    (attnFields (desc 0x300 1 [0, 0, 0, 0, 0, 16, 0x210])).statsEn = true ∧ (attnFields (desc 0x300 1 [0, 0, 0, 0, 0, 16, 0x210])).lq = 16 ∧
    (poolOf shaped 0).isSome = true ∧ (swapFields (desc 0x303 1 [])).count = 0 ∧ (translate shaped 0 0 (tens shaped 0 0).inBuf).isSome = true ∧
    (copyFields (desc 0x500 1 [])).ext.getD 0 0 ≤ 256 ∧ (spillFields (desc 0x503 1 [])).isStore = false ∧ opcOf (desc 0x504 1 []) = 0x504 ∧
    isAtomic (desc 0x600 1 []) = false ∧ (cutFields (desc 0x804 1 [])).wantEn = false ∧ (parFields (desc 0x803 1 [])).dst = 0 ∧
    findCtx (plays 0x700 []) 0 0 = some context := by decide +kernel
/-! ### Requests to the dictionary -/

/-- Requests by mailbox. -/
def mail : Req := { txid := 7, src := .mailbox }

theorem witness_repeated_requests :
    (∃ k, keptFor { up with host := { up.host with kept := [{ txid := 7, src := bus.src, bytes := [1] }] } } bus = some k) ∧
    up.pwr.inputOk = true ∧ ({ up with pwr := { up.pwr with inputOk := false } } : State).pwr.inputOk = false ∧
    falyndiUp State.reset = false ∧ mail.src = .mailbox := by
  refine ⟨⟨_, rfl⟩, by decide, by decide, by decide, rfl⟩

theorem witness_write :
    Heard up bus ∧ (∃ st, writeBar up 0xFFFF 1 [] = some st) ∧ writeBar up 0x1200 3 (leBytes 8 0) = none ∧
    (∃ e, dictEntry up.variant (dk 0x1200 3) = some e) ∧ blocked up (dk 0x1200 3) = false ∧
    (entryOp .rw 0x1200 3 0 (awake up)).2 = some stOk ∧ (entryOp .rw 0x1200 3 1 (awake up)).2 = some stRefused := by
  refine ⟨by unfold Heard; simp only [bus_good]; decide +kernel, ⟨_, rfl⟩, by decide +kernel, ⟨_, rfl⟩, by decide +kernel, by decide +kernel, by decide +kernel⟩

/-- Entries without rules of their own: the scrub interval (3,600 s is the least but 0), the visit order of class RWQ. -/
theorem witness_plain_write :
    (writeBar up 0x2412 1 (leBytes 4 3600) = none ∧ valueGood (awake up) 0x2412 1 3600 = true ∧ valueGood (awake up) 0x2412 1 3599 = false ∧
    blockQuiet (awake up) 0x2203 1 = true ∧ blockQuiet (awake (running up)) 0x2203 1 = false ∧
    blocked { up with pwr := { up.pwr with resetRunning := some .warm } } (dk 0x1200 3) = true) ∧
    entryOp .rw 0x2412 1 3600 (awake up) = plainOp .rw 0x2412 1 3600 (awake up) ∧
    entryOp .rwq 0x2203 1 1 (awake up) = plainOp .rwq 0x2203 1 1 (awake up) := ⟨by decide +kernel, rfl, rfl⟩

/-- A read gives the value in its type's size (R357): arch_level is 1. -/
theorem test_read_arch_level :
    (∃ t, exec (.read bus 0x1000 1) up = .next t ∧ t.host.busOut = (respond (awake up) bus 0x01 0x1000 1 stOk [1]).host.busOut) :=
  ⟨_, rfl, by decide +kernel⟩

theorem witness_reads :
    Heard up bus ∧ dictEntry up.variant (dk 0x7F00 1) = none ∧ hidden up 0x1000 = false ∧
    (∃ e, dictEntry up.variant (dk 0x1500 1) = some e ∧ e.access = .wo) ∧
    (∃ e, dictEntry up.variant (dk 0x1200 1) = some e ∧ e.access ≠ .wo ∧ e.type = .dom) ∧
    (∃ e, dictEntry up.variant (dk 0x1000 2) = some e ∧ e.access ≠ .wo ∧ e.type = .str) ∧ readBlocked up (dk 0x1000 2) = false ∧
    (∃ e, dictEntry up.variant (dk 0x1000 1) = some e ∧ e.access ≠ .wo ∧ e.type ≠ .dom ∧ e.type ≠ .str) ∧
    (∃ k ∈ [dk 0x2413 6], readBlocked { up with pwr := { up.pwr with resetRunning := some .warm } } k = true) := by
  refine ⟨by unfold Heard; simp only [bus_good]; decide +kernel, by decide +kernel, by decide +kernel, ⟨_, rfl, by decide +kernel⟩, ⟨_, rfl, by decide +kernel⟩,
    ⟨_, rfl, by decide +kernel⟩, by decide +kernel, ⟨_, rfl, by decide +kernel⟩, by decide +kernel⟩

/-- `up` with sessions open. -/
def session (l : List Session) : State := { up with host := { up.host with sessions := l } }

/-- A session of the requester on attest_request. -/
def xfer (upload : Bool) (held : List (Nat × List Byte)) (size segments : Nat) (crc : BitVec 32) : Session :=
  { index := 0x1340, sub := 1, src := bus.src, upload := upload, size := BitVec.ofNat 64 size, segments := BitVec.ofNat 32 segments,
    crc := crc, snapshot := if upload then List.replicate size 1 else [], held := held, last := 0 }

/-- A session of another entry. -/
def other (sub : Nat) : Session := { xfer true [] 1 1 0 with sub := BitVec.ofNat 8 sub }

theorem witness_uploads :
    Heard (session [xfer true [] 1025 2 0]) bus ∧ sessionBar (awake up) 0x1000 1 true = some stBadMessage ∧
    sessionBar (awake up) 0x1200 1 true = none ∧ sessionRoom (awake (session [other 2, other 3, other 4, other 5])) bus.src 0x1200 1 = false ∧
    sessionRoom (awake (session [other 2, other 3, other 4])) bus.src 0x1200 1 = true ∧ findSession up bus.src 0x1340 1 = none ∧
    findSession (session [xfer true [] 1025 2 0]) bus.src 0x1340 1 = some (xfer true [] 1025 2 0) ∧ (xfer true [] 1025 2 0).upload = true ∧
    (xfer true [] 1025 2 0).segments.toNat ≤ 2 ∧ 1 < (xfer true [] 1025 2 0).segments.toNat := by
  unfold Heard; simp only [bus_good]; decide +kernel

theorem witness_downloads :
    Heard up bus ∧ sessionBar (awake up) 0x1340 1 false = none ∧ sizeRefused (dk 0x1340 1) 31 = true ∧ sizeRefused (dk 0x1340 1) 32 = false ∧
    (1 : Nat) = (32 + 1023) / 1024 ∧ downloadOpen (awake up) bus.src 0x1340 1 = false ∧ sessionRoom (awake up) bus.src 0x1340 1 = true ∧
    findSession (session [xfer false [] 32 1 0]) bus.src 0x1340 1 = some (xfer false [] 32 1 0) ∧ segmentLen (xfer false [] 32 1 0) 0 = 32 ∧
    crc32 (List.replicate 32 (0 : Byte)) ≠ 0 ∧ 0 < (xfer false [] 32 1 0).segments.toNat ∧
    (xfer false [] 32 1 0).held.length ≠ (xfer false [] 32 1 0).segments.toNat ∧
    (xfer false [(0, List.replicate 32 0)] 32 1 0).held.length = 1 ∧
    crc32 (wholeObject (xfer false [(0, List.replicate 32 0)] 32 1 0)) ≠ (xfer false [(0, List.replicate 32 0)] 32 1 0).crc ∧
    crc32 (wholeObject (xfer false [(0, List.replicate 32 0)] 32 1 (crc32 (List.replicate 32 0)))) =
      (xfer false [(0, List.replicate 32 0)] 32 1 (crc32 (List.replicate 32 0))).crc ∧
    now (session [xfer false [] 32 1 0]) < (xfer false [] 32 1 0).last.toNat + 125000000 ∧
    (let s := dSet (session [xfer false [] 32 1 0]) (dk 0x1400 1) 125000000
     findSession s bus.src 0x1340 1 = some (xfer false [] 32 1 0) ∧ (xfer false [] 32 1 0).last.toNat + 125000000 ≤ now s) := by
  unfold Heard; simp only [bus_good]; decide +kernel

/-- The mailbox with a message: a READ of arch_level with TXID 7. -/
def mailed : State :=
  { up with host := { up.host with mailReq := (leBytes 8 (0x0C61 + 1 * 2 ^ 16 + 1 * 2 ^ 24 + 7 * 2 ^ 32) ++
      leBytes 8 (0x1000 * 2 ^ 8 + 1 * 2 ^ 24)).zipIdx.filterMap (fun x => if x.1 = 0 then none else some (x.2, x.1)) } }

theorem witness_mailbox :
    mailed.pwr.inputOk = true ∧ falyndiUp mailed = true ∧ mailed.host.mailBusy = false ∧
    bits (leNat ((mailBytes mailed).take 8)) 15 0 = 0x0C61 ∧ bits (leNat ((mailBytes mailed).take 8)) 23 16 = 1 ∧
    bits (leNat (((mailBytes mailed).drop 8).take 8)) 47 32 = 0 ∧ bits (leNat (((mailBytes mailed).drop 8).take 8)) 7 0 = 0 ∧
    bits (leNat (((mailBytes mailed).drop 8).take 8)) 63 48 ≤ 1036 ∧ bits (leNat ((mailBytes up).take 8)) 15 0 ≠ 0x0C61 := by decide +kernel
/-! ### Entries with rules of their own -/

theorem witness_partition_entries :
    (∀ k ∈ [1, 2, 3, 4, 6], ∀ st ∈ [0, 1, 2, 3], Served (pSet up 0 5 st) bus 0x2000 k) ∧
    (∀ st ∈ [1, 2, 3], pGet (pSet (awake (pSet up 0 5 st)) 0 6 1) 0 5 = st) ∧ 1 < (2 : Byte).toNat ∧
    pGet (pSet up 0 1 1) 0 1 = 1 ∧ pGet (pSet up 0 1 0) 0 1 = 0 ∧ maskEmpty (pSet up 0 2 1) 0 = false ∧
    maskEmpty (pSet (pSet (pSet up 0 2 0) 0 3 0) 0 4 0) 0 = true ∧
    inMask (pSet up 1 2 2) 1 1 = true ∧ 1 ∈ wordCores 0 2 ∧ ¬180 < coreCount up ∧ 180 ∈ wordCores 2 (2 ^ 52) ∧
    (∀ i ∈ wordCores 0 1, i < coreCount up ∧ ∀ q < 16, q ≠ 0 → inMask up q i = false) := by
  unfold Served Heard; simp only [bus_good]; decide +kernel

theorem witness_tally_entries :
    (∀ k ∈ [0xD, 0xE], Served (pSet up 0 5 3) bus 0x2000 k) ∧ Served (running up) bus 0x2000 0xE ∧ Served up bus 0x2100 8 ∧
    pGet (running up) 0 5 ≠ 3 ∧ pGet up 0 0xE = 4096 ∧
    (∀ q < 16, q ≠ 0 → rangesMeet (pGet up q 0xD, pGet up q 0xE) (4095, 1) = false) ∧
    rangesMeet (pGet (pSet (pSet up 1 0xD 8) 1 0xE 8) 1 0xD, pGet (pSet (pSet up 1 0xD 8) 1 0xE 8) 1 0xE) (15, 1) = true ∧
    rangesMeet (pGet (pSet (pSet up 1 0xD 8) 1 0xE 8) 1 0xD, pGet (pSet (pSet up 1 0xD 8) 1 0xE 8) 1 0xE) (16, 1) = false ∧
    allQuiet up = true ∧ allQuiet (running up) = false ∧ Served (running up) bus 0x2100 8 ∧
    (let n := gaMake (nodeId up) 0 64
     n % 64 = 0 ∧ n ≠ 0 ∧ gaNode n = nodeId up ∧ gaValid up n = true ∧ gaValid up (n + 32767) = true) ∧ ¬65 % 64 = 0 := by
  unfold Served Heard; simp only [bus_good]; decide +kernel

/-- A record of a pool at address 0: one head, 64 wide. -/
def pooled : State := stNat up 0 8 (1 * 2 ^ 16)

theorem witness_cache_entries :
    Served up bus 0x2610 3 ∧ Served up bus 0x2610 8 ∧ Served (running up) bus 0x2610 3 ∧ Served (running up) bus 0x2610 8 ∧
    partQuiet up 0 = true ∧ partQuiet (running up) 0 = false ∧ poolGood up 64 = false ∧
    Served (stNat up 64 8 (1 * 2 ^ 16 + 5)) bus 0x2610 3 ∧ (∃ f < 32, poolGood (stNat up 64 8 (1 * 2 ^ 16 + f)) 64 = true) ∧
    inLocalHbm up (kvGet up 0 6) (nodeAddr up 0 1 - kvGet up 0 6) = true ∧
    (let s := dSet up (dk 0x2610 6) (2 ^ 40 - 64)
     inLocalHbm s (kvGet s 0 6) (nodeAddr s 0 1 - kvGet s 0 6) = false) := by
  unfold Served Heard; simp only [bus_good]; decide +kernel

/-- `up` with a record in its log. -/
def logged : State :=
  { up with hlth := { up.hlth with log := [{ blankRec 5 1 0 0 with seq := 5 }] } }

/-- The loss of region 0 stands. -/
def region0 : State := dSet up (dk 0x2400 7) 1

theorem witness_watch_entries :
    Served up bus 0x2301 1 ∧ Served up bus 0x2301 64 ∧ bits 0x10000000 30 28 ≠ 0 ∧ bits 0x0FFFFFFF 30 28 = 0 ∧
    Served up bus 0x2830 1 ∧ Served up bus 0x2831 128 ∧ bits 0x60000000 30 29 = 3 ∧ bit 0x10000000 28 = true ∧
    bits 0x4FFFFFFF 30 29 ≠ 3 ∧ bit 0x4FFFFFFF 28 = false := by
  unfold Served Heard; simp only [bus_good]; decide +kernel

theorem witness_record_entries :
    Served up bus 0x4001 1 ∧ (∀ r ∈ up.hlth.log, faultIdOf r.seq.toNat ≠ 0) ∧
    logged.hlth.log.any (fun r => faultIdOf r.seq.toNat == 5) = true ∧ Served logged bus 0x4001 1 ∧
    Served up bus 0x1200 3 ∧ dGet up (dk 0x1200 2) = 0 ∧ Served up bus 0x2400 7 ∧ dGet up (dk 0x2400 7) = 0 ∧
    Served region0 bus 0x2400 7 ∧ dGet region0 (dk 0x2400 7) ≠ 0 := by
  unfold Served Heard; simp only [bus_good]; decide +kernel

theorem witness_region0_lost : Sys2Proof.State.canonical region0 := by
  unfold Sys2Proof.State.canonical
  and_intros <;> decide +kernel

/-- Slot `i` holds sixteen zero bytes after sixteen bytes of SECVER `v`, in state `st`. -/
def slotted (i st v : Nat) : State :=
  setSlotState (putSlot (setSlotState (setSlotState up 0 0) 1 0) i { bytes := leBytes 8 0 ++ leBytes 8 v ++ leBytes 8 0, byRollback := false }) i st

theorem witness_firmware_commands :
    Heard up bus ∧ blocked up (dk 0x1301 1) = false ∧ stagingOpen up = false ∧ up.host.sessions.length < 4 ∧
    (List.replicate (slotBytes + 1) (0 : Byte)).length = slotBytes + 1 ∧ blocked up (dk 0x1340 1) = false ∧ up.host.sessions = [] ∧
    stagingOpen (session [{ xfer false [] 1 1 0 with index := 0x1301 }]) = true ∧ Served (session [{ xfer false [] 1 1 0 with index := 0x1301 }]) bus 0x1301 2 ∧
    (∀ i < 2, Served (slotted i 2 0) bus 0x1301 2 ∧ stagingOpen (slotted i 2 0) = false ∧ slotState (slotted i 2 0) i = 2 ∧
      slotState (slotted i 2 0) (1 - i) ≠ 2 ∧
      slotState (slotted i 5 1) i = 5 ∧ slotState (slotted i 5 1) (1 - i) ≠ 5 ∧ bundleSecver (slotOf (slotted i 5 1) i).bytes = 1 ∧
      dGet (dSet (slotted i 5 1) (dk 0x1310 2) 2) (dk 0x1310 2) = 2 ∧ dGet (dSet (slotted i 5 1) (dk 0x1310 2) 1) (dk 0x1310 2) = 1) ∧
    Served up bus 0x1310 3 ∧ dGet (dSet up (dk 0x1310 2) 128) (dk 0x1310 2) = 128 ∧ up.pwr.inputOk = true := by
  unfold Served Heard; simp only [bus_good]
  rw [List.length_replicate]
  decide +kernel

theorem witness_secver_commit :
    (let s := slotted 0 2 1
     dGet s (dk 0x1310 2) = 0 ∧ min (liveValue (awake s) (dk 0x1310 1)) 128 ≤ 128) := by decide +kernel
/-! ### The fabric -/

/-- A torus of four modules in a line, this one node 0; window 0 of 2 MiB at 2 MiB is ACTIVE; port 0 is joined to node 1. -/
def torus : State :=
  dicts up [(dk 0x2700 1, 4), (dk 0x2700 2, 1), (dk 0x2700 3, 1), (dk 0x2700 4, 0), (dk 0x2700 5, 0), (dk 0x2700 6, 0),
    (dk 0x2740 1, 1), (dk 0x2740 2, 2 ^ 21), (dk 0x2740 3, 2 ^ 21), (dk 0x2701 1, 2), (dk 0x2701 2, 1)]

/-- `s` in a warm reset. -/
def warm (s : State) : State := { s with pwr := { s.pwr with resetRunning := some .warm } }

/-- `torus` with window 0 in a state, and the end of its notice. -/
def window (st notice : Nat) : State :=
  let s := dSet torus (dk 0x2740 1) st
  { s with fab := { s.fab with noticeEnd := [(0, BitVec.ofNat 64 notice)] } }

theorem witness_lending :
    Served up bus 0x2710 1 ∧ winGet up 0 1 = 0 ∧ winGet torus 0 1 = 1 ∧ Served torus bus 0x2710 1 ∧
    quotaAllows (pSet up 0 0x11 0) 0 2 (2 ^ 21) = false ∧ quotaAllows up 0 2 (2 ^ 21) = true ∧
    publishPlace up (2 ^ 34 - 1) = none ∧ (publishPlace up 1).isSome = true ∧ quotaAllows up 0 2 ((2 ^ 34 - 1) * 2 ^ 21) = true ∧
    live (window 2 0) = true ∧ winGet (window 2 0) 0 1 = 2 ∧ noticeLeft (window 2 0) 0 = 0 ∧ winGet (window 3 0) 0 1 = 3 ∧
    live (window 3 0) = true ∧ live (warm (window 2 0)) = false := by
  unfold Served Heard; simp only [bus_good]; decide +kernel

/-- A window is published at the highest free place (R273): 2 MiB below the end of region 0. -/
theorem test_publish_highest : publishPlace up 1 = some (region0Size up - 2 ^ 21) := by decide +kernel

/-- What a good partner of port 0 says: the same sizes, and it stands at 1, 0, 0. -/
def partner : TrainResult := { dims := (4, 1, 1), coords := (1, 0, 0), goodLanes := 0x1FFF, delay := 5, versions := 0, goodBlocks := 4096, skew := 64, lack := 0 }

/-- The bywash closed, 100 ms after the last clearing of the deduplication table. -/
def shut : State := dicts torus [(dk 0x2700 0xC, 1), (dk 0x1400 1, 2500000)]

theorem witness_ports :
    Served up bus 0x2700 0xB ∧ ¬bywashClosed up = true ∧
    (bywashClosed shut = true ∧ coordsValid shut = true ∧ mustClose shut = false ∧ shut.fab.dedupCleared.toNat + 2500000 ≤ now shut) ∧
    bywashClosed torus = false ∧ portState torus 0 ≠ 4 ∧ portState torus 0 ≠ 1 ∧ portState (portSet torus 0 1 1) 0 = 1 ∧
    bywashClosed (portSet torus 0 1 1) = false ∧ trainLanes torus 0 0x0FFC = none ∧ (trainLanes torus 0 0x1FFE).isSome = true ∧
    partnerGood torus 0 partner = true ∧ partnerGood torus 0 { partner with dims := (5, 1, 1) } = false ∧
    partnerGood torus 0 { partner with coords := (0, 0, 0) } = false := by
  unfold Served Heard; simp only [bus_good]; decide +kernel

/-- The CRC of zeros. -/
def zeros (n : Nat) (c : BitVec 32) : BitVec 32 := (List.replicate n (0 : Byte)).foldl crcByte c

/-- A flit of the given type with no more in its header and zeros after it. -/
def plainFlit (type : Nat) (crc : Nat) : List Byte := leBytes 8 (type * 2 ^ 60) ++ leBytes 8 crc ++ List.replicate 256 0

/-- A data flit with its CRC. -/
def goodFlit : List Byte := plainFlit 1 726290688

theorem plainFlit_crc (type crc : Nat) (c c0 c1 c2 c3 : BitVec 32)
    (hf : (plainFlit type crc).take 8 ++ leBytes 4 0 ++ (plainFlit type crc).drop 12 =
      leBytes 8 (type * 2 ^ 60) ++ (List.replicate 66 0 ++ (List.replicate 66 0 ++ (List.replicate 66 0 ++ List.replicate 66 0))))
    (hh : (leBytes 8 (type * 2 ^ 60)).foldl crcByte 0xFFFFFFFF = c) (h0 : zeros 66 c = c0) (h1 : zeros 66 c0 = c1) (h2 : zeros 66 c1 = c2)
    (h3 : zeros 66 c2 = c3) (hc : ~~~c3 = BitVec.ofNat 32 crc)
    (hb : BitVec.ofNat 32 (leNat (((plainFlit type crc).drop 8).take 4)) = BitVec.ofNat 32 crc)
    (hl : (plainFlit type crc).length = 272) : flitGood (plainFlit type crc) = true := by
  unfold flitGood crc32
  rw [hf, hb, hl, List.foldl_append, List.foldl_append, List.foldl_append, List.foldl_append]
  unfold zeros at h0 h1 h2 h3
  rw [hh, h0, h1, h2, h3, hc]
  simp

/-- Its CRC is that of IEEE 802.3 (R258), computed piece by piece. -/
theorem goodFlit_good : flitGood goodFlit = true := by
  apply plainFlit_crc 1 726290688 2271883506 3543916509 912176064 1088082916 3568676607 <;> decide +kernel

/-- A flit of another type. -/
def plainest : List Byte := plainFlit 2 3354876952

theorem plainest_good : flitGood plainest = true := by
  apply plainFlit_crc 2 3354876952 2712862814 3274662091 1042565923 4193301162 940090343 <;> decide +kernel

theorem witness_links :
    (∀ i ∈ [0, 6], linkStays torus i = true ∧ linkStays (linkCount torus i 0x3283 0 3) i = true) ∧ linkStays torus 5 = false := by decide +kernel

theorem witness_flits :
    flitGood goodFlit = true ∧ flitGood plainest = true ∧ flitGood [] = false ∧ (flitHead plainest).type ≠ 1 ∧ (flitHead goodFlit).type = 1 ∧
    (flitHead goodFlit).lseq = 0 ∧ (ackReplay (getLink torus 0) 0).rxNext = 0 ∧
    (ackReplay (getLink (setLink torus 0 { getLink torus 0 with rxNext := 4095 }) 0) 0).rxNext ≠ 0 := by
  refine ⟨goodFlit_good, plainest_good, ?_⟩
  decide +kernel

theorem witness_lane_swap :
    12 ≤ spareLane 0 ∧ 4 ≤ spareLane 6 ∧ (laneReport 0 2).unitKind = 5 ∧ bit (dGet torus (laneMapKey 0)) 11 = true ∧ bit (dGet torus (laneMapKey 6)) 3 = true ∧
    (getLink torus 0).spareFor = none ∧
    (getLink (setLink torus 0 { getLink torus 0 with spareFor := some 2 }) 0).spareFor.isSome = true := by decide +kernel

/-- A transaction from node 1 to a node, with LIFE `life`. -/
def pkt (kind code dest life addr : Nat) (data : List Byte) : Packet :=
  { x0 := packX0 kind code data.length false false false dest 1, x1 := BitVec.ofNat 64 (5 * 2 ^ 32 + life), x2 := BitVec.ofNat 64 addr,
    x3 := 0, data := data }

theorem witness_forward :
    fabricOn torus = true ∧ torus.pwr.resetRunning = none ∧ nextHop torus 0 none 0 = .here ∧ nextHop torus 1 none 0 = .out 0 0 ∧
    nextHop (portSet torus 0 1 0) 1 none 0 = .absent true ∧ (pkt 0 0 1 100 0 []).kind ≠ kResponse ∧ (pkt 8 0 1 100 0 []).kind = kResponse ∧
    (pkt 0 0 1 1 0 []).life ≤ 0 + 1 + dGet torus (dk 0x2701 4) ∧ 0 + 1 + dGet torus (dk 0x2701 4) < (pkt 0 0 1 100 0 []).life ∧
    fabricOn up = true ∧ (nextHop (portSet torus 0 2 3) 1 none 0 = .absent false ∨ nextHop (portSet torus 0 2 2) 1 none 0 = .absent false) := by
  decide +kernel

theorem takes {s : State} {p : Packet} {k : Nat}
    (h : (p.kind == k && p.dest == nodeId s && fabricOn s && live s && serving (wakeFrom s [2]) && !packetHeld (wakeFrom s [2]) p &&
      (Claims.taken p).life != 0 && (wakeFrom s [2]).hlth.injections.isEmpty) = true) :
    TakesIn s p k (wakeFrom s [2]) := by
  simp only [Bool.and_eq_true, beq_iff_eq, bne_iff_ne, ne_eq, Bool.not_eq_true', List.isEmpty_iff] at h
  obtain ⟨⟨⟨⟨⟨⟨⟨h1, h2⟩, h3⟩, h4⟩, h5⟩, h6⟩, h7⟩, h8⟩ := h
  exact ⟨h1, h2, h3, h4, rfl, h5, h6, h7, h8⟩

/-- `torus` with one source in its deduplication table whose tag 5 has been applied, and with the table full of other sources. -/
def seen (full : Bool) : State :=
  let e (n : Nat) : Dedup := { node := n, base := 0, bits := [5], slots := [(5, 77)], expiry := 1000 }
  { torus with fab := { torus.fab with dedup := if full then List.replicate 4096 (e 2) else [e 1] } }

theorem witness_target_takes :
    TakesIn torus (pkt 0 0 0 9 (2 ^ 21) []) kRead (wakeFrom torus [2]) ∧ TakesIn torus (pkt 1 0 0 9 (2 ^ 21) [1]) kWrite (wakeFrom torus [2]) ∧
    TakesIn torus (pkt 2 0 0 9 (2 ^ 21) []) kAtomic (wakeFrom torus [2]) ∧ TakesIn torus (pkt 3 0 0 9 1 []) kTally (wakeFrom torus [2]) ∧
    TakesIn torus (pkt 4 0 0 9 0 []) kMessage (wakeFrom torus [2]) ∧ TakesIn torus (pkt 4 1 0 9 0 []) kMessage (wakeFrom torus [2]) ∧
    TakesIn torus (pkt 5 0 0 9 0 []) kCollective (wakeFrom torus [2]) ∧
    TakesIn (seen false) (pkt 3 0 0 9 1 []) kTally (wakeFrom (seen false) [2]) ∧ TakesIn (seen true) (pkt 3 0 0 9 1 []) kTally (wakeFrom (seen true) [2]) := by
  refine ⟨takes ?_, takes ?_, takes ?_, takes ?_, takes ?_, takes ?_, takes ?_, takes ?_, takes ?_⟩ <;> decide +kernel

theorem witness_target_tags :
    (lookDedup (wakeFrom torus [2]) (pkt 0 0 0 9 (2 ^ 21) [])).2 = .new ∧ (lookDedup (wakeFrom (seen false) [2]) (pkt 3 0 0 9 1 [])).2 = .old ∧
    (lookDedup (wakeFrom (seen true) [2]) (pkt 3 0 0 9 1 [])).2 = .full ∧ atomicWidth 0 false ≠ 0 ∧ atomicWidth 7 true ≠ 0 ∧
    scalarAtomic 6 = true ∧ scalarAtomic 7 = false ∧ tallyOwner torus 4095 = some 0 ∧ pGet torus 0 0xF ≠ 1 ∧ pGet (pSet torus 0 0xF 1) 0 0xF = 1 ∧
    tallyOwner (pSet torus 0 0xE 0) 0 = none ∧ live (warm torus) = false ∧ fabricOn (warm torus) = true ∧
    (pkt 0 0 0 9 (2 ^ 21) []).dest = nodeId (warm torus) := by decide +kernel

theorem witness_target_places :
    lent torus 1 (2 ^ 21 - 1) 2 = none ∧ (∃ s3, lent torus 1 (2 ^ 21) (2 ^ 21) = some s3 ∧ lostIn s3 (2 ^ 21) 32 = false) ∧
    (∃ s3, lent { torus with mem := { torus.mem with lostLines := [2 ^ 14] } } 1 (2 ^ 21) 32 = some s3 ∧ lostIn s3 (2 ^ 21) 32 = true) ∧
    lostIn torus (2 ^ 21) 8 = false := by
  refine ⟨by decide +kernel, ⟨_, rfl, by decide +kernel⟩, ⟨_, rfl, by decide +kernel⟩, by decide +kernel⟩

/-- `torus` with a collective of instance 9 in flight. -/
def gathering : State := { torus with hop := { torus.hop with inflight := [joins (desc 0x602 1 []) [0, 1]] } }

theorem witness_collective_target :
    instanceOf torus 9 = none ∧ instanceOf gathering 9 = some (joins (desc 0x602 1 []) [0, 1]) ∧
    (joins (desc 0x602 1 []) [0, 1]).coll = some (inst [0, 1]) ∧ (inst [0, 1]).signature.toNat = 5 ∧ stagingFits gathering 1024 = true := by
  decide +kernel

/-- `torus` with one transaction to node 1 outstanding. -/
def waiting (kind : Nat) (st : State) : State := asking st [{ txn none (pkt kind 0 1 9 0 []) with tag := 5 }]

theorem witness_sources :
    tableRuns torus = true ∧ (pkt 8 0 0 9 0 []).kind = kResponse ∧ (pkt 8 0 0 9 0 []).dest = nodeId torus ∧ (pkt 8 0 0 9 0 []).life ≠ 0 ∧
    findTxn torus 1 5 = none ∧ (∀ kind ∈ [0, 3, 5], findTxn (waiting kind torus) 1 5 = some { txn none (pkt kind 0 1 9 0 []) with tag := 5 }) ∧
    (pkt 3 0 1 9 0 []).kind = kTally ∧ (pkt 5 0 1 9 0 []).kind = kCollective ∧ (pkt 8 4 0 9 0 []).code = 4 ∧
    now torus < 10 ∧ 10 ≤ now (dSet torus (dk 0x1400 1) 10) ∧ tableRuns (waiting 0 (dSet torus (dk 0x1400 1) 10)) = true ∧
    live gathering = true ∧ flightOf gathering 0 = some (joins (desc 0x602 1 []) [0, 1]) ∧
    (joins (desc 0x602 1 []) [0, 1]).discard = none ∧ sealedOn gathering 0 = false ∧
    now gathering < (inst [0, 1]).lastTick.toNat + max (collWaitMs (desc 0x602 1 []) * 25000) (txnTicks gathering) ∧
    (let s := dSet gathering (dk 0x1400 1) (2 ^ 40)
     (inst [0, 1]).lastTick.toNat + max (collWaitMs (desc 0x602 1 []) * 25000) (txnTicks s) ≤ now s) := by decide +kernel

/-- `s` with Falyndi in a link state. -/
def linked (s : State) (st : Nat) : State := dSet s (dk 0x1100 1) st

/-- `s` with LINK_LOST standing. -/
def linkGone (s : State) : State := { s with host := { s.host with linkLost := true } }

theorem witness_falyndi :
    mayTrain (linked up 1) = true ∧ mayTrain up = false ∧ bit 2 1 = true ∧ bit 1 1 = false ∧ falyndiLanes (falyndiGood up 0x7) = none ∧
    falyndiLanes (falyndiGood up 0x1E) = some (0x1E, some 0) ∧ up.pwr.inputOk = true ∧ falyndiTrained up = true ∧
    falyndiTrained (linked up 3) = false ∧ live (linked up 3) = true ∧ dGet (linked up 3) (dk 0x1100 1) = 3 ∧
    now (linked up 3) < (linked up 3).host.downAt.toNat + dGet (linked up 3) (dk 0x1100 5) * 25000 ∧
    (let s := dSet (linked up 3) (dk 0x1400 1) 250000
     live s = true ∧ dGet s (dk 0x1100 1) = 3 ∧ s.host.downAt.toNat + dGet s (dk 0x1100 5) * 25000 ≤ now s) := by decide +kernel

/-- A write of 256 bytes to an address. -/
def poke (a : Nat) : HostAccess := { isWrite := true, addr := a, len := 256, data := List.replicate 256 0, tag := 0 }

/-- `up` while the row of address 0 is under test. -/
def rowTested : State :=
  let x := locate up 0 0
  { up with hlth := { up.hlth with
    log := [{ blankRec 5 4 x.1 0 with seq := 5, locationB := BitVec.ofNat 32 x.2 }]
    tests := [{ seq := 5, running := true, verify := false, persist := none }] } }

theorem witness_host_accesses :
    256 < (257 : BitVec 16).toNat ∧ (256 : BitVec 16).toNat ≤ 256 ∧ 2 ^ 41 < 2 ^ 41 + 0x10000 ∧ (linkGone up).host.linkLost = true ∧
    up.host.linkLost = false ∧ hostQueued up = false ∧ hostQueued (linked up 3) = true ∧ falyndiUp up = true ∧ accessHeld up (poke 0) = false ∧
    (hostQueued rowTested = false ∧ accessHeld rowTested (poke 0) = true ∧ packetHeld rowTested (pkt 0 0 0 9 0 []) = true) ∧
    barRange up 0 0 256 = true ∧ barRange up 0 (2 ^ 40 - 1) 2 = false ∧ barRange up 1 0 256 = true ∧ lostIn up (gaMake (nodeId up) 0 0) 256 = false ∧
    up.hlth.injections = [] ∧ hostQueued (linked up 4) = false ∧ falyndiUp (linked up 4) = false ∧ accessHeld (linked up 4) (poke 0) = false := by
  decide +kernel
/-! ### Power, resets, health, upkeep -/

/-- `s` with a change of power state under way. -/
def moving (s : State) (x : Nat × Bool) : State := { s with pwr := { s.pwr with transition := some x, transReq := some bus } }

/-- `up` in a power state. -/
def inState (t : Nat) : State := dSet up (dk 0x1400 2) t

theorem witness_power_states :
    Served up bus 0x1400 3 ∧ resetting up = false ∧ Served (warm up) bus 0x1400 3 ∧ resetting (warm up) = true ∧
    (moving up (2, false)).pwr.transition.isSome = true ∧ Served (moving up (2, false)) bus 0x1400 3 ∧ resetting (moving up (2, false)) = false ∧
    entryBar (inState 2) 2 = 4 ∧ entryBar (running up) 2 = 1 ∧ entryBar torus 4 = 2 ∧ entryBar torus 3 = 0 ∧
    (inState 2).pwr.transition = none ∧ up.pwr.transition = none ∧ pState up < 2 ∧ 2 ≤ pState (inState 4) ∧ idleModule up = true ∧
    windowsUp up = false ∧ dGet up (dk 0x2413 1) ≠ 1 ∧ dGet up (dk 0x2707 1) ≠ 1 ∧ up.hlth.tests = [] := by
  unfold Served Heard; simp only [bus_good]; decide +kernel

theorem witness_power_moves :
    Served (inState 2) bus 0x1400 3 ∧ (moving up (4, true)).pwr.transition = some (4, true) ∧ (moving up (4, true)).pwr.transReq = some bus ∧
    live (moving up (1, true)) = true ∧ live up = true ∧ pState (inState 0) = 0 ∧ (inState 0).hop.inflight = [] ∧ up.pwr.transition = none ∧
    (let s := dSet (inState 0) (dk 0x1400 1) (2 ^ 40)
     s.pwr.idleSince.toNat + dGet s (dk 0x1400 4) ≤ now s) ∧ pState up ≠ 0 ∧ tableWf (dictDefault up.variant) up.dict = true := by
  unfold Served Heard; simp only [bus_good]; decide +kernel

/-- An entry into P2 is answered only when the state is reached (R367). -/
theorem test_doze : (∃ t, exec (.enterDoze bus) up = .next t ∧ t.pwr.transition = some (2, false) ∧ t.host.busOut = up.host.busOut) :=
  ⟨_, rfl, by decide +kernel⟩

theorem witness_temperatures :
    up.pwr.inputOk = true ∧ tooHot (readSensor up 0 255) = true ∧ tooHot (readSensor up 0 20) = false ∧ (20 : BitVec 8).toNat < dGet up (dk 0x1402 2) ∧
    dGet up (dk 0x1402 2) ≤ (255 : BitVec 8).toNat ∧ 0x42200000 < (0x7F800000 : BitVec 32).toNat := by decide +kernel

/-- `up` after a trip 60 s ago. -/
def tripped (t : Nat) : State :=
  let s := dSet up (dk 0x1400 1) t
  { s with pwr := { s.pwr with tripped := some 0, held := true, pgood := false } }

/-- `up` with MOD_RST_N low. -/
def low (s : State) : State := { s with pwr := { s.pwr with modRstLow := true, held := true } }

theorem witness_module_resets :
    up.pwr.inputOk = true ∧ up.pwr.tripped = none ∧ up.pwr.held = false ∧ (low up).pwr.held = true ∧ (low up).pwr.tripped = none ∧
    (tripped 0).pwr.tripped.isSome = true ∧ Heard up bus ∧ Heard (low up) bus ∧ Heard (tripped 1500000000) bus ∧
    (let s1 := respond (awake up) bus 0x02 0x1500 1 stOk []
     s1.pwr.tripped = none ∧ s1.pwr.held = false ∧ s1.pwr.resetRunning = none) ∧
    (respond (awake (low up)) bus 0x02 0x1500 1 stOk []).pwr.held = true ∧
    (respond (awake (warm up)) bus 0x02 0x1500 1 stOk []).pwr.resetRunning.isSome = true ∧ Heard (warm up) bus ∧
    (let s1 := respond (awake (tripped 1500000000)) bus 0x02 0x1500 1 stOk []
     s1.pwr.tripped = some 0 ∧ (0 : Word).toNat + 1500000000 ≤ now s1 ∧ s1.pwr.modRstLow = false) ∧
    now (tripped 1499999999) < (0 : Word).toNat + 1500000000 ∧ (0 : Word).toNat + 1500000000 ≤ now (tripped 1500000000) := by
  unfold Heard; simp only [bus_good]; decide +kernel

theorem witness_resets :
    (let s : State := { tripped 1500000000 with pwr := { (tripped 1500000000).pwr with resetWaits := true } }
     s.pwr.tripped = some 0 ∧ s.pwr.resetWaits = true ∧ s.pwr.modRstLow = false ∧ s.pwr.inputOk = true) ∧
    (low (tripped 1500000000)).pwr.modRstLow = true ∧ (low up).pwr.modRstLow = true ∧ dGet (dSet up (dk 0x1500 4) 1) (dk 0x1500 4) ≠ 0 ∧
    dGet (dSet up (dk 0x1500 4) 0) (dk 0x1500 4) = 0 ∧ up.pwr.resetRunning = none ∧ (warm up).pwr.resetRunning = some .warm ∧ up.pwr.resetRunning ≠ some .warm ∧
    (∀ t ∈ (warm up).fab.txns, t.issued = false) ∧ Served up bus 0x1500 2 ∧ Served (warm up) bus 0x1500 2 ∧ resetting (warm up) = true ∧
    resetting up = false := by
  unfold Served Heard; simp only [bus_good]; decide +kernel

theorem witness_wipe_retention : Sys2Proof.State.canonical up := witness_canonical.1

/-- `up` with a test queued or running for a record. -/
def testing (on : Bool) : State :=
  { logged with hlth := { logged.hlth with tests := [{ seq := 5, running := on, verify := false, persist := none }] } }

/-- An error of a source. -/
def report (source : Nat) : ErrorReport :=
  { source := BitVec.ofNat 8 source, unitKind := 1, unit := 0, address := 0, locationA := 0, locationB := 0, part := 0, byCommand := false }

theorem witness_health :
    live up = true ∧ up.hlth.injections = [] ∧ (report 0x16).source.toNat = 0x16 ∧ (report 0x15).source ≠ 0 ∧ (report 0x15).source ≠ 0x13 ∧
    nextTest up = none ∧ (nextTest (testing false)).isSome = true ∧ live (testing false) = true ∧ live (testing true) = true ∧
    ((testing true).hlth.tests.find? (fun t => t.running && faultIdOf t.seq.toNat == 5)).isSome = true ∧
    up.hlth.tests.find? (fun t => t.running && faultIdOf t.seq.toNat == 5) = none ∧ 5 ∉ up.cores.lostDies ∧
    5 ∈ ({ up with cores := { up.cores with lostDies := [5] } } : State).cores.lostDies := by decide +kernel

/-- An injection command: kind, PERSIST. -/
def armed (kind persist : Nat) : Nat := kind * 2 ^ 56 + persist * 2 ^ 54

theorem witness_injections :
    Served up bus 0x4200 1 ∧ (injOf (awake up) (armed 11 0)).kind = 11 ∧ (injOf (awake up) (armed 1 3)).persist = 3 ∧
    (∀ k ∈ [1, 7, 8, 10], (injOf (awake up) (armed k 0)).kind.toNat = k ∧ (injOf (awake up) (armed k 0)).persist = 0 ∧
      bits (armed k 0) 53 48 = 0 ∧ armed k 0 < 2 ^ 60) ∧ up.hlth.injections.length < 16 ∧ pState up < 2 ∧ dGet up (dk 0x4000 3) ≠ 3 ∧
    inLocalHbm up (injOf (awake up) (armed 5 0)).addr.toNat 1 = true := by
  unfold Served Heard; simp only [bus_good]; decide +kernel

/-- `up` with a retirement under way. -/
def retiring (blocked : Bool) : State :=
  let m : Migration :=
    { channels := [7], blocked := blocked, prior := [], phase := 0, cursor := 0, toMove := [], held := false, work := 0, recSeq := 0 }
  { up with mem := { up.mem with migration := some m } }

theorem witness_upkeep :
    hbmOn up = true ∧ 383 ∉ up.mem.retired ∧
    (let s2 := setFails up 383 (failsOf up 383 + 1)
     failsOf s2 383 = 1) ∧ failsOf (setFails (setFails up 383 2) 383 (failsOf (setFails up 383 2) 383 + 1)) 383 = 3 ∧
    dGet (dSet up (dk 0x2412 1) 0) (dk 0x2412 1) = 0 ∧ hbmOn (dSet up (dk 0x2412 1) 0) = true ∧ dGet (dSet up (dk 0x2412 1) 3600) (dk 0x2412 1) ≠ 0 ∧
    up.mem.unzeroed = [] ∧ ({ up with mem := { up.mem with unzeroed := [(0, 4096)] } } : State).mem.unzeroed = (0, 4096) :: [] ∧
    live (retiring true) = true ∧ live (retiring false) = true ∧ up.mem.migration = none := by decide +kernel

theorem witness_margining :
    Served up bus 0x2413 1 ∧ Served up bus 0x2413 5 ∧ Served up bus 0x2707 6 ∧ Served up bus 0x2707 1 ∧
    (∀ r ∈ up.hop.rings, r.2.state = .free) ∧ (∀ p < 16, pGet (pSet up 0 5 0) p 5 = 0) ∧ Served (pSet up 0 5 0) bus 0x2413 1 ∧ pGet up 0 5 ≠ 0 ∧
    dGet up (dk 0x2413 1) = 0 ∧ dGet (dSet up (dk 0x2413 1) 1) (dk 0x2413 1) ≠ 0 ∧ Served (dSet up (dk 0x2413 1) 1) bus 0x2413 5 ∧
    dGet (dSet up (dk 0x2707 1) 1) (dk 0x2707 1) ≠ 0 ∧ Served (dSet up (dk 0x2707 1) 1) bus 0x2707 6 ∧
    Served (dSet up (dk 0x2707 1) 1) bus 0x2707 1 := by
  unfold Served Heard; simp only [bus_good]; decide +kernel

theorem witness_lane_margining :
    Served torus bus 0x2707 1 ∧ dGet torus (dk 0x2707 1) ≠ 1 ∧ dGet torus (dk 0x2707 2) = 0 ∧ portState torus 0 = 2 ∧
    portState (portSet torus 0 1 0) 0 ≠ 2 ∧ dGet (dSet torus (dk 0x2707 3) 12) (dk 0x2707 3) = 12 ∧ dGet torus (dk 0x2707 3) ≠ 12 := by
  unfold Served Heard; simp only [bus_good]; decide +kernel

theorem witness_lane_margined :
    (getLink torus 0).spareFor = none ∧ (getLink (setLink torus 0 { getLink torus 0 with spareFor := some 2 }) 0).spareFor = some 2 := by
  decide +kernel

/-! ### Encodings -/

theorem witness_flit_round_trip :
    (let h : FlitHead := { type := 15, vc := 3, bgmap := 255, lseq := 4095, lack := 4095, crvc := 7, crcnt := 127, slotv := 255 }
     h.type < 2 ^ 4 ∧ h.vc < 2 ^ 2 ∧ h.bgmap < 2 ^ 8 ∧ h.lseq < 2 ^ 12 ∧ h.lack < 2 ^ 12 ∧ h.crvc < 2 ^ 3 ∧ h.crcnt < 2 ^ 7 ∧
       h.slotv < 2 ^ 8) ∧ (List.replicate 256 (0 : Byte)).length ≤ 256 ∧
    leBytes 4 0 ≠ (goodFlit.drop 8).take 4 := by decide +kernel

theorem witness_number_formats :
    fmtE4M3.decode 0x7F = .nan ∧ fmtE4M3.decode 0x7E ≠ .nan ∧ 0x7F < 2 ^ fmtE4M3.width ∧ fmtF32.decode 0xFFC00001 = .nan ∧
    fmtF32.decode 0x80000000 ≠ .nan := by decide +kernel

/-- FP32 to E4M3: 448 is the largest finite value, and 464 to its right stays within it (R110). -/
theorem test_e4m3_largest : fmtE4M3.round (fmtF32.decode 0x43E00000) = 0x7E := by decide +kernel
/-! ### Further hypotheses of the statements -/

theorem witness_plain_entries :
    (∀ x ∈ plainEntries, Served up bus x.1 x.2.1 ∧ (leBytes x.2.2.1 x.2.2.2.2).length = x.2.2.1 ∧
      x.2.2.2.1 ≤ leNat (leBytes x.2.2.1 x.2.2.2.2) ∧ leNat (leBytes x.2.2.1 x.2.2.2.2) ≤ x.2.2.2.2) := by
  unfold Served Heard; simp only [bus_good]; decide +kernel

/-- A floor of 51 % is refused, one of 50 % taken (R234, 0x2410:02). -/
theorem test_floor_pct :
    (∃ t, exec (.write bus 0x2410 2 [50]) up = .next t ∧ dGet t (dk 0x2410 2) = 50) ∧
    (∃ t, exec (.write bus 0x2410 2 [51]) up = .next t ∧ dGet t (dk 0x2410 2) = 10) :=
  ⟨⟨_, rfl, by decide +kernel⟩, _, rfl, by decide +kernel⟩

theorem comes {s : State} {p : Packet} {k : Nat}
    (h : (p.kind == k && p.dest == nodeId s && fabricOn s && live s && [0, 1, 3].contains (pState s) && s.pwr.transition.isNone &&
      !packetHeld s p && (taken p).life != 0 && s.hlth.injections.isEmpty && s.fab.dedup.all (fun e => e.node != p.src) && decide (s.fab.dedup.length < 4096)) = true) : Comes s p k := by
  simp only [Bool.and_eq_true, beq_iff_eq, bne_iff_ne, ne_eq, List.contains_iff_mem, Option.isNone_iff_eq_none, List.all_eq_true,
    decide_eq_true_eq, Bool.not_eq_true', List.isEmpty_iff] at h
  obtain ⟨⟨⟨⟨⟨⟨⟨⟨⟨⟨h1, h2⟩, h3⟩, h4⟩, h5⟩, h6⟩, h7⟩, h8⟩, h9⟩, h10⟩, h11⟩ := h
  exact ⟨h1, h2, h3, h4, h5, h6, h7, h8, h9, h10, h11⟩

theorem witness_target_completes :
    Comes torus (pkt 0 0 0 9 (2 ^ 21) []) kRead ∧ Comes torus (pkt 1 0 0 9 (2 ^ 21) [1]) kWrite ∧
    Comes torus (pkt 2 0 0 9 (2 ^ 21) []) kAtomic ∧ Comes (pSet torus 0 0xF 1) (pkt 3 0 0 9 1 []) kTally ∧
    Comes torus (pkt 4 0 0 9 0 []) kMessage ∧ Comes torus (pkt 4 1 0 9 0 []) kMessage ∧ Comes gathering (pkt 5 0 0 9 (9 * 2 ^ 32) []) kCollective := by
  refine ⟨comes ?_, comes ?_, comes ?_, comes ?_, comes ?_, comes ?_, comes ?_⟩ <;> decide +kernel

theorem witness_target_reaches :
    Sys2Proof.State.canonical torus ∧ (∀ n ∈ [0, 1, 8, 1024], Reaches torus (pkt 1 0 0 9 (2 ^ 21) []) n) := by
  refine ⟨by unfold Sys2Proof.State.canonical; and_intros <;> decide +kernel, ?_⟩
  intro n hn
  simp only [List.mem_cons, List.not_mem_nil, or_false] at hn
  rcases hn with rfl | rfl | rfl | rfl <;>
    exact ⟨by decide +kernel, by decide +kernel, ⟨0, by decide +kernel, by decide +kernel⟩, by decide +kernel, by decide +kernel⟩

/-- A WRITE of one byte into a lent window is there (R270). -/
theorem test_write_window :
    (∃ t, exec (.kraurWrite (pkt 1 0 0 9 (2 ^ 21) [0xAB])) torus = .next t ∧ ldBytes t (2 ^ 21) 1 = [0xAB]) := ⟨_, rfl, by decide +kernel⟩

theorem witness_no_life :
    (pkt 0 0 0 0 0 []).life = 0 ∧ serving (wakeFrom torus [2]) = true ∧ atomicWidth (pkt 2 0 0 0 0 []).code (pkt 2 0 0 0 0 []).w64 ≠ 0 := by
  decide +kernel

theorem witness_claim_exhausted :
    claimLoop { gemmFly [] with counter := 1 } 0 1 0 = (2, 0, none) ∧ (gemmFly []).discard = none ∧ (gemmFly []).counted = true ∧
    agentFree (working (gemmFly [{ agent := 0, unit := 0 }])) (gemmFly [{ agent := 0, unit := 0 }]) 0 true = true := by decide +kernel

/-- A discarded command whose core abandoned a unit. -/
theorem witness_abandoned :
    let c : InFlight := { ran 0 with discard := some 0x10 }
    let k : UnitCycles := 
      { busy := 5, freezeCap := 0, drainBlocked := 0, shadowLate := 0, feederDry := 0, bankConflict := 0, causes := [] }
    (flightOf ([((0 : BitVec 8), k)].foldl (countAbandoned 0) (flying c)) 0).any (fun c1 => c1.discard == some 0x10) = true := by
  decide +kernel

theorem witness_control_waits : waitsTxn (flying (fly (desc 1 1 []))) 0 = false := by decide +kernel

theorem witness_run_frame_plan : (Plan.ok).reserve = [] ∧ (Plan.ok).maps = [] ∧ (∀ x ∈ (Plan.ok).unitCounts, x.2.1 ≠ 0x3226) := by decide

/-- Port 0 with seventeen replays at the present tick. -/
def replaying : State := setLink torus 0 { getLink torus 0 with replayed := List.replicate 17 0 }

theorem witness_naks :
    let counted (s : State) := linkCount (linkCount s 0 0x3283 0 2) 0 0x3281 0 1
    (replaysNow (counted torus) 0).length ≤ 16 ∧ 16 < (replaysNow (counted replaying) 0).length ∧
    linkUp torus 0 = true ∧ linkUp replaying 0 = true := by decide +kernel

theorem witness_suspect_lanes :
    (4096 : BitVec 32).toNat ≤ dGet torus (dk 0x2700 0xE) ∧ dGet torus (dk 0x2700 0xE) < (4097 : BitVec 32).toNat := by decide +kernel

theorem witness_training : locked partner = true ∧ locked { partner with goodBlocks := 4095 } = false ∧ locked { partner with skew := 65 } = false := by
  decide +kernel

/-- A partner that knows exactly the version `v` of the module's runs at it (R7); with none in common there is none. -/
theorem witness_versions : (∀ a, bestVersion a 0 = none) ∧ ∀ a v, v < 8 → bit a v = true → bestVersion a (2 ^ v) = some v := by
  constructor
  · intro a; simp [bestVersion, bit]
  · intro a v hv h
    have hb : ∀ v < 8, ∀ k < 8, bit (2 ^ v) k = decide (k = v) := by decide +kernel
    show [7, 6, 5, 4, 3, 2, 1, 0].find? (fun k => bit a k && bit (2 ^ v) k) = some v
    simp only [List.find?, hb v hv 7 (by decide), hb v hv 6 (by decide), hb v hv 5 (by decide), hb v hv 4 (by decide), hb v hv 3 (by decide),
      hb v hv 2 (by decide), hb v hv 1 (by decide), hb v hv 0 (by decide)]
    have : v = 0 ∨ v = 1 ∨ v = 2 ∨ v = 3 ∨ v = 4 ∨ v = 5 ∨ v = 6 ∨ v = 7 := by omega
    rcases this with rfl | rfl | rfl | rfl | rfl | rfl | rfl | rfl <;> simp [h]

theorem witness_lane_errors :
    (∀ src ∈ [0x0D, 0x0E], laneOf (blankRec src (if src = 0x0D then 5 else 6) 2 0) = (if src = 0x0D then 0 else 6, 2)) ∧
    (getLink torus 0).spareFor = none ∧ (getLink torus 6).spareFor = none := by decide +kernel

theorem witness_wipe_margined : up.fab.margined = none := by decide

/-- `torus` while lane 2 of port 0 is margined. -/
def margining : State := { dSet torus (dk 0x2707 1) 1 with fab := { torus.fab with margined := some (0, 2) } }

theorem witness_margined : Served margining bus 0x2707 1 ∧ dGet margining (dk 0x2707 1) ≠ 0 ∧ margining.fab.margined = some (0, 2) ∧
    (getLink margining 0).spareFor ≠ some 2 ∧
    (getLink (setLink margining 0 { getLink margining 0 with spareFor := some 2 }) 0).spareFor = some 2 := by
  unfold Served Heard; simp only [bus_good]; decide +kernel

/-- A warm reset with a transaction still outstanding. -/
theorem witness_warm_waits :
    (∃ t ∈ (warm (asking up [txn none (hdr 0 0)])).fab.txns, t.issued = true ∨ ∃ n, t.ring = some n ∧ sealedOn up n = true) :=
  ⟨_, List.mem_singleton.2 rfl, .inl rfl⟩


/-- spec/15 R391: with all six querns retired, bit 0 of capabilities_0 reads 0. -/
theorem test_querns_gone :
    capabilities { up with cores := { up.cores with quernWithheld := (List.range 6).map (fun d => (d, 5)) } } = 0xFFE := by decide

/-- spec/15 R398: a lasting real injection of an array column fails its test whatever the array shows. -/
theorem test_lasting_real :
    ownColumn { blankRec 1 1 7 0 with locationA := 2, locationB := 57, namesCol := true } = [(2, 57)] ∧ failedCols .pass = none := by decide

/-- A doorbell while Falyndi trains again, once its loss stands, with the link down, in a warm reset, and while MOD_RST_N holds the module. -/
theorem witness_doorbell_waits :
    (linkGone up).host.linkLost = true ∧ hostQueued (linked up 3) = true ∧ hostQueued (warm up) = true ∧ (linked up 3).host.linkLost = false ∧
    (∀ s ∈ [linked up 0, low up], s.host.linkLost = false ∧ hostQueued s = false ∧ (falyndiUp s && live s) = false) ∧
    hostQueued (ringed [(5, act)]) = false ∧ falyndiUp (ringed [(5, act)]) = true := by decide +kernel

theorem witness_holdoff_down :
    (let s := linked (holding true 25) 3
     live s = true ∧ s.host.holdoff.find? (fun h => h.1 == 3) = some (3, true, 0) ∧ 0 + dGet s (dk 0x1100 6) ≤ now s ∧ falyndiUp s = false) := by
  decide +kernel

/-- A request to another port of the bus, a damaged one, and sixteen requests held. -/
theorem witness_requests :
    reaches up (.bus { addr := 1, port := 2, slot := none, dest := eventAddr, destPort := 80 }) = false ∧ reaches (linked up 0) .mailbox = false ∧
    reaches up (.badBus { addr := 1, port := 2, slot := none, dest := eventAddr, destPort := orogusPort }) = true ∧ reaches up bus.src = true ∧
    (let s : State := { up with hop := { up.hop with mirrorReqs := List.replicate 16 (mail, 0) } }
     keptFor s bus = none ∧ 16 ≤ heldRequests s) ∧ requestOf (.read bus 0 0) = some bus := by decide +kernel

theorem witness_throttle_write :
    Served up bus 0x1402 1 ∧ (leBytes 1 80).length = 1 ∧ leNat (leBytes 1 80) = 80 ∧ leNat (leBytes 1 100) = 100 := by
  unfold Served Heard; simp only [bus_good]; decide +kernel

/-- A mirror in another node's memory: its WRITEs are outstanding. -/
theorem witness_far_mirror :
    (let n := gaMake 1 0 64
     n % 64 = 0 ∧ gaValid torus n = true ∧ gaValid torus (n + 32767) = true ∧ mirrorOpen torus n = false ∧
     mirrorOpen (asks none torus (writeAsks false n (leBytes 8 0))) n = true) ∧ allQuiet torus = true := by decide +kernel

theorem witness_no_upkeep :
    up.mem.migration = none ∧ up.mem.retireQueue = [] ∧ up.mem.evacRanges = [] ∧ (inState 2).pwr.transReq = none ∧
    ({ up with mem := { up.mem with retired := [383] } } : State).mem.retired = [383] ∧ (383 : BitVec 9).toNat ∉ (retiring true).mem.retired := by
  decide +kernel

theorem witness_pin_start : (∀ b : Bool, ({ slotId := 0, modRstLow := b, sensors := [], loadFails := [], fails := [], testTicks := 0 } : StartInfo).modRstLow = b) :=
  fun _ => rfl

/-- A command of partition 0 that a partition reset discards. -/
theorem witness_partition_reset :
    partResetting (flying { ran 0 with discard := some 0x12 }) 0 = true ∧ partResetting up 0 = false ∧ resetting up = false := by decide +kernel

/-- An armed injection of an array column, and the error that it makes. -/
theorem witness_injected_error :
    (let i := injOf up (armed 1 0)
     let s : State := { up with hlth := { up.hlth with injections := [i] } }
     let e := injError up i
     e.source ≠ 0 ∧ e.source.toNat ≤ 0x15 ∧ e.source ≠ 0x13 ∧ (takeInjection s (armedFor s e)).isSome = true) ∧
    ({ report 0x13 with unit := 2 } : ErrorReport).source = 0x13 ∧ 6 ≤ (6 : BitVec 3).toNat := by decide +kernel

theorem witness_claim_agents :
    onBolter (opcOf (workDesc (gemmFly []))) = false ∧ onBolter 0x501 = true ∧ (gemmFly []).counted = true ∧ (gemmFly []).discard = none := by
  decide +kernel
/-! ### Ill-formed commands are refused -/

/-- A read transaction with a data length and an x0. -/
def raw (x0 n : Nat) : Packet := { x0 := BitVec.ofNat 64 x0, x1 := 0, x2 := 0, x3 := 0, data := List.replicate n 0 }

theorem wf_links :
    (Instr.flit 6 (List.replicate 272 0) true 0).wf = true ∧ (Instr.flit 7 (List.replicate 272 0) true 0).wf = false ∧
    (Instr.flit 0 (List.replicate 271 0) true 0).wf = false ∧ (Instr.nak 6 0 0).wf = true ∧ (Instr.nak 7 0 0).wf = false ∧
    (Instr.laneSwap 6 3 ⟨0, true⟩ true).wf = true ∧ (Instr.laneSwap 6 4 ⟨0, true⟩ true).wf = false ∧ (Instr.laneSwap 0 11 ⟨0, true⟩ true).wf = true ∧
    (Instr.laneSwap 0 12 ⟨0, true⟩ true).wf = false ∧ (Instr.laneSwap 7 0 ⟨0, true⟩ true).wf = false ∧ (Instr.portRetrain 5).wf = true ∧
    (Instr.portRetrain 6).wf = false ∧ (Instr.portTrainingDone 5 partner).wf = true ∧ (Instr.portTrainingDone 6 partner).wf = false := by
  decide +kernel

theorem wf_packets :
    (raw 0 1024).wf = true ∧ (raw 0 1025).wf = false ∧ (raw (2 ^ 32) 0).wf = false ∧ (raw (2 ^ 41) 0).wf = false ∧ (raw (2 ^ 42) 0).wf = true := by
  decide +kernel

theorem wf_transactions :
    (Instr.forward (raw 0 0) (some 5) 0 0).wf = true ∧ (Instr.forward (raw 0 0) (some 6) 0 0).wf = false ∧
    (Instr.forward (raw 0 1025) none 0 0).wf = false ∧ (Instr.lifeExpiry (raw 0 1025)).wf = false ∧
    (∀ x ∈ [(Instr.kraurRead, 0), (Instr.kraurWrite, 1), (Instr.atomic, 2), (Instr.tally, 3), (Instr.lendNotice, 4), (Instr.collAbort, 4),
      (Instr.collective, 5), (Instr.response, 8)],
      (x.1 (raw (x.2 * 2 ^ 60) 0)).wf = true ∧ (x.1 (raw (9 * 2 ^ 60) 0)).wf = false ∧ (x.1 (raw (x.2 * 2 ^ 60) 1025)).wf = false) := by
  decide +kernel

theorem wf_host :
    (Instr.falyndiHostAccess true 0 1 [0]).wf = true ∧ (Instr.falyndiHostAccess true 0 0 []).wf = false ∧
    (Instr.falyndiHostAccess false 0 257 []).wf = false ∧ (Instr.falyndiHostAccess true 0 2 [0]).wf = false ∧
    (Instr.falyndiHostAccess false 0 1 [0]).wf = false ∧ (Instr.write bus 0x1200 3 (List.replicate 1036 0)).wf = true ∧
    (Instr.write bus 0x1200 3 (List.replicate 1037 0)).wf = false := by decide +kernel

theorem wf_transfers :
    (Instr.segment bus 0x1340 1 0 1024 0 0 (List.replicate 1024 0)).wf = true ∧
    (Instr.segment bus 0x1340 1 0 1025 0 0 (List.replicate 1025 0)).wf = false ∧
    (Instr.segment bus 0x1340 1 0 2 0 0 [0]).wf = false ∧ (Instr.attestRequest bus (List.replicate 32 0)).wf = true ∧
    (Instr.attestRequest bus (List.replicate 31 0)).wf = false ∧ (Instr.hbmRetrain 383 .phyFailed 0).wf = true ∧
    (Instr.hbmRetrain 384 .passed 0).wf = false ∧ (Instr.dieLost 5).wf = true ∧ (Instr.dieLost 6).wf = false := by decide +kernel

theorem wf_bundle (n : Nat) : (Instr.fwBundle bus (List.replicate n 0)).wf = decide (n ≤ 234881024) := by
  show decide ((List.replicate n (0 : Byte)).length ≤ 234881024) = _
  rw [List.length_replicate]

end Sys2Proof.Tests
end

section
/-! SUPPORT. What the hopper's record updates leave as it was, how a served write runs, the fields of a ring command word, and how a
doorbell, DESTROY and RESUME come out case by case. -/

namespace Sys2Proof.Machine

open Sys2Proof.Claims

/-! ### Ring records and the ledger (R26, R45) -/

@[simp] theorem mirrorRing_hop (s : State) (n : Nat) : (mirrorRing s n).hop = s.hop := by
  unfold mirrorRing
  simp only [apply_ite State.hop, stKey_hop, ite_self]

@[simp] theorem putRing_hop (s : State) (n : Nat) (r : Ring) :
    (putRing s n r).hop = { s.hop with rings := tableSet ringDefault n r s.hop.rings } := mirrorRing_hop _ n

@[simp] theorem putLedger_hop (s : State) (n seq : Nat) :
    (putLedger s n seq).hop = { s.hop with ledger := tableSet ledgerDefault n (BitVec.ofNat 48 seq) s.hop.ledger } :=
  mirrorRing_hop _ n

@[simp] theorem countP_ringOf (s : State) (index part k n : Nat) : ringOf (countP s index part k) n = ringOf s n := by
  unfold ringOf
  rw [countP_hop]

/-- A ring's record reads as written (canonical table). -/
theorem ringOf_putRing_same (s : State) (n : Nat) (r : Ring) (h : tableWf ringDefault s.hop.rings = true) :
    ringOf (putRing s n r) n = r := by
  unfold ringOf
  rw [putRing_hop]
  exact tableGet_tableSet_same ringDefault n r s.hop.rings h

@[simp] theorem ringOf_putLedger (s : State) (m seq n : Nat) : ringOf (putLedger s m seq) n = ringOf s n := by
  unfold ringOf
  rw [putLedger_hop]

@[simp] theorem committedSeq_putRing (s : State) (m : Nat) (r : Ring) (n : Nat) :
    committedSeq (putRing s m r) n = committedSeq s n := by
  unfold committedSeq
  rw [putRing_hop]

/-- A ring that exists is ACTIVE or HALTED. -/
theorem RingState.ne_free_iff (st : RingState) : st ≠ .free ↔ st = .active ∨ st = .halted := by
  cases st <;> simp

theorem holdsSegment_eq_false_iff (s : State) (n : Nat) :
    holdsSegment s n = false ↔ ∀ g ∈ s.hop.segments, g.ring ≠ n := by
  simp [holdsSegment]

/-! ### Served writes (R352, R353, R355, R404) -/

theorem handle_heard {s : State} {rq : Req} (type index sub : Nat) (f : State → State) (h : Heard s rq) :
    handle s rq type index sub f = f (awake s) := by
  obtain ⟨hreach, hgood, hkept, hheld⟩ := h
  unfold handle
  cases hsrc : rq.src with
  | mailbox | bus b => simp [← hsrc, hreach, hkept, Nat.not_le.mpr hheld, awake]
  | badBus b => exact absurd hsrc (hgood b)

/-- A served write that its owner answers OK is accepted: journalled, then answered. -/
theorem handleWrite_served_ok {s t : State} {rq : Req} {index sub : Nat} (value : List Byte)
    {op : State → State × Option Nat} (h : Served s rq index sub) (hanswer : op (awake s) = (t, some stOk)) :
    handleWrite s rq index sub value op = accept t rq index sub value := by
  obtain ⟨hheard, hhidden, hblocked⟩ := h
  have hhidden' : hidden (awake s) index = false := hhidden
  have hblocked' : blocked (awake s) (dk index sub) = false := hblocked
  unfold handleWrite
  rw [handle_heard _ _ _ _ hheard]
  simp [hhidden', hblocked', hanswer, accept]

/-! ### The ring command word (R20) -/

theorem ringWord_ring (op : Nat) (ring : RingId) : bits (op * 2 ^ 60 + ring.toNat) 13 0 = ring.toNat := by
  have := ring.isLt
  simp only [bits, Nat.shiftRight_eq_div_pow]
  omega

theorem ringWord_reserved (op : Nat) (ring : RingId) : bits (op * 2 ^ 60 + ring.toNat) 59 14 = 0 := by
  have := ring.isLt
  simp only [bits, Nat.shiftRight_eq_div_pow]
  omega

theorem ringWord_op (op : Nat) (ring : RingId) (h : op < 16) : bits (op * 2 ^ 60 + ring.toNat) 63 60 = op := by
  have := ring.isLt
  simp only [bits, Nat.shiftRight_eq_div_pow]
  omega

/-- The state after a ring command: what the command left, with its result code in LAST_CMD_RESULT. -/
def withResult (n : Nat) (x : State × Nat) : State := putRing x.1 n { ringOf x.1 n with lastResult := BitVec.ofNat 8 x.2 }

theorem ringCmd_destroy (ring : RingId) (s : State) :
    ringCmd (2 * 2 ^ 60 + ring.toNat) s = (withResult ring.toNat (ringDestroy s ring.toNat), some stOk) := by
  unfold ringCmd
  rw [ringWord_ring, ringWord_reserved, ringWord_op 2 ring (by decide)]
  rfl

theorem ringCmd_resume (ring : RingId) (s : State) :
    ringCmd (3 * 2 ^ 60 + ring.toNat) s = (withResult ring.toNat (ringResume s ring.toNat), some stOk) := by
  unfold ringCmd
  rw [ringWord_ring, ringWord_reserved, ringWord_op 3 ring (by decide)]
  rfl

/-- A served ring command with no reserved bit set is accepted with what the command word does. -/
theorem ringRequest_served {s t : State} {rq : Req} {op : Nat} {ring : RingId} (h : Served s rq 0x2100 4)
    (hcmd : ringCmd (op * 2 ^ 60 + ring.toNat) (awake s) = (t, some stOk)) :
    ringRequest s rq op ring 0 = accept t rq 0x2100 4 (leBytes 8 (op * 2 ^ 60 + ring.toNat)) := by
  have hword : op * 2 ^ 60 + (0 : BitVec 46).toNat * 2 ^ 14 + ring.toNat = op * 2 ^ 60 + ring.toNat := by simp
  unfold ringRequest
  rw [hword]
  exact handleWrite_served_ok _ h hcmd

theorem exec_destroy_served {s : State} {rq : Req} (ring : RingId) (h : Served s rq 0x2100 4) :
    exec (.destroy rq ring 0) s =
      .next (accept (withResult ring.toNat (ringDestroy (awake s) ring.toNat)) rq 0x2100 4 (leBytes 8 (2 * 2 ^ 60 + ring.toNat))) :=
  congrArg _ (ringRequest_served h (ringCmd_destroy ring (awake s)))

theorem exec_resume_served {s : State} {rq : Req} (ring : RingId) (h : Served s rq 0x2100 4) :
    exec (.resume rq ring 0) s =
      .next (accept (withResult ring.toNat (ringResume (awake s) ring.toNat)) rq 0x2100 4 (leBytes 8 (3 * 2 ^ 60 + ring.toNat))) :=
  congrArg _ (ringRequest_served h (ringCmd_resume ring (awake s)))

/-- A command that is refused with result 0x01 changes LAST_CMD_RESULT alone. -/
theorem withResult_refused (s : State) (n : Nat) : withResult n (s, 1) = putRing s n { ringOf s n with lastResult := 1 } := rfl

/-! ### DESTROY (R23) -/

/-- What DESTROY asks of a ring: it exists, every descriptor fetched has ended, and it holds no replay segment. -/
def Destroyable (s : State) (n : Nat) : Prop :=
  ((ringOf s n).state = .active ∨ (ringOf s n).state = .halted) ∧ (ringOf s n).commitPos = (ringOf s n).consumer ∧
  ∀ g ∈ s.hop.segments, g.ring ≠ n

/-- The hopper without what it notes of a ring: marks of failed store commands, and the stall at the hold limit (log entry 19). -/
def forgetRing (s : State) (n : Nat) : State :=
  { s with hop := { s.hop with
    marks := s.hop.marks.filter (fun m => m.ring != n), stallHold := s.hop.stallHold.filter (· != n) } }

theorem destroyable_iff (s : State) (n : Nat) :
    Destroyable s n ↔
      ¬((ringOf s n).state = .free ∨ (ringOf s n).commitPos ≠ (ringOf s n).consumer ∨ holdsSegment s n = true) := by
  unfold Destroyable
  rw [← RingState.ne_free_iff, ← holdsSegment_eq_false_iff, not_or, not_or, not_not, Bool.not_eq_true]

theorem ringDestroy_of_destroyable {s : State} {n : Nat} (h : Destroyable s n) :
    ringDestroy s n = (putLedger (putRing (forgetRing s n) n Ring.free) n 0, 0) :=
  if_neg ((destroyable_iff s n).mp h)

theorem ringDestroy_of_not_destroyable {s : State} {n : Nat} (h : ¬Destroyable s n) : ringDestroy s n = (s, 1) :=
  if_pos (not_not.mp (mt (destroyable_iff s n).mpr h))

/-- A freed ring's record is that of a FREE ring, LAST_CMD_RESULT included. -/
theorem withResult_destroyed {s : State} {n : Nat} (hwf : tableWf ringDefault s.hop.rings = true) :
    withResult n (putLedger (putRing s n Ring.free) n 0, 0) = putRing (putLedger (putRing s n Ring.free) n 0) n Ring.free := by
  unfold withResult
  rw [ringOf_putLedger, ringOf_putRing_same s n Ring.free hwf]
  rfl

/-! ### RESUME (R24, R38) -/

/-- The hopper without the marks of a ring's failed store commands. -/
def forgetMarks (s : State) (n : Nat) : State :=
  { s with hop := { s.hop with marks := s.hop.marks.filter (fun m => m.ring != n) } }

/-- The record of a resumed ring: ACTIVE under the next RGEN, with no status of a halt. CONSUMER stays (R24). -/
def resumed (r : Ring) : Ring := { r with state := .active, rgen := r.rgen + 1, haltStatus := 0 }

theorem ringResume_of_not_halted {s : State} {n : Nat} (h : (ringOf s n).state ≠ .halted) : ringResume s n = (s, 1) :=
  if_pos h

theorem ringResume_of_halted {s : State} {n : Nat} (h : (ringOf s n).state = .halted) :
    ringResume s n =
      let t := putRing (forgetMarks s n) n (resumed (ringOf s n))
      if committedSeq s n = seqMax then
        (haltRing t n (resumed (ringOf s n)).consumer.toNat (resumed (ringOf s n)).nextSeq.toNat 0x24, 0)
      else (t, 0) := by
  have hseq : committedSeq (putRing (forgetMarks s n) n (resumed (ringOf s n))) n = committedSeq s n :=
    committedSeq_putRing (forgetMarks s n) n _ n
  dsimp only
  rw [← hseq]
  exact if_neg (not_not.mpr h)

/-! ### Doorbells (R28, R29, R347) -/

theorem exec_doorbell_lost (ring : RingId) (word : Word) {s : State} (h : s.host.linkLost = true) :
    exec (.doorbell ring word) s = .next (dropHost s) := congrArg _ (if_pos h)

theorem exec_doorbell_queued (ring : RingId) (word : Word) {s : State} (hl : s.host.linkLost = false)
    (hq : hostQueued s = true) :
    exec (.doorbell ring word) s = .next (holdHost s (hostPut (2 ^ 41 + 0x20000 + 8 * ring.toNat) (leBytes 8 word.toNat))) := by
  show Host.Outcome.next _ = _
  simp [hl, hq]

theorem exec_doorbell_down (ring : RingId) (word : Word) {s : State} (hl : s.host.linkLost = false)
    (hq : hostQueued s = false) (hd : (falyndiUp s && live s) = false) : exec (.doorbell ring word) s = .next s := by
  show Host.Outcome.next _ = _
  rw [hl, hq, hd]
  rfl

theorem exec_doorbell_taken (ring : RingId) (word : Word) {s : State} (hl : s.host.linkLost = false)
    (hq : hostQueued s = false) (hu : falyndiUp s = true) (hlive : live s = true) :
    exec (.doorbell ring word) s = .next (wakeFrom (ringDoorbell s ring.toNat word.toNat) [2]) := by
  show Host.Outcome.next _ = _
  rw [hl, hq, hu, hlive]
  rfl

theorem bits_word_high (word : Word) : bits word.toNat 63 32 = (word.extractLsb' 32 32).toNat := by
  rw [BitVec.extractLsb'_toNat]
  rfl

/-- The model's distance modulo 2^32 is the subtraction of 32-bit words. -/
theorem distance_eq_sub (word : Word) (p : BitVec 32) :
    (word.toNat % 2 ^ 32 + 2 ^ 32 - p.toNat) % 2 ^ 32 = (word.setWidth 32 - p).toNat := by
  have := p.isLt
  rw [BitVec.toNat_sub, BitVec.toNat_setWidth]
  omega

theorem ofNat_word_low (word : Word) : BitVec.ofNat 32 (word.toNat % 2 ^ 32) = word.setWidth 32 := by
  apply BitVec.eq_of_toNat_eq
  simp

/-- The evaluation of a doorbell word (R28), with the distances as subtractions of 32-bit words. -/
theorem ringDoorbell_word (s : State) (n : Nat) (word : Word) :
    ringDoorbell s n word.toNat =
      let r := ringOf s n
      let producer : BitVec 32 := word.setWidth 32
      let ahead := (producer - r.producer).toNat
      if r.state = .free then countT s 0x3207 1
      else if word.extractLsb' 32 32 ≠ 0 then countP s 0x3207 r.part.toNat 1
      else if ahead = 0 ∨ 2 ^ 31 ≤ ahead then s
      else if r.size.toNat < (producer - r.commitPos).toNat then
        raiseEvent (countP s 0x3208 r.part.toNat 1) 1 0 (some r.part.toNat) 0x3208 (r.part.toNat + 1)
          (producer.toNat * 2 ^ 16 + n)
      else putRing s n { r with producer := producer } := by
  have hhigh : bits word.toNat 63 32 ≠ 0 ↔ word.extractLsb' 32 32 ≠ 0 := by
    rw [bits_word_high, ne_eq, ne_eq, ← BitVec.toNat_inj]
    rfl
  unfold ringDoorbell
  simp only [hhigh, distance_eq_sub, ofNat_word_low, countRing, hopperEvent, countP_ringOf, BitVec.toNat_setWidth]

end Sys2Proof.Machine
end

section
/-! CERTIFICATE. Rings: doorbells, DESTROY and RESUME (R23, R24, R28). -/

namespace Sys2Proof.Machine

open Sys2Proof.Claims

/-- Settles O6: where a doorbell is not taken, by the state of the link; where it is, by the branches of `ringDoorbell_word`. -/
theorem doorbellEvaluation : Obligations.DoorbellEvaluation := by
  unfold Obligations.DoorbellEvaluation
  refine ⟨fun ring word s => ⟨exec_doorbell_lost ring word, exec_doorbell_queued ring word, exec_doorbell_down ring word⟩, ?_⟩
  intro ring word s hl hq hu hlive
  dsimp only
  rw [exec_doorbell_taken ring word hl hq hu hlive, ringDoorbell_word]
  dsimp only
  refine ⟨?free, ?reserved, ?stale, ?overrun, ?moves⟩
  case free =>
    intro hfree
    rw [if_pos hfree]
  case reserved =>
    intro hring hhigh
    rw [if_neg hring, if_pos hhigh]
  case stale =>
    intro hring hhigh hstale
    rw [if_neg hring, if_neg (not_not.mpr hhigh), if_pos hstale]
  case overrun =>
    intro hring hhigh hpos hnear hover
    rw [if_neg hring, if_neg (not_not.mpr hhigh), if_neg (by omega), if_pos hover]
  case moves =>
    intro hring hhigh hpos hnear hroom
    rw [if_neg hring, if_neg (not_not.mpr hhigh), if_neg (by omega), if_neg (Nat.not_lt.mpr hroom)]

/-- Settles O9: the conditions of R23 are `Destroyable`, and each case is one of `ringDestroy`'s two results. -/
theorem destroyedRing : Obligations.DestroyedRing := by
  unfold Obligations.DestroyedRing
  intro rq ring s hserved hwf
  dsimp only
  rw [exec_destroy_served ring hserved]
  constructor
  · intro hmay
    have hmay' : Destroyable (awake s) ring.toNat := hmay
    have hwf' : tableWf ringDefault (forgetRing (awake s) ring.toNat).hop.rings = true := hwf
    refine ⟨(forgetRing s ring.toNat).hop.marks, (forgetRing s ring.toNat).hop.stallHold, ?_⟩
    rw [ringDestroy_of_destroyable hmay', withResult_destroyed hwf']
    rfl
  · intro hnot
    have hnot' : ¬Destroyable (awake s) ring.toNat := hnot
    rw [ringDestroy_of_not_destroyable hnot', withResult_refused]
    rfl

/-- Settles O10: by the ring's state, and for a HALTED ring by whether its last SEQ has committed (R38). -/
theorem resumedRing : Obligations.ResumedRing := by
  unfold Obligations.ResumedRing
  intro rq ring s hserved hwf
  dsimp only
  rw [exec_resume_served ring hserved]
  constructor
  · intro hstate
    have hstate' : (ringOf (awake s) ring.toNat).state ≠ .halted := hstate
    rw [ringResume_of_not_halted hstate', withResult_refused]
    rfl
  · intro hhalted
    have hhalted' : (ringOf (awake s) ring.toNat).state = .halted := hhalted
    have hwf' : tableWf ringDefault (forgetMarks (awake s) ring.toNat).hop.rings = true := hwf
    refine ⟨(forgetMarks s ring.toNat).hop.marks, ?_, ?_⟩
    · intro hseq
      have hseq' : committedSeq (awake s) ring.toNat ≠ seqMax := hseq
      rw [ringResume_of_halted hhalted']
      dsimp only
      rw [if_neg hseq', withResult, ringOf_putRing_same _ _ _ hwf']
      rfl
    · intro hseq
      have hseq' : committedSeq (awake s) ring.toNat = seqMax := hseq
      rw [ringResume_of_halted hhalted']
      dsimp only
      rw [if_pos hseq']
      rfl

end Sys2Proof.Machine
end

section
/-! SUPPORT. What every command keeps (`exec_keeps`): each arm of `exec` by the lemma of the operation that it calls. A cold reset alone
changes the identity, to the EEPROM's. -/

namespace Sys2Proof.Machine

/-- An outcome is a next state that keeps what operations keep. -/
def KeepsNext (z : State) (o : Host.Outcome State Fault Refusal) : Prop := ∃ t, o = .next t ∧ Keeps z t

theorem Keeps.next {z t : State} (h : Keeps z t) : KeepsNext z (.next t) := ⟨t, rfl, h⟩

theorem Keeps.ite {z s t : State} (p : Prop) [Decidable p] (hs : Keeps z s) (ht : Keeps z t) : Keeps z (if p then s else t) := by
  split
  · exact hs
  · exact ht

/-- A branch that leaves the state as it is keeps it. -/
theorem Keeps.gated {s t : State} (p : Prop) [Decidable p] (h : Keeps s t) : Keeps s (if p then t else s) := h.ite p (.refl s)

theorem Keeps.gatedOff {s t : State} (p : Prop) [Decidable p] (h : Keeps s t) : Keeps s (if p then s else t) := (Keeps.refl s).ite p h

theorem handleWrite_keepsNext {s : State} {rq : Req} {index sub : Nat} {value : List Byte} {op : State → State × Option Nat}
    (h : ∀ t, Keeps s t → Keeps s (op t).1) : KeepsNext s (.next (handleWrite s rq index sub value op)) :=
  (handleWrite_keeps (.refl s) rq index sub value op h).next

theorem arrive_keepsNext {s : State} {p : Packet} {kind : Nat} {serve : State → Packet → State}
    (h : ∀ t q, Keeps s t → Keeps s (serve t q)) : KeepsNext s (.next (arrive s p kind serve)) :=
  (arrive_keeps (.refl s) p kind serve h).next

theorem runOp_keepsNext (s : State) (ring : RingId) (opc : Nat) (plan : State → InFlight → Plan) :
    KeepsNext s (.next (runOp s ring opc plan)) := (runOp_keeps (.refl s) ring opc plan).next

/-- A command on the record in flight of a ring keeps what the operation on that record keeps. -/
theorem onFlight_keeps {s : State} {f : State → InFlight → State} (x : Option InFlight) (h : ∀ c, Keeps s (f s c)) :
    Keeps s (match x with | some c => f s c | none => s) := by
  cases x with
  | some c => exact h c
  | none => exact .refl s

theorem testResult_keepsNext (s : State) (fid : BitVec 24) (o : TestOutcome) (ticks : BitVec 32) :
    KeepsNext s (exec (.testResult fid o ticks) s) := by
  refine ((?_ : Keeps s _).gated _).next
  split
  · exact endTest_keeps (.refl s) _ o _
  · exact .refl s

theorem mediaWatchdog_keepsNext (s : State) (ring : RingId) (picture : BitVec 16) :
    KeepsNext s (exec (.mediaWatchdog ring picture) s) := by
  refine (?_ : Keeps s _).next
  split
  · exact .refl s
  · exact (count_keeps (Keeps.put (.refl s) rfl rfl rfl) _ _ _).gatedOff _

theorem evacuationResume_keepsNext (s : State) : KeepsNext s (exec .evacuationResume s) :=
  ((foldl_keeps _ (fun _ x h => evacRange_keeps h x) _ _ ((evacuateStep_keeps (.refl s)).gated _)).gated _).next

theorem hbmRetrain_keepsNext (s : State) (channel : BitVec 9) (result : RetrainResult) (hold : BitVec 32) :
    KeepsNext s (exec (.hbmRetrain channel result hold) s) := by
  refine ((?_ : Keeps s _).gatedOff _).next
  cases result with
  | passed => exact retrainChannel_keeps (.refl s) _ _ _
  | failed => exact retrainChannel_keeps (.refl s) _ _ _
  | phyFailed => exact failPhy_keeps (.refl s) _ _

theorem flit_keepsNext (s : State) (link : BitVec 3) (bytes : List Byte) (good : Bool) (corrected : BitVec 16) :
    KeepsNext s (exec (.flit link bytes good corrected) s) :=
  have h := receiveFlit_keeps (linkCount_keeps (.refl s) link.toNat 0x3283 0 corrected.toNat) link.toNat bytes good
  (((hostFlit_keeps h (getLink s link.toNat) bytes).ite _ h).gatedOff _).next

theorem moduleReset_keepsNext (s : State) (byPin : Option Req) (info : StartInfo) :
    KeepsNext s (exec (.moduleReset byPin info) s) := by
  refine ((?_ : Keeps s _).gatedOff _).next
  cases byPin with
  | none => exact moduleByPin_keeps (.refl s)
  | some rq => exact handle_keeps (.refl s) rq _ _ _ _ (fun t h => moduleByCommand_keeps (respond_keeps h _ _ _ _ _ _) info)

theorem falyndiHostAccess_keepsNext (s : State) (w : Bool) (a : Word) (len : BitVec 16) (data : List Byte) :
    KeepsNext s (exec (.falyndiHostAccess w a len data) s) :=
  (((hostWriteAccess_keeps (.refl s) _ _).ite _ (hostReadAccess_keeps (.refl s) _ _ _)).gatedOff _).next

/-- Every command but a cold reset keeps what operations keep. -/
theorem exec_keeps (c : Instr) (s : State) (hc : ∀ info, c ≠ .coldReset info) : KeepsNext s (exec c s) := by
  have hr := Keeps.refl s
  cases c with
  | coldReset info => exact absurd rfl (hc info)
  | doorbell ring word =>
    exact ((dropHost_keeps hr).ite _ ((holdHost_keeps hr _).ite _
      ((wakeFrom_keeps (ringDoorbell_keeps hr _ _) _).gated _))).next
  | create rq ring rsv | destroy rq ring rsv | resume rq ring rsv => exact (ringRequest_keeps hr rq _ ring rsv).next
  | descriptorFetch ring => exact ((fetchNext_keeps hr _).gated _).next
  | acceptance ring => exact ((settle_keeps (acceptNext_keeps hr _) _).gated _).next
  | dispatch part => exact (dispatchPart_keeps hr _).next
  | claim ring who => exact (onFlight_keeps (f := fun s c => if live s then claimUnit s c who.agent.toNat who.fed else s) _
      (fun c => (claimUnit_keeps hr c _ _).gated _)).next
  | unitComplete ring agent unit k =>
    exact (onFlight_keeps (f := fun s c => if live s then completeUnit s c agent.toNat unit.toNat k else s) _
      (fun c => (completeUnit_keeps hr c _ _ k).gated _)).next
  | commit ring => exact (onFlight_keeps (f := fun s c => if live s then endFlight s c else s) _
      (fun c => (endFlight_keeps hr c).gated _)).next
  | notifyHoldoffExpiry vector => exact ((holdoffEnd_keeps hr _).gated _).next
  | discardComplete d => exact ((discardRing_keeps hr _ _).gated _).next
  | nop ring | tallySignal ring | tallyWait ring | fence ring | release ring | gemm ring | gemmBatched ring | gemmGrouped ring
  | conv ring | convDw ring | quernConv ring | quernPatch ring | quernUnpatch ring | pool ring | elemwise ring | reduce ring
  | norm ring | softmax ring | optimStep ring | rngFill ring | attnBwd ring | kvAppend ring | kvTableSwap ring | prefixLookup ring
  | prefixInsert ring | prefixRelease ring | saveAct ring | loadAct ring | spill ring | fetch ring | copy ring | convert ring
  | map ring | unmap ring | remoteRead ring | remoteWrite ring | remoteAtomic ring | cut ring | restore ring | reconstruct ring
  | digest ring | phaseMark ring | tapRead ring => exact runOp_keepsNext s ring _ _
  | attnFwd ring => exact (endWalks_keeps (runOp_keeps hr ring _ _) _).next
  | rewind ring => exact (onFlight_keeps (f := rewindStep) _ (fun c => rewindStep_keeps hr c)).next
  | allreduce ring | reduceScatter ring | allgather ring | normReduce ring | attnMerge ring => exact (runColl_keeps hr _ _).next
  | decode ring | encode ring | streamCtxCreate ring | streamCtxReset ring | streamCtxDestroy ring =>
    exact (runMedia_keeps hr _ _ _).next
  | mediaWatchdog ring picture => exact mediaWatchdog_keepsNext s ring picture
  | parityUpdate ring | reconstructParity ring => exact (runParity_keeps hr _ _).next
  | write rq index sub value => exact (writeRequest_keeps hr rq _ _ value).next
  | read rq index sub => exact (readRequest_keeps hr rq _ _).next
  | describe rq index sub => exact (describeRequest_keeps hr rq _ _).next
  | discover rq => exact (discoverRequest_keeps hr rq).next
  | segInitUp rq index sub => exact (initUp_keeps hr rq _ _).next
  | segInitDown rq index sub size segments crc => exact (initDown_keeps hr rq _ _ _ _ crc).next
  | segment rq index sub segno len flags crc data => exact (takeSegment_keeps hr rq _ _ _ _ _ crc data).next
  | segReq rq index sub segno => exact (giveSegment_keeps hr rq _ _ _).next
  | segEnd rq index sub => exact (endSession_keeps hr rq _ _).next
  | segAbort rq index sub => exact (abortSession_keeps hr rq _ _).next
  | sessionTimeout src index sub => exact ((lapseSession_keeps hr src _ _).gated _).next
  | mailboxDoorbell txid =>
    exact ((dropHost_keeps hr).ite _ ((holdHost_keeps hr _).ite _ (mailDoorbell_keeps hr))).next
  | fwBundle rq object => exact (downloadBundle_keeps hr rq object).next
  | attestRequest rq nonce => exact (downloadNonce_keeps hr rq nonce).next
  | eventAck rq value => exact handleWrite_keepsNext (fun t h => eventAckOp_keeps h _)
  | quiesceRequest rq part value => exact handleWrite_keepsNext (fun t h => quiesceOp_keeps h _ _)
  | enabled rq part value => exact handleWrite_keepsNext (fun t h => enabledOp_keeps h _ _)
  | coreMask rq part word value =>
    exact ((handleWrite_keeps hr rq _ _ _ _ (fun t h => coreMaskOp_keeps h _ _ _)).gatedOff _).next
  | tallyRange rq part isCount value => exact handleWrite_keepsNext (fun t h => tallyRangeOp_keeps h _ isCount _)
  | tallyMirrorBase rq value => exact (mirrorRequest_keeps hr rq _).next
  | kvPoolBase rq part value => exact handleWrite_keepsNext (fun t h => kvPoolOp_keeps h _ _)
  | prefixNodes rq part value => exact handleWrite_keepsNext (fun t h => prefixNodesOp_keeps h _ _)
  | vanishWatch rq slot value => exact handleWrite_keepsNext (fun t h => vanishOp_keeps h _ _)
  | tapConfig rq tap value => exact handleWrite_keepsNext (fun t h => tapOp_keeps h _ _)
  | recordSelect rq value => exact handleWrite_keepsNext (fun t h => recordSelectOp_keeps h _)
  | region0Lost rq value => exact handleWrite_keepsNext (fun t h => region0Op_keeps h _)
  | publish rq window part notice size => exact handleWrite_keepsNext (fun t h => publishOp_keeps h _ _ _ _)
  | revoke rq window part notice size => exact handleWrite_keepsNext (fun t h => revokeOp_keeps h _ _ _ _)
  | noticeExpiry window => exact ((endNotice_keeps hr _).gated _).next
  | windowFreed window => exact ((freeWindow_keeps (zeroRange_keeps hr _ _) _).gated _).next
  | bywashForce rq value => exact handleWrite_keepsNext (fun t h => bywashForceOp_keeps h _)
  | bywashOpen lasers => exact (openBywash_keeps hr lasers).next
  | portRetrain port => exact (retrain_keeps hr _).next
  | portTrainingDone port result => exact (trainingDone_keeps hr _ result).next
  | flit link bytes good corrected => exact flit_keepsNext s link bytes good corrected
  | nak link lack corrected => exact ((nakLink_keeps hr _ lack _).gatedOff _).next
  | laneSwap link lane seen spareGood => exact ((laneSuspect_keeps hr _ _ _ _ spareGood).gatedOff _).next
  | forward pkt inPort vc residency => exact (forwardPacket_keeps hr pkt _ _ _).next
  | lifeExpiry pkt => exact (lifeOut_keeps hr pkt).next
  | kraurRead pkt => exact arrive_keepsNext (fun t q h => serveRead_keeps h q)
  | kraurWrite pkt => exact arrive_keepsNext (fun t q h => serveWrite_keeps h q)
  | atomic pkt => exact arrive_keepsNext (fun t q h => serveAtomic_keeps h q)
  | tally pkt => exact arrive_keepsNext (fun t q h => serveTally_keeps h q)
  | lendNotice pkt => exact ((arrive_keeps hr pkt _ _ (fun t q h => serveNotice_keeps h q)).gated _).next
  | collAbort pkt => exact ((arrive_keeps hr pkt _ _ (fun t q h => serveAbort_keeps h q)).gated _).next
  | collective pkt => exact arrive_keepsNext (fun t q h => serveChunk_keeps h q)
  | response pkt => exact ((takeResponse_keeps hr pkt).gated _).next
  | txnRetry node tag => exact ((retryTxn_keeps hr _ tag).gated _).next
  | fabricTimeout node tag => exact ((timeoutTxn_keeps hr _ tag).gated _).next
  | collWaitTimeout ring => exact ((collTimeout_keeps hr _).gated _).next
  | falyndiTraining host good => exact (falyndiTrain_keeps hr host good).next
  | falyndiLinkLoss => exact ((falyndiRetrain_keeps hr).gated _).next
  | falyndiRestoreExpiry => exact (restoreExpiry_keeps hr).next
  | linkLostClear => exact (Keeps.put hr rfl rfl rfl : Keeps s { s with host := { s.host with linkLost := false } }).next
  | falyndiHostAccess w a len data => exact falyndiHostAccess_keepsNext s w a len data
  | park => exact (park_keeps hr).next
  | enterDoze rq | enterLend rq | enterSleep rq => exact (powerRequest_keeps hr rq _).next
  | returnToP1 rq value => exact (powerRequest_keeps hr rq _).next
  | powerStateReached => exact (stateReached_keeps hr).next
  | millerClockStop => exact ((Keeps.put hr rfl rfl rfl).gated _).next
  | powerCapSample watts => exact (capSample_keeps hr watts).next
  | throttle sensor celsius => exact (throttle_keeps hr sensor celsius).next
  | coolantInletWarning reading => exact (coolant_keeps hr reading).next
  | thermalTrip celsius => exact (thermalTrip_keeps hr celsius).next
  | thermTripN low => exact (thermPin_keeps hr low).next
  | tripHoldExpiry info => exact (tripExpiry_keeps hr info).next
  | inputLoss seen => exact (inputLoss_keeps hr seen).next
  | moduleReset byPin info => exact moduleReset_keepsNext s byPin info
  | modRstNRelease info => exact (releasePin_keeps hr info).next
  | warmReset rq => exact (handle_keeps hr rq _ _ _ _ (fun t h => raiseWarm_keeps (respond_keeps h _ _ _ _ _ _) _)).next
  | warmResetRecovery found => exact ((endWarm_keeps (flushHeld_keeps (recoverWarm_keeps hr _ _))).gated _).next
  | millerWatchdog => exact ((raiseWarm_keeps hr _).gated _).next
  | partitionReset rq value => exact handleWrite_keepsNext (fun t h => partitionResetOp_keeps h _)
  | errorDetected e => exact ((errorStep_keeps hr e).gated _).next
  | targetedTest => exact ((startTest_keeps hr).gated _).next
  | testResult fid o ticks => exact testResult_keepsNext s fid o ticks
  | dieLost die => exact ((loseDie_keeps hr _).gated _).next
  | arm rq word => exact handleWrite_keepsNext (fun t h => armOp_keeps h _)
  | disarm rq word => exact handleWrite_keepsNext (fun t h => disarmOp_keeps h)
  | hbmRetrain channel result hold => exact hbmRetrain_keepsNext s channel result hold
  | evacuationResume => exact evacuationResume_keepsNext s
  | migrationEnd => exact ((endMigration_keeps hr).gated _).next
  | scrub corrected bad lines => exact ((scrubSome_keeps hr _ _ _).gated _).next
  | pageZeroed => exact ((zeroNext_keeps hr).gated _).next
  | marginRun rq value passed errors inRange => exact handleWrite_keepsNext (fun t h => marginRunOp_keeps h _ _ _ _)
  | marginEnable rq value => exact handleWrite_keepsNext (fun t h => marginEnableOp_keeps h _)
  | lmarginEnable rq value => exact handleWrite_keepsNext (fun t h => lmarginEnableOp_keeps h _)
  | lmarginRun rq value passed errors inRange => exact handleWrite_keepsNext (fun t h => lmarginRunOp_keeps h _ _ _ _)
  | cancel rq | rollback rq => exact handleWrite_keepsNext (fun t h => fwStageOp_keeps h _)
  | secverCommit rq value => exact handleWrite_keepsNext (fun t h => secverOp_keeps h _)
  | factoryTestMode =>
    exact ((Keeps.put hr rfl rfl rfl : Keeps s { s with host := { s.host with factoryTest := true } }).gated _).next

/-- A cold reset keeps what operations keep of the state whose identity is read from the EEPROM. -/
theorem exec_coldReset_keeps (info : StartInfo) (s : State) : KeepsNext (readEeprom s) (exec (.coldReset info) s) :=
  (coldReset_keeps s info).next

/-- The canonical form, by the parts that `Keeps` carries. -/
theorem canonical_iff (s : State) : Sys2Proof.State.canonical s ↔ memOk s ∧ dictOk s ∧ tablesOk s := Iff.rfl

theorem Keeps.canonical {z s : State} (h : Keeps z s) (hz : Sys2Proof.State.canonical z) : Sys2Proof.State.canonical s := by
  obtain ⟨hmem, hdict, htables⟩ := (canonical_iff z).mp hz
  exact (canonical_iff s).mpr ⟨h.mem hmem, h.dict hdict, h.tables htables⟩

/-- The EEPROM gives the identity alone. -/
theorem canonical_readEeprom (s : State) : Sys2Proof.State.canonical (readEeprom s) ↔ Sys2Proof.State.canonical s := Iff.rfl

/-- The queue is no table. -/
theorem canonical_withPending (s : State) (q : List Instr) :
    Sys2Proof.State.canonical { s with pending := q } ↔ Sys2Proof.State.canonical s := Iff.rfl

/-- Every command answers a next state in canonical form. -/
theorem exec_canonical {c : Instr} {s t : State} (hs : Sys2Proof.State.canonical s) (he : exec c s = .next t) :
    Sys2Proof.State.canonical t := by
  obtain ⟨z, hz, u, hu, hk⟩ : ∃ z, Sys2Proof.State.canonical z ∧ KeepsNext z (exec c s) := by
    by_cases hc : ∃ info, c = .coldReset info
    · obtain ⟨info, rfl⟩ := hc
      exact ⟨readEeprom s, (canonical_readEeprom s).mpr hs, exec_coldReset_keeps info s⟩
    · exact ⟨s, hs, exec_keeps c s (not_exists.mp hc)⟩
  obtain rfl : u = t := Host.Outcome.next.inj (hu.symm.trans he)
  exact hk.canonical hz

end Sys2Proof.Machine
end

section
/-! CERTIFICATE. The machine as a whole: what a step does, what every command keeps, and the state after reset. -/

namespace Sys2Proof.Machine

/-- Settles O3: a step is a tick or a command, and both carry `Keeps`. -/
theorem stepKeepsCanonicalForm : Obligations.StepKeepsCanonicalForm := by
  unfold Obligations.StepKeepsCanonicalForm
  intro s t hs hstep
  unfold step at hstep
  split at hstep
  · obtain rfl : tick s = t := Host.Outcome.next.inj hstep
    exact (tick_keeps (.refl s)).canonical hs
  next c rest _ => exact exec_canonical ((canonical_withPending s rest).mpr hs) hstep

/-- Settles O2: `exec_keeps` for every command but a cold reset, whose state keeps that of `readEeprom`. -/
theorem commandsKeepQueueAndIdentity : Obligations.CommandsKeepQueueAndIdentity := by
  unfold Obligations.CommandsKeepQueueAndIdentity
  intro c s
  by_cases hc : ∃ info, c = .coldReset info
  · obtain ⟨info, rfl⟩ := hc
    obtain ⟨t, he, hk⟩ := exec_coldReset_keeps info s
    exact ⟨t, he, hk.pending, hk.variant, Or.inr ⟨info, rfl, hk.ident⟩⟩
  · obtain ⟨t, he, hk⟩ := exec_keeps c s (not_exists.mp hc)
    exact ⟨t, he, hk.pending, hk.variant, Or.inl hk.ident⟩

/-- Settles O1: by the two arms of `step`. -/
theorem stepRunsTheFrontCommand : Obligations.StepRunsTheFrontCommand := by
  unfold Obligations.StepRunsTheFrontCommand
  refine ⟨fun c rest s => rfl, fun s hs => ?_⟩
  unfold step
  rw [hs]

end Sys2Proof.Machine
end

section
/-! CERTIFICATE. The state after reset (R50, R380). -/

namespace Sys2Proof.Machine

/-- The dictionary store at reset lists ledger_epoch alone. -/
theorem reset_dict : State.reset.dict = [(dk 0x2100 5, 1)] := rfl

/-- The default of ledger_epoch is 0, so a listed 1 is canonical. -/
theorem dictOk_reset : dictOk State.reset := by
  have hd : (1 : Word) ≠ dictDefault .cxm1440 (dk 0x2100 5) := by decide +kernel
  exact (tableWf_cons _ _ _ _).mpr ⟨hd, fun e he => absurd he List.not_mem_nil, rfl⟩

/-- An entry that reset does not list reads as its default. -/
theorem dGet_reset {k : Nat} (h : k ≠ dk 0x2100 5) : dGet State.reset k = (dictDefault .cxm1440 k).toNat := by
  unfold dGet
  rw [reset_dict, tableGet, if_neg (Ne.symm h)]
  rfl

/-- Settles O4: every other table is empty at reset. -/
theorem resetIsCanonical : Obligations.ResetIsCanonical := by
  unfold Obligations.ResetIsCanonical
  exact (canonical_iff _).mpr ⟨reset_memOk, dictOk_reset, rfl, rfl, rfl, rfl⟩

/-- Settles O5: the tables that are empty at reset read as their defaults; entries of the dictionary by `dGet_reset`. -/
theorem resetState : Obligations.ResetState := by
  unfold Obligations.ResetState
  refine ⟨fun n => ⟨rfl, rfl, rfl⟩, fun k => rfl, fun part va => rfl, rfl, rfl, ?_, ?_⟩
  · rw [dGet_reset (by decide)]
    decide +kernel
  · have hentry : ∀ p < 16, (dictDefault .cxm1440 (dk (0x2000 + p) 1)).toNat = (if p = 0 then 1 else 0) ∧
        (dictDefault .cxm1440 (dk (0x2000 + p) 5)).toNat = (if p = 0 then 3 else 0) := by decide +kernel
    intro p hp
    unfold pGet
    rw [dGet_reset (by unfold dk; omega), dGet_reset (by unfold dk; omega)]
    exact hentry p hp

end Sys2Proof.Machine
end

section
/-! SUPPORT. Little-endian byte strings: their length, their number, and how they split. -/

namespace Sys2Proof.Machine

@[simp] theorem leBytes_length (n v : Nat) : (leBytes n v).length = n := by
  induction n generalizing v with
  | zero => rfl
  | succ n ih => simp [leBytes, ih]

/-- The number of the `n` low bytes is the value modulo `256 ^ n`. -/
theorem leNat_leBytes (n v : Nat) : leNat (leBytes n v) = v % 256 ^ n := by
  induction n generalizing v with
  | zero => simp [leBytes, leNat, Nat.mod_one]
  | succ n ih =>
    have hbyte : (BitVec.ofNat 8 v).toNat = v % 256 := BitVec.toNat_ofNat v 8
    rw [leBytes, leNat, hbyte, ih, Nat.pow_succ, Nat.mul_comm (256 ^ n) 256, Nat.mod_mul]

theorem leBytes_add (m n v : Nat) : leBytes (m + n) v = leBytes m v ++ leBytes n (v / 256 ^ m) := by
  induction m generalizing v with
  | zero => simp [leBytes]
  | succ m ih =>
    rw [Nat.succ_add, leBytes, leBytes, ih, Nat.div_div_eq_div_mul, Nat.pow_succ, Nat.mul_comm (256 ^ m) 256, List.cons_append]

/-- A value of 32 bits fills the low half of 8 bytes. -/
theorem leBytes_eight_of_lt {v : Nat} (h : v < 2 ^ 32) : leBytes 8 v = leBytes 4 v ++ leBytes 4 0 := by
  rw [leBytes_add 4 4 v, Nat.div_eq_of_lt (show v < 256 ^ 4 from h)]

theorem padTo_length (n : Nat) (l : List Byte) : (padTo n l).length = n := by
  simp only [padTo, List.length_take, List.length_append, List.length_replicate]
  omega

theorem padTo_of_length_le {n : Nat} {l : List Byte} (h : l.length ≤ n) : padTo n l = l ++ List.replicate (n - l.length) 0 := by
  unfold padTo
  rw [List.take_of_length_le]
  simp only [List.length_append, List.length_replicate]
  omega

/-! ### Flits (R258) -/

/-- The first word of a flit: the header's fields in their places. -/
def headWord (h : FlitHead) : Nat :=
  h.type * 2 ^ 60 + h.vc * 2 ^ 58 + h.bgmap * 2 ^ 50 + h.lseq * 2 ^ 38 + h.lack * 2 ^ 26 + h.crvc * 2 ^ 23 + h.crcnt * 2 ^ 16 +
    h.slotv * 2 ^ 8

/-- The CRC of a flit: of its header and payload, with zeros in the CRC's place. -/
def flitCrc (h : FlitHead) (payload : List Byte) : BitVec 32 :=
  crc32 (leBytes 8 (headWord h) ++ leBytes 8 0 ++ padTo 256 payload)

/-- A flit is its header word, its CRC word, four zeros and its payload. -/
theorem flitBytes_eq (h : FlitHead) (payload : List Byte) :
    flitBytes h payload =
      leBytes 8 (headWord h) ++ (leBytes 4 (flitCrc h payload).toNat ++ (leBytes 4 0 ++ padTo 256 payload)) := by
  have hword := leBytes_eight_of_lt (flitCrc h payload).isLt
  show leBytes 8 (headWord h) ++ leBytes 8 (flitCrc h payload).toNat ++ padTo 256 payload = _
  rw [hword, List.append_assoc, List.append_assoc]

/-- What a flit with any CRC word reads as: the word counts when it is the CRC. -/
theorem flitGood_withCrc (h : FlitHead) (payload : List Byte) {w : Nat} (hw : w < 2 ^ 32) :
    flitGood (leBytes 8 (headWord h) ++ (leBytes 4 w ++ (leBytes 4 0 ++ padTo 256 payload))) =
      (flitCrc h payload == BitVec.ofNat 32 w) := by
  have hcrc : leBytes 8 (headWord h) ++ leBytes 4 0 ++ (leBytes 4 0 ++ padTo 256 payload) =
      leBytes 8 (headWord h) ++ leBytes 8 0 ++ padTo 256 payload := by
    rw [leBytes_eight_of_lt (v := 0) (by decide)]
    simp only [List.append_assoc]
  have hdrop : (leBytes 8 (headWord h) ++ (leBytes 4 w ++ (leBytes 4 0 ++ padTo 256 payload))).drop 12 =
      leBytes 4 0 ++ padTo 256 payload := by
    rw [← List.append_assoc, List.drop_left' (by simp)]
  have hlen : (leBytes 8 (headWord h) ++ (leBytes 4 w ++ (leBytes 4 0 ++ padTo 256 payload))).length = 272 := by
    simp [padTo_length]
  have hnum : leNat (leBytes 4 w) = w := (leNat_leBytes 4 w).trans (Nat.mod_eq_of_lt hw)
  unfold flitGood
  rw [hdrop, List.take_left' (leBytes_length 8 _), List.drop_left' (leBytes_length 8 _), List.take_left' (leBytes_length 4 _),
    hcrc, hnum, hlen]
  rfl

/-- Every field of a header that fits its width is read back from the header word. -/
theorem flitHead_headWord (h : FlitHead) (rest : List Byte)
    (htype : h.type < 2 ^ 4) (hvc : h.vc < 2 ^ 2) (hbgmap : h.bgmap < 2 ^ 8) (hlseq : h.lseq < 2 ^ 12) (hlack : h.lack < 2 ^ 12)
    (hcrvc : h.crvc < 2 ^ 3) (hcrcnt : h.crcnt < 2 ^ 7) (hslotv : h.slotv < 2 ^ 8) :
    flitHead (leBytes 8 (headWord h) ++ rest) = h := by
  obtain ⟨type, vc, bgmap, lseq, lack, crvc, crcnt, slotv⟩ := h
  have hword : leNat (leBytes 8 (headWord ⟨type, vc, bgmap, lseq, lack, crvc, crcnt, slotv⟩)) =
      headWord ⟨type, vc, bgmap, lseq, lack, crvc, crcnt, slotv⟩ := by
    rw [leNat_leBytes, Nat.mod_eq_of_lt]
    simp only [headWord] at *
    omega
  unfold flitHead
  rw [List.take_left' (leBytes_length 8 _), hword]
  simp only [headWord, bits, Nat.shiftRight_eq_div_pow, FlitHead.mk.injEq] at *
  refine ⟨?_, ?_, ?_, ?_, ?_, ?_, ?_, ?_⟩ <;> omega

end Sys2Proof.Machine
end

section
/-! CERTIFICATE. Flits (R258). -/

namespace Sys2Proof.Machine

/-- Settles O59: the flit's parts in a row (`flitBytes_eq`), the header's fields by arithmetic, the CRC by `flitGood_withCrc`. -/
theorem flitRoundTrip : Obligations.FlitRoundTrip := by
  unfold Obligations.FlitRoundTrip
  intro h payload htype hvc hbgmap hlseq hlack hcrvc hcrcnt hslotv hlen
  dsimp only
  rw [flitBytes_eq]
  refine ⟨by simp [padTo_length], flitHead_headWord h _ htype hvc hbgmap hlseq hlack hcrvc hcrcnt hslotv, ?_, ?_, ?_⟩
  · rw [← List.append_assoc, ← List.append_assoc, List.drop_left' (by simp), padTo_of_length_le hlen]
  · rw [flitGood_withCrc h payload (flitCrc h payload).isLt]
    simp
  · intro w hw hne
    rw [List.take_left' (leBytes_length 8 _), ← List.append_assoc (leBytes 8 _) (leBytes 4 _), List.drop_left' (by simp),
      List.append_assoc, flitGood_withCrc h payload hw, beq_eq_false_iff_ne]
    rw [List.drop_left' (leBytes_length 8 _), List.take_left' (leBytes_length 4 _)] at hne
    intro heq
    have hval := congrArg BitVec.toNat heq
    rw [BitVec.toNat_ofNat, Nat.mod_eq_of_lt hw] at hval
    exact hne (by rw [hval])

end Sys2Proof.Machine
end

section
/-! SUPPORT. How a served write comes out by what its owner answers, and ring commands by their command word (R20 to R22). -/

namespace Sys2Proof.Machine

open Sys2Proof.Claims

/-! ### Served writes -/

/-- A served write runs its owner on the state in which the miller's clock has started. -/
theorem handleWrite_served {s : State} {rq : Req} {index sub : Nat} (value : List Byte) (op : State → State × Option Nat)
    (h : Served s rq index sub) :
    handleWrite s rq index sub value op = match op (awake s) with
      | (t, some st) => respond (if st = stOk then journalWrite t rq.src (dk index sub) value else t) rq 0x02 index sub st []
      | (t, none) => t := by
  obtain ⟨hheard, hhidden, hblocked⟩ := h
  have hhidden' : hidden (awake s) index = false := hhidden
  have hblocked' : blocked (awake s) (dk index sub) = false := hblocked
  unfold handleWrite
  rw [handle_heard _ _ _ _ hheard]
  simp only [hhidden', hblocked', Bool.false_eq_true, if_false] <;> rfl

/-- A served write that its owner refuses has no effect but the owner's, and the answer. -/
theorem handleWrite_served_refused {s t : State} {rq : Req} {index sub st : Nat} (value : List Byte)
    {op : State → State × Option Nat} (h : Served s rq index sub) (hanswer : op (awake s) = (t, some st)) (hst : st ≠ stOk) :
    handleWrite s rq index sub value op = reject t rq index sub st := by
  rw [handleWrite_served value op h, hanswer]
  exact congrArg (fun x => respond x rq 0x02 index sub st []) (if_neg hst)

/-- A served write whose response comes later. -/
theorem handleWrite_served_later {s t : State} {rq : Req} {index sub : Nat} (value : List Byte)
    {op : State → State × Option Nat} (h : Served s rq index sub) (hanswer : op (awake s) = (t, none)) :
    handleWrite s rq index sub value op = t := by
  rw [handleWrite_served value op h, hanswer]

/-! ### Ring command words -/

/-- The word of a ring command. -/
def cmdWord (op : Nat) (ring : RingId) (rsv : BitVec 46) : Nat := op * 2 ^ 60 + rsv.toNat * 2 ^ 14 + ring.toNat

theorem cmdWord_fields (op : Nat) (ring : RingId) (rsv : BitVec 46) (hop : op < 16) :
    bits (cmdWord op ring rsv) 13 0 = ring.toNat ∧ bits (cmdWord op ring rsv) 59 14 = rsv.toNat ∧
      bits (cmdWord op ring rsv) 63 60 = op := by
  have := ring.isLt
  have := rsv.isLt
  simp only [cmdWord, bits, Nat.shiftRight_eq_div_pow]
  omega

/-- A command word with a reserved bit set has result 0x05. -/
theorem ringCmd_reserved {op : Nat} (hop : op < 16) (ring : RingId) {rsv : BitVec 46} (h : rsv ≠ 0) (s : State) :
    ringCmd (cmdWord op ring rsv) s = (withResult ring.toNat (s, 5), some stOk) := by
  obtain ⟨hring, hrsv, _⟩ := cmdWord_fields op ring rsv hop
  have hne : rsv.toNat ≠ 0 := fun h0 => h (BitVec.eq_of_toNat_eq h0)
  unfold ringCmd
  rw [hring, hrsv]
  simp only [hne, ne_eq, not_false_eq_true, if_true]
  rfl

theorem ringCmd_create (ring : RingId) (s : State) :
    ringCmd (1 * 2 ^ 60 + ring.toNat) s = (withResult ring.toNat (ringCreate s ring.toNat), some stOk) := by
  unfold ringCmd
  rw [ringWord_ring, ringWord_reserved, ringWord_op 1 ring (by decide)]
  rfl

theorem exec_create_served {s : State} {rq : Req} (ring : RingId) (h : Served s rq 0x2100 4) :
    exec (.create rq ring 0) s =
      .next (accept (withResult ring.toNat (ringCreate (awake s) ring.toNat)) rq 0x2100 4 (leBytes 8 (1 * 2 ^ 60 + ring.toNat))) :=
  congrArg _ (ringRequest_served h (ringCmd_create ring (awake s)))

theorem ringRequest_reserved {s : State} {rq : Req} {op : Nat} {ring : RingId} {rsv : BitVec 46} (h : Served s rq 0x2100 4)
    (hop : op < 16) (hrsv : rsv ≠ 0) :
    ringRequest s rq op ring rsv = accept (withResult ring.toNat (awake s, 5)) rq 0x2100 4 (leBytes 8 (cmdWord op ring rsv)) :=
  handleWrite_served_ok _ h (ringCmd_reserved hop ring hrsv (awake s))

/-- The word of a command with no reserved bit set. -/
theorem cmdWord_zero (op : Nat) (ring : RingId) : cmdWord op ring 0 = op * 2 ^ 60 + ring.toNat := by simp [cmdWord]

/-! ### CREATE (R21) -/

/-- The configuration entry of a ring: its two words. -/
def configWords (s : State) (n : Nat) : Nat × Nat :=
  (ldNat s (dGet s (dk 0x2100 2) + 16 * n) 8, ldNat s (dGet s (dk 0x2100 2) + 16 * n + 8) 8)

/-- The checks of CREATE in their order, up to the stack. -/
theorem ringCreate_refused (s : State) (n : Nat) :
    (dGet s (dk 0x2100 2) = 0 → ringCreate s n = (s, 4)) ∧
    (dGet s (dk 0x2100 2) ≠ 0 → (ringOf s n).state ≠ .free → ringCreate s n = (s, 1)) ∧
    (dGet s (dk 0x2100 2) ≠ 0 → (ringOf s n).state = .free →
      (configValid s (configWords s n).1 (configWords s n).2 = false → ringCreate s n = (s, 2)) ∧
      (configValid s (configWords s n).1 (configWords s n).2 = true →
        (quotaAllows s (bits (configWords s n).1 3 0) 2 (2 * (128 * bits (configWords s n).1 20 4)) = false →
          ringCreate s n = (s, 3)) ∧
        (quotaAllows s (bits (configWords s n).1 3 0) 2 (2 * (128 * bits (configWords s n).1 20 4)) = true →
          pickStack s (bits (configWords s n).1 24 21) (128 * bits (configWords s n).1 20 4) = none → ringCreate s n = (s, 6)))) := by
  have hquota : 2 * (128 * bits (configWords s n).1 20 4) = 256 * bits (configWords s n).1 20 4 := by omega
  rw [hquota]
  unfold configWords ringCreate
  refine ⟨fun h => if_pos h, fun h hs => ?_, fun h hs => ⟨fun hc => ?_, fun hc => ⟨fun hq => ?_, fun hq hp => ?_⟩⟩⟩
  · simp [h, hs]
  · simp [h, hs, hc]
  · simp [h, hs, hc, hq]
  · simp only [h, hs, hc, hq, hp, if_false, ne_eq, not_true_eq_false, Bool.not_true, Bool.false_eq_true]

end Sys2Proof.Machine
end

section
/-! CERTIFICATE. Ring commands that are refused, and CREATE (R20, R21). -/

namespace Sys2Proof.Machine

open Sys2Proof.Claims

/-- Settles O7: a reserved bit by `ringRequest_reserved`, CREATE by `ringCreate_refused`, DESTROY and RESUME by their conditions. -/
theorem refusedRingCommands : Obligations.RefusedRingCommands := by
  unfold Obligations.RefusedRingCommands
  intro rq ring rsv s hserved
  dsimp only
  have hword (op : Nat) : op * 2 ^ 60 + (0 : BitVec 46).toNat * 2 ^ 14 + ring.toNat = op * 2 ^ 60 + ring.toNat :=
    cmdWord_zero op ring
  obtain ⟨hbase, hstate, hfree⟩ := ringCreate_refused (awake s) ring.toNat
  refine ⟨fun hrsv => ⟨?_, ?_, ?_⟩, ?_, ?_, ?_, ?_, ?_, ?_, ?_⟩
  · exact congrArg _ (ringRequest_reserved hserved (by decide) hrsv)
  · exact congrArg _ (ringRequest_reserved hserved (by decide) hrsv)
  · exact congrArg _ (ringRequest_reserved hserved (by decide) hrsv)
  · rintro rfl h0
    rw [hword, exec_create_served ring hserved, hbase h0]
    rfl
  · rintro rfl h0 hs
    rw [hword, exec_create_served ring hserved, hstate h0 hs]
    rfl
  · rintro rfl h0 hs hc
    rw [hword, exec_create_served ring hserved, (hfree h0 hs).1 hc]
    rfl
  · rintro rfl h0 hs hc hq
    rw [hword, exec_create_served ring hserved, ((hfree h0 hs).2 hc).1 hq]
    rfl
  · rintro rfl h0 hs hc hq hp
    rw [hword, exec_create_served ring hserved, ((hfree h0 hs).2 hc).2 hq hp]
    rfl
  · rintro rfl hwrong
    have hnot : ¬Destroyable (awake s) ring.toNat := by
      rw [destroyable_iff, not_not]
      refine hwrong.imp id (Or.imp id fun ⟨g, hg, hn⟩ => ?_)
      exact List.any_eq_true.mpr ⟨g, hg, beq_iff_eq.mpr hn⟩
    rw [hword, exec_destroy_served ring hserved, ringDestroy_of_not_destroyable hnot]
    rfl
  · rintro rfl hnot
    rw [hword, exec_resume_served ring hserved, ringResume_of_not_halted hnot]
    rfl

end Sys2Proof.Machine
end

section
/-! SUPPORT. The element that `leastBy` picks, and the places of a new ring (R21). -/

namespace Sys2Proof.Machine

open Sys2Proof.Claims

/-- `leastBy` picks an element of the list, none of which has a lower key. -/
theorem leastBy_eq_some {α : Type} {key : α → Nat} {l : List α} {x : α} (h : leastBy key l = some x) :
    x ∈ l ∧ ∀ y ∈ l, key x ≤ key y := by
  induction l generalizing x with
  | nil => cases h
  | cons a l ih =>
    unfold leastBy at h
    cases hl : leastBy key l with
    | none =>
      obtain rfl : a = x := by simpa [hl] using h
      have hnil : l = [] := by
        cases l with
        | nil => rfl
        | cons b l =>
          unfold leastBy at hl
          split at hl
          · cases hl
          · split at hl <;> cases hl
      simp [hnil]
    | some y =>
      obtain ⟨hy, hmin⟩ := ih hl
      rw [hl] at h
      dsimp only at h
      split at h
      next hle =>
        obtain rfl : a = x := Option.some.inj h
        refine ⟨List.mem_cons_self, fun b hb => ?_⟩
        rcases List.mem_cons.mp hb with rfl | hb
        · exact Nat.le_refl _
        · exact hle.trans (hmin b hb)
      next hle =>
        obtain rfl : y = x := Option.some.inj h
        refine ⟨List.mem_cons_of_mem _ hy, fun b hb => ?_⟩
        rcases List.mem_cons.mp hb with rfl | hb
        · omega
        · exact hmin b hb

/-- The stack that CREATE picks has room for the ring and its mirror. -/
theorem pairFits_of_pickStack {s : State} {code n st : Nat} (h : pickStack s code n = some st) : pairFits s st n = true := by
  unfold pickStack at h
  split at h
  · exact (List.mem_filter.mp (leastBy_eq_some h).1).2
  · split at h
    next hfits => exact Option.some.inj h ▸ hfits
    next => cases h

/-- Where a place fits, the module takes one that fits. -/
theorem pinnedPlace_of_fits {s : State} {st n : Nat} (k : Nat) (h : pinnedFits s st n ≠ []) :
    ∃ a ∈ pinnedFits s st n, pinnedPlace s st n k = some (gaMake (nodeId s) 1 (st * 2 ^ 36 + a)) := by
  have hlt := Nat.mod_lt (Config.pinnedPick k) (List.length_pos_iff.mpr h)
  refine ⟨(pinnedFits s st n)[Config.pinnedPick k % (pinnedFits s st n).length], List.getElem_mem hlt, ?_⟩
  unfold pinnedPlace
  dsimp only
  rw [List.getElem?_eq_getElem hlt]
  rfl

/-- The record of a new ring: its partition, size and completion area from the configuration entry, its memory at `a`, its mirror at
`b`. -/
def newRing (p st size k1 a b : Nat) : Ring :=
  { Ring.free with
    state := .active, part := BitVec.ofNat 4 p, stack := BitVec.ofNat 4 st, size := BitVec.ofNat 17 size, nextSeq := 1,
    ringAddr := BitVec.ofNat 64 a, mirrorAddr := BitVec.ofNat 64 b, cqBase := BitVec.ofNat 64 k1 }

theorem ringCreate_placed {s : State} {n st a b : Nat} (hbase : dGet s (dk 0x2100 2) ≠ 0) (hstate : (ringOf s n).state = .free)
    (hconfig : configValid s (configWords s n).1 (configWords s n).2 = true)
    (hquota : quotaAllows s (bits (configWords s n).1 3 0) 2 (2 * (128 * bits (configWords s n).1 20 4)) = true)
    (hstack : pickStack s (bits (configWords s n).1 24 21) (128 * bits (configWords s n).1 20 4) = some st)
    (ha : pinnedPlace s st (128 * bits (configWords s n).1 20 4) (2 * s.fresh) = some a)
    (hb : pinnedPlace s ((st + 6) % 12) (128 * bits (configWords s n).1 20 4) (2 * s.fresh + 1) = some b) :
    ringCreate s n = (putLedger (putRing (tickFresh s) n (newRing (bits (configWords s n).1 3 0) st
      (bits (configWords s n).1 20 4) (configWords s n).2 a b)) n 0, 0) := by
  have heq : 2 * (128 * bits (configWords s n).1 20 4) = 256 * bits (configWords s n).1 20 4 := by omega
  rw [heq] at hquota
  unfold configWords at *
  unfold ringCreate
  simp only [hbase, hstate, hconfig, hquota, hstack, ha, hb, if_false, ne_eq, not_true_eq_false, Bool.not_true, Bool.false_eq_true]
  rfl

/-- A new ring's record stays as it is under result 0x00. -/
theorem withResult_created {s : State} {n : Nat} {r : Ring} (hwf : tableWf ringDefault s.hop.rings = true)
    (hr : { r with lastResult := 0 } = r) :
    withResult n (putLedger (putRing s n r) n 0, 0) = putRing (putLedger (putRing s n r) n 0) n r := by
  unfold withResult
  rw [ringOf_putLedger, ringOf_putRing_same s n r hwf]
  exact congrArg _ hr

end Sys2Proof.Machine
end

section
/-! CERTIFICATE. CREATE of a ring whose checks pass (R21). -/

namespace Sys2Proof.Machine

open Sys2Proof.Claims

/-- Settles O8: both copies fit on the stacks that `pickStack` gives, and `ringCreate_placed` puts the record there. -/
theorem createdRing : Obligations.CreatedRing := by
  unfold Obligations.CreatedRing
  intro rq ring s st hserved hwf
  dsimp only
  intro hbase hstate hconfig hquota hstack
  have hfits := pairFits_of_pickStack hstack
  unfold pairFits at hfits
  rw [Bool.and_eq_true, Bool.not_eq_true', Bool.not_eq_true', List.isEmpty_eq_false_iff, List.isEmpty_eq_false_iff] at hfits
  obtain ⟨a, hmema, ha⟩ := pinnedPlace_of_fits (2 * (awake s).fresh) hfits.1
  obtain ⟨b, hmemb, hb⟩ := pinnedPlace_of_fits (2 * (awake s).fresh + 1) hfits.2
  refine ⟨a, hmema, b, hmemb, ?_⟩
  have hcreate := ringCreate_placed hbase hstate hconfig hquota hstack ha hb
  rw [exec_create_served ring hserved, hcreate, withResult_created (s := tickFresh (awake s)) hwf rfl]
  rfl

end Sys2Proof.Machine
end

section
/-! SUPPORT. How a descriptor's fetch comes out by what stands in its way (R22, R60, R72). -/

namespace Sys2Proof.Machine

open Sys2Proof.Claims

/-! ### The order of what stops a fetch (log entry 21) -/

theorem fetchNext_of_mayNot {s : State} {n : Nat} (h : mayFetch s (ringOf s n) n = false) : fetchNext s n = s := by
  unfold fetchNext
  simp [h]

theorem fetchNext_atQuota {s : State} {n : Nat} (h : mayFetch s (ringOf s n) n = true)
    (hq : pGet s (ringOf s n).part.toNat 0xA ≤ cellsUsed s (ringOf s n).part.toNat) :
    fetchNext s n = beginStall s 0x320A (ringOf s n).part.toNat := by
  unfold fetchNext
  simp [h, hq]

theorem fetchNext_noCell {s : State} {n : Nat} (h : mayFetch s (ringOf s n) n = true)
    (hq : cellsUsed s (ringOf s n).part.toNat < pGet s (ringOf s n).part.toNat 0xA) (hfree : cellsFree s = 0) :
    fetchNext s n = beginStall s 0x3209 (ringOf s n).part.toNat := by
  unfold fetchNext
  simp [h, Nat.not_le.mpr hq, hfree]

theorem fetchNext_atLimit {s : State} {n : Nat} (h : mayFetch s (ringOf s n) n = true)
    (hq : cellsUsed s (ringOf s n).part.toNat < pGet s (ringOf s n).part.toNat 0xA) (hfree : 0 < cellsFree s)
    (hseg : segmentAhead s (ringOf s n) = true) (hlimit : atHoldLimit s (ringOf s n).part.toNat = true) :
    fetchNext s n = stopAtLimit s n := by
  unfold fetchNext
  simp [h, Nat.not_le.mpr hq, Nat.pos_iff_ne_zero.mp hfree, hseg, hlimit]

/-- With nothing of R60 and R72 in the way, the copy and the turn decide. -/
theorem fetchNext_open {s : State} {n : Nat} (h : mayFetch s (ringOf s n) n = true)
    (hq : cellsUsed s (ringOf s n).part.toNat < pGet s (ringOf s n).part.toNat 0xA) (hfree : 0 < cellsFree s)
    (hseg : segmentAhead s (ringOf s n) = true → atHoldLimit s (ringOf s n).part.toNat = false)
    (hinj : s.hlth.injections = []) :
    fetchNext s n = match slotAddr s (ringOf s n) (ringOf s n).consumer.toNat with
      | none => if (ringOf s n).cells = [] then haltUnread s n else s
      | some a => if ((ringOf s n).dirStop && directoryFull s) || !fetchTurnOf s n then s else readSlot s n a := by
  have hahead : (segmentAhead s (ringOf s n) && atHoldLimit s (ringOf s n).part.toNat) = false := by
    cases hs : segmentAhead s (ringOf s n) with
    | false => rfl
    | true => exact hseg hs
  unfold fetchNext
  simp only [h, Nat.not_le.mpr hq, Nat.pos_iff_ne_zero.mp hfree, hahead, Bool.not_true, Bool.false_eq_true, if_false]
  cases ha : slotAddr s (ringOf s n) (ringOf s n).consumer.toNat with
  | none => simp [List.isEmpty_iff]
  | some a => simp [fireRead_none hinj, readFired, h, ha]

theorem beginStall_quota_held {s : State} {p : Nat} (h : p ∈ s.hop.stallQuota) : beginStall s 0x320A p = s := by
  simp [beginStall, h]

theorem beginStall_quota {s : State} {p : Nat} (h : p ∉ s.hop.stallQuota) :
    beginStall s 0x320A p = countP { s with hop := { s.hop with stallQuota := insertNat p s.hop.stallQuota } } 0x320A p 1 := by
  simp [beginStall, h]

theorem beginStall_pool {s : State} {p : Nat} (h : p ∉ s.hop.stallPool) :
    beginStall s 0x3209 p = countP { s with hop := { s.hop with stallPool := insertNat p s.hop.stallPool } } 0x3209 p 1 := by
  simp [beginStall, h]

/-- The turn passes to the ring after this one. -/
def passTurn (s : State) (n : Nat) : State := { s with hop := { s.hop with fetchTurn := (n + 1) % 16384 } }

theorem opensSeg_passTurn (s : State) (n : Nat) (d : List Word) : opensSeg (passTurn s n) d = opensSeg s d := rfl

theorem directoryFull_passTurn (s : State) (n : Nat) : directoryFull (passTurn s n) = directoryFull s := rfl

/-- A descriptor read from a slot stops before a full directory, or takes a cell. -/
theorem readSlot_eq (s : State) (n a : Nat) :
    readSlot s n a =
      if opensSeg (passTurn s n) (readDesc s a) && directoryFull (passTurn s n) then
        countRing (putRing (passTurn s n) n { ringOf s n with dirStop := true }) n 0x320C
      else putRing (endStalls (passTurn s n) (ringOf s n).part.toNat n) n { ringOf s n with
        cells := (ringOf s n).cells ++
          [{ pos := (ringOf s n).consumer, desc := readDesc s a, st := .reading, order := 0, seg := none }]
        consumer := (ringOf s n).consumer + 1
        dirStop := false } := rfl

/-- Before a descriptor that opens a segment the directory must have room. -/
theorem readSlot_stops {s : State} {n a : Nat} (h : opensSeg s (readDesc s a) = true) (hfull : directoryFull s = true) :
    readSlot s n a = countRing (putRing (passTurn s n) n { ringOf s n with dirStop := true }) n 0x320C := by
  rw [readSlot_eq, opensSeg_passTurn, directoryFull_passTurn, h, hfull]
  exact if_pos rfl

theorem readSlot_takes {s : State} {n a : Nat} (h : opensSeg s (readDesc s a) = true → directoryFull s = false) :
    readSlot s n a = putRing (endStalls (passTurn s n) (ringOf s n).part.toNat n) n { ringOf s n with
      cells := (ringOf s n).cells ++
        [{ pos := (ringOf s n).consumer, desc := readDesc s a, st := .reading, order := 0, seg := none }]
      consumer := (ringOf s n).consumer + 1
      dirStop := false } := by
  have room : (opensSeg s (readDesc s a) && directoryFull s) = false := by
    rw [Bool.and_eq_false_iff]
    exact (Bool.eq_false_or_eq_true _).symm.imp id h
  rw [readSlot_eq, opensSeg_passTurn, directoryFull_passTurn, room, if_neg Bool.false_ne_true]

/-! ### The copies of ring memory (R22) -/

theorem good_iff (s : State) (st a : Nat) :
    (!stackRetired s st && !lostIn s a 128) = true ↔ stackRetired s st = false ∧ lostIn s a 128 = false := by
  rw [Bool.and_eq_true, Bool.not_eq_true', Bool.not_eq_true']

end Sys2Proof.Machine
end

section
/-! CERTIFICATE. Descriptor fetch (R22, R60, R72). -/

namespace Sys2Proof.Machine

open Sys2Proof.Claims

/-- Settles O11: by the order in which `fetchNext` looks for what stops it; where nothing does, by the directory (`readSlot_stops`,
`readSlot_takes`). -/
theorem descriptorFetch : Obligations.DescriptorFetch := by
  unfold Obligations.DescriptorFetch
  intro ring s hon hinj
  dsimp only
  have hexec : exec (.descriptorFetch ring) s = .next (fetchNext s ring.toNat) := congrArg _ (if_pos hon)
  rw [hexec]
  refine ⟨fun h => ?_, fun h hq hp => ?_, fun h hq hp => ?_, fun h hq hfree hp => ?_, fun h hq hfree hseg => ?_,
    fun h hq hfree hseg hlimit => ?_⟩
  · rw [fetchNext_of_mayNot h]
  · rw [fetchNext_atQuota h hq, beginStall_quota_held hp]
  · rw [fetchNext_atQuota h hq, beginStall_quota hp]
  · rw [fetchNext_noCell h hq hfree, beginStall_pool hp]
  · have hlimit : segmentAhead s (ringOf s ring.toNat) = true → atHoldLimit s (ringOf s ring.toNat).part.toNat = false :=
      fun hs => decide_eq_false (Nat.not_le.mpr (hseg hs))
    rw [fetchNext_open h hq hfree hlimit hinj]
    refine ⟨fun ha => ?_, fun a ha => ?_⟩
    · rw [ha]
    · rw [ha]
      dsimp only
      refine ⟨fun hstop => ?_, fun hturn hroom hdir => ?_, fun hturn hopens hfull hdir => ?_⟩
      · rcases hstop with hturn | ⟨hdir, hfull⟩
        · simp [hturn]
        · simp [hdir, show directoryFull s = true from decide_eq_true hfull]
      · have hgo : (((ringOf s ring.toNat).dirStop && directoryFull s) || !fetchTurnOf s ring.toNat) = false := by
          rw [hturn, Bool.not_true, Bool.or_false, Bool.and_eq_false_imp]
          exact fun hd => decide_eq_false fun hf => hdir ⟨hd, hf⟩
        rw [hgo, readSlot_takes (fun ho => decide_eq_false (hroom ho))]
        rfl
      · have hgo : (((ringOf s ring.toNat).dirStop && directoryFull s) || !fetchTurnOf s ring.toNat) = false := by
          rw [hdir, hturn]
          rfl
        rw [hgo, readSlot_stops hopens (decide_eq_true hfull)]
        rfl
  · rw [fetchNext_atLimit h hq hfree hseg (decide_eq_true hlimit)]

/-- Settles O12: the two tests of `slotAddr` in their order. -/
theorem descriptorCopies : Obligations.DescriptorCopies := by
  unfold Obligations.DescriptorCopies
  intro s r q
  dsimp only
  unfold slotAddr
  simp only [good_iff]
  exact ⟨fun ha => if_pos ha, fun ha hb => (if_neg ha).trans (if_pos hb), fun ha hb => (if_neg ha).trans (if_neg hb)⟩

end Sys2Proof.Machine
end

section
/-! SUPPORT. The examination of a descriptor by its SEQ, and its acceptance (R5, R35, R71). -/

namespace Sys2Proof.Machine

open Sys2Proof.Claims

theorem examine_of_level {s : State} {n : Nat} {d : List Word} (h : levelCheck s (ringOf s n).part.toNat d ≠ 0) :
    examine s n d = .give (levelCheck s (ringOf s n).part.toNat d) := if_pos h

/-- The rows of R35 in their order, once the checks of R5 have passed. -/
theorem examine_rows {s : State} {n : Nat} {d : List Word} (h : levelCheck s (ringOf s n).part.toNat d = 0) :
    (seqOf d = 0 → examine s n d = .give 0x20) ∧
    (seqOf d ≠ 0 → seqOf d ≤ committedSeq s n → examine s n d = .skip) ∧
    (seqOf d ≠ 0 → ¬seqOf d ≤ committedSeq s n → seqOf d < (ringOf s n).nextSeq.toNat → examine s n d = .pend) ∧
    (seqOf d ≠ 0 → ¬seqOf d ≤ committedSeq s n → ¬seqOf d < (ringOf s n).nextSeq.toNat → (ringOf s n).nextSeq.toNat < seqOf d →
      examine s n d = .give 0x24) := by
  have hlevel := not_not.mpr h
  refine ⟨fun h0 => ?_, fun h0 h1 => ?_, fun h0 h1 h2 => ?_, fun h0 h1 h2 h3 => ?_⟩
  · exact (if_neg hlevel).trans (if_pos h0)
  · exact (if_neg hlevel).trans ((if_neg h0).trans (if_pos h1))
  · exact (if_neg hlevel).trans ((if_neg h0).trans ((if_neg h1).trans (if_pos h2)))
  · exact (if_neg hlevel).trans ((if_neg h0).trans ((if_neg h1).trans ((if_neg h2).trans (if_pos h3))))

/-- What is taken carries the next SEQ. -/
theorem seq_of_examine_take {s : State} {n : Nat} {d : List Word} (h : examine s n d = .take) :
    seqOf d = (ringOf s n).nextSeq.toNat ∧ committedSeq s n < seqOf d := by
  by_cases hlevel : levelCheck s (ringOf s n).part.toNat d = 0
  · obtain ⟨hzero, hskip, hpend, hgap⟩ := examine_rows hlevel
    by_cases h0 : seqOf d = 0
    · cases h.symm.trans (hzero h0)
    by_cases h1 : seqOf d ≤ committedSeq s n
    · cases h.symm.trans (hskip h0 h1)
    by_cases h2 : seqOf d < (ringOf s n).nextSeq.toNat
    · cases h.symm.trans (hpend h0 h1 h2)
    by_cases h3 : (ringOf s n).nextSeq.toNat < seqOf d
    · cases h.symm.trans (hgap h0 h1 h2 h3)
    omega
  · cases h.symm.trans (examine_of_level hlevel)

/-! ### Acceptance (R35, R71) -/

/-- The oldest descriptor that is being read is examined. -/
theorem acceptNext_eq {s : State} {n : Nat} {c : HCell} (h : (ringOf s n).cells.find? (fun c => c.st == .reading) = some c) :
    acceptNext s n = match examine s n c.desc with
      | .take => if rmarkOf c.desc && directoryFull s then stopAt s n c else acceptCell s n c
      | .skip => putRing s n (setCell (ringOf s n) (fun c => { c with st := .duplicate }))
      | .pend => putRing s n (setCell (ringOf s n) (fun c => { c with st := .pendingDup }))
      | .give st =>
        if st = 0x10 then
          putRing (entryFault s (ringOf s n).part.toNat c.desc).1 n
            (setCell (ringOf (entryFault s (ringOf s n).part.toNat c.desc).1 n) (fun x => { x with
              st := .returned 0x10 (BitVec.ofNat 24 (entryFault s (ringOf s n).part.toNat c.desc).2) }))
        else putRing s n (setCell (ringOf s n) (fun x => { x with st := .returned (BitVec.ofNat 8 st) 0 })) := by
  unfold acceptNext
  simp only [h] <;> rfl

/-- The hopper once a descriptor has been accepted: the next place in the order, and the segment that an RMARK opens. -/
def acceptedIn (s : State) (n : Nat) (c : HCell) : State :=
  { s with hop := { s.hop with
    acceptOrder := s.hop.acceptOrder + 1
    segments := s.hop.segments ++ (if rmarkOf c.desc then
      [{ ring := n, seq := BitVec.ofNat 48 (seqOf c.desc), part := (ringOf s n).part.toNat, held := [], complete := false,
         releasing := false, released := false }]
      else []) } }

theorem acceptCell_eq (s : State) (n : Nat) (c : HCell) :
    acceptCell s n c =
      let seq := BitVec.ofNat 48 (seqOf c.desc)
      let opened := if rmarkOf c.desc then some seq else (ringOf s n).openSeg
      putRing (acceptedIn s n c) n { ringOf s n with
        cells := modifyFirst (fun x => x.st == .reading)
          (fun x => { x with st := .accepted, order := s.hop.acceptOrder + 1, seg := opened }) (ringOf s n).cells
        nextSeq := seq + 1
        openSeg := if rendOf c.desc then none else opened } := by
  unfold acceptCell acceptedIn setCell
  cases rmarkOf c.desc with
  | true => rfl
  | false => simp [ringOf]

end Sys2Proof.Machine
end

section
/-! CERTIFICATE. The examination by SEQ and acceptance (R33 to R36, R71). -/

namespace Sys2Proof.Machine

open Sys2Proof.Claims

/-- Settles O13: `examine_rows`, and what a descriptor that is taken has passed. -/
theorem sequenceChecks : Obligations.SequenceChecks := by
  unfold Obligations.SequenceChecks
  intro s n d
  dsimp only
  refine ⟨examine_of_level, fun hlevel => ?_⟩
  obtain ⟨hzero, hskip, hpend, hgap⟩ := examine_rows hlevel
  exact ⟨hzero, fun h0 h1 => hskip (Nat.pos_iff_ne_zero.mp h0) h1,
    fun h0 h1 h2 => hpend (Nat.pos_iff_ne_zero.mp h0) (Nat.not_le.mpr h1) h2,
    fun h0 h1 h2 => hgap (Nat.pos_iff_ne_zero.mp h0) (Nat.not_le.mpr h1) (Nat.not_lt.mpr h2.le) h2, seq_of_examine_take⟩

/-- Settles O14: one case for each verdict of the examination. -/
theorem acceptance : Obligations.Acceptance := by
  unfold Obligations.Acceptance
  intro ring s c hon
  dsimp only
  intro hc
  have hexec : exec (.acceptance ring) s = .next (settle (acceptNext s ring.toNat) ring.toNat) := congrArg _ (if_pos hon)
  rw [hexec, acceptNext_eq hc]
  refine ⟨fun h hroom => ?_, fun h => ?_, fun h => ?_, fun st h hst => ?_⟩
  · have hgo : (rmarkOf c.desc && directoryFull s) = false :=
      Bool.and_eq_false_imp.mpr fun hmark => decide_eq_false (Nat.not_le.mpr (hroom hmark))
    simp only [h, hgo, Bool.false_eq_true, if_false, acceptCell_eq]
    rfl
  · rw [h]
    rfl
  · rw [h]
    rfl
  · simp only [h, hst, if_false]
    rfl

end Sys2Proof.Machine
end

section
/-! SUPPORT. Counting changes the dictionary store alone; with no injection armed a unit's feeding fires nothing. -/

namespace Sys2Proof.Machine

open Sys2Proof.Claims

/-- A state differs from another in the dictionary store alone. -/
def CountsOnly (s t : State) : Prop := t = { s with dict := t.dict }

namespace CountsOnly

theorem refl (s : State) : CountsOnly s s := rfl

/-- Whatever does not read the dictionary store is the same. -/
theorem proj {α : Type} {s t : State} (h : CountsOnly s t) (f : State → α) (hf : ∀ d, f { s with dict := d } = f s) : f t = f s :=
  (congrArg f (show t = { s with dict := t.dict } from h)).trans (hf t.dict)

theorem trans {s t u : State} (h : CountsOnly s t) (g : CountsOnly t u) : CountsOnly s u := by
  unfold CountsOnly at *
  rw [g, h]

theorem variant {s t : State} (h : CountsOnly s t) : t.variant = s.variant := h.proj State.variant fun _ => rfl
theorem hop {s t : State} (h : CountsOnly s t) : t.hop = s.hop := h.proj State.hop fun _ => rfl
theorem cores {s t : State} (h : CountsOnly s t) : t.cores = s.cores := h.proj State.cores fun _ => rfl
theorem mem {s t : State} (h : CountsOnly s t) : t.mem = s.mem := h.proj State.mem fun _ => rfl
theorem fab {s t : State} (h : CountsOnly s t) : t.fab = s.fab := h.proj State.fab fun _ => rfl
theorem host {s t : State} (h : CountsOnly s t) : t.host = s.host := h.proj State.host fun _ => rfl
theorem pwr {s t : State} (h : CountsOnly s t) : t.pwr = s.pwr := h.proj State.pwr fun _ => rfl
theorem hlth {s t : State} (h : CountsOnly s t) : t.hlth = s.hlth := h.proj State.hlth fun _ => rfl
theorem fresh {s t : State} (h : CountsOnly s t) : t.fresh = s.fresh := h.proj State.fresh fun _ => rfl

end CountsOnly

theorem dSet_countsOnly (s : State) (k v : Nat) : CountsOnly s (dSet s k v) := rfl

theorem dAdd_countsOnly (s : State) (k n : Nat) : CountsOnly s (dAdd s k n) := by
  unfold dAdd
  split
  · exact .refl s
  · exact dSet_countsOnly s k _

theorem count_countsOnly (s : State) (index sub n : Nat) : CountsOnly s (count s index sub n) :=
  (dAdd_countsOnly s _ n).trans (dAdd_countsOnly _ _ n)

theorem countP_countsOnly (s : State) (index part n : Nat) : CountsOnly s (countP s index part n) := count_countsOnly s _ _ _

theorem countT_countsOnly (s : State) (index n : Nat) : CountsOnly s (countT s index n) := dAdd_countsOnly s _ _

theorem agentCount_countsOnly (s : State) (agent index n : Nat) : CountsOnly s (agentCount s agent index n) := by
  unfold agentCount
  split
  · exact .refl s
  · split
    · exact count_countsOnly s _ _ _
    · split
      · exact count_countsOnly s _ _ _
      · exact countT_countsOnly s _ _

theorem foldl_countsOnly {α : Type} {f : State → α → State} (hf : ∀ s x, CountsOnly s (f s x)) (l : List α) (s : State) :
    CountsOnly s (l.foldl f s) :=
  l.foldlRecOn (motive := CountsOnly s) f (.refl s) (fun t g x _ => g.trans (hf t x))

/-- The cycles of a unit count in the dictionary and in the command's record. -/
theorem countCycles_hlth (s : State) (c : InFlight) (agent : Nat) (k : UnitCycles) : (countCycles s c agent k).hlth = s.hlth := by
  unfold countCycles
  dsimp only
  rw [setFlight_hlth]
  refine CountsOnly.hlth ?_
  refine CountsOnly.trans ?_ (foldl_countsOnly (fun t i => ?_) _ _)
  · have both (t : State) (index sub n : Nat) :
        CountsOnly t (dAdd (agentCount t agent index n) (dk (0x3300 + phaseOf c.desc) sub) n) :=
      (agentCount_countsOnly t agent index n).trans (dAdd_countsOnly _ _ n)
    exact (both s 0x3225 1 _).trans ((dAdd_countsOnly _ _ _).trans ((both _ 0x3224 3 _).trans ((both _ 0x3221 4 _).trans
      ((both _ 0x3222 5 _).trans ((both _ 0x3220 6 _).trans (both _ 0x3223 7 _))))))
  · refine CountsOnly.trans ?_ (dAdd_countsOnly _ _ _)
    split
    · exact .refl t
    · exact countP_countsOnly t _ _ _

theorem foldl_fireFed_none {s : State} (h : s.hlth.injections = []) (agent : Nat) (l : List (Nat × Nat × Nat)) :
    l.foldl (fireFed · agent) s = s := by
  induction l with
  | nil => rfl
  | cons x l ih => rw [List.foldl_cons, fireFed_none h, ih]

theorem stageInto_hlth (s : State) (agent : Nat) (d : List Word) : (stageInto s agent d).hlth = s.hlth := by
  unfold stageInto
  split
  · rfl
  · exact (stageWindows d).foldlRecOn (motive := fun t : State => t.hlth = s.hlth) _ rfl (fun t h x _ => h)

/-! ### The picked head (R62 to R64, R295) -/

theorem prioOf_le (d : List Word) : prioOf d ≤ 7 := by
  unfold prioOf bits
  omega

/-- A head is a barrier of R295: a CUT or a RESTORE. -/
def isBarrier (x : Nat × HCell) : Bool := opcOf x.2.desc == 0x800 || opcOf x.2.desc == 0x802

theorem isBarrier_iff (x : Nat × HCell) : isBarrier x = true ↔ opcOf x.2.desc = 0x800 ∨ opcOf x.2.desc = 0x802 := by
  simp [isBarrier]

/-- Open heads are the ready ones, the barriers alone while there are any. -/
theorem mem_openHeads {s : State} {p : Nat} {x : Nat × HCell} :
    x ∈ openHeads s p ↔ x ∈ readyHeads s p ∧ ((∃ z ∈ readyHeads s p, isBarrier z = true) → isBarrier x = true) := by
  have hopen : openHeads s p = if ((readyHeads s p).filter isBarrier).isEmpty then readyHeads s p
      else (readyHeads s p).filter isBarrier := rfl
  rw [hopen]
  split
  next h =>
    rw [List.isEmpty_iff, List.filter_eq_nil_iff] at h
    exact ⟨fun hx => ⟨hx, fun ⟨z, hz, hb⟩ => absurd hb (h z hz)⟩, And.left⟩
  next h =>
    rw [List.isEmpty_iff, List.filter_eq_nil_iff] at h
    push Not at h
    rw [List.mem_filter]
    exact and_congr_right fun _ => ⟨fun hb _ => hb, fun hb => hb h⟩

/-- The order of R63: a lower key is a higher PRIO, or the same PRIO and an earlier acceptance. -/
theorem headKey_le {x y : Nat × HCell} (hx : x.2.order < 2 ^ 64) (hy : y.2.order < 2 ^ 64) (h : headKey x ≤ headKey y) :
    prioOf y.2.desc ≤ prioOf x.2.desc ∧ (prioOf y.2.desc = prioOf x.2.desc → x.2.order ≤ y.2.order) := by
  have hpx := prioOf_le x.2.desc
  have hpy := prioOf_le y.2.desc
  unfold headKey at h
  omega

/-! ### Claims (R82, R136) -/

theorem claimUnit_of_mayNot {s : State} {c : InFlight} {agent : Nat} {fed : Bool}
    (h : ¬(c.counted = true ∧ c.discard = none ∧ mayClaim s c agent = true ∧ claimTurn s c = true ∧
      agentFree s c agent fed = true)) : claimUnit s c agent fed = s := by
  unfold claimUnit
  refine if_pos ?_
  rw [Bool.not_eq_true', ← Bool.not_eq_true]
  simpa [Bool.and_eq_true, Option.isNone_iff_eq_none, and_assoc] using h

/-- The counter of a command after its fetch-and-adds, each counted. -/
def countedClaim (s : State) (c : InFlight) (k skipped : Nat) : State :=
  setFlight (countT (countP s 0x3241 c.part skipped) 0x327A (k - c.counter)) c.ring (fun f => { f with counter := k })

theorem claimUnit_of_may {s : State} {c : InFlight} {agent : Nat} {fed : Bool}
    (h : c.counted = true ∧ c.discard = none ∧ mayClaim s c agent = true ∧ claimTurn s c = true ∧
      agentFree s c agent fed = true)
    {k skipped : Nat} {unit : Option Nat} (hloop : claimLoop c (c.slotCount - c.counter) c.counter 0 = (k, skipped, unit)) :
    claimUnit s c agent fed = match unit with
      | none => countedClaim s c k skipped
      | some u => takeUnit (countedClaim s c k skipped) c agent u fed := by
  obtain ⟨hcounted, hdiscard, hmay, hturn, hfree⟩ := h
  unfold claimUnit
  simp only [hcounted, hdiscard, hmay, hturn, hfree, hloop, Option.isNone_none, Bool.and_self, Bool.not_true, Bool.false_eq_true,
    if_false]
  cases unit <;> rfl

theorem countedClaim_hlth (s : State) (c : InFlight) (k skipped : Nat) : (countedClaim s c k skipped).hlth = s.hlth :=
  ((countP_countsOnly s 0x3241 c.part skipped).trans (countT_countsOnly _ 0x327A _)).hlth

/-- A unit of a command that walks no tables and is for no bolter is taken, and its windows are filled. -/
theorem takeUnit_plain {s : State} {c : InFlight} (agent u : Nat) (fed : Bool) (hinj : s.hlth.injections = [])
    (hwalks : unitWalks (workDesc c) = false) (hbolter : onBolter (opcOf (workDesc c)) = false) :
    takeUnit s c agent u fed =
      let s2 := setFlight (countP s 0x3240 c.part 1) c.ring (fun f => { f with claims := f.claims ++ [{ agent := agent, unit := u }] })
      stageInto { s2 with cores := { s2.cores with
        lastClaim := s2.cores.lastClaim.filter (fun x => underWay s2 x && !(fed && x.1 == agent)) ++ [(agent, c.ring, u)] } }
        agent (workDesc c) := by
  have hinj2 : (setFlight (countP s 0x3240 c.part 1) c.ring
      (fun f => { f with claims := f.claims ++ [{ agent := agent, unit := u }] })).hlth.injections = [] := by
    rw [setFlight_hlth, (countP_countsOnly s 0x3240 c.part 1).hlth, hinj]
  unfold takeUnit
  simp only [hwalks, hbolter, Bool.false_eq_true, if_false, foldl_fireFed_none hinj2, ite_self]
  rw [fireFed_none (by rw [stageInto_hlth]; exact hinj2), ite_self]

end Sys2Proof.Machine
end

section
/-! CERTIFICATE. The head that DISPATCH picks, claims and complete units (R62 to R64, R82, R87 to R89, R136 to R138, R295). -/

namespace Sys2Proof.Machine

open Sys2Proof.Claims

/-- Settles O16: the open heads by `mem_openHeads`, their order by `headKey_le`. -/
theorem headOrder : Obligations.HeadOrder := by
  unfold Obligations.HeadOrder
  intro s p x hpick
  obtain ⟨hx, hleast⟩ := leastBy_eq_some hpick
  obtain ⟨hopen, hslot⟩ := List.mem_filter.mp hx
  obtain ⟨hready, hbarrier⟩ := mem_openHeads.mp hopen
  simp only [isBarrier_iff] at hbarrier
  refine ⟨hready, by simpa [imp_iff_not_or] using hslot, hbarrier, fun y hy hyslot hybarrier hxo hyo => ?_⟩
  have hyopen : y ∈ openHeads s p := mem_openHeads.mpr ⟨hy, by simpa only [isBarrier_iff] using hybarrier⟩
  exact headKey_le hxo hyo (hleast y (List.mem_filter.mpr ⟨hyopen, by simpa [imp_iff_not_or] using hyslot⟩))

/-- Settles O17: `claimUnit` by whether the agent may claim, and `takeUnit_plain` for the unit it gets. -/
theorem unitClaim : Obligations.UnitClaim := by
  unfold Obligations.UnitClaim
  intro ring agent fed s c hflight hlive
  have hexec : exec (.claim ring ⟨agent, fed⟩) s = .next (claimUnit s c agent.toNat fed) := by
    show Host.Outcome.next _ = _
    rw [hflight]
    simp [hlive]
  dsimp only
  rw [hexec]
  refine ⟨fun hnot => congrArg _ (claimUnit_of_mayNot hnot), fun hmay k skipped unit hloop => ?_⟩
  rw [claimUnit_of_may hmay hloop]
  refine ⟨?_, ?_⟩
  · rintro rfl
    rfl
  · rintro u rfl hwalks hbolter hinj
    exact congrArg _ (takeUnit_plain agent.toNat u fed ((congrArg _ (countedClaim_hlth s c k skipped)).trans hinj) hwalks hbolter)

/-- Settles O19: with no injection armed neither the unit nor the agent's next one fires. -/
theorem unitComplete : Obligations.UnitComplete := by
  unfold Obligations.UnitComplete
  intro ring agent unit k s c hflight hlive hclaim hinj
  have hexec : exec (.unitComplete ring agent unit k) s = .next (completeUnit s c agent.toNat unit.toNat k) := by
    show Host.Outcome.next _ = _
    rw [hflight]
    simp [hlive]
  have hcounted : (countCycles s c agent.toNat k).hlth.injections = [] := by rw [countCycles_hlth, hinj]
  rw [hexec]
  unfold completeUnit
  simp only [List.contains_iff_mem.mpr hclaim, Bool.not_true, Bool.false_eq_true, if_false, fireFed_none hinj]
  split
  next x _ _ => rw [fireFed_none (by rw [setFlight_hlth, hcounted])]
  next => rfl

end Sys2Proof.Machine
end

section
/-! SUPPORT. The numbering of units along the work counter (R135, R138): a slot is the entry, block and place that its unit tells. -/

namespace Sys2Proof.Machine

/-! ### The Hilbert curve of a block (R138) -/

/-- Places along the curve lie in the block. -/
theorem hilbert_lt : ∀ h ∈ [1, 2, 4, 8], ∀ d < h * h, (hilbert h d).1 < h ∧ (hilbert h d).2 < h := by decide +kernel

/-- The curve meets no place twice. -/
theorem hilbert_injective : ∀ h ∈ [1, 2, 4, 8], ∀ a < h * h, ∀ b < h * h, hilbert h a = hilbert h b → a = b := by decide +kernel

/-! ### The parts of a slot -/

/-- Rows of blocks, columns of blocks, and slots of a block. -/
def blockRows (f : InFlight) : Nat := (f.gridRows + f.blockSide - 1) / f.blockSide
def blockCols (f : InFlight) : Nat := (f.gridCols + f.blockSide - 1) / f.blockSide
def blockSlots (f : InFlight) : Nat := f.blockSide * f.blockSide * f.gridInner

/-- The entry of a slot, its block in the entry, and the block's row and place in the row. -/
def slotEntry (f : InFlight) (a : Nat) : Nat := a / blockSlots f / (blockRows f * blockCols f)
def slotBlock (f : InFlight) (a : Nat) : Nat := a / blockSlots f % (blockRows f * blockCols f)
def slotBlockRow (f : InFlight) (a : Nat) : Nat := slotBlock f a / blockCols f
def slotBlockNth (f : InFlight) (a : Nat) : Nat := slotBlock f a % blockCols f

/-- The place of a slot along its block's curve, and its inner position. -/
def slotPlace (f : InFlight) (a : Nat) : Nat := a % blockSlots f / f.gridInner
def slotInner (f : InFlight) (a : Nat) : Nat := a % blockSlots f % f.gridInner

/-- The block's column: every second row of blocks is visited from its end. -/
def slotBlockCol (f : InFlight) (a : Nat) : Nat :=
  if slotBlockRow f a % 2 = 0 ∨ f.blockSide = 1 then slotBlockNth f a else blockCols f - 1 - slotBlockNth f a

/-- The row and the column of a slot in its block: in every second row of blocks the curve is mirrored. -/
def slotY (f : InFlight) (a : Nat) : Nat := (hilbert f.blockSide (slotPlace f a)).2
def slotX (f : InFlight) (a : Nat) : Nat :=
  if slotBlockRow f a % 2 = 1 then f.blockSide - 1 - (hilbert f.blockSide (slotPlace f a)).1
  else (hilbert f.blockSide (slotPlace f a)).1

def slotRow (f : InFlight) (a : Nat) : Nat := f.blockSide * slotBlockRow f a + slotY f a
def slotCol (f : InFlight) (a : Nat) : Nat := f.blockSide * slotBlockCol f a + slotX f a

theorem unitOfSlot_eq (f : InFlight) (a : Nat) :
    unitOfSlot f a = if f.gridRows ≤ slotRow f a ∨ f.gridCols ≤ slotCol f a then none
      else some (((slotEntry f a * f.gridRows + slotRow f a) * f.gridCols + slotCol f a) * f.gridInner + slotInner f a) := rfl

/-- A mixed-radix number with digits in range tells its digits. -/
theorem digits_eq {n x y d e : Nat} (hd : d < n) (he : e < n) (h : x * n + d = y * n + e) : x = y ∧ d = e := by
  have hx : (x * n + d) / n = x := by rw [Nat.mul_comm, Nat.mul_add_div (by omega), Nat.div_eq_of_lt hd, Nat.add_zero]
  have hy : (y * n + e) / n = y := by rw [Nat.mul_comm, Nat.mul_add_div (by omega), Nat.div_eq_of_lt he, Nat.add_zero]
  obtain rfl : x = y := by rw [← hx, ← hy, h]
  exact ⟨rfl, by omega⟩

section
variable {f : InFlight} {a b : Nat} (hside : f.blockSide ∈ [1, 2, 4, 8]) (hinner : 0 < f.gridInner) (hcols : 0 < f.gridCols)
include hside

theorem blockSide_pos : 0 < f.blockSide := by
  have hnot : f.blockSide ≠ 0 := fun h0 => by
    rw [h0] at hside
    exact absurd hside (by decide)
  omega

include hinner

theorem slotPlace_lt (a : Nat) : slotPlace f a < f.blockSide * f.blockSide := by
  have hpos := blockSide_pos hside
  exact Nat.div_lt_of_lt_mul (Nat.mul_comm (f.blockSide * f.blockSide) f.gridInner ▸ Nat.mod_lt _ (by unfold blockSlots; positivity))

theorem slotY_lt (a : Nat) : slotY f a < f.blockSide := (hilbert_lt _ hside _ (slotPlace_lt hside hinner a)).2

theorem slotX_lt (a : Nat) : slotX f a < f.blockSide := by
  have hx := (hilbert_lt _ hside _ (slotPlace_lt hside hinner a)).1
  unfold slotX
  split <;> omega

/-- Slots of one row of blocks at one place of their block stand at one place of its curve. -/
theorem slotPlace_eq (hrow : slotBlockRow f a = slotBlockRow f b) (hx : slotX f a = slotX f b) (hy : slotY f a = slotY f b) :
    slotPlace f a = slotPlace f b := by
  have hla := slotPlace_lt hside hinner a
  have hlb := slotPlace_lt hside hinner b
  have hxa := (hilbert_lt _ hside _ hla).1
  have hxb := (hilbert_lt _ hside _ hlb).1
  refine hilbert_injective _ hside _ hla _ hlb (Prod.ext ?_ hy)
  unfold slotX at hx
  rw [hrow] at hx
  split at hx <;> omega

omit hinner
include hcols

/-- Slots of one row and one column of blocks are of one block of the row. -/
theorem slotBlockNth_eq (hrow : slotBlockRow f a = slotBlockRow f b) (hcol : slotBlockCol f a = slotBlockCol f b) :
    slotBlockNth f a = slotBlockNth f b := by
  have hpos := blockSide_pos hside
  have hbc : 0 < blockCols f := Nat.div_pos (by omega) hpos
  have hna : slotBlockNth f a < blockCols f := Nat.mod_lt _ hbc
  have hnb : slotBlockNth f b < blockCols f := Nat.mod_lt _ hbc
  unfold slotBlockCol at hcol
  rw [hrow] at hcol
  split at hcol <;> omega

end

/-- The entry, the block, the place along its curve and the inner position tell the slot. -/
theorem slot_of_parts {f : InFlight} {a b : Nat} (he : slotEntry f a = slotEntry f b) (hrow : slotBlockRow f a = slotBlockRow f b)
    (hnth : slotBlockNth f a = slotBlockNth f b) (hplace : slotPlace f a = slotPlace f b) (hinner : slotInner f a = slotInner f b) :
    a = b := by
  have hblock : slotBlock f a = slotBlock f b := by
    rw [← Nat.div_add_mod (slotBlock f a) (blockCols f), ← Nat.div_add_mod (slotBlock f b) (blockCols f)]
    exact congrArg₂ (fun i j => blockCols f * i + j) hrow hnth
  have hin : a % blockSlots f = b % blockSlots f := by
    rw [← Nat.div_add_mod (a % blockSlots f) f.gridInner, ← Nat.div_add_mod (b % blockSlots f) f.gridInner]
    exact congrArg₂ (fun i j => f.gridInner * i + j) hplace hinner
  have hout : a / blockSlots f = b / blockSlots f := by
    rw [← Nat.div_add_mod (a / blockSlots f) (blockRows f * blockCols f),
      ← Nat.div_add_mod (b / blockSlots f) (blockRows f * blockCols f)]
    exact congrArg₂ (fun i j => blockRows f * blockCols f * i + j) he hblock
  rw [← Nat.div_add_mod a (blockSlots f), ← Nat.div_add_mod b (blockSlots f), hin, hout]

end Sys2Proof.Machine
end

section
/-! CERTIFICATE. The numbering of units (R135, R138). -/

namespace Sys2Proof.Machine

/-- Settles O18: a unit's number tells its inner position, column, row and entry (`digits_eq`); row and column tell the block and the
place in it, and these the slot (`slot_of_parts`). -/
theorem unitsAreDistinct : Obligations.UnitsAreDistinct := by
  unfold Obligations.UnitsAreDistinct
  intro f a b u hside hinner _ hcols ha hb
  rw [unitOfSlot_eq] at ha hb
  split at ha
  · cases ha
  split at hb
  · cases hb
  next hina hinb =>
    push Not at hina hinb
    obtain ⟨hpos, hin⟩ := digits_eq (Nat.mod_lt _ hinner) (Nat.mod_lt _ hinner) (Option.some.inj (ha.trans hb.symm))
    obtain ⟨hpos, hcol⟩ := digits_eq hina.2 hinb.2 hpos
    obtain ⟨hentry, hrow⟩ := digits_eq hina.1 hinb.1 hpos
    unfold slotRow slotCol at *
    rw [Nat.mul_comm f.blockSide, Nat.mul_comm f.blockSide] at hrow hcol
    obtain ⟨hi, hy⟩ := digits_eq (slotY_lt hside hinner a) (slotY_lt hside hinner b) hrow
    obtain ⟨hj, hx⟩ := digits_eq (slotX_lt hside hinner a) (slotX_lt hside hinner b) hcol
    exact slot_of_parts hentry hi (slotBlockNth_eq hside hcols hi hj) (slotPlace_eq hside hinner hi hx hy) hin

end Sys2Proof.Machine
end

section
/-! SUPPORT. A table's other keys after a write, the bounds of a bit field, and the ends of commands and holdoffs by cases. -/

namespace Sys2Proof.Machine

open Sys2Proof.Claims

/-! ### Reading other keys -/

/-- A write leaves every other key as it reads, canonical table or not. -/
theorem tableGet_tableSet_ne {α : Type} [DecidableEq α] (dflt : Nat → α) {k j : Nat} (v : α) (t : List (Nat × α)) (hj : j ≠ k) :
    tableGet dflt (tableSet dflt k v t) j = tableGet dflt t j := by
  induction t with
  | nil =>
    unfold tableSet
    split <;> simp [tableGet, hj.symm]
  | cons e t ih =>
    obtain ⟨k', v'⟩ := e
    unfold tableSet
    split
    · split <;> simp [tableGet, hj.symm]
    · split
      next heq => subst heq; split <;> simp [tableGet, hj.symm]
      next => simp [tableGet, ih]

theorem dGet_dSet_ne {j k : Nat} (s : State) (v : Nat) (hj : j ≠ k) : dGet (dSet s k v) j = dGet s j :=
  congrArg BitVec.toNat (tableGet_tableSet_ne (dictDefault s.variant) (BitVec.ofNat 64 v) s.dict hj)

theorem bits_lt (v hi lo : Nat) : bits v hi lo < 2 ^ (hi + 1 - lo) := Nat.mod_lt _ (by positivity)

theorem toNat_ofNat_of_lt {n v : Nat} (h : v < 2 ^ n) : (BitVec.ofNat n v).toNat = v := by
  rw [BitVec.toNat_ofNat, Nat.mod_eq_of_lt h]

theorem modifyFirst_none {α : Type} {p : α → Bool} {f : α → α} {l : List α} (h : l.find? p = none) : modifyFirst p f l = l := by
  induction l with
  | nil => rfl
  | cons x l ih =>
    rw [List.find?_eq_none] at h
    unfold modifyFirst
    rw [if_neg (h x List.mem_cons_self), ih (List.find?_eq_none.mpr fun y hy => h y (List.mem_cons_of_mem _ hy))]

/-! ### Commit (R43) -/

theorem applyActs_eq_foldl (ring : Nat) (s : State) (l : List CommitAct) : applyActs ring s l = l.foldl (applyAct ring) s := by
  induction l generalizing s with
  | nil => rfl
  | cons a l ih => exact ih (applyAct ring s a)

/-- The header's tally add, as an act of the commit. -/
theorem applyActs_signalAct (ring : Nat) (s : State) (d : List Word) :
    applyActs ring s (signalAct d) =
      if bit (dw d 0) 63 then tallyAdd s (bits (dw d 0) 59 48) (bits (dw d 3) 31 0) else s := by
  have hadd : (BitVec.ofNat 64 (bits (dw d 3) 31 0)).toNat = bits (dw d 3) 31 0 :=
    toNat_ofNat_of_lt ((bits_lt _ 31 0).trans (by decide))
  unfold signalAct
  split
  · exact congrArg (tallyAdd s _) hadd
  · rfl

theorem committedSeq_putLedger (s : State) (n seq : Nat) (hseq : seq < 2 ^ 48) (hwf : tableWf ledgerDefault s.hop.ledger = true) :
    committedSeq (putLedger s n seq) n = seq := by
  unfold committedSeq
  rw [putLedger_hop]
  dsimp only
  rw [tableGet_tableSet_same _ _ _ _ hwf, toNat_ofNat_of_lt hseq]

/-! ### The end of a discarded command (R47) -/

theorem exec_discardComplete_waits {s : State} {d : Discarded} (hw : waitsTxn s d.ring.toNat = true) :
    exec (.discardComplete d) s = .next s := by
  show Host.Outcome.next _ = _
  rw [hw, Bool.not_true, Bool.and_false]
  rfl

theorem exec_discardComplete_ended {s : State} {d : Discarded} (hlive : live s = true) (hw : waitsTxn s d.ring.toNat = false) :
    exec (.discardComplete d) s = .next (discardRing s d.ring.toNat d.abandoned) := by
  show Host.Outcome.next _ = _
  rw [hw, hlive]
  rfl

theorem discardRing_eq {s : State} {ring : Nat} {abandoned : List (BitVec 8 × UnitCycles)} {c : InFlight} {st : Byte}
    (hflight : flightOf (abandoned.foldl (countAbandoned ring) s) ring = some c) (hst : c.discard = some st) :
    discardRing s ring abandoned = endDiscard (abandoned.foldl (countAbandoned ring) s) c st.toNat := by
  unfold discardRing
  dsimp only
  rw [hflight]
  dsimp only
  rw [hst]

/-! ### Holdoffs (R345, R346) -/

/-- The holdoff of a vector is over. -/
def endHoldoff (s : State) (v : Nat) : State :=
  { s with host := { s.host with holdoff := s.host.holdoff.filter (fun h => h.1 != v) } }

theorem holdoffEnd_early {s : State} {v : Nat} {b : Bool} {sent : Nat}
    (hfind : s.host.holdoff.find? (fun h => h.1 == v) = some (v, b, sent)) (h : ¬sent + dGet s (dk 0x1100 6) ≤ now s) :
    holdoffEnd s v = s := by
  unfold holdoffEnd
  rw [hfind]
  exact if_pos (Nat.not_le.mp h)

theorem holdoffEnd_due {s : State} {v : Nat} {b : Bool} {sent : Nat}
    (hfind : s.host.holdoff.find? (fun h => h.1 == v) = some (v, b, sent)) (h : sent + dGet s (dk 0x1100 6) ≤ now s) :
    holdoffEnd s v = if b then sendVector (endHoldoff s v) v else endHoldoff s v := by
  unfold holdoffEnd
  rw [hfind]
  exact if_neg (Nat.not_lt.mpr h)

/-- A vector with no holdoff sends at once, and begins one where there is a holdoff time. -/
theorem sendVector_up {s : State} {v : Nat} (hup : falyndiUp s = true) (hnone : s.host.holdoff.any (fun h => h.1 == v) = false) :
    sendVector s v = { s with host := { s.host with
      msix := s.host.msix ++ [v]
      link := { s.host.link with queue := s.host.link.queue ++ slotsOf 2 false 0 (falyndiPacket 4 0 0 v []) }
      holdoff := s.host.holdoff ++ (if dGet s (dk 0x1100 6) = 0 then [] else [(v, false, now s)]) } } := by
  have hmsix : sendMsix s v = falyndiOut { s with host := { s.host with msix := s.host.msix ++ [v] } } 2 (falyndiPacket 4 0 0 v []) :=
    if_pos hup
  unfold sendVector
  simp only [hup, hnone, Bool.not_true, Bool.false_eq_true, if_false, hmsix]
  split
  · rw [List.append_nil]
    rfl
  · rfl

theorem sendVector_down {s : State} {v : Nat} (hup : falyndiUp s = false) :
    sendVector s v = { s with host := { s.host with
      held := s.host.held.filter (fun h => h.1 != msixPlace v) ++ [(msixPlace v, [])] } } := by
  unfold sendVector
  rw [hup]
  exact if_neg (c := falyndiUp s = true) (by rw [hup]; decide)

end Sys2Proof.Machine
end

section
/-! CERTIFICATE. How commands in flight end, and holdoffs (R43, R47, R70, R345, R346). -/

namespace Sys2Proof.Machine

open Sys2Proof.Claims

/-- Settles O20: the branches of `endFlight`. -/
theorem commit : Obligations.Commit := by
  unfold Obligations.Commit
  intro ring s c hflight hlive
  have hexec : exec (.commit ring) s = .next (endFlight s c) := by
    show Host.Outcome.next _ = _
    rw [hflight]
    simp [hlive]
  rw [hexec]
  unfold endFlight
  refine ⟨fun hs hw => ?_, fun hs hm => ?_, fun hs hm hst => ?_, fun hs hm hst hw => ?_, fun hs hm hst hw => ?_⟩
  · simp [hs, hw]
  · simp [hs, hm]
  · simp [hs, hm, hst]
  · simp [hs, hm, Nat.not_le.mpr hst, hw]
  · simp [hs, hm, Nat.not_le.mpr hst, hw]

/-- Settles O21: the acts of the sealed record are those of the command, then the header's tally add. -/
theorem commitPointOrder : Obligations.CommitPointOrder := by
  unfold Obligations.CommitPointOrder
  intro s c hwf
  dsimp only
  refine ⟨?_, ?_, ?_⟩
  · have hacts (t : State) : applyActs c.ring t (c.acts ++ signalAct c.desc) =
        applyActs c.ring (applyActs c.ring t c.acts) (signalAct c.desc) := by
      simp only [applyActs_eq_foldl, List.foldl_append]
    simp only [commitPoint, applySealed, sealOf, hacts, applyActs_signalAct, applyActs_eq_foldl c.ring _ c.acts]
    rfl
  · exact committedSeq_putLedger _ _ _ (bits_lt _ 47 0) hwf
  · unfold sealedOn
    rw [putLedger_hop]
    simp

/-- Settles O22: `discardRing_eq`, with no abandoned unit and with some. -/
theorem discardComplete : Obligations.DiscardComplete := by
  unfold Obligations.DiscardComplete
  intro ring abandoned s c st hflight hst hlive
  refine ⟨exec_discardComplete_waits (d := ⟨ring, abandoned⟩), fun hw => ⟨?_, fun c1 hflight1 hst1 => ?_⟩⟩
  · rw [exec_discardComplete_ended (d := ⟨ring, []⟩) hlive hw, discardRing_eq (abandoned := []) hflight hst]
    rfl
  · rw [exec_discardComplete_ended (d := ⟨ring, abandoned⟩) hlive hw, discardRing_eq hflight1 hst1]
    rfl

/-- Settles O23: by whether the holdoff is over, whether a message was withheld, and whether Falyndi is up. -/
theorem holdoffExpiry : Obligations.HoldoffExpiry := by
  unfold Obligations.HoldoffExpiry
  intro vector s b sent hlive hfind
  have hexec : exec (.notifyHoldoffExpiry vector) s = .next (holdoffEnd s vector.toNat) := congrArg _ (if_pos hlive)
  have hgone : (endHoldoff s vector.toNat).host.holdoff.any (fun h => h.1 == vector.toNat) = false := by
    simp [endHoldoff]
  rw [hexec]
  refine ⟨fun h => ?_, ?_, ?_⟩
  · rw [holdoffEnd_early hfind h]
  · rintro h rfl
    rw [holdoffEnd_due hfind h]
    rfl
  · rintro h rfl
    rw [holdoffEnd_due hfind h]
    exact ⟨fun hup => congrArg _ (sendVector_up (s := endHoldoff s vector.toNat) hup hgone),
      fun hup => congrArg _ (sendVector_down (s := endHoldoff s vector.toNat) hup)⟩

end Sys2Proof.Machine
end

section
/-! SUPPORT. What no access and no detected error changes: the injections that are armed, and the tallies. An access can meet a lost
line, which raises an error; an error discards commands and writes health records, but arms, fires and adds nothing. -/

namespace Sys2Proof.Machine

open Sys2Proof.Claims

/-- The armed injections and the tallies. -/
def standing (s : State) : List Injection × List (Nat × Word) := (s.hlth.injections, s.hop.tallies)

theorem CountsOnly.standing {s t : State} (h : CountsOnly s t) : standing t = standing s := h.proj _ fun _ => rfl

theorem standing_of_parts {s t : State} (hlth : t.hlth = s.hlth) (hop : t.hop = s.hop) : standing t = standing s := by
  simp only [standing, hlth, hop]

theorem standing_mem (s : State) (m : MemSys) : standing { s with mem := m } = standing s := rfl
theorem standing_host (s : State) (x : HostSide) : standing { s with host := x } = standing s := rfl
theorem standing_hostPwr (s : State) (x : HostSide) (y : Power) : standing { s with host := x, pwr := y } = standing s := rfl
theorem standing_log (s : State) (l : List HealthRec) : standing { s with hlth := { s.hlth with log := l } } = standing s := rfl
theorem standing_lasting (s : State) (l : List HealthRec) :
    standing { s with hlth := { s.hlth with lasting := l } } = standing s := rfl
theorem standing_tests (s : State) (l : List Test) : standing { s with hlth := { s.hlth with tests := l } } = standing s := rfl

theorem foldl_standing {α : Type} {f : State → α → State} (hf : ∀ s x, standing (f s x) = standing s) (l : List α) (s : State) :
    standing (l.foldl f s) = standing s :=
  l.foldlRecOn (motive := fun t => standing t = standing s) f rfl (fun t g x _ => (hf t x).trans g)

@[simp] theorem dSet_standing (s : State) (k v : Nat) : standing (dSet s k v) = standing s := rfl
@[simp] theorem pSet_standing (s : State) (p sub v : Nat) : standing (pSet s p sub v) = standing s := rfl
@[simp] theorem dAdd_standing (s : State) (k n : Nat) : standing (dAdd s k n) = standing s := (dAdd_countsOnly s k n).standing
@[simp] theorem count_standing (s : State) (i j n : Nat) : standing (count s i j n) = standing s := (count_countsOnly s i j n).standing
@[simp] theorem countP_standing (s : State) (i p n : Nat) : standing (countP s i p n) = standing s :=
  (countP_countsOnly s i p n).standing
@[simp] theorem countT_standing (s : State) (i n : Nat) : standing (countT s i n) = standing s := (countT_countsOnly s i n).standing

/-! #### The millpond, memory and weirs -/

@[simp] theorem touchLine_standing (o : Option Nat) (w : Bool) (s : State) (l : Nat) : standing (touchLine o w s l) = standing s := by
  unfold touchLine; dsimp only
  split <;> cases o <;> simp only [countP_standing, countT_standing] <;> rfl

@[simp] theorem touchPart_standing (o : Option Nat) (m : Nat) (s : State) (l : Nat) :
    standing (touchPart o m s l) = standing s := by
  unfold touchPart; dsimp only
  split
  · exact touchLine_standing _ _ _ _
  · cases o
    · exact (countT_standing _ _ _).trans (standing_mem _ _)
    · exact (countP_standing _ _ _ _).trans (standing_mem _ _)

@[simp] theorem touchRange_standing (o : Option Nat) (w : Bool) (s : State) (a n : Nat) :
    standing (touchRange o w s a n) = standing s := by
  unfold touchRange; split
  · refine foldl_standing (fun s l => ?_) _ _
    repeat' split
    · exact touchLine_standing _ _ _ _
    · exact touchPart_standing _ _ _ _
    · exact touchLine_standing _ _ _ _
  · rfl

@[simp] theorem touchAll_standing (part : Nat) (w : Bool) (l : List (Nat × Nat)) :
    ∀ s, standing (touchAll part w s l) = standing s := by
  induction l with
  | nil => exact fun _ => rfl
  | cons x t ih => intro s; unfold touchAll; rw [ih, touchRange_standing]

@[simp] theorem xlatTouch_standing (agent part : Nat) (s : State) (l : List (Nat × Nat)) :
    standing (xlatTouch s agent part l) = standing s := by
  refine foldl_standing (fun s m => ?_) _ _
  unfold xlatPage; split
  · rfl
  · exact countP_standing _ _ _ _

@[simp] theorem undefine_standing (l : List (Nat × Nat)) : ∀ s, standing (undefine s l) = standing s := by
  induction l with
  | nil => exact fun _ => rfl
  | cons x t ih => intro s; unfold undefine; rw [ih]; rfl

@[simp] theorem addCounts_standing (l : List (Nat × Nat)) : ∀ s, standing (addCounts s l) = standing s := by
  induction l with
  | nil => exact fun _ => rfl
  | cons x t ih => intro s; unfold addCounts; rw [ih, dAdd_standing]

@[simp] theorem meter_standing (c : InFlight) (l : List (Nat × Nat)) (s : State) : standing (meter c l s) = standing s := by
  refine foldl_standing (fun s b => ?_) _ _
  dsimp only; split <;> rfl

@[simp] theorem zeroPages_standing (l : List Mapping) : ∀ s, standing (zeroPages s l) = standing s := by
  induction l with
  | nil => exact fun _ => rfl
  | cons x t ih => intro s; unfold zeroPages; rw [ih]; split <;> rfl

/-! #### The ports -/

@[simp] theorem setLink_standing (s : State) (i : Nat) (l : Link) : standing (setLink s i l) = standing s := by
  unfold setLink; split <;> rfl

@[simp] theorem linkCount_standing (s : State) (i k f n : Nat) : standing (linkCount s i k f n) = standing s := by
  unfold linkCount; repeat' split
  · rfl
  · exact countT_standing _ _ _
  · exact count_standing _ _ _ _

@[simp] theorem pumpRun_standing (i : Nat) : ∀ (n : Nat) (s : State), standing (pumpRun i n s) = standing s := by
  intro n
  induction n with
  | zero => exact fun _ => rfl
  | succ n ih =>
    intro s; unfold pumpRun; dsimp only
    repeat' split
    all_goals simp only [ih, count_standing, linkCount_standing, setLink_standing]

@[simp] theorem pump_standing (s : State) (i : Nat) : standing (pump s i) = standing s := by
  unfold pump expireQueue; dsimp only
  rw [pumpRun_standing]; split
  · rfl
  · rw [countT_standing, setLink_standing]

@[simp] theorem launch_standing (s : State) (port vc r : Nat) (p : Packet) : standing (launch s port vc r p) = standing s := by
  unfold launch; dsimp only; split
  · exact countT_standing _ _ _
  · unfold putOut; dsimp only; rw [pump_standing]; exact setLink_standing _ _ _

@[simp] theorem sendPacket_standing (s : State) (p : Packet) : standing (sendPacket s p) = standing s := by
  unfold sendPacket; split
  · exact launch_standing _ _ _ _ _
  · rfl
  · dsimp only
    split
    all_goals split
    · exact countT_standing _ _ _
    · rfl
    · exact countT_standing s 0x3291 1
    · rfl

@[simp] theorem issueTo_standing (node : Nat) : ∀ (n : Nat) (s : State), standing (issueTo node n s) = standing s := by
  intro n
  induction n with
  | zero => exact fun _ => rfl
  | succ n ih =>
    intro s; unfold issueTo
    split
    · rfl
    · split
      · dsimp only; rw [ih, sendPacket_standing]; rfl
      · rfl

@[simp] theorem ask_standing (s : State) (ring : Option Nat) (a : Ask) : standing (ask s ring a) = standing s := by
  unfold ask issueAll; dsimp only; split
  · rfl
  · rw [issueTo_standing]; rfl

@[simp] theorem asks_standing (ring : Option Nat) (l : List Ask) : ∀ s, standing (asks ring s l) = standing s := by
  induction l with
  | nil => exact fun _ => rfl
  | cons x t ih => intro s; unfold asks; rw [ih, ask_standing]

/-! #### Falyndi, events and health records -/

theorem foldl_falyndiOut_standing (vc : Nat) (pkt : Nat × Nat → Packet) (l : List (Nat × Nat)) (s : State) :
    standing (l.foldl (fun s x => falyndiOut s vc (pkt x)) s) = standing s :=
  foldl_standing (fun s _ => standing_host s _) l s

@[simp] theorem hostFetch_standing (s : State) (a n : Nat) : standing (hostFetch s a n) = standing s :=
  foldl_falyndiOut_standing 3 _ _ s

@[simp] theorem hostWrite_standing (s : State) (a : Nat) (bs : List Byte) : standing (hostWrite s a bs) = standing s := by
  unfold hostWrite; split
  · exact foldl_falyndiOut_standing 2 _ _ (store s a bs)
  · rfl

@[simp] theorem sendMsix_standing (s : State) (v : Nat) : standing (sendMsix s v) = standing s := by
  unfold sendMsix; split <;> rfl

@[simp] theorem busSend_standing (s : State) (d : Datagram) : standing (busSend s d) = standing s := by
  unfold busSend; split <;> rfl

@[simp] theorem raiseEvent_standing (s : State) (sev fid : Nat) (part : Option Nat) (i j d : Nat) :
    standing (raiseEvent s sev fid part i j d) = standing s := by
  unfold raiseEvent
  dsimp only
  split
  · rw [sendMsix_standing, standing_host, busSend_standing, standing_hostPwr, dSet_standing]
  · rw [busSend_standing, standing_hostPwr, dSet_standing]

@[simp] theorem recordEvent_standing (s : State) (r : HealthRec) (b : Bool) : standing (recordEvent s r b) = standing s := by
  unfold recordEvent; dsimp only
  rw [raiseEvent_standing]
  split
  · exact standing_lasting _ _
  · rfl

@[simp] theorem writeHealth_standing (s : State) (r : HealthRec) (b : Bool) : standing (writeHealth s r b).1 = standing s := by
  unfold writeHealth noteRec; dsimp only
  rw [recordEvent_standing, standing_log, countT_standing, dSet_standing]

@[simp] theorem updateRec_standing (s : State) (seq : Nat) (f : HealthRec → HealthRec) :
    standing (updateRec s seq f) = standing s := by
  unfold updateRec; split
  · rfl
  · dsimp only
    rw [recordEvent_standing]
    split
    all_goals simp only [countT_standing, standing_log]

/-! #### Detected errors -/

@[simp] theorem countError_standing (s : State) (e : ErrorReport) : standing (countError s e) = standing s := by
  unfold countError; dsimp only
  repeat' split
  all_goals simp only [dAdd_standing, count_standing, countP_standing, countT_standing]

@[simp] theorem loseLine_standing (s : State) (a : Nat) : standing (loseLine s a).1 = standing s := by
  unfold loseLine; dsimp only
  repeat' split
  all_goals rfl

@[simp] theorem swapLane_standing (s : State) (link lane : Nat) : standing (swapLane s link lane).1 = standing s := by
  unfold swapLane; dsimp only
  generalize (if link = 6 then s.host.link else s.fab.links.getD link (Link.fresh kraurCredits)) = l
  split
  all_goals split
  · rfl
  · rw [countT_standing, dSet_standing, standing_host]
  · rfl
  · rw [count_standing, dSet_standing]
    rfl

@[simp] theorem withholdUnit_standing (s : State) (e : ErrorReport) : standing (withholdUnit s e) = standing s := by
  unfold withholdUnit; dsimp only
  split
  · rfl
  · split
    · split <;> rfl
    · split <;> rfl
    · split <;> rfl
    · exact swapLane_standing _ _ _
    · exact swapLane_standing _ _ _
    · rfl

@[simp] theorem discardParts_standing (s : State) (l : List Nat) (st fid : Nat) : standing (discardParts s l st fid) = standing s := rfl

@[simp] theorem detectError_standing (s : State) (e : ErrorReport) (persist : Option (BitVec 2)) :
    standing (detectError s e persist).1 = standing s := by
  unfold detectError; dsimp only
  have dropped : standing (if e.source = 8 ∧ e.cleanLost then dropLine (countError s e) e.address.toNat else countError s e) =
      standing s := by
    split
    · exact (standing_mem _ _).trans (countError_standing s e)
    · exact countError_standing s e
  generalize (if e.source = 8 ∧ e.cleanLost then dropLine (countError s e) e.address.toNat else countError s e) = s1 at dropped ⊢
  have lost : standing (if e.source = 7 then loseLine s1 e.address.toNat else (s1, false)).1 = standing s := by
    split
    · rw [loseLine_standing, dropped]
    · exact dropped
  generalize (if e.source = 7 then loseLine s1 e.address.toNat else (s1, false)) = l at lost ⊢
  generalize (if l.2 then (allParts, true) else errorDomain l.1 e) = dom
  split
  · rw [discardParts_standing, standing_log, countT_standing, lost]
  · rw [discardParts_standing]
    split
    · rw [standing_tests, writeHealth_standing, withholdUnit_standing, lost]
    · rw [writeHealth_standing, withholdUnit_standing, lost]

@[simp] theorem storeM_standing (s : State) (a : Nat) (bs : List Byte) : standing (storeM s a bs) = standing s := by
  unfold storeM; split
  · exact detectError_standing _ _ _
  · rfl

@[simp] theorem gWrite_standing (s : State) (a : Nat) (bs : List Byte) : standing (gWrite s a bs) = standing s := by
  unfold gWrite; split
  · exact hostWrite_standing _ _ _
  · rw [touchRange_standing, storeM_standing]

@[simp] theorem farWrite_standing (s : State) (a : Nat) (bs : List Byte) : standing (farWrite s a bs) = standing s := by
  unfold farWrite; split
  · exact asks_standing _ _ _
  · exact gWrite_standing _ _ _

@[simp] theorem popPage_standing (s : State) (p c : Nat) : standing (popPage s p c) = standing s := by
  unfold popPage; split
  · rfl
  · exact storeM_standing _ _ _

@[simp] theorem planStores_standing (s : State) (w : Who) (c : InFlight) (p : Plan) (t : Touched) :
    standing (planStores s w c p t) = standing s := by
  unfold planStores; dsimp only
  rw [asks_standing, foldl_standing (fun s (r : PageRes) => popPage_standing s r.part r.cls), addCounts_standing, meter_standing,
    undefine_standing, touchAll_standing, touchAll_standing, foldl_standing (fun s a => xlatTouch_standing a c.part s p.ranges),
    zeroPages_standing]
  rfl

end Sys2Proof.Machine
end

section
/-! SUPPORT. How a command with a plan runs: the plan is carried out when nothing stands in its way, and with no injection armed the
state after it is the one of `ranPlan`. -/

namespace Sys2Proof.Machine

open Sys2Proof.Claims

/-! ### The command in flight -/

theorem modifyFirst_modifyFirst {α : Type} {p : α → Bool} {f g : α → α} (hg : ∀ x, p (g x) = p x) (l : List α) :
    modifyFirst p f (modifyFirst p g l) = modifyFirst p (fun x => f (g x)) l := by
  induction l with
  | nil => rfl
  | cons x l ih =>
    unfold modifyFirst
    cases hx : p x
    · simp only [Bool.false_eq_true, if_false, modifyFirst, hx, ih]
    · simp only [if_true, modifyFirst, hg, hx]

theorem setFlight_setFlight (s : State) (ring : Nat) (f g : InFlight → InFlight) (hg : ∀ c, (g c).ring = c.ring) :
    setFlight (setFlight s ring g) ring f = setFlight s ring (fun c => f (g c)) := by
  unfold setFlight
  dsimp only
  rw [modifyFirst_modifyFirst (fun c => by rw [hg])]

theorem setFlight_standing (s : State) (ring : Nat) (f : InFlight → InFlight) : standing (setFlight s ring f) = standing s := rfl

theorem finishRun_standing (s : State) (ring status : Nat) (acts : List CommitAct) (wrote : List (Nat × Nat))
    (results : List (Nat × List Byte)) (reserve : List PageRes) :
    standing (finishRun s ring status acts wrote results reserve) = standing s := rfl

theorem ring_of_flightOf {s : State} {ring : Nat} {c : InFlight} (h : flightOf s ring = some c) : c.ring = ring := by
  have := List.find?_some h
  simpa using this

theorem readyFlight_of_ready {s : State} {ring opc : Nat} {c : InFlight} (h : Ready s ring opc c) :
    readyFlight s ring opc = some c := by
  obtain ⟨hflight, hopc, hrun, hread, hdisc⟩ := h
  unfold readyFlight
  rw [hflight]
  simp [hopc, hrun, hread, hdisc]

/-- A ready command whose turn has come in its engine's queue runs its plan. -/
theorem runOp_of_ready {s : State} {ring : RingId} {opc : Nat} {c : InFlight} (plan : State → InFlight → Plan)
    (h : Ready s ring.toNat opc c) (hq : queueAhead s c.desc c.order = false) :
    runOp s ring opc plan = runPlan s ring.toNat c (viewed plan s c) := by
  unfold runOp
  rw [readyFlight_of_ready h]
  exact if_neg (by simp [hq])

/-! ### A plan that nothing hinders -/

theorem runPlan_eq_carryOut {s : State} {ring : Nat} {c : InFlight} {p : Plan} {t : Touched}
    (htouch : touched (withMaps s p.maps) { part := c.part, ring := c.ring } p = .ok t) (hwait : p.wait = false)
    (htxn : waitsTxn s ring = false) (hrow : ∀ x ∈ t.reads ++ t.writes ++ p.far, rowHeld s x.1 x.2 = false)
    (hhost : ∀ x ∈ t.reads ++ t.writes ++ p.far, hostRange x.1 = true → falyndiUp s = true)
    (hnode : ∀ x ∈ t.reads ++ t.writes ++ p.far, remoteAddr s x.1 = true → nodeStatus s (gaNode x.1) = 0)
    (hlost : lostRead s (planReads t) = none) (hfetch : toFetch s c t = [])
    (hweir : weirsClosed s c (t.reads ++ t.writes ++ p.far) = []) :
    runPlan s ring c p = carryOut s ring c p t := by
  have held : (t.reads ++ t.writes ++ p.far).any (fun x => rowHeld s x.1 x.2) = false := by
    rw [List.any_eq_false]
    intro x hx
    simp [hrow x hx]
  have down : ((t.reads ++ t.writes ++ p.far).any (fun x => hostRange x.1) && !falyndiUp s) = false := by
    by_cases hup : falyndiUp s = true
    · simp [hup]
    · rw [Bool.and_eq_false_iff, List.any_eq_false]
      exact Or.inl fun x hx hr => hup (hhost x hx hr)
  have absent : (t.reads ++ t.writes ++ p.far).find? (fun x => remoteAddr s x.1 && nodeStatus s (gaNode x.1) != 0) = none := by
    rw [List.find?_eq_none]
    intro x hx
    by_cases hr : remoteAddr s x.1 = true
    · simp [hnode x hx hr]
    · simp [hr]
  unfold runPlan
  rw [htouch]
  simp only [hwait, htxn, held, down, absent, hlost, hweir, hfetch, Bool.or_self, Bool.false_eq_true, if_false, List.isEmpty_nil,
    Bool.not_true]

/-- With no injection armed, what follows the accesses of a plan is `ranPlan`'s state. -/
theorem carryOut_eq_ranPlan {s : State} (ring : Nat) (c : InFlight) (p : Plan) (t : Touched) (h : s.hlth.injections = []) :
    carryOut s ring c p t = ranPlan s ring c p t := by
  have none_fires (q : Injection → Bool) : s.hlth.injections.any q = false := by rw [h]; rfl
  unfold carryOut ranPlan
  dsimp only
  rw [none_fires, if_neg Bool.false_ne_true, fireInjection_none h, fireInjection_none]
  refine (congrArg Prod.fst (?_ : standing _ = standing s)).trans h
  rw [setFlight_standing, finishRun_standing, planStores_standing, foldl_standing (fun s (x : Nat × Nat) => hostFetch_standing s x.1 x.2)]

theorem runPlan_of_clear {s : State} {ring : Nat} {c : InFlight} {p : Plan} {t : Touched} (h : Clear s ring c p t) :
    runPlan s ring c p = ranPlan s ring c p t := by
  obtain ⟨htouch, hwait, htxn, hrow, hhost, hnode, hlost, hfetch, hweir, hinj⟩ := h
  rw [runPlan_eq_carryOut htouch hwait htxn hrow hhost hnode hlost hfetch hweir, carryOut_eq_ranPlan ring c p t hinj]

/-- A row whose instruction runs its plan by `runOp` carries it out. -/
theorem rowRuns_of_runOp {i : RingId → Instr} {opc : Nat} {plan : State → InFlight → Plan}
    (hexec : ∀ ring s, exec (i ring) s = .next (runOp s ring opc plan)) : RowRuns i opc plan := by
  intro ring s c t hready hq hclear
  rw [hexec, runOp_of_ready plan hready hq, runPlan_of_clear hclear]

/-! ### A plan that touches nothing -/

theorem weirDue_nil (s : State) (c : InFlight) (b : Nat) : weirDue s c b [] = 0 := by
  unfold weirDue weirBytes
  split <;> simp

theorem weirLets_nil (s : State) (c : InFlight) (b : Nat) : weirLets s c b [] = 0 := by
  simp [weirLets, weirDue_nil]

theorem weirsClosed_nil (s : State) (c : InFlight) : weirsClosed s c [] = [] := by
  simp [weirsClosed, weirDue_nil]

theorem meter_nil (s : State) (c : InFlight) : meter c [] s = s := by
  simp [meter, weirLets_nil, List.foldl_fixed]

/-- The plan that only leaves acts to its commit. -/
def actsPlan (acts : List CommitAct) : Plan := { Plan.ok with acts := acts }

/-- What such a plan touches. -/
def Touched.none : Touched := { own := [], reads := [], writes := [], undefs := [], moves := [] }

theorem planStores_acts (s : State) (w : Who) (c : InFlight) (acts : List CommitAct) :
    planStores s w c (actsPlan acts) Touched.none = s := by
  have looked : (xlatAgents c).foldl (fun s a => xlatTouch s a c.part (actsPlan acts).ranges) s = s :=
    List.foldl_fixed (xlatAgents c)
  have unmapped : withMaps s (actsPlan acts).maps = s := by
    unfold withMaps
    rw [show (actsPlan acts).maps = [] from rfl, List.append_nil]
  unfold planStores
  dsimp only
  rw [unmapped, show zeroPages s (actsPlan acts).maps = s from rfl, looked]
  have untouched : undefine (touchAll c.part true (touchAll c.part false s Touched.none.reads) Touched.none.writes)
      Touched.none.writes = s := rfl
  rw [untouched, show Touched.none.reads ++ Touched.none.writes ++ (actsPlan acts).far = [] from rfl, meter_nil]
  rfl

theorem fireInjection_never (s : State) (part : Nat) : fireInjection s part (fun _ => false) = s := by
  unfold fireInjection takeInjection
  rw [List.find?_eq_none.mpr (by simp)]

theorem carryOut_acts (s : State) (ring : Nat) (c : InFlight) (acts : List CommitAct) :
    carryOut s ring c (actsPlan acts) Touched.none =
      chargeUnits (setFlight (finishRun s ring 0 acts [] [] []) ring (fun f =>
        { f with unitCounts := [], weirWait := [], weirPaid := [], hostWait := none })) ring := by
  have unmet : s.hlth.injections.any (fun i => (planReads Touched.none).any (fun x => armedAt s 6 x.1 x.2 i)) = false := by
    rw [List.any_eq_false]
    exact fun _ _ => Bool.false_ne_true
  unfold carryOut
  rw [unmet, if_neg Bool.false_ne_true]
  have unread : fireInjection s c.part (fun i => (planReads Touched.none).any (fun x => armedAt s 5 x.1 x.2 i)) = s :=
    fireInjection_never s c.part
  have unarmed (u : State) :
      fireInjection u c.part (fun i => (Touched.none.reads ++ Touched.none.writes).any (fun x => armedWay u x.1 x.2 i)) = u :=
    fireInjection_never u c.part
  simp only [unread, unarmed]
  rw [show Touched.none.reads.filter (fun x => hostRange x.1) = [] from rfl, List.foldl_nil, planStores_acts]
  rfl

theorem modifyFirst_find? {α : Type} {p : α → Bool} {f : α → α} {l : List α} {x : α} (h : l.find? p = some x) (hx : f x = x) :
    modifyFirst p f l = l := by
  induction l with
  | nil => rfl
  | cons y l ih =>
    unfold modifyFirst
    cases hy : p y
    · rw [List.find?_cons, hy] at h
      rw [if_neg Bool.false_ne_true, ih h]
    · rw [List.find?_cons, hy] at h
      rw [if_pos rfl, Option.some.inj h, hx]

theorem chargeUnits_of_empty {s : State} {ring : Nat} (h : ∀ c, flightOf s ring = some c → c.unitCounts = []) :
    chargeUnits s ring = s := by
  unfold chargeUnits
  split
  · rfl
  · next c hc =>
    simp only [h c hc, List.foldl_nil]
    unfold setFlight
    rw [modifyFirst_find? hc (by rw [h c hc, List.filter_nil, ← h c hc])]

/-- A plan that only leaves acts to its commit ends the command with them. -/
theorem runPlan_acts {s : State} {ring : Nat} {c : InFlight} (acts : List CommitAct) (htxn : waitsTxn s ring = false) :
    runPlan s ring c (actsPlan acts) = done s ring acts := by
  have never {q : Nat × Nat → Prop} : ∀ x ∈ Touched.none.reads ++ Touched.none.writes ++ [], q x :=
    fun _ hx => absurd hx List.not_mem_nil
  rw [runPlan_eq_carryOut (t := Touched.none) (p := actsPlan acts) rfl rfl htxn never never never rfl rfl
    (weirsClosed_nil s c), carryOut_acts, finishRun, setFlight_setFlight, chargeUnits_of_empty]
  · unfold done
    simp only [List.append_nil, BitVec.ofNat_eq_ofNat]
  · intro x hx
    rw [flightOf_setFlight] at hx
    · obtain ⟨f, -, rfl⟩ := Option.map_eq_some_iff.mp hx
      rfl
    · exact fun _ => rfl
  · exact fun _ => rfl

/-! ### Control opcodes (R62) -/

theorem queueAhead_of_control {s : State} {c : InFlight} (h : opcOf c.desc < 0x500) (order : Nat) :
    queueAhead s c.desc order = false := by
  have unqueued : queueOf c.desc = 0 := by
    unfold queueOf
    dsimp only
    rw [if_neg (by omega), if_neg (by omega)]
  simp [queueAhead, unqueued]

/-- A control row ends at once with what its plan leaves to its commit. -/
theorem runOp_acts {s : State} {ring : RingId} {opc : Nat} {c : InFlight} {plan : State → InFlight → Plan}
    {acts : List CommitAct} (h : Ready s ring.toNat opc c) (hopc : opc < 0x500) (htxn : waitsTxn s ring.toNat = false)
    (hplan : viewed plan s c = actsPlan acts) : runOp s ring opc plan = done s ring.toNat acts := by
  rw [runOp_of_ready plan h (queueAhead_of_control (h.2.1 ▸ hopc) _), hplan, runPlan_acts acts htxn]

theorem coordsValid_planView (s : State) (c : InFlight) : coordsValid (planView s c) = coordsValid s := by
  have other (k : Nat) (hk : k ≠ dk 0x2300 1) : dGet (planView s c) k = dGet s k := dGet_dSet_ne s _ hk
  unfold coordsValid
  simp only [List.all_cons, List.all_nil, other _ (show dk 0x2700 1 ≠ dk 0x2300 1 by decide),
    other _ (show dk 0x2700 2 ≠ dk 0x2300 1 by decide), other _ (show dk 0x2700 3 ≠ dk 0x2300 1 by decide),
    other _ (show dk 0x2700 (1 + 3) ≠ dk 0x2300 1 by decide), other _ (show dk 0x2700 (2 + 3) ≠ dk 0x2300 1 by decide),
    other _ (show dk 0x2700 (3 + 3) ≠ dk 0x2300 1 by decide)]

theorem nodeId_planView (s : State) (c : InFlight) : nodeId (planView s c) = nodeId s := by
  have other (k : Nat) (hk : k ≠ dk 0x2300 1) : dGet (planView s c) k = dGet s k := dGet_dSet_ne s _ hk
  unfold nodeId
  rw [coordsValid_planView, other _ (by decide), other _ (by decide), other _ (by decide), other _ (by decide), other _ (by decide)]

end Sys2Proof.Machine
end

section
/-! CERTIFICATE. The control rows and the parts of a replay. -/

namespace Sys2Proof.Machine

open Sys2Proof.Claims

theorem signalPlan_viewed (s : State) (c : InFlight) :
    viewed signalPlan s c = actsPlan (((List.range 4).filter (fun i => bit (dw c.desc (4 + 2 * i)) 63)).map (fun i =>
        let a := dw c.desc (4 + 2 * i)
        let add := BitVec.ofNat 64 (dw c.desc (5 + 2 * i))
        if bits a 47 32 = 0xFFFF ∨ bits a 47 32 = nodeId s then .tallyAdd (bits a 11 0) add
        else .remoteAdd (bits a 47 32) (bits a 11 0) add)) := by
  unfold viewed signalPlan signals
  rw [List.map_map]
  refine congrArg actsPlan ?_
  refine List.map_congr_left fun i _ => ?_
  simp only [Function.comp_apply, Signal.isLocal, nodeId_planView, Bool.or_eq_true, beq_iff_eq]

theorem putTally_tallies (s : State) (t v : Nat) :
    (putTally s t v).hop.tallies = tableSet tallyDefault t (BitVec.ofNat 64 v) s.hop.tallies := by
  unfold putTally
  dsimp only
  split
  · rfl
  · exact congrArg Prod.snd (farWrite_standing _ _ _)

theorem tallyOf_putTally_same {s : State} (t : Nat) {v : Nat} (hv : v < 2 ^ 64) (h : tableWf tallyDefault s.hop.tallies = true) :
    tallyOf (putTally s t v) t = v := by
  unfold tallyOf
  rw [putTally_tallies, tableGet_tableSet_same _ _ _ _ h, toNat_ofNat_of_lt hv]

theorem tallyOf_putTally_ne (s : State) {t u : Nat} (v : Nat) (hu : u ≠ t) : tallyOf (putTally s t v) u = tallyOf s u := by
  unfold tallyOf
  rw [putTally_tallies, tableGet_tableSet_ne _ _ _ hu]

/-- A saturated add counts in the dictionary alone. -/
theorem tallyAdd_of_overflow {s : State} {t add : Nat} (h : 2 ^ 64 ≤ tallyOf s t + add) :
    ∃ u, CountsOnly s u ∧ (∀ p, tallyOwner s t = some p → u = countP s 0x3210 p 1) ∧
      tallyAdd s t add = putTally u t (2 ^ 64 - 1) := by
  unfold tallyAdd
  dsimp only
  rw [if_neg (by omega)]
  refine ⟨_, ?_, fun p hp => ?_, rfl⟩
  · split
    · exact countP_countsOnly s _ _ _
    · exact countT_countsOnly s _ _
  · rw [hp]

/-- Settles O25: what a write of the mirror can raise adds to no tally. -/
theorem tallyAdd_saturates : Obligations.TallyAdd := by
  unfold Obligations.TallyAdd
  intro s t add hwf
  rcases Nat.lt_or_ge (tallyOf s t + add) (2 ^ 64) with h | h
  · have fits : tallyAdd s t add = putTally s t (tallyOf s t + add) := if_pos h
    refine ⟨?_, fun u hu => ?_, fun _ => fits, fun p hover => absurd h (by omega)⟩
    · rw [fits, tallyOf_putTally_same t h hwf, Nat.min_eq_left (by omega)]
    · rw [fits, tallyOf_putTally_ne s _ hu]
  · obtain ⟨u, only, counted, full⟩ := tallyAdd_of_overflow h
    refine ⟨?_, fun v hv => ?_, fun hfits => absurd h (by omega), fun p _ hp => by rw [full, counted p hp]⟩
    · rw [full, tallyOf_putTally_same t (by norm_num) (by rw [only.hop]; exact hwf), Nat.min_eq_right (by omega)]
    · rw [full, tallyOf_putTally_ne u _ hv]
      exact congrArg (fun h => (tableGet tallyDefault h.tallies v).toNat) only.hop

/-- Settles O24: the plans of these rows touch nothing, so a ready one runs at once. -/
theorem controlRows : Obligations.ControlRows := by
  unfold Obligations.ControlRows
  intro ring s c htxn
  refine ⟨fun h => ?_, fun h => ?_, fun h => ?_, fun h => ?_⟩
  · exact congrArg _ (runOp_acts h (by decide) htxn rfl)
  · exact congrArg _ (runOp_acts h (by decide) htxn rfl)
  · exact congrArg _ (runOp_acts h (by decide) htxn rfl)
  · exact congrArg _ (runOp_acts h (by decide) htxn (signalPlan_viewed s c))

/-- Settles O26: RELEASE is such a row; its act is a case split on whether the segment is complete. -/
theorem releaseRow_of_commit : Obligations.ReleaseRow := by
  unfold Obligations.ReleaseRow
  refine ⟨fun ring s c h htxn => congrArg _ (runOp_acts h (by decide) htxn rfl), fun n ring seq s g hg => ?_⟩
  have act : applyAct n s (.releaseSeg ring seq) = if g.complete then dropSeg s ring seq.toNat
      else setSeg s ring seq.toNat (fun g => { g with held := [], released := true }) := by
    show releaseSegment s ring seq.toNat = _
    unfold releaseSegment
    rw [hg]
  exact ⟨fun hc => by rw [act, if_pos hc], fun hc => by rw [act, hc, if_neg Bool.false_ne_true]⟩

/-- Settles O28: the record after a part's end, whether the replay goes on or stops. -/
theorem partEnd : Obligations.PartEnd := by
  unfold Obligations.PartEnd
  intro s ring st f hf hst
  have ended := flightOf_setFlight s ring (fun f =>
    let rest := if 0x10 ≤ st then [] else f.parts.drop 1
    let status := if 0x10 ≤ st ∨ (f.status = 0 ∧ st ≠ 1) then BitVec.ofNat 8 st else f.status
    { f with status := status, parts := rest, partOn := false, counted := false, claims := [], unitsDone := [], fetched := [],
             weirPaid := [], executed := rest.isEmpty }) fun _ => rfl
  refine ⟨_, ended.trans (congrArg _ hf), rfl, rfl, rfl, rfl, rfl, ?_⟩
  have whole : (BitVec.ofNat 8 st).toNat = st := toNat_ofNat_of_lt hst
  by_cases failed : 0x10 ≤ st
  · simp [failed, whole]
  · by_cases first : f.status = 0 ∧ st ≠ 1
    · simp [failed, first, whole]
    · have kept : f.status ≠ 0 ∨ st = 1 := by tauto
      simp only [failed, first, kept, false_or, if_false, if_true]

end Sys2Proof.Machine
end

section
/-! CERTIFICATE. REWIND: one move of it by what stands with its running part, and the start of a part by the first obstacle. -/

namespace Sys2Proof.Machine

open Sys2Proof.Claims

/-- The part of a REWIND as a command of its own. -/
def asPart (s : State) (c : InFlight) (d : List Word) : InFlight :=
  { c with desc := d, latched := opLatch (ownView s c) { part := c.part, ring := c.ring } d }

section
variable {s : State} {c : InFlight} {d : List Word}

theorem startPart_waits (htxn : waitsTxn s c.ring = true) : startPart s c d = s := if_pos htxn

theorem startPart_fetches (htxn : waitsTxn s c.ring = false)
    (hmore : headFetch (ownView s c) { part := c.part, ring := c.ring } d c.fetched ≠ []) :
    startPart s c d = fetchOperands s c.ring c (headFetch (ownView s c) { part := c.part, ring := c.ring } d c.fetched) := by
  unfold startPart
  dsimp only
  rw [htxn, if_neg Bool.false_ne_true, if_pos (by simpa using hmore)]

/-- A part whose own operands are here starts by the first of the remaining obstacles. -/
theorem startPart_here (htxn : waitsTxn s c.ring = false)
    (hmore : headFetch (ownView s c) { part := c.part, ring := c.ring } d c.fetched = []) :
    startPart s c d = match shapeFault (ownView s c) { part := c.part, ring := c.ring } d with
      | some e => (detectError s e none).1
      | none =>
        if opShape (ownView s c) { part := c.part, ring := c.ring } d ≠ 0 then
          partEnds s c.ring (opShape (ownView s c) { part := c.part, ring := c.ring } d)
        else if queueAhead s d s.hop.dispatchOrder then s
        else if unitWalks d && !c.counted then
          setFlight s c.ring (fun f => { placeCounter s { part := c.part, ring := c.ring } d f with roots := [] })
        else
          match flightOf (runPlan s c.ring (asPart s c d) (partPlan (planView (ownView s c) (asPart s c d)) (asPart s c d))) c.ring with
          | some x => if x.executed then
              partRan (runPlan s c.ring (asPart s c d) (partPlan (planView (ownView s c) (asPart s c d)) (asPart s c d)))
                { part := c.part, ring := c.ring } d c x
            else runPlan s c.ring (asPart s c d) (partPlan (planView (ownView s c) (asPart s c d)) (asPart s c d))
          | none => runPlan s c.ring (asPart s c d) (partPlan (planView (ownView s c) (asPart s c d)) (asPart s c d)) := by
  unfold startPart
  dsimp only
  rw [htxn, if_neg Bool.false_ne_true, hmore, List.isEmpty_nil, if_neg (by decide)]
  rfl

/-- A part that nothing hinders runs. -/
theorem startPart_runs {t : Touched} {x : InFlight} (htxn : waitsTxn s c.ring = false)
    (hmore : headFetch (ownView s c) { part := c.part, ring := c.ring } d c.fetched = [])
    (hfault : shapeFault (ownView s c) { part := c.part, ring := c.ring } d = none)
    (hshape : opShape (ownView s c) { part := c.part, ring := c.ring } d = 0) (hq : queueAhead s d s.hop.dispatchOrder = false)
    (hwalks : unitWalks d = false ∨ c.counted = true)
    (hclear : Clear s c.ring (asPart s c d) (partPlan (planView (ownView s c) (asPart s c d)) (asPart s c d)) t)
    (hx : flightOf (ranPlan s c.ring (asPart s c d) (partPlan (planView (ownView s c) (asPart s c d)) (asPart s c d)) t) c.ring = some x)
    (hran : x.executed = true) :
    startPart s c d = partRan (ranPlan s c.ring (asPart s c d) (partPlan (planView (ownView s c) (asPart s c d)) (asPart s c d)) t)
      { part := c.part, ring := c.ring } d c x := by
  have claimed : (unitWalks d && !c.counted) = false := by rcases hwalks with h | h <;> simp [h]
  rw [startPart_here htxn hmore, hfault]
  dsimp only
  rw [if_neg (not_not_intro hshape), hq, if_neg Bool.false_ne_true, claimed, if_neg Bool.false_ne_true, runPlan_of_clear hclear, hx]
  exact if_pos hran

end

/-- Settles O27: one move of the replay by its running part; a part to start, by its first obstacle. -/
theorem rewindRow : Obligations.RewindRow := by
  unfold Obligations.RewindRow
  intro ring s c d rest hready
  have run : exec (.rewind ring) s = .next (rewindStep s c) := by
    show Host.Outcome.next (match readyFlight s ring.toNat 0x004 with
      | some c => rewindStep s c
      | none => s) = _
    rw [readyFlight_of_ready hready]
  refine ⟨fun hp => ?_, fun hp hon hunits htxn => ?_, fun hp hon hwait => ?_, fun hp hoff hst => ?_, fun hp hoff hst => ?_⟩
  all_goals rw [run]; unfold rewindStep; rw [hp]
  · dsimp only
    rw [if_pos hon, hunits, htxn]
    rfl
  · dsimp only
    rw [if_pos hon, if_neg]
    rcases hwait with h | h <;> simp [h]
  · dsimp only
    rw [hoff, if_neg Bool.false_ne_true, if_pos hst]
  · dsimp only
    rw [hoff, if_neg Bool.false_ne_true, if_neg (by omega)]
    refine ⟨fun htxn => ?_, fun htxn hmore => ?_, fun htxn hmore e he => ?_, fun htxn hmore hnone => ⟨fun hne => ?_, fun h0 hq => ?_,
      fun h0 hq hw hc => ?_, fun h0 hq hw t x hclear hx hran => ?_⟩⟩
    · rw [startPart_waits htxn]
    · rw [startPart_fetches htxn hmore]
    · rw [startPart_here htxn hmore, he]
    · rw [startPart_here htxn hmore, hnone]
      exact congrArg _ (if_pos hne)
    · rw [startPart_here htxn hmore, hnone]
      dsimp only
      rw [if_neg (not_not_intro h0), if_pos hq]
    · rw [startPart_here htxn hmore, hnone]
      dsimp only
      rw [if_neg (not_not_intro h0), hq, if_neg Bool.false_ne_true, if_pos (by simp [hw, hc])]
    · exact congrArg _ (startPart_runs htxn hmore hnone h0 hq hw hclear hx hran)

end Sys2Proof.Machine
end

section
/-! SUPPORT. Where the bytes of a written or copied row lie: in that row of the tensor's buffer. -/

namespace Sys2Proof.Machine

open Sys2Proof.Claims

/-- Every range of a list of writes lies in one row of a tensor's buffer at `b`. -/
def RowsIn (t : Tens) (b r : Nat) (ws : List (Nat × List Byte)) : Prop := ∀ x ∈ ws, InRow t b r x.1 x.2.length

theorem RowsIn.nil (t : Tens) (b r : Nat) : RowsIn t b r [] := fun _ hx => absurd hx List.not_mem_nil

/-- Bytes of a row's elements, by their place from the row's first byte. -/
theorem inRow_elems {t : Tens} {b r off n : Nat} (h : off + n ≤ t.fmt.bytes t.cols) : InRow t b r (b + t.rowOffset r + off) n :=
  Or.inl ⟨by omega, by omega⟩

/-- Scale bytes of a row, by their block. -/
theorem inRow_scales {t : Tens} {b r g n : Nat} (hblock : t.fmt.isBlock = true) (h : g + n ≤ t.blocks) :
    InRow t b r (b + t.scalePlane + r * t.blocks + g) n := by
  have next : (r + 1) * t.blocks = r * t.blocks + t.blocks := by ring
  exact Or.inr ⟨hblock, by omega, by omega⟩

/-! ### Lengths -/

theorem Fmt.bytes_block {f : Fmt} (h : f.isBlock = true) (n : Nat) : f.bytes n = if f = .bs4 then (n + 1) / 2 else n := by
  cases f <;> simp [Fmt.isBlock] at h <;> simp [Fmt.bytes, Fmt.bits] <;> omega

theorem Fmt.bytes_plain {f : Fmt} (h : f.isBlock = false) (n : Nat) : f.bytes n = n * (f.bits / 8) := by
  cases f <;> simp [Fmt.isBlock] at h <;> simp [Fmt.bytes, Fmt.bits] <;> omega

theorem packNibbles_length (old : Nat) : ∀ l : List Nat, (packNibbles old l).length = (l.length + 1) / 2
  | [] => rfl
  | [_] => by simp [packNibbles]
  | _ :: _ :: t => by
    show (packNibbles old t).length + 1 = (t.length + 1 + 1 + 1) / 2
    rw [packNibbles_length old t]
    omega

theorem flatMap_leBytes_length {α : Type} (n : Nat) (f : α → Nat) (l : List α) :
    (l.flatMap (fun x => leBytes n (f x))).length = l.length * n := by
  rw [List.length_flatMap]
  simp only [leBytes_length, List.map_const', List.sum_replicate, smul_eq_mul]

theorem vaBytes_length (s : State) (part ring va n : Nat) : (vaBytes s part ring va n).length = n := by
  simp [vaBytes]

theorem encodeBlock_length (f : Fmt) (vs : List FVal) (draws : Option (List Nat)) : (encodeBlock f vs draws).2.1.length = vs.length := by
  unfold encodeBlock
  dsimp only
  split
  · exact List.length_map _
  · split
    · exact List.length_map _
    · rw [List.length_map, List.length_range]

/-- A chunk is not empty, at most as long as its size, and ends inside the list. -/
theorem chunksOf_zipIdx_mem {α : Type} {k : Nat} (hk : 0 < k) : ∀ {fuel : Nat} {l : List α} {x : List α × Nat},
    x ∈ (chunksOf k fuel l).zipIdx → 0 < x.1.length ∧ x.1.length ≤ k ∧ k * x.2 + x.1.length ≤ l.length
  | 0, _, _, hx => absurd hx (by simp [chunksOf])
  | fuel + 1, l, (c, i), hx => by
    unfold chunksOf at hx
    split at hx
    · simp at hx
    next hne =>
      have some_left : 0 < l.length := List.length_pos_iff.mpr (by simpa using hne)
      rw [List.zipIdx_cons, List.mem_cons] at hx
      rcases hx with h | h
      · obtain ⟨rfl, rfl⟩ := Prod.mk.inj h
        simp only [List.length_take]
        omega
      · rw [Nat.zero_add, List.mem_zipIdx_iff_le_and_getElem?_sub] at h
        obtain ⟨hi, hget⟩ := h
        have hmem : (c, i - 1) ∈ (chunksOf k fuel (l.drop k)).zipIdx := List.mem_zipIdx_iff_getElem?.mpr hget
        have ih := chunksOf_zipIdx_mem hk hmem
        obtain ⟨j, rfl⟩ : ∃ j, i = j + 1 := ⟨i - 1, by omega⟩
        simp only [List.length_drop, Nat.add_sub_cancel] at ih hi ⊢
        rw [Nat.mul_succ]
        omega

/-- A chunk of any size lies inside the list. -/
theorem length_le_of_mem_chunksOf {α : Type} {k : Nat} : ∀ {fuel : Nat} {l c : List α}, c ∈ chunksOf k fuel l → c.length ≤ k
  | 0, _, _, hc => absurd hc List.not_mem_nil
  | fuel + 1, l, c, hc => by
    unfold chunksOf at hc
    split at hc
    · exact absurd hc List.not_mem_nil
    · rcases List.mem_cons.mp hc with rfl | h
      · exact (List.length_take_le _ _)
      · exact length_le_of_mem_chunksOf h

/-! ### Rows -/

theorem writeBlock_rowsIn (s : State) (w : Who) {t : Tens} (b row g : Nat) (vs : List FVal) (rng : Option Rng)
    (hblock : t.fmt.isBlock = true) (hpos : 0 < vs.length) (hlen : vs.length ≤ 32) (hfit : 32 * g + vs.length ≤ t.cols) :
    RowsIn t b row (writeBlock s w t b row g vs rng).writes := by
  have blocks : t.blocks = (t.cols + 31) / 32 := rfl
  have elems := Fmt.bytes_block hblock t.cols
  intro x hx
  unfold writeBlock at hx
  simp only [List.mem_cons, List.not_mem_nil, or_false] at hx
  rcases hx with rfl | rfl
  · split
    next h4 =>
      refine inRow_elems ?_
      rw [elems, if_pos h4, packNibbles_length, List.length_append, encodeBlock_length, List.length_replicate]
      omega
    next h8 =>
      refine inRow_elems ?_
      rw [elems, if_neg h8, List.length_map, List.length_append, encodeBlock_length, List.length_replicate]
      omega
  · exact inRow_scales hblock (by simp only [List.length_singleton]; omega)

/-- A written row of at most COLS values lies in its row. -/
theorem writeRow_rowsIn (s : State) (w : Who) {t : Tens} (b row : Nat) {vs : List FVal} (sat : Bool) (rng : Option Rng)
    (hfit : vs.length ≤ t.cols) : RowsIn t b row (writeRow s w t b row 0 vs sat rng).writes := by
  unfold writeRow
  split
  next hblock =>
    intro x hx
    simp only [List.mem_flatMap, List.mem_map] at hx
    obtain ⟨o, ⟨chunk, hchunk, rfl⟩, hx⟩ := hx
    obtain ⟨hpos, hlen, hend⟩ := chunksOf_zipIdx_mem (by norm_num) hchunk
    refine writeBlock_rowsIn s w b row _ chunk.1 rng hblock hpos hlen ?_ x hx
    rw [Nat.zero_div, Nat.zero_add]
    omega
  next hplain =>
    dsimp only
    split
    · exact .nil t b row
    · intro x hx
      rw [List.mem_singleton] at hx
      subst hx
      refine inRow_elems ?_
      have hp : t.fmt.isBlock = false := by simpa using hplain
      rw [flatMap_leBytes_length, List.length_map, List.length_zipIdx, Fmt.bytes_plain hp, Fmt.bytes_plain hp, Nat.zero_mul,
        Nat.zero_add]
      exact Nat.mul_le_mul_right _ hfit

theorem writePats_rowsIn {t : Tens} (b row : Nat) {pats : List Nat} (hfit : pats.length ≤ t.cols) :
    RowsIn t b row (writePats t b row 0 pats) := by
  unfold writePats
  split
  · exact .nil t b row
  · intro x hx
    rw [List.mem_singleton] at hx
    subst hx
    have first : t.fmt.bytes 0 = 0 := by cases t.fmt <;> rfl
    have whole : pats.length * (t.fmt.bits / 8) ≤ t.fmt.bytes t.cols := by
      refine (Nat.mul_le_mul_right _ hfit).trans ?_
      unfold Fmt.bytes
      have := Nat.div_add_mod t.fmt.bits 8
      rw [Nat.le_div_iff_mul_le (by norm_num), Nat.mul_assoc, Nat.mul_comm _ 8]
      exact (Nat.mul_le_mul_left _ (by omega)).trans (Nat.le_add_right _ _)
    refine inRow_elems ?_
    rw [first, Nat.zero_add, flatMap_leBytes_length]
    exact whole

/-- The copy of a row's first columns to a row of the same tensor's other buffer lies in that row. -/
theorem copyRow_rowsIn (s : State) (w : Who) {t : Tens} (bs rs bd rd : Nat) {n : Nat} (hfit : n ≤ t.cols) :
    RowsIn t bd rd (copyRow s w t bs rs t bd rd n) := by
  unfold copyRow
  split
  · exact .nil t bd rd
  next hn =>
    have blocks : t.blocks = (t.cols + 31) / 32 := rfl
    have full (hblock : t.fmt.isBlock = true) :
        n + (min (alignUp n 32) t.cols - n) ≤ t.cols := by omega
    intro x hx
    rcases List.mem_cons.mp hx with rfl | hx
    · by_cases hblock : t.fmt.isBlock = true
      · have elems := Fmt.bytes_block hblock t.cols
        have hfull := full hblock
        rw [show bd + t.rowOffset rd = bd + t.rowOffset rd + 0 from rfl]
        refine inRow_elems ?_
        rw [elems]
        split
        next h4 =>
          rw [packNibbles_length, List.length_append, List.length_map, List.length_range, List.length_replicate]
          omega
        next h8 =>
          have wide : t.fmt.bits / 8 = 1 := by
            revert hblock h8
            cases t.fmt <;> simp [Fmt.isBlock, Fmt.bits]
          rw [flatMap_leBytes_length, List.length_append, List.length_map, List.length_range, List.length_replicate, wide]
          omega
      · have hp : t.fmt.isBlock = false := by simpa using hblock
        have h4 : t.fmt ≠ .bs4 := fun h => by simp [h, Fmt.isBlock] at hp
        rw [show bd + t.rowOffset rd = bd + t.rowOffset rd + 0 from rfl]
        refine inRow_elems ?_
        rw [if_neg h4, flatMap_leBytes_length, List.length_append, List.length_map, List.length_range, List.length_replicate,
          if_neg hblock, Fmt.bytes_plain hp, Nat.sub_self, Nat.add_zero, Nat.zero_add]
        exact Nat.mul_le_mul_right _ hfit
    · split at hx
      next hblock =>
        rw [List.mem_singleton] at hx
        subst hx
        rw [show bd + t.scalePlane + rd * t.blocks = bd + t.scalePlane + rd * t.blocks + 0 from rfl]
        refine inRow_scales hblock ?_
        rw [vaBytes_length]
        omega
      · exact absurd hx List.not_mem_nil

end Sys2Proof.Machine
end

section
/-! SUPPORT. The rows that GEMM, convolution, quern, vector and optimizer commands write. -/

namespace Sys2Proof.Machine

open Sys2Proof.Claims

/-! ### Lengths of computed rows -/

theorem productRow_length (depth width span K N : Nat) (a : Nat → FVal) (b : Nat → Nat → FVal) (init : Nat → Option F32) :
    (productRow depth width span K N a b init).1.length = N := by
  simp [productRow]

/-- Tiles of `a` columns cover at most the columns that there are. -/
theorem sum_tiles_le (a total : Nat) : ∀ n : Nat, ((List.range n).map (fun i => min a (total - i * a))).sum ≤ min (n * a) total
  | 0 => by simp
  | n + 1 => by
    have ih := sum_tiles_le a total n
    have next : (n + 1) * a = n * a + a := Nat.succ_mul n a
    rw [List.range_succ, List.map_append, List.sum_append, List.map_singleton, List.sum_singleton]
    omega

theorem sum_map_const {α : Type} (l : List α) (n : Nat) : (l.map (fun _ => n)).sum = l.length * n := by
  simp

/-! ### GEMM -/

theorem gemmSums_length (s : State) (w : Who) (g : GemmFields) (grp : GemmGroup) (row : Nat) :
    (gemmSums s w g grp row).1.length ≤ g.n := by
  unfold gemmSums
  dsimp only
  split
  · rw [List.length_flatMap]
    simp only [List.map_map, Function.comp_def, productRow_length, Nat.mul_comm 128]
    exact (sum_tiles_le 128 g.n _).trans (Nat.min_le_right _ _)
  · exact (productRow_length _ _ _ _ _ _ _ _).le

theorem gemmRow_rowsIn (s : State) (w : Who) (d : List Word) (g : GemmFields) (grp : GemmGroup) (row : Nat)
    (hfit : g.n ≤ (tens s w.part g.d).cols) :
    RowsIn (tens s w.part g.d) ((tens s w.part g.d).outBuf (voutOf d)) ((tens s w.part g.d).rowIndex [grp.d0 + row, grp.ab])
      (gemmRow s w d g grp row).1.writes := by
  unfold gemmRow
  dsimp only
  split
  · refine writeRow_rowsIn s w _ _ _ _ ?_
    rw [List.length_map, List.length_zipIdx]
    exact (gemmSums_length s w g grp row).trans hfit
  · split
    · exact writeRow_rowsIn s w _ _ _ _ (by rw [List.length_replicate]; exact hfit)
    · split
      · exact copyRow_rowsIn s w _ _ _ _ hfit
      · exact .nil _ _ _

theorem mem_gemmUnits {g : GemmFields} : ∀ {u : Nat} {groups : List GemmGroup} {x : Nat × GemmGroup},
    x ∈ gemmUnits g u groups → x.2 ∈ groups
  | _, [], _, hx => absurd hx List.not_mem_nil
  | _, _ :: _, _, hx => by
    rcases List.mem_cons.mp hx with rfl | h
    · exact List.mem_cons_self
    · exact List.mem_cons_of_mem _ (mem_gemmUnits h)

theorem gemmPlan_writesRows (s : State) (c : InFlight) (hfit : (gemmFields c.desc).n ≤ (tens s c.part (gemmFields c.desc).d).cols) :
    let g := gemmFields c.desc
    let groups := gemmGroups (opcOf c.desc) g c.latched
    WritesRows (gemmPlan s c) (voutOf c.desc) [(tens s c.part g.d, fun r => ∃ grp ∈ groups,
      ∃ i ∈ gemmRows (tens s c.part g.d) g groups (opcOf c.desc) grp, r = (tens s c.part g.d).rowIndex [grp.d0 + i, grp.ab])] := by
  refine ⟨rfl, rfl, rfl, fun x hx => ⟨_, List.mem_singleton.mpr rfl, ?_⟩⟩
  simp only [gemmPlan, List.mem_flatMap, List.mem_map] at hx
  obtain ⟨o, ⟨u, hu, row, hrow, rfl⟩, hx⟩ := hx
  exact ⟨_, ⟨u.2, mem_gemmUnits hu, row, hrow, rfl⟩, gemmRow_rowsIn s { part := c.part, ring := c.ring } c.desc _ u.2 row hfit x hx⟩

/-! ### Convolutions and POOL -/

theorem convSums_length (s : State) (w : Who) (f : ConvFields) (pad : FVal) (pos : Nat × Nat × Nat × Nat) (init : Nat → Option F32) :
    (convSums s w f pad pos init).1.length ≤ f.stageCols := by
  unfold convSums
  dsimp only
  rw [List.length_flatMap]
  simp only [List.map_map, Function.comp_def, productRow_length]
  unfold ConvFields.tiles
  split
  · simp
  · split
    · simp only [List.map_map, Function.comp_def, Nat.mul_assoc]
      exact (sum_tiles_le (f.pack * f.ng) f.stageCols _).trans (Nat.min_le_right _ _)
    next hgroups _ =>
      simp only [List.map_map, Function.comp_def]
      rw [sum_map_const, List.length_range]
      unfold ConvFields.ng
      rw [Nat.max_eq_right (by omega)]
      exact Nat.mul_div_le _ _

theorem convStage_length (s : State) (w : Who) (f : ConvFields) (ys : List F32) : (convStage s w f ys).length = ys.length := by
  simp [convStage]

/-- A position's values fill at most a row of Y, spread over the taps in QUERN_UNPATCH. -/
theorem convTargets_length {s : State} {w : Who} {f : ConvFields} {ty : Tens} (pos : Nat × Nat × Nat × Nat)
    (hout : f.cOut ≤ ty.cols) (hpool : f.isPool = true → f.cIn ≤ ty.cols) :
    ∀ t ∈ convTargets f ty pos (convValues s w f ty pos).1, t.2.length ≤ ty.cols := by
  intro t ht
  unfold convTargets at ht
  split at ht
  · obtain ⟨tau, -, rfl⟩ := List.mem_map.mp ht
    exact (List.length_take_le _ _).trans hout
  next hplain =>
    rw [List.mem_singleton] at ht
    subst ht
    unfold convValues
    dsimp only
    split
    next h => rw [List.length_map, List.length_range]; exact hpool h
    · split
      · unfold convFused
        rw [List.length_map, List.length_zipIdx, productRow_length]
        exact hout
      next hfuse =>
        have stage : f.stageCols = f.cOut := if_neg hfuse
        dsimp only
        rw [convStage_length]
        exact ((convSums_length s w f _ pos _).trans stage.le).trans hout

theorem convTargets_replicate_length {f : ConvFields} {ty : Tens} (pos : Nat × Nat × Nat × Nat) (v : FVal) (hout : f.cOut ≤ ty.cols) :
    ∀ t ∈ convTargets f ty pos (List.replicate (if f.unpatch then f.taps * f.cOut else f.cOut) v), t.2.length ≤ ty.cols := by
  intro t ht
  unfold convTargets at ht
  split at ht
  · obtain ⟨tau, -, rfl⟩ := List.mem_map.mp ht
    exact (List.length_take_le _ _).trans hout
  next hplain =>
    rw [List.mem_singleton] at ht
    subst ht
    rw [List.length_replicate]
    exact hout

theorem convMasked_rowsIn (s : State) (w : Who) (d : List Word) (f : ConvFields) (ty : Tens) (fr p : Nat) (hout : f.cOut ≤ ty.cols) :
    ∀ x ∈ (convMasked s w d f ty fr p).writes, ∃ r, InRow ty (ty.outBuf (voutOf d)) r x.1 x.2.length := by
  intro x hx
  unfold convMasked at hx
  extract_lets at hx
  split at hx
  · exact absurd hx List.not_mem_nil
  · split at hx
    · obtain ⟨o, ho, hx⟩ := List.mem_flatMap.mp hx
      obtain ⟨t, ht, rfl⟩ := List.mem_map.mp ho
      exact ⟨t.1, writeRow_rowsIn s w _ _ _ _ (convTargets_replicate_length _ _ hout t ht) x hx⟩
    · split at hx
      · simp only [List.mem_flatMap] at hx
        obtain ⟨t, -, hx⟩ := hx
        exact ⟨t.1, copyRow_rowsIn s w _ _ _ _ hout x hx⟩
      · exact absurd hx List.not_mem_nil

theorem convPlan_writesRows (s : State) (c : InFlight) (hout : (convFields c.desc).cOut ≤ (tens s c.part (convFields c.desc).y).cols)
    (hpool : (convFields c.desc).isPool = true → (convFields c.desc).cIn ≤ (tens s c.part (convFields c.desc).y).cols) :
    WritesRows (convPlan s c) (voutOf c.desc) [(tens s c.part (convFields c.desc).y, fun _ => True)] := by
  refine ⟨rfl, rfl, rfl, fun x hx => ⟨_, List.mem_singleton.mpr rfl, ?_⟩⟩
  simp only [convPlan, List.mem_flatMap, List.mem_map] at hx
  obtain ⟨o, ⟨fr, -, p, -, rfl⟩, hx⟩ := hx
  suffices h : ∃ r, InRow (tens s c.part (convFields c.desc).y) ((tens s c.part (convFields c.desc).y).outBuf (voutOf c.desc)) r
      x.1 x.2.length from h.imp fun _ hr => ⟨trivial, hr⟩
  dsimp only at hx
  unfold convPos at hx
  split at hx
  · simp only [List.mem_flatMap, List.mem_map] at hx
    obtain ⟨o, ⟨t, ht, rfl⟩, hx⟩ := hx
    exact ⟨t.1, writeRow_rowsIn s _ _ _ _ _ (convTargets_length _ hout hpool t ht) x hx⟩
  · exact convMasked_rowsIn s _ c.desc _ _ fr p hout x hx

/-! ### Vector commands -/

/-- Values in the order of a tensor's planned shape go to rows of it. -/
theorem writeFlat_rowsIn (s : State) (w : Who) (t : Tens) (b : Nat) (vs : List FVal) (sat : Bool) (rng : Option Rng) :
    ∀ o ∈ writeFlat s w t b vs sat rng, ∃ r, RowsIn t b r o.writes := by
  intro o ho
  obtain ⟨chunk, hchunk, rfl⟩ := List.mem_map.mp ho
  have member : chunk.1 ∈ chunksOf t.cols vs.length vs := by
    have := List.mem_zipIdx hchunk
    exact this.2.2 ▸ List.getElem_mem _
  exact ⟨chunk.2, writeRow_rowsIn s w b _ sat rng (length_le_of_mem_chunksOf member)⟩

theorem elemRow_rowsIn (s : State) (w : Who) (f : VecFields) (vout : Bool) (r : Nat) (hfit : f.cols ≤ (tens s w.part f.z).cols) :
    RowsIn (tens s w.part f.z) ((tens s w.part f.z).outBuf vout) r (elemRow s w f vout r).writes := by
  unfold elemRow
  dsimp only
  split
  · exact writePats_rowsIn _ _ (by simpa using hfit)
  · exact writeRow_rowsIn s w _ _ _ _ (by simpa using hfit)

theorem rowF32_length (s : State) (w : Who) (t : Tens) (r cols : Nat) : (rowF32 s w t r cols).length = cols := by
  simp [rowF32]

theorem normRow_length (s : State) (func : Nat) (eps : F32) (cols : Nat) (l : List F32) :
    (normRow s func eps cols l).1.length = l.length := by
  unfold normRow
  split <;> simp

theorem softmaxRow_length (scale : F32) (l : List F32) : (softmaxRow scale l).1.length = l.length := by
  simp [softmaxRow]

/-- Z's rows below ROWS, whatever the opcode but REDUCE's packed results. -/
theorem vecOuts_z (s : State) (w : Who) (opc : Nat) (f : VecFields) (vout : Bool) (hfit : f.cols ≤ (tens s w.part f.z).cols) :
    ∀ o ∈ (vecOuts s w opc f vout).1,
      ∃ r, (opc ≠ 0x401 → r < f.rows) ∧ RowsIn (tens s w.part f.z) ((tens s w.part f.z).outBuf vout) r o.writes := by
  intro o ho
  unfold vecOuts at ho
  dsimp only at ho
  split at ho
  · obtain ⟨r, hr, rfl⟩ := List.mem_map.mp ho
    exact ⟨r, fun _ => List.mem_range.mp hr, elemRow_rowsIn s w f vout r hfit⟩
  · split at ho
    next hreduce =>
      obtain ⟨r, hr⟩ := writeFlat_rowsIn s w _ _ _ _ _ o ho
      exact ⟨r, fun h => absurd hreduce h, hr⟩
    · split at ho
      · simp only [List.mem_map, List.mem_range] at ho
        obtain ⟨n, ⟨r, hr, rfl⟩, rfl⟩ := ho
        refine ⟨r, fun _ => hr, writeRow_rowsIn s w _ _ _ _ ?_⟩
        rw [List.length_map, List.length_zipIdx, normRow_length, rowF32_length]
        exact hfit
      · simp only [List.mem_map, List.mem_range] at ho
        obtain ⟨n, ⟨r, hr, rfl⟩, rfl⟩ := ho
        refine ⟨r, fun _ => hr, writeRow_rowsIn s w _ _ _ _ ?_⟩
        rw [List.length_map, softmaxRow_length, rowF32_length]
        exact hfit

/-- S's rows, where it is enabled. -/
theorem vecOuts_s (s : State) (w : Who) (opc : Nat) (f : VecFields) (vout : Bool) (hfit : f.sEn = true → 2 ≤ (tens s w.part f.st).cols) :
    ∀ o ∈ (vecOuts s w opc f vout).2,
      f.sEn = true ∧ ∃ r, RowsIn (tens s w.part f.st) ((tens s w.part f.st).outBuf vout) r o.writes := by
  intro o ho
  unfold vecOuts at ho
  dsimp only at ho
  split at ho
  · exact absurd ho List.not_mem_nil
  · split at ho
    · exact absurd ho List.not_mem_nil
    · split at ho
      · by_cases hen : f.sEn = true
        · rw [if_pos hen] at ho
          simp only [List.mem_map, List.mem_range] at ho
          obtain ⟨n, ⟨r, hr, rfl⟩, rfl⟩ := ho
          exact ⟨hen, r, writeRow_rowsIn s w _ _ _ _ (hfit hen)⟩
        · rw [if_neg hen] at ho
          exact absurd ho List.not_mem_nil
      · split at ho
        next hen => exact ⟨hen, writeFlat_rowsIn s w _ _ _ _ _ o ho⟩
        · exact absurd ho List.not_mem_nil

theorem vecPlan_writesRows (s : State) (c : InFlight) (hz : (vecFields c.desc).cols ≤ (tens s c.part (vecFields c.desc).z).cols)
    (hs : (vecFields c.desc).sEn = true → 2 ≤ (tens s c.part (vecFields c.desc).st).cols) :
    WritesRows (vecPlan s c) (voutOf c.desc)
      [(tens s c.part (vecFields c.desc).z, fun r => opcOf c.desc ≠ 0x401 → r < (vecFields c.desc).rows),
       (tens s c.part (vecFields c.desc).st, fun _ => (vecFields c.desc).sEn = true)] := by
  refine ⟨rfl, rfl, rfl, fun x hx => ?_⟩
  simp only [vecPlan, List.mem_flatMap, List.mem_append] at hx
  obtain ⟨o, ho | ho, hx⟩ := hx
  · obtain ⟨r, hr, hin⟩ := vecOuts_z s { part := c.part, ring := c.ring } (opcOf c.desc) (vecFields c.desc) (voutOf c.desc) hz o ho
    exact ⟨_, List.mem_cons_self, r, hr, hin x hx⟩
  · obtain ⟨hen, r, hin⟩ := vecOuts_s s { part := c.part, ring := c.ring } (opcOf c.desc) (vecFields c.desc) (voutOf c.desc) hs o ho
    exact ⟨_, List.mem_cons_of_mem _ List.mem_cons_self, r, hen, hin x hx⟩

/-! ### OPTIM_STEP and RNG_FILL -/

theorem keepRows_rowsIn (s : State) (w : Who) (t : Tens) (vout : Bool) (rows : Nat) {cols : Nat} (hfit : cols ≤ t.cols) :
    ∀ x ∈ keepRows s w t vout rows cols, ∃ r, r < rows ∧ InRow t (t.outBuf vout) r x.1 x.2.length := by
  intro x hx
  unfold keepRows at hx
  split at hx
  · simp only [List.mem_flatMap, List.mem_range] at hx
    obtain ⟨r, hr, hx⟩ := hx
    exact ⟨r, hr, copyRow_rowsIn s w _ _ _ _ hfit x hx⟩
  · exact absurd hx List.not_mem_nil

theorem optPlan_writesRows (s : State) (c : InFlight)
    (hfit : ∀ i ∈ (optFields c.desc).updated ++ (if (optFields c.desc).plowEn then [(optFields c.desc).plow] else []),
      (optFields c.desc).cols ≤ (tens s c.part i).cols) :
    WritesRows (optPlan s c) (voutOf c.desc)
      (((optFields c.desc).updated ++ (if (optFields c.desc).plowEn then [(optFields c.desc).plow] else [])).map
        (fun i => (tens s c.part i, fun r => r < (optFields c.desc).rows))) := by
  have row {i : Nat} (hi : i ∈ (optFields c.desc).updated ++ (if (optFields c.desc).plowEn then [(optFields c.desc).plow] else []))
      {x : Nat × List Byte} (h : ∃ r, r < (optFields c.desc).rows ∧
        InRow (tens s c.part i) ((tens s c.part i).outBuf (voutOf c.desc)) r x.1 x.2.length) :
      ∃ o ∈ ((optFields c.desc).updated ++ (if (optFields c.desc).plowEn then [(optFields c.desc).plow] else [])).map
        (fun i => (tens s c.part i, fun r => r < (optFields c.desc).rows)),
        ∃ r, o.2 r ∧ InRow o.1 (o.1.outBuf (voutOf c.desc)) r x.1 x.2.length :=
    ⟨_, List.mem_map.mpr ⟨i, hi, rfl⟩, h⟩
  unfold optPlan
  dsimp only
  split
  · refine ⟨rfl, rfl, rfl, fun x hx => ?_⟩
    obtain ⟨i, hi, hx⟩ := List.mem_flatMap.mp hx
    exact row hi (keepRows_rowsIn s _ _ _ _ (hfit i hi) x hx)
  · refine ⟨rfl, rfl, rfl, fun x hx => ?_⟩
    have news {i : Nat} {sel : F32 × F32 × F32 → F32} {rng : Option Rng} {clip c1 c2 : F32}
        (hi : i ∈ (optFields c.desc).updated ++ (if (optFields c.desc).plowEn then [(optFields c.desc).plow] else []))
        {o : RowOut} (ho : o ∈ ((List.range (optFields c.desc).rows).map
          (fun r => (r, optRow s { part := c.part, ring := c.ring } (optFields c.desc) clip c1 c2 r))).map
          (fun y => writeRow s { part := c.part, ring := c.ring } (tens s c.part i) ((tens s c.part i).outBuf (voutOf c.desc)) y.1 0
            (y.2.map (fun e => f32 (sel e))) (optFields c.desc).sat rng)) (hx : x ∈ o.writes) :
        ∃ r, r < (optFields c.desc).rows ∧
          InRow (tens s c.part i) ((tens s c.part i).outBuf (voutOf c.desc)) r x.1 x.2.length := by
      simp only [List.mem_map, List.mem_range] at ho
      obtain ⟨y, ⟨r, hr, rfl⟩, rfl⟩ := ho
      refine ⟨r, hr, writeRow_rowsIn s _ _ _ _ _ ?_ x hx⟩
      rw [List.length_map]
      simpa [optRow] using hfit i hi
    simp only [List.mem_flatMap, List.mem_append] at hx
    obtain ⟨o, ((ho | ho) | ho) | ho, hx⟩ := hx
    · have hi : (optFields c.desc).p ∈ (optFields c.desc).updated ++
            (if (optFields c.desc).plowEn then [(optFields c.desc).plow] else []) := List.mem_append_left _ List.mem_cons_self
      exact row hi (news hi ho hx)
    · have hi : (optFields c.desc).m1 ∈ (optFields c.desc).updated ++
            (if (optFields c.desc).plowEn then [(optFields c.desc).plow] else []) :=
        List.mem_append_left _ (List.mem_cons_of_mem _ List.mem_cons_self)
      exact row hi (news hi ho hx)
    · split at ho
      next halgo =>
        have hi : (optFields c.desc).m2 ∈ (optFields c.desc).updated ++
            (if (optFields c.desc).plowEn then [(optFields c.desc).plow] else []) :=
          List.mem_append_left _ (List.mem_append_right _ (by rw [if_pos halgo]; exact List.mem_cons_self))
        exact row hi (news hi ho hx)
      · exact absurd ho List.not_mem_nil
    · split at ho
      next hplow =>
        have hi : (optFields c.desc).plow ∈ (optFields c.desc).updated ++
            (if (optFields c.desc).plowEn then [(optFields c.desc).plow] else []) :=
          List.mem_append_right _ (by rw [if_pos hplow]; exact List.mem_cons_self)
        exact row hi (news hi ho hx)
      · exact absurd ho List.not_mem_nil

theorem rngPlan_writesRows (s : State) (c : InFlight) (hfit : (rngFields c.desc).cols ≤ (tens s c.part (rngFields c.desc).out).cols) :
    WritesRows (rngPlan s c) (voutOf c.desc) [(tens s c.part (rngFields c.desc).out, fun r => r < (rngFields c.desc).rows)] := by
  refine ⟨rfl, rfl, rfl, fun x hx => ⟨_, List.mem_singleton.mpr rfl, ?_⟩⟩
  simp only [rngPlan, List.mem_flatMap, List.mem_map, List.mem_range] at hx
  obtain ⟨o, ⟨r, hr, rfl⟩, hx⟩ := hx
  exact ⟨r, hr, writeRow_rowsIn s _ _ _ _ _ (by simpa using hfit) x hx⟩

end Sys2Proof.Machine
end

section
/-! CERTIFICATE. The rows of chapters 04 to 06. -/

namespace Sys2Proof.Machine

open Sys2Proof.Claims

/-- Settles O29: every row runs its plan by `runOp`; what each plan writes is rows. -/
theorem arrayAndVectorRows : Obligations.ArrayAndVectorRows := by
  unfold Obligations.ArrayAndVectorRows
  refine ⟨fun s c => ⟨gemmPlan_writesRows s c, convPlan_writesRows s c, vecPlan_writesRows s c, optPlan_writesRows s c,
    rngPlan_writesRows s c⟩, ?_⟩
  refine ⟨?_, ?_, ?_, ?_, ?_, ?_, ?_, ?_, ?_, ?_, ?_, ?_, ?_, ?_, ?_⟩
  all_goals exact rowRuns_of_runOp fun _ _ => rfl

end Sys2Proof.Machine
end

section
/-! SUPPORT. What the attention and cache commands write. -/

namespace Sys2Proof.Machine

open Sys2Proof.Claims

/-! ### ATTN_FWD: the accumulators of a row keep D columns -/

theorem fwdBlock_acc {s : State} {w : Who} {f : AttnFields} {src : Nat × KvFrom} {nb : Nat} {pair : List Nat} {i j : Nat} {r : RowAcc}
    (h : ∀ x ∈ r.heads, x.acc.length = f.d) : ∀ x ∈ (fwdBlock s w f src nb pair i r j).heads, x.acc.length = f.d := by
  unfold fwdBlock
  extract_lets kb nh vis span tq key sc c steps vf narrowed pv zeros
  split
  · exact h
  · split
    · intro x hx
      obtain ⟨y, hy, rfl⟩ := List.mem_map.mp hx
      have old : y.1.1 ∈ r.heads := by
        have := (List.mem_zipIdx hy).2.2
        exact (List.of_mem_zip (this ▸ List.getElem_mem _ : y.1 ∈ List.zip r.heads steps)).1
      split
      · exact h _ old
      · rw [List.length_map, List.length_zipIdx]
        exact h _ old
    · exact h

theorem fwdRow_acc (s : State) (w : Who) (f : AttnFields) (src : Nat × KvFrom) (nb : Nat) (pair : List Nat) (i : Nat) :
    ∀ x ∈ (fwdRow s w f src nb pair i).heads, x.acc.length = f.d := by
  refine List.foldlRecOn (motive := fun r : RowAcc => ∀ x ∈ r.heads, x.acc.length = f.d) _ _ ?_ (fun r h j _ => fwdBlock_acc h)
  intro x hx
  obtain ⟨_, -, rfl⟩ := List.mem_map.mp hx
  exact List.length_replicate

theorem headOut_length (h : HeadAcc) : (headOut h).1.length = h.acc.length := by
  unfold headOut
  split <;> simp

theorem fwdPlan_writesRows (s : State) (c : InFlight)
    (ho : (attnFields c.desc).d ≤ (tens s c.part (attnFields c.desc).o).cols)
    (hstats : (attnFields c.desc).statsEn = true → 2 ≤ (tens s c.part (attnFields c.desc).stats).cols) :
    WritesRows (fwdPlan s c) (voutOf c.desc) [(tens s c.part (attnFields c.desc).o, fun _ => True),
      (tens s c.part (attnFields c.desc).stats, fun _ => (attnFields c.desc).statsEn = true)] := by
  refine ⟨rfl, rfl, rfl, fun x hx => ?_⟩
  obtain ⟨o, ho', hx⟩ := List.mem_flatMap.mp (show x ∈ List.flatMap _ _ from hx)
  obtain ⟨u, hu, ho'⟩ := List.mem_flatMap.mp ho'
  obtain ⟨y, hy, rfl⟩ := List.mem_map.mp ho'
  obtain ⟨unit, -, hu⟩ := List.mem_flatMap.mp hu
  obtain ⟨i, -, rfl⟩ := List.mem_map.mp hu
  have head := fwdRow_acc s { part := c.part, ring := c.ring } (attnFields c.desc) unit.src unit.nb unit.pair i y.2
    (List.of_mem_zip hy).2
  rcases List.mem_append.mp hx with hx | hx
  · refine ⟨_, List.mem_cons_self, _, trivial, writeRow_rowsIn s _ _ _ _ _ ?_ x hx⟩
    rw [List.length_map, headOut_length, head]
    exact ho
  · dsimp only at hx
    split at hx
    next hen =>
      refine ⟨_, List.mem_cons_of_mem _ List.mem_cons_self, _, hen, writeRow_rowsIn s _ _ _ _ _ ?_ x hx⟩
      exact hstats hen
    · exact absurd hx List.not_mem_nil

/-! ### ATTN_BWD: a gradient row has at most D columns -/

theorem addRow_length {acc : Option (List F32)} {x : List F32} {n : Nat} (hacc : ∀ l, acc = some l → l.length ≤ n)
    (hx : x.length ≤ n) : ∀ l, addRow acc x = some l → l.length ≤ n := by
  intro l hl
  unfold addRow at hl
  split at hl
  · exact Option.some.inj hl ▸ hx
  next a =>
    rw [← Option.some.inj hl, List.length_zipWith]
    exact (Nat.min_le_left _ _).trans (hacc a rfl)

theorem bwdMix_length (s : State) (f : AttnFields) (fmt : Fmt) (h : Nat) (vis : Nat → Bool) (el : Nat → Nat → F32)
    (b : Nat → Nat → Nat → FVal) : (bwdMix s f fmt h vis el b).sums.length = f.d := by
  simp [bwdMix]

theorem getD_length {acc : Option (List F32)} {z : List F32} {n : Nat} (hacc : ∀ l, acc = some l → l.length ≤ n)
    (hz : z.length ≤ n) : (acc.getD z).length ≤ n := by
  cases acc with
  | none => exact hz
  | some l => exact hacc l rfl

theorem stage2Row_length (s : State) (w : Who) (f : AttnFields) (nb hk k : Nat) :
    (stage2Row s w f nb hk k).1.length ≤ f.d ∧ (stage2Row s w f nb hk k).2.1.length ≤ f.d := by
  unfold stage2Row
  extract_lets steps r z
  have sums : (∀ l, r.1 = some l → l.length ≤ f.d) ∧ (∀ l, r.2.1 = some l → l.length ≤ f.d) := by
    refine List.foldlRecOn (motive := fun a : Option (List F32) × Option (List F32) × NumCounts =>
      (∀ l, a.1 = some l → l.length ≤ f.d) ∧ (∀ l, a.2.1 = some l → l.length ≤ f.d)) _ _ ?_ (fun a ha x _ => ?_)
    · exact ⟨fun l hl => absurd hl (by simp), fun l hl => absurd hl (by simp)⟩
    · obtain ⟨hv, hk⟩ := ha
      split
      · extract_lets m n
        split
        · exact ⟨addRow_length hv (bwdMix_length _ _ _ _ _ _ _).le, addRow_length hk (bwdMix_length _ _ _ _ _ _ _).le⟩
        · exact ⟨hv, hk⟩
      · exact ⟨hv, hk⟩
  have zero : z.length ≤ f.d := List.length_replicate.le
  exact ⟨getD_length sums.1 zero, by rw [List.length_map]; exact getD_length sums.2 zero⟩

theorem stage3Row_length (s : State) (w : Who) (f : AttnFields) (nb h i : Nat) : (stage3Row s w f nb h i).1.length ≤ f.d := by
  unfold stage3Row
  extract_lets r
  have sums : ∀ l, r.1 = some l → l.length ≤ f.d := by
    refine List.foldlRecOn (motive := fun a : Option (List F32) × NumCounts => ∀ l, a.1 = some l → l.length ≤ f.d) _ _ ?_
      (fun a ha x _ => ?_)
    · exact fun l hl => absurd hl (by simp)
    · split
      · extract_lets m
        dsimp only
        split
        · exact addRow_length ha (bwdMix_length _ _ _ _ _ _ _).le
        · exact ha
      · exact ha
  rw [List.length_map]
  exact getD_length sums List.length_replicate.le

theorem bwdPlan_writesRows (s : State) (c : InFlight)
    (hdelta : (attnFields c.desc).lq ≤ (tens s c.part (attnFields c.desc).delta).cols)
    (hgrads : ∀ i ∈ [(attnFields c.desc).dk', (attnFields c.desc).dq, (attnFields c.desc).dv],
      (attnFields c.desc).d ≤ (tens s c.part i).cols) :
    WritesRows (bwdPlan s c) (voutOf c.desc)
      ([(attnFields c.desc).delta, (attnFields c.desc).dk', (attnFields c.desc).dq, (attnFields c.desc).dv].map
        (fun i => (tens s c.part i, fun _ => True))) := by
  have row {i r : Nat} {vs : List F32} {x : Nat × List Byte}
      (hi : i ∈ [(attnFields c.desc).delta, (attnFields c.desc).dk', (attnFields c.desc).dq, (attnFields c.desc).dv])
      (hlen : vs.length ≤ (tens s c.part i).cols)
      (hx : x ∈ (writeRow s { part := c.part, ring := c.ring } (tens s c.part i) ((tens s c.part i).outBuf (voutOf c.desc)) r 0
        (vs.map f32) (attnFields c.desc).sat none).writes) :
      ∃ o ∈ [(attnFields c.desc).delta, (attnFields c.desc).dk', (attnFields c.desc).dq, (attnFields c.desc).dv].map
        (fun i => (tens s c.part i, fun _ : Nat => True)), ∃ r, o.2 r ∧ InRow o.1 (o.1.outBuf (voutOf c.desc)) r x.1 x.2.length :=
    ⟨_, List.mem_map.mpr ⟨i, hi, rfl⟩, r, trivial, writeRow_rowsIn s _ _ _ _ _ (by rw [List.length_map]; exact hlen) x hx⟩
  have grad {i : Nat} (hi : i ∈ [(attnFields c.desc).dk', (attnFields c.desc).dq, (attnFields c.desc).dv]) {n : Nat}
      (hn : n ≤ (attnFields c.desc).d) : n ≤ (tens s c.part i).cols := hn.trans (hgrads i hi)
  refine ⟨rfl, rfl, rfl, fun x hx => ?_⟩
  rcases List.mem_append.mp (show x ∈ _ ++ _ from hx) with hx | hx
  · rcases List.mem_append.mp hx with hx | hx
    · obtain ⟨o, ho, hx⟩ := List.mem_flatMap.mp hx
      obtain ⟨y, -, rfl⟩ := List.mem_map.mp ho
      exact row (by simp) (by rw [List.length_map, List.length_range]; exact hdelta) hx
    · obtain ⟨o, ho, hx⟩ := List.mem_flatMap.mp hx
      obtain ⟨y, -, ho⟩ := List.mem_flatMap.mp ho
      obtain ⟨k, -, rfl⟩ := List.mem_map.mp ho
      obtain ⟨hv, hk⟩ := stage2Row_length s { part := c.part, ring := c.ring } (attnFields c.desc) y.1 y.2 k
      rcases List.mem_append.mp hx with hx | hx
      · exact row (by simp) (grad (by simp) hv) hx
      · exact row (by simp) (grad (by simp) hk) hx
  · obtain ⟨o, ho, hx⟩ := List.mem_flatMap.mp hx
    obtain ⟨y, -, ho⟩ := List.mem_flatMap.mp ho
    obtain ⟨i, -, rfl⟩ := List.mem_map.mp ho
    exact row (by simp) (grad (by simp) (stage3Row_length _ _ _ _ _ _)) hx

/-! ### The cache -/

theorem newEntries_length (s : State) (pool : Pool) : ∀ (base : Nat) (l : List PageRes), (newEntries s pool base l).length = l.length
  | _, [] => rfl
  | _, _ :: t => congrArg Nat.succ (newEntries_length s pool _ t)

theorem mem_of_zip_zipIdx {α : Type} {l : List α} {x : α} (h : x ∈ l) : ∃ i, (x, i) ∈ l.zipIdx := by
  obtain ⟨i, hi, rfl⟩ := List.mem_iff_getElem.mp h
  exact ⟨i, List.mem_zipIdx_iff_getElem?.mpr (List.getElem?_eq_getElem hi)⟩

/-- What KV_APPEND writes for one sequence: its root at the commit, and a slot of its table for each new page. -/
theorem appendSeq_writes (s : State) (w : Who) (f : AppendFields) (pool : Pool) (b : Nat) (q : Snap) (res : List PageRes) :
    CommitAct.write q.addr (rootBytes q.table (q.length + f.n) q.cap (q.count + res.length)) ∈ (appendSeq s w f pool b q res).2.1 ∧
    ∀ i, i < res.length → ∃ e ∈ newEntries s pool (((q.ents s).getLast?.map PageEnt.fin).getD 0) res,
      (q.table + 16 * (q.count + i), e.toBytes) ∈ (appendSeq s w f pool b q res).1 := by
  have fin : (match (q.ents s).getLast? with
      | some e => e.fin
      | none => 0) = ((q.ents s).getLast?.map PageEnt.fin).getD 0 := by
    cases (q.ents s).getLast? <;> rfl
  unfold appendSeq
  extract_lets old fin' new row perPos slots
  have hnew : new = newEntries s pool (((q.ents s).getLast?.map PageEnt.fin).getD 0) res := congrArg (newEntries s pool · res) fin
  refine ⟨?_, fun i hi => ?_⟩
  · rw [hnew, newEntries_length]
    exact List.mem_cons_self
  · have hlen : i < new.length := by rw [hnew, newEntries_length]; exact hi
    have hmem : new[i] ∈ newEntries s pool (((q.ents s).getLast?.map PageEnt.fin).getD 0) res := by
      rw [← hnew]
      exact List.getElem_mem hlen
    refine ⟨new[i], hmem, List.mem_append_right _ (List.mem_map.mpr ⟨(new[i], i), ?_, rfl⟩)⟩
    exact List.mem_zipIdx_iff_getElem?.mpr (List.getElem?_eq_getElem hlen)

theorem writePats_place {t : Tens} {b row : Nat} {pats : List Nat} {x : Nat × List Byte} (hx : x ∈ writePats t b row 0 pats) :
    x.1 = b + t.rowOffset row := by
  unfold writePats at hx
  split at hx
  · exact absurd hx List.not_mem_nil
  · rw [List.mem_singleton.mp hx]
    have first : t.fmt.bytes 0 = 0 := by cases t.fmt <;> rfl
    rw [first, Nat.add_zero]

theorem appendPlan_eq {s : State} {c : InFlight} {pool : Pool} (h : poolOf s c.part = some pool) :
    (appendPlan s c).writes = [] ∧ ∀ x ∈ List.zip ((appendSeqs s { part := c.part, ring := c.ring } (appendFields c.desc)).map (keptSnap s c none))
        (cutList ((appendClasses s { part := c.part, ring := c.ring } (appendFields c.desc)).map (·.length)) c.reserved),
      CommitAct.write x.1.addr (rootBytes x.1.table (x.1.length + (appendFields c.desc).n) x.1.cap (x.1.count + x.2.length)) ∈
        (appendPlan s c).acts ∧
      ∀ i, i < x.2.length → ∃ e ∈ newEntries s pool (((x.1.ents s).getLast?.map PageEnt.fin).getD 0) x.2,
        (x.1.table + 16 * (x.1.count + i), e.toBytes) ∈ (appendPlan s c).gwrites := by
  unfold appendPlan
  rw [h]
  refine ⟨rfl, fun x hx => ?_⟩
  obtain ⟨b, hb⟩ := mem_of_zip_zipIdx hx
  obtain ⟨root, slots⟩ := appendSeq_writes s { part := c.part, ring := c.ring } (appendFields c.desc) pool b x.1 x.2
  refine ⟨List.mem_flatMap.mpr ⟨_, List.mem_map.mpr ⟨(x, b), hb, rfl⟩, root⟩, fun i hi => ?_⟩
  obtain ⟨e, he, hslot⟩ := slots i hi
  exact ⟨e, he, List.mem_flatMap.mpr ⟨_, List.mem_map.mpr ⟨(x, b), hb, rfl⟩, hslot⟩⟩

theorem PageEnt.toBytes_length (e : PageEnt) : e.toBytes.length = 16 := by
  simp [PageEnt.toBytes]

theorem writes_ite {b : Prop} [Decidable b] {p q : Plan} {P : Nat × List Byte → Prop} (hp : ∀ x ∈ p.writes, P x)
    (hq : ∀ x ∈ q.writes, P x) : ∀ x ∈ (if b then p else q).writes, P x := by
  split
  · exact hp
  · exact hq

theorem lookupPlan_writes (s : State) (c : InFlight) :
    ∀ x ∈ (lookupPlan s c).writes,
      (∃ i, x.1 = (tens s c.part (prefixFields c.desc).out).outBuf (voutOf c.desc) + 16 * i ∧ x.2.length = 16) ∨
      x.1 = (tens s c.part (prefixFields c.desc).result).outBuf (voutOf c.desc) +
        (tens s c.part (prefixFields c.desc).result).rowOffset 0 := by
  cases hpool : poolOf s c.part with
  | none =>
    simp only [lookupPlan, hpool]
    exact fun x hx => absurd hx List.not_mem_nil
  | some pool =>
    simp only [lookupPlan, hpool]
    refine writes_ite (fun x hx => absurd hx List.not_mem_nil) fun x hx => ?_
    rcases List.mem_append.mp hx with hx | hx
    · obtain ⟨e, -, rfl⟩ := List.mem_map.mp hx
      exact Or.inl ⟨e.2, rfl, PageEnt.toBytes_length e.1⟩
    · exact Or.inr (writePats_place hx)

theorem insertPlan_writes (s : State) (c : InFlight) :
    (∀ x ∈ (insertPlan s c).writes, x.1 = (tens s c.part (prefixFields c.desc).result).outBuf (voutOf c.desc) +
      (tens s c.part (prefixFields c.desc).result).rowOffset 0) ∧ (insertPlan s c).gwrites = [] := by
  cases hpool : poolOf s c.part with
  | none =>
    simp only [insertPlan, hpool]
    exact ⟨fun x hx => absurd hx List.not_mem_nil, rfl⟩
  | some pool =>
    simp only [insertPlan, hpool]
    split
    · exact ⟨fun x hx => absurd hx List.not_mem_nil, rfl⟩
    · refine ⟨fun x hx => ?_, rfl⟩
      dsimp only at hx
      exact writePats_place hx

theorem prefixReleasePlan_writes (s : State) (c : InFlight) :
    (prefixReleasePlan s c).writes = [] ∧ (prefixReleasePlan s c).gwrites = [] := by
  cases hpool : poolOf s c.part <;> simp only [prefixReleasePlan, hpool] <;> exact ⟨rfl, rfl⟩

theorem cacheWrites : CacheWrites := by
  intro s c
  refine ⟨fun pool hpool => appendPlan_eq hpool, ⟨rfl, rfl, rfl, fun h => ?_, fun h a ha => ?_⟩,
    lookupPlan_writes s c, (insertPlan_writes s c).1, (insertPlan_writes s c).2, prefixReleasePlan_writes s c⟩
  · simp [swapPlan, h]
  · simp [swapPlan, h, ha]

end Sys2Proof.Machine
end

section
/-! CERTIFICATE. The rows of chapter 07. -/

namespace Sys2Proof.Machine

open Sys2Proof.Claims

/-- Settles O30: attention writes rows, the cache its entries and roots; each row runs its plan, and ATTN_FWD then ends the walks of
its ended units. -/
theorem attentionAndCacheRows : Obligations.AttentionAndCacheRows := by
  unfold Obligations.AttentionAndCacheRows
  refine ⟨fun s c => ⟨fwdPlan_writesRows s c, bwdPlan_writesRows s c⟩, cacheWrites, fun ring s c t hready hq hclear => ?_, ?_⟩
  · show Host.Outcome.next (endWalks (runOp s ring 0x300 fwdPlan) ring.toNat) = _
    rw [runOp_of_ready fwdPlan hready hq, runPlan_of_clear hclear]
  · refine ⟨?_, ?_, ?_, ?_, ?_, ?_⟩
    all_goals exact rowRuns_of_runOp fun _ _ => rfl

end Sys2Proof.Machine
end

section
/-! SUPPORT. What the activation-store, memory, remote and resilience commands write and move. -/

namespace Sys2Proof.Machine

open Sys2Proof.Claims

/-! ### COPY, CONVERT, SAVE_ACT and LOAD_ACT -/

/-- A move between device-virtual addresses. -/
def localMove (src dst len : Nat) : Move := { src := src, srcG := false, dst := dst, dstG := false, len := len }

theorem copyPlan_moves (s : State) (c : InFlight) {ix : List Nat}
    (hix : ix ∈ outerIndexes ((copyFields c.desc).outer (tens s c.part (copyFields c.desc).src).rank)) :
    let f := copyFields c.desc
    let a := tens s c.part f.src
    let b := tens s c.part f.dst
    let n := f.ext.getD 0 0
    let from' := a.inBuf + a.rowOffset (a.rowIndex ix)
    let onto := b.outBuf (voutOf c.desc) + b.rowOffset (b.rowIndex ix)
    localMove from' onto (n * a.fmt.bits / 8) ∈ (copyPlan s c).moves ∧
    (a.fmt.isBlock = true → localMove (a.inBuf + a.scalePlane + a.rowIndex ix * a.blocks)
      (b.outBuf (voutOf c.desc) + b.scalePlane + b.rowIndex ix * b.blocks) ((n + 31) / 32) ∈ (copyPlan s c).moves) := by
  refine ⟨List.mem_flatMap.mpr ⟨ix, hix, List.mem_cons_self⟩, fun hblock => List.mem_flatMap.mpr ⟨ix, hix, ?_⟩⟩
  dsimp only
  rw [if_pos hblock]
  exact List.mem_cons_of_mem _ List.mem_cons_self

/-- The half byte that ends an odd row of BS4 keeps the other half of its byte (R113, R253). -/
theorem copyPlan_halfByte (s : State) (c : InFlight) {ix : List Nat}
    (hix : ix ∈ outerIndexes ((copyFields c.desc).outer (tens s c.part (copyFields c.desc).src).rank))
    (h4 : (tens s c.part (copyFields c.desc).src).fmt = .bs4) (hodd : (copyFields c.desc).ext.getD 0 0 % 2 = 1) :
    let f := copyFields c.desc
    let a := tens s c.part f.src
    let b := tens s c.part f.dst
    let whole := f.ext.getD 0 0 * a.fmt.bits / 8
    let from' := a.inBuf + a.rowOffset (a.rowIndex ix)
    let onto := b.outBuf (voutOf c.desc) + b.rowOffset (b.rowIndex ix)
    (onto + whole, [lowNibble (vaByte s c.part c.ring (onto + whole)) (vaByte s c.part c.ring (from' + whole))]) ∈
      (copyPlan s c).writes := by
  have half : (tens s c.part (copyFields c.desc).src).halfEnd ((copyFields c.desc).ext.getD 0 0) = true := by
    unfold Tens.halfEnd
    rw [h4, hodd]
    rfl
  unfold copyPlan
  dsimp only
  rw [if_pos half, List.map_map]
  exact List.mem_map.mpr ⟨ix, hix, rfl⟩

theorem convertPlan_writesRows (s : State) (c : InFlight)
    (hfit : (copyFields c.desc).ext.getD 0 0 ≤ (tens s c.part (copyFields c.desc).dst).cols) :
    let f := copyFields c.desc
    WritesRows (convertPlan s c) (voutOf c.desc) [(tens s c.part f.dst, fun r =>
      ∃ ix ∈ outerIndexes (f.outer (tens s c.part f.src).rank), r = (tens s c.part f.dst).rowIndex ix)] := by
  refine ⟨rfl, rfl, rfl, fun x hx => ⟨_, List.mem_singleton.mpr rfl, ?_⟩⟩
  obtain ⟨o, ho, hx⟩ := List.mem_flatMap.mp (show x ∈ List.flatMap _ _ from hx)
  obtain ⟨ix, hix, rfl⟩ := List.mem_map.mp ho
  exact ⟨_, ⟨ix, hix, rfl⟩, writeRow_rowsIn s _ _ _ _ _ (by simpa using hfit) x hx⟩

theorem savePlan_writes (s : State) (c : InFlight) :
    (∀ x ∈ (savePlan s c).writes, (tens s c.part (saveFields c.desc).store).outBuf (voutOf c.desc) ≤ x.1) ∧
    (savePlan s c).gwrites = [] ∧ (savePlan s c).undef = [] ∧
    ∃ h d, (savePlan s c).writes.take 2 = [((tens s c.part (saveFields c.desc).store).outBuf (voutOf c.desc), h),
      ((tens s c.part (saveFields c.desc).store).outBuf (voutOf c.desc) + 64, d)] := by
  refine ⟨fun x hx => ?_, rfl, rfl, _, _, rfl⟩
  rcases List.mem_append.mp (show x ∈ _ ++ _ from hx) with hx | hx
  · rcases List.mem_append.mp hx with hx | hx
    · rcases List.mem_cons.mp hx with rfl | hx
      · exact le_refl _
      · rw [List.mem_singleton.mp hx]
        exact Nat.le_add_right _ _
    · obtain ⟨y, -, rfl⟩ := List.mem_map.mp hx
      exact (Nat.le_add_right _ _).trans (Nat.le_add_right _ _)
  · obtain ⟨y, -, rfl⟩ := List.mem_map.mp hx
    exact (Nat.le_add_right _ _).trans (Nat.le_add_right _ _)

/-- A written row lies at or above its buffer, whatever its values. -/
theorem writeRow_above (s : State) (w : Who) (t : Tens) (b row c0 : Nat) (vs : List FVal) (sat : Bool) (rng : Option Rng) :
    ∀ x ∈ (writeRow s w t b row c0 vs sat rng).writes, b ≤ x.1 := by
  intro x hx
  unfold writeRow at hx
  split at hx
  · simp only [List.mem_flatMap, List.mem_map] at hx
    obtain ⟨o, ⟨chunk, -, rfl⟩, hx⟩ := hx
    unfold writeBlock at hx
    simp only [List.mem_cons, List.not_mem_nil, or_false] at hx
    rcases hx with rfl | rfl
    · split
      · dsimp only
        omega
      · dsimp only
        omega
    · dsimp only
      omega
  · dsimp only at hx
    split at hx
    · exact absurd hx List.not_mem_nil
    · rw [List.mem_singleton.mp hx]
      dsimp only
      omega

theorem loadPlan_writes (s : State) (c : InFlight) :
    (∀ x ∈ (loadPlan s c).writes, (tens s c.part (loadFields c.desc).dst).outBuf (voutOf c.desc) ≤ x.1) ∧
    (loadPlan s c).gwrites = [] ∧ (loadPlan s c).undef = [] := by
  unfold loadPlan
  extract_lets w f st b t x h firsts frames dirs exact' ob outs
  split
  · exact ⟨fun x hx => absurd hx List.not_mem_nil, rfl, rfl⟩
  · split
    · exact ⟨fun x hx => absurd hx List.not_mem_nil, rfl, rfl⟩
    · refine ⟨fun x hx => ?_, rfl, rfl⟩
      obtain ⟨o, ho, hx⟩ := List.mem_flatMap.mp hx
      obtain ⟨v, -, ho⟩ := List.mem_flatMap.mp ho
      obtain ⟨tm, -, ho⟩ := List.mem_flatMap.mp ho
      obtain ⟨j, -, rfl⟩ := List.mem_map.mp ho
      dsimp only at hx
      split at hx
      · rw [writePats_place hx]
        exact Nat.le_add_right _ _
      · exact writeRow_above _ _ _ _ _ _ _ _ _ x hx

/-! ### SPILL, FETCH, MAP and remote accesses -/

theorem spillPlan_plain (s : State) (c : InFlight) (h : (spillFields c.desc).isStore = false ∨ opcOf c.desc = 0x504) :
    (spillPlan s c).writes = [] ∧ (spillPlan s c).moves =
      [{ src := (tens s c.part (spillFields c.desc).src).inBuf, srcG := false,
         dst := (tens s c.part (spillFields c.desc).dst).outBuf (voutOf c.desc), dstG := false,
         len := spillBytes s { part := c.part, ring := c.ring } (spillFields c.desc) }] := by
  have plain : ((spillFields c.desc).isStore && !(opcOf c.desc == 0x504)) = false := by
    rcases h with h | h <;> simp [h]
  simp [spillPlan, plain]

theorem remotePlan_moves (s : State) (c : InFlight) (h : isAtomic c.desc = false) :
    (remotePlan s c).writes = [] ∧ (remotePlan s c).moves = [if opcOf c.desc = 0x600
      then { src := (remFields c.desc).remote, srcG := true, dst := (tens s c.part (remFields c.desc).loc).outBuf (voutOf c.desc),
             dstG := false, len := (remFields c.desc).len }
      else { src := (tens s c.part (remFields c.desc).loc).inBuf, srcG := false, dst := (remFields c.desc).remote, dstG := true,
             len := (remFields c.desc).len }] := by
  by_cases hread : opcOf c.desc = 0x600
  · simp [remotePlan, h, hread, Plan.ok]
  · simp [remotePlan, h, hread, Plan.ok]

theorem mapPlan_writes (s : State) (c : InFlight) :
    ∀ x ∈ (mapPlan s c).writes, (mapFields c.desc).resultEn = true ∧ x.2.length = 8 ∧
      ∃ i, x.1 = (tens s c.part (mapFields c.desc).result).outBuf (voutOf c.desc) + 8 * i := by
  intro x hx
  unfold mapPlan at hx
  dsimp only at hx
  split at hx
  · exact absurd hx List.not_mem_nil
  · exact absurd hx List.not_mem_nil
  · exact absurd hx List.not_mem_nil
  · split at hx
    next hen =>
      obtain ⟨y, -, rfl⟩ := List.mem_map.mp hx
      exact ⟨hen, leBytes_length _ _, y.2, rfl⟩
    · exact absurd hx List.not_mem_nil

theorem storeAndMemoryWrites : StoreAndMemoryWrites := by
  intro s c
  refine ⟨⟨rfl, rfl, fun ix hix => ⟨fun i hi => ?_, fun h4 hodd => copyPlan_halfByte s c hix h4 hodd, fun hblock => ?_⟩⟩,
    convertPlan_writesRows s c, savePlan_writes s c, loadPlan_writes s c, spillPlan_plain s c, remotePlan_moves s c,
    mapPlan_writes s c, rfl, rfl, rfl⟩
  · refine ⟨_, (copyPlan_moves s c hix).1, rfl, rfl, Nat.le_add_right _ _, Nat.add_lt_add_left hi _, ?_⟩
    dsimp only [localMove]
    omega
  · exact ⟨_, (copyPlan_moves s c hix).2 hblock, rfl, rfl, rfl⟩

/-! ### CUT, RESTORE, DIGEST and RECONSTRUCT from a mirror -/

theorem restorePlan_writes (s : State) (c : InFlight) :
    ∃ codes : List Byte, (restorePlan s c).writes = [((tens s c.part (cutFields c.desc).out).outBuf (voutOf c.desc), codes)] ∧
      codes.length = pGet s c.part 9 := by
  unfold restorePlan
  dsimp only
  split
  · exact ⟨_, rfl, List.length_replicate⟩
  · refine ⟨_, rfl, ?_⟩
    split
    next h =>
      rw [List.length_map, List.length_map, List.length_range]
    · exact List.length_replicate

theorem digestPlan_writes (s : State) (c : InFlight) :
    (∀ x ∈ (digestPlan s c).writes, x.1 = (tens s c.part (cutFields c.desc).out).outBuf (voutOf c.desc)) ∧
    ((cutFields c.desc).wantEn = false → (digestPlan s c).writes = [((tens s c.part (cutFields c.desc).out).outBuf (voutOf c.desc),
      imageDigest (packedImage s { part := c.part, ring := c.ring } (tens s c.part (cutFields c.desc).tgt)
        ((tens s c.part (cutFields c.desc).tgt).buf (tens s c.part (cutFields c.desc).tgt).cur)))]) := by
  refine ⟨fun x hx => ?_, fun h => ?_⟩
  · unfold digestPlan at hx
    dsimp only at hx
    split at hx
    · exact absurd hx List.not_mem_nil
    · rw [List.mem_singleton.mp hx]
  · simp [digestPlan, h]

theorem mirrorPlan_writes (s : State) (c : InFlight) :
    ((parFields c.desc).dst = 0 ∨ 0x10 ≤ (mirrorPlan s c).status → (mirrorPlan s c).writes = []) ∧ (mirrorPlan s c).gwrites = [] := by
  generalize hp : mirrorPlan s c = p
  unfold mirrorPlan at hp
  dsimp only at hp
  split at hp
  · subst hp; exact ⟨fun _ => rfl, rfl⟩
  · split at hp
    · subst hp; exact ⟨fun _ => rfl, rfl⟩
    · split at hp
      · subst hp
        refine ⟨fun h => ?_, rfl⟩
        rcases h with h | h
        · exact if_pos h
        · exact absurd (show 0x10 ≤ Plan.ok.status from h) (by decide)
      · subst hp; exact ⟨fun _ => rfl, rfl⟩

end Sys2Proof.Machine
end

section
/-! CERTIFICATE. The rows of chapters 08 to 11 that carry out a plan. -/

namespace Sys2Proof.Machine

open Sys2Proof.Claims

/-- Settles O31: what the plans write and move, read off each plan; each row runs its plan. -/
theorem storeAndMemoryRows : Obligations.StoreAndMemoryRows := by
  unfold Obligations.StoreAndMemoryRows
  refine ⟨storeAndMemoryWrites, ?_, ?_, ?_, ?_, ?_, ?_, ?_, ?_, ?_, ?_, ?_⟩
  all_goals exact rowRuns_of_runOp fun _ _ => rfl

/-- Settles O32: what the plans write, read off each plan; each row runs its plan. -/
theorem resilienceRows : Obligations.ResilienceRows := by
  unfold Obligations.ResilienceRows
  refine ⟨fun s c => ⟨⟨rfl, restorePlan_writes s c, (digestPlan_writes s c).1, (digestPlan_writes s c).2⟩, mirrorPlan_writes s c,
    rfl, rfl⟩, ?_, ?_, ?_, ?_, ?_, ?_⟩
  all_goals exact rowRuns_of_runOp fun _ _ => rfl

end Sys2Proof.Machine
end

section
/-! CERTIFICATE. O33 (CollectiveRows): a run of the collective engine for a collective it holds, whose operands can be read. -/

namespace Sys2Proof.Machine

open Sys2Proof.Claims

/-- Operands that are mapped, present and local, or fetched already, block no collective. -/
theorem collBlocked_eq_none {s : State} {ring : Nat} {c : InFlight} {reads : List (Nat × Nat)} {t : Touched}
    (htouch : touched s { part := c.part, ring := ring } { Plan.ok with reads := reads } = .ok t) (hread : waitsRead s ring = false)
    (hhost : ∀ x ∈ t.reads, hostRange x.1 = true → falyndiUp s = true)
    (hnode : ∀ x ∈ t.reads, remoteAddr s x.1 = true → nodeStatus s (gaNode x.1) = 0) (hlost : lostRead s t.reads = none)
    (hfetch : toFetch s c t = []) : collBlocked s ring c reads = none := by
  have reached : (t.reads.any (fun x => hostRange x.1) && !falyndiUp s) = false := by
    by_cases hup : falyndiUp s = true
    · simp [hup]
    · rw [Bool.and_eq_false_iff, List.any_eq_false]
      exact Or.inl fun x hx hr => hup (hhost x hx hr)
  have present : t.reads.find? (fun x => remoteAddr s x.1 && nodeStatus s (gaNode x.1) != 0) = none := by
    rw [List.find?_eq_none]
    intro x hx
    by_cases hr : remoteAddr s x.1 = true
    · simp [hnode x hx hr]
    · simp [hr]
  unfold collBlocked
  rw [htouch]
  simp only [hread, reached, present, hlost, hfetch, Bool.or_self, Bool.false_eq_true, if_false, List.isEmpty_nil, if_true]

/-- The collective once the engine has sent every message whose bytes are there. -/
def collSent (s : State) (c : InFlight) (inst : CollInst) : CollInst :=
  let x := collCtx (instTakes s inst).1 { part := c.part, ring := c.ring } c.desc (instTakes s inst).2
  { (instTakes s inst).2 with sent := inst.sent + (x.ready (x.sends.drop inst.sent)).length }

/-- The state in which those messages have been sent. -/
def collAsked (s : State) (ring : Nat) (c : InFlight) (inst : CollInst) : State :=
  let x := collCtx (instTakes s inst).1 { part := c.part, ring := c.ring } c.desc (instTakes s inst).2
  asks (some ring) (setFlight (instTakes s inst).1 ring (fun f => { f with coll := some (collSent s c inst) }))
    ((x.ready (x.sends.drop inst.sent)).flatMap (fun y => x.chunkAsks y.1 y.2))

/-- One run of the engine for such a collective: it takes what has arrived, sends what it can, and with everything sent and received runs
its plan. -/
theorem runColl_of_ready {s : State} {ring opc : Nat} {c : InFlight} {inst : CollInst} (h : Ready s ring opc c)
    (hcoll : c.coll = some inst) (hheld : collHeld s c = true)
    (hfree : collBlocked s ring c (collReads s { part := c.part, ring := c.ring } c.desc) = none) :
    runColl s ring opc =
      let x := collCtx (instTakes s inst).1 { part := c.part, ring := c.ring } c.desc (instTakes s inst).2
      match (if (collSent s c inst).sent = x.sends.length
          then collPlan (instTakes s inst).1 { part := c.part, ring := c.ring } c x else none) with
      | none => collAsked s ring c inst
      | some p => runPlan (collAsked s ring c inst) ring { c with coll := some (collSent s c inst) }
          { p with reads := collReads (instTakes s inst).1 { part := c.part, ring := c.ring } c.desc } := by
  unfold runColl
  simp only [readyFlight_of_ready h, hcoll, hheld, hfree, Bool.not_true, Bool.false_eq_true, if_false]
  rfl

/-- A plan whose command's transactions are still outstanding goes on later. -/
theorem runPlan_waits {s : State} {ring : Nat} {c : InFlight} {p : Plan} {t : Touched}
    (htouch : touched (withMaps s p.maps) { part := c.part, ring := c.ring } p = .ok t) (hwait : waitsTxn s ring = true) :
    runPlan s ring c p = s := by
  unfold runPlan
  rw [htouch]
  simp only [hwait, Bool.or_true, Bool.true_or, if_true]

/-- A row of the collective engine runs as its collective does. -/
theorem collRuns_of_runColl {i : RingId → Instr} {opc : Nat}
    (hexec : ∀ ring s, exec (i ring) s = .next (runColl s ring.toNat opc)) : CollRuns i opc := by
  intro ring s c inst t0 hready hcoll hheld w s1 inst1 x out inst2 s2 htouch hread hhost hnode hlost hfetch
  have runs := runColl_of_ready hready hcoll hheld (collBlocked_eq_none (reads := collReads s w c.desc) htouch hread hhost hnode hlost
    hfetch)
  rw [hexec, runs]
  refine ⟨fun hnot => congrArg _ ?_, fun hsent p t hp => ⟨fun htouched hwaits => congrArg _ ?_, fun hclear => congrArg _ ?_⟩⟩
  · have later : (if inst2.sent = x.sends.length then collPlan s1 w c x else none) = none := by
      split
      case isTrue hsent => exact hnot.resolve_left (not_not_intro hsent)
      case isFalse => rfl
    change (match (if inst2.sent = x.sends.length then collPlan s1 w c x else none) with
      | none => s2
      | some p => runPlan s2 ring.toNat { c with coll := some inst2 } { p with reads := collReads s1 w c.desc }) = s2
    rw [later]
  all_goals
    have now : (if inst2.sent = x.sends.length then collPlan s1 w c x else none) = some p := by rw [if_pos hsent, hp]
    change (match (if inst2.sent = x.sends.length then collPlan s1 w c x else none) with
      | none => s2
      | some p => runPlan s2 ring.toNat { c with coll := some inst2 } { p with reads := collReads s1 w c.desc }) = _
    rw [now]
  · exact runPlan_waits htouched hwaits
  · exact runPlan_of_clear hclear

/-- Settles O33: each of the five rows is one run of the collective engine for its collective. -/
theorem collectiveRows : Obligations.CollectiveRows :=
  ⟨collRuns_of_runColl fun _ _ => rfl, collRuns_of_runColl fun _ _ => rfl, collRuns_of_runColl fun _ _ => rfl,
    collRuns_of_runColl fun _ _ => rfl, collRuns_of_runColl fun _ _ => rfl⟩

end Sys2Proof.Machine

end

section
/-! SUPPORT. A plan that names no unit counts and takes no pages ends its command: the command in flight has run. -/

namespace Sys2Proof.Machine

open Sys2Proof.Claims

theorem hostFetch_hop (s : State) (a n : Nat) : (hostFetch s a n).hop = s.hop := by
  unfold hostFetch
  exact fold_hop _ (fun s x => falyndiOut_hop s 3 _) (kib a n) s

/-- The state of a plan's accesses: what it fetches from the host and what it stores change no record of the hopper. -/
theorem planAccesses_hop (s : State) (w : Who) (c : InFlight) (p : Plan) (t : Touched) (hres : p.reserve = []) :
    (planStores ((t.reads.filter (fun x => hostRange x.1)).foldl (fun s x => hostFetch s x.1 x.2) s) w c p t).hop = s.hop := by
  rw [planStores_hop _ _ _ _ _ hres]
  exact fold_hop (fun s (x : Nat × Nat) => hostFetch s x.1 x.2) (fun s x => hostFetch_hop s x.1 x.2) _ s

theorem flightOf_of_hop {s t : State} (h : t.hop = s.hop) (ring : Nat) : flightOf t ring = flightOf s ring := by
  unfold flightOf
  rw [h]

theorem flightOf_finishRun (s : State) (ring status : Nat) (acts : List CommitAct) (wrote : List (Nat × Nat))
    (results : List (Nat × List Byte)) (reserve : List PageRes) :
    flightOf (finishRun s ring status acts wrote results reserve) ring = (flightOf s ring).map (fun f => { f with
      executed := true, status := BitVec.ofNat 8 status, acts := f.acts ++ acts, wrote := f.wrote ++ wrote,
      results := f.results ++ results, reserved := f.reserved ++ reserve }) :=
  flightOf_setFlight _ _ _ fun _ => rfl

/-- After such a plan the ring's command has run. -/
theorem ranPlan_executed {s : State} {ring : Nat} {c0 : InFlight} (c : InFlight) {p : Plan} (t : Touched)
    (hflight : flightOf s ring = some c0) (hres : p.reserve = []) (hunits : p.unitCounts = []) :
    (flightOf (ranPlan s ring c p t) ring).any (fun x => x.executed) = true := by
  have kept := flightOf_of_hop (planAccesses_hop s { part := c.part, ring := c.ring } c p t hres) ring
  unfold ranPlan
  dsimp only
  rw [chargeUnits_of_empty]
  · rw [flightOf_setFlight, flightOf_finishRun, kept, hflight]
    · rfl
    · exact fun _ => rfl
  · intro x hx
    rw [flightOf_setFlight _ _ _ (by exact fun _ => rfl), Option.map_eq_some_iff] at hx
    obtain ⟨f, -, rfl⟩ := hx
    exact hunits

end Sys2Proof.Machine

end

section
/-! CERTIFICATE. O34 (ParityRows): a run of the engine for a parity collective it holds, by the command's role. -/

namespace Sys2Proof.Machine

open Sys2Proof.Claims

/-- A collective's plan that nothing hinders is carried out; without its version the other members are told. -/
theorem runInstance_of_clear {s : State} {ring : Nat} {c0 c : InFlight} (inst : CollInst) {p : Plan} {t : Touched}
    (hflight : flightOf s ring = some c0) (hres : p.reserve = []) (hunits : p.unitCounts = []) (h : Clear s ring c p t) :
    runInstance s ring c inst p = ranInstance s ring c inst p t := by
  have ended := ranPlan_executed c t hflight hres hunits
  unfold runInstance ranInstance
  rw [runPlan_of_clear h]
  simp only [ended, and_true]

theorem memberPlan_plain (s : State) (c : InFlight) (inst : CollInst) :
    (memberPlan s c inst).reserve = [] ∧ (memberPlan s c inst).unitCounts = [] := by
  unfold memberPlan
  dsimp only
  split <;> exact ⟨rfl, rfl⟩

theorem rebuilderPlan_plain (s : State) (c : InFlight) (inst : CollInst) (b : Nat) :
    (rebuilderPlan s c inst b).reserve = [] ∧ (rebuilderPlan s c inst b).unitCounts = [] := by
  unfold rebuilderPlan
  dsimp only
  split <;> exact ⟨rfl, rfl⟩

/-- The record of a parity command once the engine has taken what arrived: the holder has merged it (R300). -/
def tookChunks (s : State) (c : InFlight) (inst : CollInst) (f : InFlight) : InFlight :=
  { f with
    coll := some (instTakes s inst).2
    results := if isHolder c.desc
      then (s.fab.staged.filter (fun k => k.pkt.addr / 2 ^ 32 == inst.collId.toNat)).foldl xorArrival f.results else f.results }

theorem takeChunks_eq (s : State) (ring : Nat) (c : InFlight) (inst : CollInst) :
    takeChunks s ring c inst = setFlight (instTakes s inst).1 ring (tookChunks s c inst) := rfl

/-- A member's run is its plan's. -/
theorem runParity_of_member {s : State} {ring opc : Nat} {c : InFlight} {inst : CollInst} (h : Ready s ring opc c)
    (hcoll : c.coll = some inst) (hheld : collHeld s c = true) (hrole : (parFields c.desc).role = 0) :
    runParity s ring opc = runInstance s ring c inst (memberPlan s c inst) := by
  unfold runParity
  simp only [readyFlight_of_ready h, hcoll, hheld, hrole, Bool.not_true, Bool.false_eq_true, if_false, if_true]

/-- A holder or rebuilder takes what has arrived, and waits for its members. -/
theorem runParity_of_taker {s : State} {ring opc : Nat} {c : InFlight} {inst : CollInst} (h : Ready s ring opc c)
    (hcoll : c.coll = some inst) (hheld : collHeld s c = true) (hrole : (parFields c.desc).role ≠ 0) :
    runParity s ring opc =
      let s1 := setFlight (instTakes s inst).1 ring (tookChunks s c inst)
      let c1 := tookChunks s c inst c
      match (if opc = 0x801 then some 0 else rebuilderBuf s1 c1) with
      | none => runInstance s1 ring c1 (instTakes s inst).2 { Plan.stop 0x41 with undef := rebuilderOut s1 c1 }
      | some b =>
        if !membersDone c.desc (instTakes s inst).2 then s1
        else runInstance s1 ring c1 (instTakes s inst).2
          (if opc = 0x801 then holderPlan s1 c1 else rebuilderPlan s1 c1 (instTakes s inst).2 b) := by
  have taken : flightOf (setFlight (instTakes s inst).1 ring (tookChunks s c inst)) ring = some (tookChunks s c inst c) := by
    rw [flightOf_setFlight _ _ _ (by exact fun _ => rfl), flightOf_of_hop (s := s) (t := (instTakes s inst).1) rfl, h.1]
    rfl
  unfold runParity
  simp only [readyFlight_of_ready h, hcoll, hheld, hrole, Bool.not_true, Bool.false_eq_true, if_false, takeChunks_eq, taken]
  rfl

/-- A parity row runs as its collective does, when the version and the plan are the ones of its opcode. -/
theorem parityRuns_of_runParity {i : RingId → Instr} {opc : Nat} {buf : State → InFlight → Option Nat}
    {plan : State → InFlight → CollInst → Nat → Plan}
    (hexec : ∀ ring s, exec (i ring) s = .next (runParity s ring.toNat opc))
    (hbuf : ∀ s c, (if opc = 0x801 then some 0 else rebuilderBuf s c) = buf s c)
    (hplan : ∀ s c inst b, (if opc = 0x801 then holderPlan s c else rebuilderPlan s c inst b) = plan s c inst b)
    (hplain : ∀ s c inst b, (plan s c inst b).reserve = [] ∧ (plan s c inst b).unitCounts = []) :
    ParityRuns i opc buf plan := by
  intro ring s c inst hready hcoll hheld inst1 merged took s1 c1 absent
  have taken : flightOf s1 ring.toNat = some c1 := by
    rw [flightOf_setFlight _ _ _ (by exact fun _ => rfl), flightOf_of_hop (s := s) (t := (instTakes s inst).1) rfl, hready.1]
    rfl
  rw [hexec]
  refine ⟨fun hrole t hclear => congrArg _ ?_, fun hrole hnone t hclear => congrArg _ ?_,
    fun hrole b hsome => ⟨fun hmissing => congrArg _ ?_, fun hdone t hclear => congrArg _ ?_⟩⟩
  · rw [runParity_of_member hready hcoll hheld hrole]
    exact runInstance_of_clear inst hready.1 (memberPlan_plain s c inst).1 (memberPlan_plain s c inst).2 hclear
  all_goals
    rw [runParity_of_taker hready hcoll hheld hrole]
    simp only [hbuf, hplan]
    change (match buf s1 c1 with
      | none => runInstance s1 ring.toNat c1 inst1 absent
      | some b => if !membersDone c.desc inst1 then s1 else runInstance s1 ring.toNat c1 inst1 (plan s1 c1 inst1 b)) = _
  · rw [hnone]
    exact runInstance_of_clear inst1 taken rfl rfl hclear
  · rw [hsome]
    exact if_pos (by rw [hmissing]; rfl)
  · rw [hsome]
    dsimp only
    rw [if_neg (by rw [hdone]; exact Bool.false_ne_true)]
    exact runInstance_of_clear inst1 taken (hplain s1 c1 inst1 b).1 (hplain s1 c1 inst1 b).2 hclear

/-- Settles O34: each of the two rows is one run of the engine for its parity collective. -/
theorem parityRows : Obligations.ParityRows :=
  ⟨parityRuns_of_runParity (opc := 0x801) (fun _ _ => rfl) (fun _ _ => if_pos rfl) (fun _ _ _ _ => if_pos rfl)
      (fun _ _ _ _ => ⟨rfl, rfl⟩),
    parityRuns_of_runParity (opc := 0x803) (fun _ _ => rfl) (fun _ _ => if_neg (by decide)) (fun _ _ _ _ => if_neg (by decide))
      rebuilderPlan_plain⟩

end Sys2Proof.Machine

end

section
/-! CERTIFICATE. O35 (MediaRows): what the media commands write, how they run, and the media watchdog. -/

namespace Sys2Proof.Machine

open Sys2Proof.Claims

/-- RESULT is 32 bytes: eight words. -/
theorem resultWrite_eight (s : State) (part idx : Nat) (vout : Bool) (a b c d e f g h : Nat) :
    ∃ r : List Byte, r.length = 32 ∧
      resultWrite s part idx vout [a, b, c, d, e, f, g, h] = [((tens s part idx).outBuf vout, r)] :=
  ⟨[a, b, c, d, e, f, g, h].flatMap (leBytes 4), flatMap_leBytes_length 4 id [a, b, c, d, e, f, g, h], rfl⟩

theorem encPlan_writes {s : State} {c : InFlight} {x : MediaCtx}
    (h : findCtx s (encFields c.desc).engine (encFields c.desc).ctx = some x) :
    ∃ r : List Byte, r.length = 32 ∧ (encPlan s c).plan.writes =
      [((tens s c.part (encFields c.desc).bsout).outBuf (voutOf c.desc) + (encFields c.desc).offset,
        (encRun s { part := c.part, ring := c.ring } (encFields c.desc) x).bytes),
       ((tens s c.part (encFields c.desc).result).outBuf (voutOf c.desc), r)] := by
  obtain ⟨r, hr, hw⟩ := resultWrite_eight s c.part (encFields c.desc).result (voutOf c.desc)
    (encRun s { part := c.part, ring := c.ring } (encFields c.desc) x).bytes.length (encFields c.desc).frames
    (encRun s { part := c.part, ring := c.ring } (encFields c.desc) x).fallen
    (encRun s { part := c.part, ring := c.ring } (encFields c.desc) x).keys 0 0 0 0
  refine ⟨r, hr, ?_⟩
  unfold encPlan
  extract_lets f w v
  rw [show findCtx s f.engine f.ctx = some x from h]
  exact congrArg _ hw

/-- A DECODE that found a picture, or had none to find, writes RESULT last; one that found none writes RESULT alone. -/
theorem decPlan_writes {s : State} {c : InFlight} {x : MediaCtx}
    (h : findCtx s (decFields c.desc).engine (decFields c.desc).ctx = some x) :
    ∃ r : List Byte, r.length = 32 ∧
      (((decPlan s c).plan.status = 0x42 ∧
          (decPlan s c).plan.writes = [((tens s c.part (decFields c.desc).result).outBuf (voutOf c.desc), r)] ∧
          (decPlan s c).copy = none ∧
          ((decFields c.desc).outEn = true → ((tens s c.part (decFields c.desc).out).outBuf (voutOf c.desc),
            (tens s c.part (decFields c.desc).out).span) ∈ (decPlan s c).plan.undef)) ∨
        (((decPlan s c).plan.status = 0 ∨ (decPlan s c).plan.status = 3) ∧ (decPlan s c).copy.isSome = true ∧
          ((tens s c.part (decFields c.desc).result).outBuf (voutOf c.desc), r) ∈ (decPlan s c).plan.writes ∧
          ((decFields c.desc).outEn = false → (decFields c.desc).dmapEn = false → (decFields c.desc).grainEn = false →
            (decPlan s c).plan.writes = [((tens s c.part (decFields c.desc).result).outBuf (voutOf c.desc), r)]))) := by
  unfold decPlan
  extract_lets f w v t outs
  rw [show findCtx s f.engine f.ctx = some x from h]
  dsimp -zeta only
  extract_lets o ps made dead any last rows result counts
  obtain ⟨r, hr, hw⟩ : ∃ r : List Byte, r.length = 32 ∧ result = [((tens s c.part f.result).outBuf v, r)] :=
    resultWrite_eight s c.part f.result v _ _ _ _ _ _ _ _
  refine ⟨r, hr, ?_⟩
  by_cases hdead : dead = true
  · rw [if_pos hdead]
    refine Or.inl ⟨rfl, hw, rfl, fun hout => ?_⟩
    have named : f.out ∈ outs := by simp [outs, show f.outEn = true from hout]
    exact List.mem_map_of_mem (f := fun i => ((t i).outBuf v, (t i).span)) named
  · rw [if_neg hdead]
    refine Or.inr ⟨?_, rfl, ?_, fun hout hmap hgrain => ?_⟩
    · by_cases hany : any = true
      · exact Or.inr (if_pos hany)
      · exact Or.inl (if_neg hany)
    · exact List.mem_append_right _ (hw ▸ List.mem_singleton_self _)
    · simp only [rows, show f.outEn = false from hout, show f.dmapEn = false from hmap, show f.grainEn = false from hgrain,
        Bool.false_eq_true, if_false, List.flatMap_nil, List.nil_append]
      exact hw

theorem mediaWrites : MediaWrites :=
  fun _ _ => ⟨fun _ h => encPlan_writes h, fun _ h => decPlan_writes h, rfl, rfl, rfl⟩

/-- A media command on an engine that has a place for it, with nothing in its plan's way, has run. -/
theorem mediaRuns_of_runMedia {i : RingId → Instr} {opc : Nat} {plan : State → InFlight → MediaRun}
    (hexec : ∀ ring s, exec (i ring) s = .next (runMedia s ring.toNat opc plan))
    (hplain : ∀ s c, (plan s c).plan.reserve = [] ∧ (plan s c).plan.unitCounts = []) : MediaRuns i opc plan := by
  intro ring s c e x t hready hname hfull hclear s1 s2
  have unarmed : ¬(opc ≠ 0x702 ∧ engineWithheld s e = 0 ∧
      s.hlth.injections.any (fun i => i.kind == 10 && i.unit.toNat == e) = true) := by
    obtain ⟨-, -, -, -, -, -, -, -, -, hinj⟩ := hclear
    rw [hinj]
    exact fun h => Bool.false_ne_true h.2.2
  have ended := ranPlan_executed c t hready.1 (hplain s c).1 (hplain s c).2
  rw [hexec]
  refine congrArg _ ?_
  unfold runMedia
  rw [readyFlight_of_ready hready]
  simp only [hname, hfull, Bool.false_eq_true, if_false]
  rw [if_neg unarmed, runPlan_of_clear hclear, if_pos ended] <;> rfl

theorem encPlan_plain (s : State) (c : InFlight) :
    (encPlan s c).plan.reserve = [] ∧ (encPlan s c).plan.unitCounts = [] := by
  unfold encPlan
  dsimp only
  split <;> exact ⟨rfl, rfl⟩

theorem decPlan_plain (s : State) (c : InFlight) :
    (decPlan s c).plan.reserve = [] ∧ (decPlan s c).plan.unitCounts = [] := by
  unfold decPlan
  extract_lets f
  split
  case h_1 => exact ⟨rfl, rfl⟩
  case h_2 =>
    extract_lets o ps made dead
    cases dead <;> exact ⟨rfl, rfl⟩

theorem ctxRowPlan_plain (op : Nat) (s : State) (c : InFlight) :
    (ctxRowPlan op s c).plan.reserve = [] ∧ (ctxRowPlan op s c).plan.unitCounts = [] := by
  unfold ctxRowPlan
  split <;> exact ⟨rfl, rfl⟩

/-- The media watchdog of a DECODE in flight notes a picture once. -/
theorem mediaWatchdog_runs {ring : RingId} (picture : BitVec 16) {s : State} {c : InFlight} (h : Ready s ring.toNat 0x700 c) :
    ((ring.toNat, picture.toNat) ∈ s.media.abandoned → exec (.mediaWatchdog ring picture) s = .next s) ∧
    ((ring.toNat, picture.toNat) ∉ s.media.abandoned → exec (.mediaWatchdog ring picture) s =
      .next (count { s with media := { s.media with abandoned := s.media.abandoned ++ [(ring.toNat, picture.toNat)] } }
        0x32B5 ((decFields c.desc).engine + 1) 1)) := by
  change (_ → execMediaWatchdog ring picture s = _) ∧ (_ → execMediaWatchdog ring picture s = _)
  unfold execMediaWatchdog
  rw [readyFlight_of_ready h]
  exact ⟨fun hin => congrArg _ (if_pos (List.contains_iff_mem.mpr hin)),
    fun hout => congrArg _ (if_neg (fun hin => hout (List.contains_iff_mem.mp hin)))⟩

/-- Settles O35: the rows run their plans, the plans write what is said, and the watchdog counts a picture once. -/
theorem mediaRows : Obligations.MediaRows :=
  ⟨mediaWrites, mediaRuns_of_runMedia (fun _ _ => rfl) decPlan_plain, mediaRuns_of_runMedia (fun _ _ => rfl) encPlan_plain,
    mediaRuns_of_runMedia (fun _ _ => rfl) (ctxRowPlan_plain 1), mediaRuns_of_runMedia (fun _ _ => rfl) (ctxRowPlan_plain 2),
    mediaRuns_of_runMedia (fun _ _ => rfl) (ctxRowPlan_plain 3), fun _ picture _ _ h => mediaWatchdog_runs picture h⟩

end Sys2Proof.Machine

end

section
/-! CERTIFICATE. O36 (RunFrame) fails: a unit whose checksum row names a column (R95, R96) is counted under `columnMismatch`, not under
0x3226, and is discarded as well (R93). -/

namespace Sys2Proof.Machine

open Sys2Proof.Claims

/-- The plan of a command whose unit 0 has such a mismatch. -/
def columnPlan : Plan := { Plan.ok with unitCounts := [(0, columnMismatch, 0)] }

/-- A command in flight on ring 0, its unit 0 ended by the first quern engine. -/
def columnFlight : InFlight :=
  { blankFlight State.reset 0 0 { pos := 0, desc := List.replicate 16 0, st := .accepted, order := 1, seg := none } with
    unitsDone := [{ agent := quernAgent, unit := 0 }] }

/-- The module after reset, with that command in flight. -/
def columnState : State := { State.reset with hop := { State.reset.hop with inflight := [columnFlight] } }

/-- Such a command is discarded once its plan has run. -/
theorem ranPlan_columnPlan_discards :
    ((ranPlan columnState 0 columnFlight columnPlan Touched.none).hop.inflight.map (fun f => f.discard)) =
      [some 0x10] := by decide +kernel

/-- Refutes O36: the excluded index 0x3226 is not the only one of a checksum mismatch. The plan `columnPlan` takes no pages and counts
nothing under 0x3226, and its command is discarded, which the frame does not say. -/
theorem not_runFrame : ¬ Obligations.RunFrame := by
  intro h
  have frame := (h columnState 0 columnFlight columnPlan Touched.none (by decide +kernel) rfl
    (by decide)).1
  have discarded := ranPlan_columnPlan_discards
  rw [frame] at discarded
  revert discarded
  decide +kernel

end Sys2Proof.Machine

end

section
/-! CERTIFICATE. O37 (RepeatedRequests): every request goes through `handle`, which says what reaches the module, what is repeated, and
what is one too many. -/

namespace Sys2Proof.Machine

open Sys2Proof.Claims

/-- A state that comes of the handling of a request. -/
def HandledTo (s : State) (rq : Req) (t : State) : Prop :=
  ∃ type index sub f, t = handle s rq type index sub f

/-- A command is handled as a request of a requester. -/
def Handled (i : Instr) (s : State) (rq : Req) : Prop :=
  ∃ t, exec i s = .next t ∧ HandledTo s rq t

theorem handledTo_handle (s : State) (rq : Req) (type index sub : Nat) (f : State → State) :
    HandledTo s rq (handle s rq type index sub f) := ⟨type, index, sub, f, rfl⟩

theorem handledTo_handleWrite (s : State) (rq : Req) (index sub : Nat) (value : List Byte) (op : State → State × Option Nat) :
    HandledTo s rq (handleWrite s rq index sub value op) := ⟨_, _, _, _, rfl⟩

theorem handledTo_ringRequest (s : State) (rq : Req) (op : Nat) (ring : RingId) (rsv : BitVec 46) :
    HandledTo s rq (ringRequest s rq op ring rsv) := by
  unfold ringRequest
  exact handledTo_handleWrite _ _ _ _ _ _

theorem handledTo_inSession (s : State) (rq : Req) (type index sub : Nat) (f : State → Session → State) :
    HandledTo s rq (inSession s rq type index sub f) := ⟨_, _, _, _, rfl⟩

theorem reaches_without_power {s : State} (src : Source) (h : s.pwr.inputOk = false) : reaches s src = false := by
  unfold reaches
  simp [h]

/-- Without a bar there is an entry. -/
theorem writeBar_of_absent {s : State} {index sub : Nat} (value : List Byte) (h : dictEntry s.variant (dk index sub) = none) :
    writeBar s index sub value = some stNoEntry := by
  unfold writeBar
  rw [h]
  exact ite_self _

theorem handledTo_writeRequest (s : State) (rq : Req) (index sub : Nat) (value : List Byte) :
    HandledTo s rq (writeRequest s rq index sub value) := by
  unfold writeRequest
  split
  case isTrue => exact handledTo_handle _ _ _ _ _ _
  case isFalse =>
    split
    case h_1 =>
      split
      case isTrue => exact handledTo_handle _ _ _ _ _ _
      case isFalse =>
        split
        case isTrue => exact handledTo_handleWrite _ _ _ _ _ _
        case isFalse => split <;> exact handledTo_handleWrite _ _ _ _ _ _
    case h_2 => exact handledTo_handle _ _ _ _ _ _
    case h_3 hbar habsent =>
      rw [writeBar_of_absent value habsent] at hbar
      exact absurd hbar (by simp)

theorem coreMask_handled (rq : Req) (part : PartId) {word : BitVec 2} (value : Word) (s : State) (h : word ≠ 3) :
    Handled (.coreMask rq part word value) s rq :=
  ⟨_, congrArg Host.Outcome.next (if_neg h), handledTo_handleWrite _ _ _ _ _ _⟩

theorem moduleReset_handled (rq : Req) (info : StartInfo) (s : State) : Handled (.moduleReset (some rq) info) s rq := by
  refine ⟨_, congrArg Host.Outcome.next ?_, handledTo_handle s rq 0x02 0x1500 1
    (fun s => moduleByCommand (respond s rq 0x02 0x1500 1 stOk []) info)⟩
  cases hpower : s.pwr.inputOk
  · simp [handle, reaches_without_power _ hpower]
  · simp

/-- Every command that carries a request is handled as one. -/
theorem handled_of_requestOf {i : Instr} {rq : Req} (s : State) (h : requestOf i = some rq) : Handled i s rq := by
  cases i
  case coreMask rq' part word value =>
    have hword : word ≠ 3 := by
      rintro rfl
      exact absurd h (by simp [requestOf])
    obtain rfl : rq' = rq := Option.some.inj ((if_neg hword).symm.trans h)
    exact coreMask_handled rq' part value s hword
  case moduleReset byPin info =>
    obtain rfl : byPin = some rq := h
    exact moduleReset_handled rq info s
  all_goals simp only [requestOf, Option.some.injEq, reduceCtorEq] at h
  all_goals subst h
  case write => exact ⟨_, rfl, handledTo_writeRequest _ _ _ _ _⟩
  case segment | segReq | segEnd | segAbort => exact ⟨_, rfl, handledTo_inSession _ _ _ _ _ _⟩
  case read | describe | discover | segInitUp | segInitDown | fwBundle | attestRequest | warmReset =>
    exact ⟨_, rfl, handledTo_handle _ _ _ _ _ _⟩
  case create | destroy | resume => exact ⟨_, rfl, handledTo_ringRequest _ _ _ _ _⟩
  all_goals exact ⟨_, rfl, handledTo_handleWrite _ _ _ _ _ _⟩

/-- What `handle` does with a request that it does not pass on. -/
theorem handle_unpassed (s : State) (rq : Req) (type index sub : Nat) (f : State → State) :
    (reaches s rq.src = false → handle s rq type index sub f = s) ∧
    (reaches s rq.src = true →
      (∀ b, rq.src = .badBus b → handle s rq type index sub f = countT s 0x3117 1) ∧
      ((∀ b, rq.src ≠ .badBus b) →
        (∀ k, keptFor s rq = some k → handle s rq type index sub f = deliver (awake s) rq k.bytes) ∧
        (keptFor s rq = none → 16 ≤ heldRequests s → handle s rq type index sub f = respond (awake s) rq type index sub stBusy []))) := by
  unfold handle
  refine ⟨fun h => by simp [h], fun h => ⟨fun b hbad => by rw [if_neg (by simp [h])]; simp only [hbad], fun hgood => ⟨fun k hk => ?_, fun hnone hfull => ?_⟩⟩⟩
  all_goals rw [if_neg (by simp [h])]
  all_goals cases hsrc : rq.src
  case badBus => exact absurd hsrc (hgood _)
  case badBus => exact absurd hsrc (hgood _)
  · simp only [hk]; rfl
  · simp only [hk]; rfl
  · simp only [hnone, hfull, if_true]; rfl
  · simp only [hnone, hfull, if_true]; rfl

/-- Settles O37: by `handle`, through which every request goes. -/
theorem repeatedRequests : Obligations.RepeatedRequests := by
  intro s i rq hrq
  obtain ⟨t, hexec, type, index, sub, f, rfl⟩ := handled_of_requestOf s hrq
  obtain ⟨hdeaf, hheard⟩ := handle_unpassed s rq type index sub f
  rw [hexec]
  refine ⟨fun h => congrArg _ (hdeaf h), fun h => ?_⟩
  obtain ⟨hbad, hgood⟩ := hheard h
  refine ⟨fun b hb => congrArg _ (hbad b hb), fun hsrc => ?_⟩
  obtain ⟨hkept, hfull⟩ := hgood hsrc
  exact ⟨fun k hk => congrArg _ (hkept k hk), fun hnone hmany => ⟨type, index, sub, congrArg _ (hfull hnone hmany)⟩⟩

end Sys2Proof.Machine

end

section
/-! CERTIFICATE. O38 (WriteRequest): the bars of a WRITE, the block that is not served, and what the entry's owner answers. -/

namespace Sys2Proof.Machine

open Sys2Proof.Claims

/-- A write to a block that is not served is answered BUSY. -/
theorem handleWrite_blocked {s : State} {rq : Req} {index sub : Nat} (value : List Byte) (op : State → State × Option Nat)
    (hheard : Heard s rq) (hhidden : hidden s index = false) (hblocked : blocked s (dk index sub) = true) :
    handleWrite s rq index sub value op = reject (awake s) rq index sub stBusy := by
  have hhidden' : hidden (awake s) index = false := hhidden
  have hblocked' : blocked (awake s) (dk index sub) = true := hblocked
  unfold handleWrite
  rw [handle_heard _ _ _ _ hheard]
  simp only [hhidden', hblocked', Bool.false_eq_true, if_false, if_true]
  rfl

/-- No entry that recovery hides passes the bars. -/
theorem hidden_of_writeBar {s : State} {index sub : Nat} {value : List Byte} (h : writeBar s index sub value = none) :
    hidden s index = false := by
  cases hh : hidden s index
  · rfl
  · unfold writeBar at h
    rw [hh] at h
    exact absurd h (by simp)

/-- A write that a bar stops has no effect but its answer. -/
theorem writeRequest_barred {s : State} {rq : Req} {index sub st : Nat} {value : List Byte} (hheard : Heard s rq)
    (hrange : ¬(0x7000 ≤ index ∧ index ≤ 0x7FFF)) (h : writeBar s index sub value = some st) :
    writeRequest s rq index sub value = reject (awake s) rq index sub st := by
  unfold writeRequest
  rw [if_neg fun hr => hrange ⟨hr.1, hr.2.1⟩, h]
  exact handle_heard _ _ _ _ hheard

/-- A write that passes the bars goes to the entry's owner. -/
theorem writeRequest_owned {s : State} (rq : Req) {index sub : Nat} {value : List Byte} {e : DEntry}
    (hrange : ¬(0x7000 ≤ index ∧ index ≤ 0x7FFF)) (hbar : writeBar s index sub value = none)
    (hentry : dictEntry s.variant (dk index sub) = some e) (hreset : dk index sub ≠ 0x150001) (hpower : dk index sub ≠ 0x140003)
    (hmirror : dk index sub ≠ 0x210008) :
    writeRequest s rq index sub value = handleWrite s rq index sub value (entryOp e.access index sub (leNat value)) := by
  unfold writeRequest
  rw [if_neg fun hr => hrange ⟨hr.1, hr.2.1⟩, hbar, hentry]
  dsimp only
  rw [if_neg hreset, if_neg hpower, if_neg hmirror]

/-- The bars let a value pass that has its entry's length, where the entry is writable and no BOOL. -/
theorem writeBar_eq_none {s : State} {index sub : Nat} {value : List Byte} {e : DEntry} (hhidden : hidden s index = false)
    (hentry : dictEntry s.variant (dk index sub) = some e) (haccess : e.access = .rw) (hdom : e.type ≠ .dom) (hbool : e.type ≠ .bool)
    (hlen : value.length = e.type.size) : writeBar s index sub value = none := by
  unfold writeBar
  simp only [hhidden, hentry, haccess, hdom, hbool, hlen, Bool.false_eq_true, if_false, reduceCtorEq, or_self, ne_eq, not_true_eq_false,
    false_and]

/-! ### Writes of a value of the entry's range -/

theorem plainOp_good {access : Access} {index sub v : Nat} {s : State} (hquiet : access = .rwq → blockQuiet s index sub = true)
    (hgood : valueGood s index sub v = true) : plainOp access index sub v s = (dSet s (dk index sub) v, some stOk) := by
  unfold plainOp
  rw [if_neg, if_pos hgood]
  · rfl
  · rw [Bool.and_eq_true, decide_eq_true_eq, Bool.not_eq_true', not_and, Bool.not_eq_false]
    exact hquiet

theorem plainOp_bad {access : Access} {index sub v : Nat} {s : State} (hquiet : access = .rwq → blockQuiet s index sub = true)
    (hbad : valueGood s index sub v = false) : plainOp access index sub v s = (s, some stRefused) := by
  unfold plainOp
  rw [if_neg, if_neg (by rw [hbad]; exact Bool.false_ne_true)]
  · rfl
  · rw [Bool.and_eq_true, decide_eq_true_eq, Bool.not_eq_true', not_and, Bool.not_eq_false]
    exact hquiet

theorem plainOp_busy {access : Access} {index sub v : Nat} {s : State} (haccess : access = .rwq)
    (hbusy : blockQuiet s index sub = false) : plainOp access index sub v s = (s, some stNotQuiescent) := by
  unfold plainOp
  rw [if_pos (by simp [haccess, hbusy])]
  rfl

/-- Whether a variant has an entry of class RW there, of a number of that size. -/
def numberEntry (v : Variant) (k size : Nat) : Bool :=
  (dictEntry v k).any (fun e => e.access == .rw && e.type != .dom && e.type != .bool && e.type.size == size)

theorem plainEntries_are_numbers (v : Variant) : ∀ x ∈ plainEntries, numberEntry v (dk x.1 x.2.1) x.2.2.1 = true := by
  cases v <;> decide +kernel

theorem throttle_is_number (v : Variant) : numberEntry v (dk 0x1402 1) 1 = true := by
  cases v <;> decide +kernel

/-- A write of such an entry, with an owner of its own keys' order, is served by `entryOp`. -/
theorem writeRequest_number {s : State} {rq : Req} {index sub size : Nat} {value : List Byte} {t : State}
    (hrange : ¬(0x7000 ≤ index ∧ index ≤ 0x7FFF)) (hserved : Served s rq index sub)
    (hnumber : numberEntry s.variant (dk index sub) size = true) (hlen : value.length = size) (hreset : dk index sub ≠ 0x150001)
    (hpower : dk index sub ≠ 0x140003) (hmirror : dk index sub ≠ 0x210008)
    (hop : entryOp .rw index sub (leNat value) (awake s) = (t, some stOk)) :
    writeRequest s rq index sub value = accept t rq index sub value := by
  obtain ⟨e, hentry, he⟩ := (Option.any_eq_true _ _).mp hnumber
  simp only [Bool.and_eq_true, beq_iff_eq, bne_iff_ne] at he
  obtain ⟨⟨⟨haccess, hdom⟩, hbool⟩, hsize⟩ := he
  have hbar := writeBar_eq_none hserved.2.1 hentry haccess hdom hbool (hlen.trans hsize.symm)
  rw [writeRequest_owned rq hrange hbar hentry hreset hpower hmirror, haccess]
  exact handleWrite_served_ok value hserved hop

/-- The plain entries have no rules beyond their range. -/
theorem plainEntries_owner {index sub size lo hi : Nat} (h : (index, sub, size, lo, hi) ∈ plainEntries) (v : Nat) (s : State) :
    entryOp .rw index sub v s = plainOp .rw index sub v s ∧ valueGood s index sub v = inRange v lo hi ∧
      dk index sub ≠ 0x150001 ∧ dk index sub ≠ 0x140003 ∧ dk index sub ≠ 0x210008 := by
  simp only [plainEntries, List.mem_cons, Prod.mk.injEq, List.not_mem_nil, or_false] at h
  obtain ⟨rfl, rfl, rfl, rfl, rfl⟩ | ⟨rfl, rfl, rfl, rfl, rfl⟩ | ⟨rfl, rfl, rfl, rfl, rfl⟩ | ⟨rfl, rfl, rfl, rfl, rfl⟩ |
    ⟨rfl, rfl, rfl, rfl, rfl⟩ | ⟨rfl, rfl, rfl, rfl, rfl⟩ := h
  all_goals exact ⟨rfl, rfl, by decide, by decide, by decide⟩

theorem write_plain {s : State} {rq : Req} {index sub size lo hi : Nat} {value : List Byte}
    (hrange : ¬(0x7000 ≤ index ∧ index ≤ 0x7FFF)) (hplain : (index, sub, size, lo, hi) ∈ plainEntries) (hserved : Served s rq index sub)
    (hlen : value.length = size) (hlo : lo ≤ leNat value) (hhi : leNat value ≤ hi) :
    writeRequest s rq index sub value = accept (dSet (awake s) (dk index sub) (leNat value)) rq index sub value := by
  obtain ⟨howner, hgood, hreset, hpower, hmirror⟩ := plainEntries_owner hplain (leNat value) (awake s)
  refine writeRequest_number hrange hserved (plainEntries_are_numbers s.variant _ hplain) hlen hreset hpower hmirror ?_
  rw [howner]
  exact plainOp_good (by simp) (hgood.trans (by simp [inRange, hlo, hhi]))

theorem write_throttle {s : State} {rq : Req} {value : List Byte} (hserved : Served s rq 0x1402 1) (hlen : value.length = 1)
    (hlo : 80 ≤ leNat value) (hhi : leNat value ≤ 100) :
    writeRequest s rq 0x1402 1 value = accept (reThrottle (dSet (awake s) (dk 0x1402 1) (leNat value))) rq 0x1402 1 value := by
  refine writeRequest_number (by omega) hserved (throttle_is_number s.variant) hlen (by decide) (by decide) (by decide) ?_
  have hplain : plainOp .rw 0x1402 1 (leNat value) (awake s) = (dSet (awake s) (dk 0x1402 1) (leNat value), some stOk) :=
    plainOp_good (by simp) (show inRange (leNat value) 80 100 = true by simp [inRange, hlo, hhi])
  change throttleTempOp .rw (leNat value) (awake s) = _
  unfold throttleTempOp
  rw [hplain]

/-- Settles O38: the bars by `writeBar`, the rest by what the entry's owner answers. -/
theorem writeRequest_cases : Obligations.WriteRequest := by
  intro rq ix sb value s hheard s0 index sub v hrange
  refine ⟨?plain, ?throttle, ?barred, ?owned⟩
  case plain =>
    intro size lo hi hplain hserved hlen hlo hhi
    exact congrArg _ (write_plain hrange hplain hserved hlen hlo hhi)
  case throttle =>
    intro hindex hsub hserved hlen hlo hhi
    refine congrArg Host.Outcome.next ?_
    change writeRequest s rq index sub value = _
    rw [hindex, hsub] at hserved ⊢
    exact write_throttle hserved hlen hlo hhi
  case barred =>
    intro st hst
    exact congrArg _ (writeRequest_barred hheard hrange hst)
  case owned =>
    intro e hbar hentry hreset hpower hmirror
    have howned : exec (.write rq ix sb value) s = .next (handleWrite s rq index sub value (entryOp e.access index sub v)) :=
      congrArg _ (writeRequest_owned rq hrange hbar hentry hreset hpower hmirror)
    have hhidden := hidden_of_writeBar hbar
    rw [howned]
    refine ⟨fun hblocked => congrArg _ (handleWrite_blocked value _ hheard hhidden hblocked), fun hfree => ?_⟩
    have hserved : Served s rq index sub := ⟨hheard, hhidden, hfree⟩
    refine ⟨fun t ht => congrArg _ (handleWrite_served_ok value hserved ht),
      fun t st ht hst => congrArg _ (handleWrite_served_refused value hserved ht hst), fun hplain => ⟨?_, ?_, ?_⟩⟩
    · intro haccess hbusy
      exact congrArg _ (handleWrite_served_refused value hserved (hplain.trans (plainOp_busy haccess hbusy)) (by decide))
    · intro hquiet hbad
      exact congrArg _ (handleWrite_served_refused value hserved (hplain.trans (plainOp_bad hquiet hbad)) (by decide))
    · intro hquiet hgood
      exact congrArg _ (handleWrite_served_ok value hserved (hplain.trans (plainOp_good hquiet hgood)))

end Sys2Proof.Machine

end

section
/-! CERTIFICATE. O39 (ReadRequests): the answer of a READ and of a DESCRIBE, by the entry. -/

namespace Sys2Proof.Machine

open Sys2Proof.Claims

/-- Where recovery hides the index, or the variant has no entry, nothing is found. -/
theorem entry_missing {s : State} {index k : Nat} (h : hidden s index = true ∨ dictEntry s.variant k = none) :
    (if hidden s index = true then none else dictEntry s.variant k) = none := by
  obtain h | h := h
  · rw [if_pos h]
  · rw [h, ite_self]

theorem entry_found {s : State} {index k : Nat} {e : DEntry} (hhidden : hidden s index = false)
    (hentry : dictEntry s.variant k = some e) : (if hidden s index = true then none else dictEntry s.variant k) = some e := by
  rw [hhidden, hentry]
  rfl

theorem readAnswer_missing {s : State} {index sub : Nat} (h : hidden s index = true ∨ dictEntry s.variant (dk index sub) = none) :
    readAnswer s index sub = (stNoEntry, []) := by
  unfold readAnswer
  dsimp only
  rw [entry_missing h]

/-- What a READ of an entry answers, by its right, type and block. -/
theorem readAnswer_found {s : State} {index sub : Nat} {e : DEntry} (hhidden : hidden s index = false)
    (hentry : dictEntry s.variant (dk index sub) = some e) :
    readAnswer s index sub =
      if e.access = .wo then (stWriteOnly, [])
      else if e.type = .dom then (stNeedsSegmented, [])
      else if readBlocked s (dk index sub) then (stBusy, [])
      else if e.type = .str then (stOk, strValue s (dk index sub))
      else (stOk, leBytes e.type.size (dictValue s (dk index sub))) := by
  unfold readAnswer
  dsimp only
  rw [entry_found hhidden hentry]

theorem describeAnswer_missing {s : State} {index sub : Nat}
    (h : hidden s index = true ∨ dictEntry s.variant (dk index sub) = none) : describeAnswer s index sub = (stNoEntry, []) := by
  unfold describeAnswer
  rw [entry_missing h]

theorem describeAnswer_found {s : State} {index sub : Nat} {e : DEntry} (hhidden : hidden s index = false)
    (hentry : dictEntry s.variant (dk index sub) = some e) :
    describeAnswer s index sub = (stOk, leBytes 1 e.type.code ++ leBytes 1 e.access.code ++ leBytes 1 e.persist.code ++ leBytes 1 0 ++
      leBytes 4 (e.maxLen (dk index sub))) := by
  unfold describeAnswer
  rw [entry_found hhidden hentry]

theorem exec_read_heard {s : State} {rq : Req} (ix : BitVec 16) (sb : BitVec 8) {st : Nat} {payload : List Byte} (h : Heard s rq)
    (hanswer : readAnswer (awake s) ix.toNat sb.toNat = (st, payload)) :
    exec (.read rq ix sb) s = .next (respond (awake s) rq 0x01 ix.toNat sb.toNat st payload) := by
  change Host.Outcome.next (readRequest s rq ix.toNat sb.toNat) = _
  unfold readRequest
  rw [handle_heard _ _ _ _ h, hanswer]

theorem exec_describe_heard {s : State} {rq : Req} (ix : BitVec 16) (sb : BitVec 8) {st : Nat} {payload : List Byte} (h : Heard s rq)
    (hanswer : describeAnswer (awake s) ix.toNat sb.toNat = (st, payload)) :
    exec (.describe rq ix sb) s = .next (respond (awake s) rq 0x03 ix.toNat sb.toNat st payload) := by
  change Host.Outcome.next (describeRequest s rq ix.toNat sb.toNat) = _
  unfold describeRequest
  rw [handle_heard _ _ _ _ h, hanswer]

/-- Settles O39: every answer is the one of `readAnswer` or `describeAnswer`, and only the answer is given. -/
theorem readRequests : Obligations.ReadRequests := by
  intro rq ix sb s hheard s0 index sub k answer
  refine ⟨fun hmissing => ⟨?_, ?_⟩, fun e hhidden hentry => ?_, congrArg _ (handle_heard _ _ _ _ hheard)⟩
  · exact exec_read_heard ix sb hheard (readAnswer_missing (s := awake s) hmissing)
  · exact exec_describe_heard ix sb hheard (describeAnswer_missing (s := awake s) hmissing)
  · have hanswer := readAnswer_found (s := awake s) hhidden hentry
    refine ⟨fun hwo => ?_, fun hwo hdom => ?_, fun hwo hdom hbusy => ?_, fun hwo hstr hfree => ?_, fun hwo hdom hstr hfree => ?_,
      exec_describe_heard ix sb hheard (describeAnswer_found (s := awake s) hhidden hentry)⟩
    · exact exec_read_heard ix sb hheard (hanswer.trans (if_pos hwo))
    · exact exec_read_heard ix sb hheard (hanswer.trans ((if_neg hwo).trans (if_pos hdom)))
    · exact exec_read_heard ix sb hheard (hanswer.trans ((if_neg hwo).trans ((if_neg hdom).trans (if_pos hbusy))))
    · have hfree' : ¬readBlocked (awake s) k = true := by rw [show readBlocked (awake s) k = false from hfree]; exact Bool.false_ne_true
      exact exec_read_heard ix sb hheard (hanswer.trans ((if_neg hwo).trans ((if_neg (by simp [hstr])).trans
        ((if_neg hfree').trans (if_pos hstr)))))
    · have hfree' : ¬readBlocked (awake s) k = true := by rw [show readBlocked (awake s) k = false from hfree]; exact Bool.false_ne_true
      exact exec_read_heard ix sb hheard (hanswer.trans ((if_neg hwo).trans ((if_neg hdom).trans
        ((if_neg hfree').trans (if_neg hstr)))))

end Sys2Proof.Machine

end

section
/-! SUPPORT. Messages of a segmented transfer: what a session's message meets, and how a segment is judged (R356). -/

namespace Sys2Proof.Machine

open Sys2Proof.Claims

theorem bitVec_ofNat_toNat {w : Nat} (x : BitVec w) : BitVec.ofNat w x.toNat = x := BitVec.eq_of_toNat_eq (by simp)

theorem inputOk_of_heard {s : State} {rq : Req} (h : Heard s rq) : s.pwr.inputOk = true := by
  obtain ⟨hreach, -⟩ := h
  unfold reaches at hreach
  exact (Bool.and_eq_true_iff.mp hreach).1

theorem inSession_hidden {s : State} {rq : Req} (type : Nat) {index : Nat} (sub : Nat) (f : State → Session → State)
    (hheard : Heard s rq) (h : hidden s index = true) :
    inSession s rq type index sub f = respond (awake s) rq type index sub stNoEntry [] := by
  have h' : hidden (awake s) index = true := h
  unfold inSession
  rw [handle_heard _ _ _ _ hheard, if_pos h']

theorem inSession_absent {s : State} {rq : Req} (type : Nat) {index sub : Nat} (f : State → Session → State) (hheard : Heard s rq)
    (hhidden : hidden s index = false) (h : findSession s rq.src index sub = none) :
    inSession s rq type index sub f = respond (awake s) rq type index sub stNoSession [] := by
  have hhidden' : ¬hidden (awake s) index = true := by rw [show hidden (awake s) index = false from hhidden]; exact Bool.false_ne_true
  have h' : findSession (awake s) rq.src index sub = none := h
  unfold inSession
  rw [handle_heard _ _ _ _ hheard, if_neg hhidden', h']

theorem inSession_open {s : State} {rq : Req} (type : Nat) {index sub : Nat} (f : State → Session → State) {x : Session}
    (hheard : Heard s rq) (hhidden : hidden s index = false) (h : findSession s rq.src index sub = some x) :
    inSession s rq type index sub f = f (awake s) x := by
  have hhidden' : ¬hidden (awake s) index = true := by rw [show hidden (awake s) index = false from hhidden]; exact Bool.false_ne_true
  have h' : findSession (awake s) rq.src index sub = some x := h
  unfold inSession
  rw [handle_heard _ _ _ _ hheard, if_neg hhidden', h']

/-- The number and the length of a segment fit its session. -/
def SegmentFits (x : Session) (n len : Nat) (flags : BitVec 8) (data : List Byte) : Prop :=
  n < x.segments.toNat ∧ len = segmentLen x n ∧ data.length = len ∧ (flags = 1 ↔ n + 1 = x.segments.toNat)

theorem segmentAnswer_crc {x : Session} {n len : Nat} {flags : BitVec 8} {crc : BitVec 32} {data : List Byte} (hflags : flags.toNat ≤ 1)
    (h : crc32 data ≠ crc) : segmentAnswer x n len flags.toNat crc data = (stSegCrc, false) := by
  unfold segmentAnswer
  rw [if_neg (by omega), if_pos h]

/-- What the model tests of a segment's number and length. -/
theorem segmentFits_iff (x : Session) (n len : Nat) (flags : BitVec 8) (data : List Byte) :
    SegmentFits x n len flags data ↔
      ¬(x.segments.toNat ≤ n ∨ len ≠ segmentLen x n ∨ data.length ≠ len ∨ (flags.toNat = 1) ≠ (n + 1 = x.segments.toNat)) := by
  have hone : flags = 1 ↔ flags.toNat = 1 := BitVec.toNat_inj.symm
  unfold SegmentFits
  rw [hone]
  simp only [not_or, not_not, not_le, ne_eq, eq_iff_iff]

theorem segmentAnswer_order {x : Session} {n len : Nat} {flags : BitVec 8} {crc : BitVec 32} {data : List Byte}
    (hflags : flags.toNat ≤ 1) (hcrc : crc32 data = crc) (h : ¬SegmentFits x n len flags data) :
    segmentAnswer x n len flags.toNat crc data = (stSegOrder, false) := by
  rw [segmentFits_iff, not_not] at h
  unfold segmentAnswer
  rw [if_neg (by omega), if_neg (not_not.mpr hcrc), if_pos h]

theorem segmentAnswer_ok {x : Session} {n len : Nat} {flags : BitVec 8} {crc : BitVec 32} {data : List Byte}
    (hflags : flags.toNat ≤ 1) (hcrc : crc32 data = crc) (h : SegmentFits x n len flags data) :
    segmentAnswer x n len flags.toNat crc data = (stOk, !(x.held.any (fun h => h.1 == n))) := by
  rw [segmentFits_iff] at h
  unfold segmentAnswer
  rw [if_neg (by omega), if_neg (not_not.mpr hcrc), if_neg h]

end Sys2Proof.Machine

end

section
/-! CERTIFICATE. O40 (Uploads): SEG_INIT_UP by its bar, SEG_REQ by the session it finds. -/

namespace Sys2Proof.Machine

open Sys2Proof.Claims

theorem initUp_heard {s : State} {rq : Req} (index sub : Nat) (h : Heard s rq) :
    initUp s rq index sub =
      match sessionBar (awake s) index sub true with
      | some st => respond (awake s) rq 0x04 index sub st []
      | none =>
        if !sessionRoom (awake s) rq.src index sub then respond (awake s) rq 0x04 index sub stBusy []
        else
          let o := domValue (awake s) (dk index sub)
          let x : Session :=
            { index := BitVec.ofNat 16 index, sub := BitVec.ofNat 8 sub, src := rq.src, upload := true,
              size := BitVec.ofNat 64 o.length, segments := BitVec.ofNat 32 (segmentCount o.length), crc := crc32 o,
              snapshot := o, held := [], last := BitVec.ofNat 64 (now (awake s)) }
          let s1 := dropSession (awake s) rq.src index sub
          respond { s1 with host := { s1.host with sessions := s1.host.sessions ++ [x] } } rq 0x04 index sub stOk
            (leBytes 8 o.length ++ leBytes 4 (segmentCount o.length) ++ leBytes 4 (crc32 o).toNat) := by
  unfold initUp
  rw [handle_heard _ _ _ _ h] <;> rfl

/-- Settles O40: SEG_INIT_UP by `sessionBar` and the room for a session, SEG_REQ by the session and the segment's number. -/
theorem uploads : Obligations.Uploads := by
  intro rq ix sb segno s hheard s0 index sub n
  refine ⟨?barred, ?full, ?opened, ?hiddenCase, ?absent, ?found⟩
  case barred =>
    intro st hst
    refine congrArg Host.Outcome.next ((initUp_heard index sub hheard).trans ?_)
    rw [hst]
  case full =>
    intro hbar hroom
    refine congrArg Host.Outcome.next ((initUp_heard index sub hheard).trans ?_)
    rw [hbar]
    exact if_pos (by rw [show sessionRoom (awake s) rq.src index sub = false from hroom]; rfl)
  case opened =>
    intro hbar hroom o x s1
    refine congrArg Host.Outcome.next ((initUp_heard index sub hheard).trans ?_)
    rw [hbar]
    dsimp only
    rw [if_neg (by rw [show sessionRoom (awake s) rq.src index sub = true from hroom]; exact Bool.false_ne_true)]
    dsimp only [index, sub]
    rw [bitVec_ofNat_toNat ix, bitVec_ofNat_toNat sb]
    rfl
  case hiddenCase => exact fun h => congrArg _ (inSession_hidden _ _ _ hheard h)
  case absent => exact fun hhidden h => congrArg _ (inSession_absent _ _ hheard hhidden h)
  case found =>
    intro x hhidden hfind hup s1
    have hgive : exec (.segReq rq ix sb segno) s = .next _ := congrArg Host.Outcome.next (inSession_open _ _ hheard hhidden hfind)
    rw [hgive]
    simp only [hup, Bool.not_true, Bool.false_eq_true, if_false]
    refine ⟨fun hover => congrArg _ (if_pos hover), fun hin => congrArg _ ?_⟩
    rw [if_neg (Nat.not_le.mpr hin)]
    unfold segmentHead
    simp only [beq_iff_eq]
    rfl

end Sys2Proof.Machine

end

section
/-! CERTIFICATE. O41 (Downloads): SEG_INIT_DOWN by its bars, and the further messages by the session they find. -/

namespace Sys2Proof.Machine

open Sys2Proof.Claims

theorem initDown_heard {s : State} {rq : Req} {index sub : Nat} (size segments : Nat) (crc : BitVec 32) (h : Heard s rq)
    (hbar : sessionBar (awake s) index sub false = none) :
    initDown s rq index sub size segments crc =
      if sizeRefused (dk index sub) size then respond (awake s) rq 0x05 index sub stRefused []
      else if segments ≠ segmentCount size then respond (awake s) rq 0x05 index sub stSegOrder []
      else if downloadOpen (awake s) rq.src index sub ∨ !sessionRoom (awake s) rq.src index sub then
        respond (awake s) rq 0x05 index sub stBusy []
      else
        let x : Session :=
          { index := BitVec.ofNat 16 index, sub := BitVec.ofNat 8 sub, src := rq.src, upload := false, size := BitVec.ofNat 64 size,
            segments := BitVec.ofNat 32 segments, crc := crc, snapshot := [], held := [], last := BitVec.ofNat 64 (now (awake s)) }
        let s1 := dropSession (awake s) rq.src index sub
        let s2 : State := { s1 with host := { s1.host with sessions := s1.host.sessions ++ [x] } }
        respond (if index = 0x1301 then
            setSlotState (putSlot s2 (spareSlot s2) { bytes := [], byRollback := false }) (spareSlot s2) 1 else s2) rq 0x05 index sub
          stOk [] := by
  unfold initDown
  rw [handle_heard _ _ _ _ h]
  simp only [hbar]

theorem sessionTimeout_found {s : State} {src : Source} {ix : BitVec 16} {sb : BitVec 8} {x : Session} (hpower : s.pwr.inputOk = true)
    (h : findSession s src ix.toNat sb.toNat = some x) :
    exec (.sessionTimeout src ix sb) s =
      .next (if now s < x.last.toNat + 125000000 then s else cutSession s src ix.toNat sb.toNat) := by
  change Host.Outcome.next (if s.pwr.inputOk then lapseSession s src ix.toNat sb.toNat else s) = _
  unfold lapseSession
  rw [if_pos hpower, h]

/-- Settles O41: the start by `initDown_heard`, a SEGMENT by `segmentAnswer`, the end by what has been kept. -/
theorem downloads : Obligations.Downloads := by
  intro rq ix sb s hheard s0 index sub
  refine ⟨?start, ?hiddenCase, ?segment, ?ends, ?absent, ?lapse⟩
  case start =>
    intro size segments crc hbar
    have hstart : exec (.segInitDown rq ix sb size segments crc) s = .next _ :=
      congrArg Host.Outcome.next (initDown_heard size.toNat segments.toNat crc hheard hbar)
    rw [hstart]
    refine ⟨fun hsize => congrArg _ (if_pos hsize), fun hsize hcount => congrArg _ ?_,
      ?_⟩
    · rw [hsize, if_neg Bool.false_ne_true]
      exact if_pos hcount
    · intro hsize hcount hopen hroom hother x s1
      refine congrArg _ ?_
      have hcount' : segments.toNat = segmentCount size.toNat := hcount
      have hfree : ¬(downloadOpen (awake s) rq.src ix.toNat sb.toNat = true ∨ (!sessionRoom (awake s) rq.src ix.toNat sb.toNat) = true) := by
        rw [show downloadOpen (awake s) rq.src ix.toNat sb.toNat = false from hopen,
          show sessionRoom (awake s) rq.src ix.toNat sb.toNat = true from hroom]
        decide
      rw [show sizeRefused (dk ix.toNat sb.toNat) size.toNat = false from hsize, if_neg Bool.false_ne_true, if_neg (not_not.mpr hcount'),
        if_neg hfree]
      dsimp only
      rw [if_neg hother, bitVec_ofNat_toNat ix, bitVec_ofNat_toNat sb, bitVec_ofNat_toNat size, bitVec_ofNat_toNat segments]
  case hiddenCase =>
    exact fun h => ⟨fun _ _ _ _ _ => congrArg _ (inSession_hidden _ _ _ hheard h), congrArg _ (inSession_hidden _ _ _ hheard h),
      congrArg _ (inSession_hidden _ _ _ hheard h)⟩
  case segment =>
    intro segno crc len flags data x hhidden hfind hdown hflags n s1 fits
    have htake : exec (.segment rq ix sb segno len flags crc data) s = .next _ := congrArg Host.Outcome.next (inSession_open _ _ hheard hhidden hfind)
    rw [htake]
    simp only [hdown, Bool.false_eq_true, if_false]
    refine ⟨fun hcrc => congrArg _ ?_, fun hcrc hnot => congrArg _ ?_, ?_⟩
    · rw [segmentAnswer_crc hflags hcrc]
      rfl
    · rw [segmentAnswer_order hflags hcrc hnot]
      rfl
    · intro hcrc hfits
      refine congrArg _ ?_
      rw [segmentAnswer_ok hflags hcrc hfits]
      dsimp only
      have hany : x.held.any (fun h => h.1 == n) = true ↔ ∃ h ∈ x.held, h.1 = n := by simp only [List.any_eq_true, beq_iff_eq]
      by_cases hheld : ∃ h ∈ x.held, h.1 = n
      · rw [if_pos hheld, hany.mpr hheld]
        rfl
      · rw [if_neg hheld, Bool.eq_false_iff.mpr (mt hany.mp hheld)]
        rfl
  case ends =>
    intro x hhidden hfind s1
    have hend : exec (.segEnd rq ix sb) s = .next _ := congrArg Host.Outcome.next (inSession_open _ _ hheard hhidden hfind)
    refine ⟨fun hup => ?_, fun hdown hmiss => ?_, fun hdown hall hcrc => ?_, fun hdown hall hcrc => ?_,
      congrArg _ (inSession_open _ _ hheard hhidden hfind)⟩
    all_goals rw [hend]
    all_goals refine congrArg _ ?_
    · exact if_pos hup
    · rw [if_neg (by rw [hdown]; exact Bool.false_ne_true), if_pos hmiss]
    · rw [if_neg (by rw [hdown]; exact Bool.false_ne_true), if_neg (not_not.mpr hall), if_pos hcrc]
    · rw [if_neg (by rw [hdown]; exact Bool.false_ne_true), if_neg (not_not.mpr hall), if_neg (not_not.mpr hcrc)]
  case absent =>
    exact fun hhidden h => ⟨congrArg _ (inSession_absent _ _ hheard hhidden h), congrArg _ (inSession_absent _ _ hheard hhidden h)⟩
  case lapse =>
    intro src x hfind
    have hlapse := sessionTimeout_found (inputOk_of_heard hheard) hfind
    rw [hlapse]
    exact ⟨fun h => congrArg _ (if_neg (Nat.not_lt.mpr h)), fun h => congrArg _ (if_pos h)⟩

end Sys2Proof.Machine

end

section
/-! CERTIFICATE. O42 (MailboxDoorbell): where a doorbell is not taken, and the message that it brings. -/

namespace Sys2Proof.Machine

open Sys2Proof.Claims

theorem mailBytes_length (s : State) : (mailBytes s).length = 2048 := by
  unfold mailBytes
  rw [List.length_map, List.length_range]

/-- A message whose MAGIC or VERSION is wrong is dropped and counted. -/
theorem takeMessage_dropped {s : State} (src : Source) {m : List Byte}
    (h : bits (leNat (m.take 8)) 15 0 ≠ 0x0C61 ∨ bits (leNat (m.take 8)) 23 16 ≠ 1) : takeMessage s src m = countT s 0x3117 1 := by
  unfold takeMessage
  exact if_pos (Or.inr h)

/-- A message of the mailbox with its reserved fields zero and a payload that fits is applied. -/
theorem takeMessage_mailbox {s : State} {m : List Byte} (hlen : m.length = 2048) (hmagic : bits (leNat (m.take 8)) 15 0 = 0x0C61)
    (hversion : bits (leNat (m.take 8)) 23 16 = 1) (hrsv : bits (leNat ((m.drop 8).take 8)) 47 32 = 0)
    (hstatus : bits (leNat ((m.drop 8).take 8)) 7 0 = 0) (hfit : bits (leNat ((m.drop 8).take 8)) 63 48 ≤ 1036) :
    takeMessage s .mailbox m = applyMessage { s with host := { s.host with mailBusy := true } }
      { txid := BitVec.ofNat 32 (bits (leNat (m.take 8)) 63 32), src := .mailbox } (bits (leNat (m.take 8)) 31 24)
      (bits (leNat ((m.drop 8).take 8)) 23 8) (bits (leNat ((m.drop 8).take 8)) 31 24)
      ((m.drop 16).take (bits (leNat ((m.drop 8).take 8)) 63 48)) := by
  unfold takeMessage
  dsimp only
  rw [if_neg, if_neg]
  · rw [hrsv, hstatus, hlen]
    omega
  · rw [hmagic, hversion, hlen]
    omega

/-- A doorbell that reaches the module. -/
theorem exec_mailboxDoorbell_taken (txid : Word) {s : State} (hlost : s.host.linkLost = false) (hqueue : hostQueued s = false)
    (hpower : s.pwr.inputOk = true) (hup : falyndiUp s = true) :
    exec (.mailboxDoorbell txid) s =
      .next (if s.host.mailBusy then countT s 0x3116 1 else takeMessage s .mailbox (mailBytes s)) := by
  change Host.Outcome.next (if s.host.linkLost then dropHost s
    else if hostQueued s then holdHost s (hostPut (2 ^ 41 + 0x11000) (leBytes 8 txid.toNat)) else mailDoorbell s) = _
  unfold mailDoorbell
  simp only [hlost, hqueue, hpower, hup, Bool.not_true, Bool.or_self, Bool.false_eq_true, if_false]

/-- Settles O42: by the state of the link and of the queue; a doorbell that is taken by `takeMessage`. -/
theorem mailboxDoorbell : Obligations.MailboxDoorbell := by
  refine ⟨fun txid s => ⟨fun hlost => congrArg _ (if_pos hlost), fun hlost hqueue =>
    congrArg _ ((if_neg (by rw [hlost]; exact Bool.false_ne_true)).trans (if_pos hqueue))⟩, ?_⟩
  · intro txid s hlost hqueue hpower hup m g0 g1 rq s1
    rw [exec_mailboxDoorbell_taken txid hlost hqueue hpower hup]
    refine ⟨fun hbusy => congrArg _ (if_pos hbusy), fun hidle hwrong => congrArg _ ?_,
      fun hidle hmagic hversion hrsv hstatus hfit => congrArg _ ?_⟩
    all_goals rw [hidle, if_neg Bool.false_ne_true]
    · exact takeMessage_dropped .mailbox hwrong
    · exact takeMessage_mailbox (mailBytes_length s) hmagic hversion hrsv hstatus hfit

end Sys2Proof.Machine

end

section
/-! CERTIFICATE. O43 (PartitionEntries): quiesce_request, enabled and the core masks, each by the branches of its operation. -/

namespace Sys2Proof.Machine

open Sys2Proof.Claims

/-! ### quiesce_request (R12) -/

theorem quiesceOp_refused {p v : Nat} (s : State) (h : 1 < v) : quiesceOp p v s = (s, some stRefused) := if_pos h

theorem quiesceOp_quiesces {p : Nat} {s : State} (h : pGet (pSet s p 6 1) p 5 = 1) :
    quiesceOp p 1 s = (settleQuiesce (pSet (pSet s p 6 1) p 5 2) p, some stOk) := by
  unfold quiesceOp
  rw [if_neg (by decide)]
  exact if_pos ⟨rfl, h⟩

theorem quiesceOp_resumes {p : Nat} {s : State} (h : pGet (pSet s p 6 0) p 5 = 2 ∨ pGet (pSet s p 6 0) p 5 = 3) :
    quiesceOp p 0 s = (pSet (pSet s p 6 0) p 5 1, some stOk) := by
  unfold quiesceOp
  rw [if_neg (by decide)]
  exact (if_neg fun hq => Nat.zero_ne_one hq.1).trans (if_pos ⟨rfl, h⟩)

theorem quiesceOp_stays {p v : Nat} {s : State} (hv : v ≤ 1) (hq : ¬(v = 1 ∧ pGet (pSet s p 6 v) p 5 = 1))
    (hr : ¬(v = 0 ∧ (pGet (pSet s p 6 v) p 5 = 2 ∨ pGet (pSet s p 6 v) p 5 = 3))) :
    quiesceOp p v s = (pSet s p 6 v, some stOk) := by
  unfold quiesceOp
  rw [if_neg (Nat.not_lt.mpr hv)]
  exact (if_neg hq).trans (if_neg hr)

/-! ### enabled (R13) -/

theorem enabledOp_refused {p v : Nat} (s : State) (h : 1 < v) : enabledOp p v s = (s, some stRefused) := if_pos h

theorem enabledOp_same {p v : Nat} {s : State} (hv : v ≤ 1) (h : v = pGet s p 1) : enabledOp p v s = (s, some stOk) :=
  (if_neg (Nat.not_lt.mpr hv)).trans (if_pos h)

/-- Disabling a partition that is enabled. -/
theorem enabledOp_disable {p : Nat} {s : State} (h : pGet s p 1 ≠ 0) :
    enabledOp p 0 s = if pGet s p 5 ≠ 3 then (s, some stNotQuiescent)
      else if !maskEmpty s p then (s, some stRefused) else (pSet (pSet s p 1 0) p 5 0, some stOk) := by
  unfold enabledOp
  rw [if_neg (by decide), if_neg (Ne.symm h), if_pos rfl]
  rfl

theorem enabledOp_enable {p : Nat} {s : State} (h : pGet s p 1 ≠ 1) :
    enabledOp p 1 s = (pSet (pSet (pSet s p 1 1) p 5 3) p 6 1, some stOk) := by
  unfold enabledOp
  rw [if_neg (by decide), if_neg (Ne.symm h), if_neg (by decide)]
  rfl

/-! ### The core masks (R14) -/

/-- The cores of a mask word exist, and no other partition has them. -/
def coresFree (s : State) (p word v : Nat) : Prop :=
  ∀ i ∈ wordCores word v, i < coreCount s ∧ ∀ q < 16, q ≠ p → inMask s q i = false

theorem coresFree_iff (s : State) (p word v : Nat) :
    coresFree s p word v ↔ ((wordCores word v).any (fun i => decide (coreCount s ≤ i) ||
      (List.range 16).any (fun q => q != p && inMask s q i))) = false := by
  unfold coresFree
  simp only [List.any_eq_false, Bool.or_eq_true, decide_eq_true_eq, not_or, not_le, List.any_eq_true, List.mem_range, Bool.and_eq_true,
    bne_iff_ne, not_exists, not_and, Bool.not_eq_true]

theorem coreMaskOp_busy {p word v : Nat} {s : State} (hchange : v ≠ pGet s p (2 + word)) (hstate : pGet s p 5 ≠ 3) :
    coreMaskOp p word v s = (s, some stNotQuiescent) := if_pos ⟨hchange, hstate⟩

theorem coreMaskOp_refused {p word v : Nat} {s : State} (hmay : v = pGet s p (2 + word) ∨ pGet s p 5 = 3)
    (h : ¬coresFree s p word v) : coreMaskOp p word v s = (s, some stRefused) := by
  rw [coresFree_iff, Bool.not_eq_false] at h
  exact (if_neg fun hb => hmay.elim hb.1 hb.2).trans (if_pos h)

theorem coreMaskOp_ok {p word v : Nat} {s : State} (hmay : v = pGet s p (2 + word) ∨ pGet s p 5 = 3) (h : coresFree s p word v) :
    coreMaskOp p word v s = (pSet ((wordCores word (pGet s p (2 + word) - Nat.land (pGet s p (2 + word)) v)).foldl dropCore s) p
      (2 + word) v, some stOk) := by
  rw [coresFree_iff] at h
  exact (if_neg fun hb => hmay.elim hb.1 hb.2).trans (if_neg (by rw [h]; exact Bool.false_ne_true))

theorem exec_coreMask (rq : Req) (part : PartId) {word : BitVec 2} (v : Word) (s : State) (h : word ≠ 3) :
    exec (.coreMask rq part word v) s = .next (handleWrite s rq (0x2000 + part.toNat) (2 + word.toNat) (leBytes 8 v.toNat)
      (coreMaskOp part.toNat word.toNat v.toNat)) :=
  congrArg Host.Outcome.next (if_neg h)

/-- Settles O43: each write by what its operation answers on the state in which the request is served. -/
theorem partitionEntries : Obligations.PartitionEntries := by
  intro rq part s p index s0
  refine ⟨fun v hserved => ?quiesce, fun v hserved => ?enable, fun word v hword hserved => ?mask⟩
  case quiesce =>
    refine ⟨fun hv => ?_, ?_, ?_, ?_⟩
    · exact congrArg _ (handleWrite_served_refused [v] hserved (quiesceOp_refused s0 hv) (by decide))
    · rintro rfl hstate
      exact congrArg _ (handleWrite_served_ok _ hserved (quiesceOp_quiesces hstate))
    · rintro rfl hstate
      exact congrArg _ (handleWrite_served_ok _ hserved (quiesceOp_resumes hstate))
    · intro hv hq hr
      refine congrArg _ (handleWrite_served_ok _ hserved (quiesceOp_stays hv ?_ ?_))
      · exact fun h => hq ⟨BitVec.eq_of_toNat_eq h.1, h.2⟩
      · exact fun h => hr ⟨BitVec.eq_of_toNat_eq h.1, h.2⟩
  case enable =>
    refine ⟨fun hv => ?_, fun hv hsame => ?_, ?_, ?_, ?_, ?_⟩
    · exact congrArg _ (handleWrite_served_refused [v] hserved (enabledOp_refused s0 hv) (by decide))
    · exact congrArg _ (handleWrite_served_ok _ hserved (enabledOp_same (s := s0) hv hsame))
    · rintro rfl hon hstate
      exact congrArg _ (handleWrite_served_refused _ hserved ((enabledOp_disable (s := s0) hon).trans (if_pos hstate)) (by decide))
    · rintro rfl hon hstate hmask
      have hfull : (!maskEmpty s0 p) = true := by rw [show maskEmpty s0 p = false from hmask]; rfl
      exact congrArg _ (handleWrite_served_refused _ hserved ((enabledOp_disable (s := s0) hon).trans
        ((if_neg (not_not.mpr hstate)).trans (if_pos hfull))) (by decide))
    · rintro rfl hon hstate hmask
      have hempty : ¬(!maskEmpty s0 p) = true := by rw [show maskEmpty s0 p = true from hmask]; exact Bool.false_ne_true
      exact congrArg _ (handleWrite_served_ok _ hserved ((enabledOp_disable (s := s0) hon).trans
        ((if_neg (not_not.mpr hstate)).trans (if_neg hempty))))
    · rintro rfl hoff
      exact congrArg _ (handleWrite_served_ok _ hserved (enabledOp_enable (s := s0) hoff))
  case mask =>
    intro m old free
    rw [exec_coreMask rq part v s hword]
    refine ⟨fun hchange hstate => ?_, fun hmay hnot => ?_, fun hmay hfree => ?_⟩
    · exact congrArg _ (handleWrite_served_refused _ hserved (coreMaskOp_busy (s := s0) hchange hstate) (by decide))
    · exact congrArg _ (handleWrite_served_refused _ hserved (coreMaskOp_refused (s := s0) hmay hnot) (by decide))
    · exact congrArg _ (handleWrite_served_ok _ hserved (coreMaskOp_ok (s := s0) hmay hfree))

end Sys2Proof.Machine

end

section
/-! CERTIFICATE. O44 (TallyEntries): the range of a partition's tallies, and the mirror. -/

namespace Sys2Proof.Machine

open Sys2Proof.Claims

/-- The range that a write of tally_base or tally_count asks for. -/
def askedRange (s : State) (p : Nat) (isCount : Bool) (v : Nat) : Nat × Nat :=
  (if isCount then pGet s p 0xD else v, if isCount then v else pGet s p 0xE)

/-- The write changes a range that is not empty before and after. -/
def RangeMoves (s : State) (p : Nat) (isCount : Bool) (v : Nat) : Prop :=
  askedRange s p isCount v ≠ (pGet s p 0xD, pGet s p 0xE) ∧ (0 < (askedRange s p isCount v).2 ∨ 0 < pGet s p 0xE)

/-- A range lies inside the 4,096 tallies. -/
def RangeInside (r : Nat × Nat) : Prop := r.2 ≤ 4096 ∧ (r.2 = 0 ∨ r.1 + r.2 ≤ 4096)

/-- A range meets no other partition's. -/
def RangeApart (s : State) (p : Nat) (r : Nat × Nat) : Prop :=
  ∀ q < 16, q ≠ p → rangesMeet (pGet s q 0xD, pGet s q 0xE) r = false

/-- The tallies of one range that are not in another. -/
def talliesLeft (r r' : Nat × Nat) : List Nat :=
  (List.range 4096).filter (fun t => decide (r.1 ≤ t ∧ t < r.1 + r.2) && !decide (r'.1 ≤ t ∧ t < r'.1 + r'.2))

theorem rangeInside_iff (r : Nat × Nat) : RangeInside r ↔ ¬(4096 < r.2 ∨ (0 < r.2 ∧ 4096 < r.1 + r.2)) := by
  unfold RangeInside
  omega

theorem rangeApart_iff (s : State) (p : Nat) (r : Nat × Nat) :
    RangeApart s p r ↔ (List.range 16).any (fun q => q != p && rangesMeet (pGet s q 0xD, pGet s q 0xE) r) = false := by
  unfold RangeApart
  simp only [List.any_eq_false, List.mem_range, Bool.and_eq_true, bne_iff_ne, not_and, Bool.not_eq_true]

theorem tallyRangeOp_busy {s : State} {p v : Nat} {isCount : Bool} (hmoves : RangeMoves s p isCount v) (hstate : pGet s p 5 ≠ 3) :
    tallyRangeOp p isCount v s = (s, some stNotQuiescent) := by
  refine if_pos ?_
  rw [Bool.and_eq_true, Bool.and_eq_true, decide_eq_true_eq, decide_eq_true_eq, bne_iff_ne]
  exact ⟨hmoves, hstate⟩

/-- A write that may be made is tested for its place. -/
theorem tallyRangeOp_of_may {s : State} {p v : Nat} {isCount : Bool} (hmay : ¬RangeMoves s p isCount v ∨ pGet s p 5 = 3) :
    tallyRangeOp p isCount v s =
      let r := askedRange s p isCount v
      let r0 := (pGet s p 0xD, pGet s p 0xE)
      if 4096 < r.2 ∨ (0 < r.2 ∧ 4096 < r.1 + r.2) then (s, some stRefused)
      else if (List.range 16).any (fun q => q != p && rangesMeet (pGet s q 0xD, pGet s q 0xE) r) then (s, some stRefused)
      else ((talliesLeft r r0).foldl (gainTally p) (pSet { s with hop := { s.hop with
        tallyLast := s.hop.tallyLast ++ (talliesLeft r0 r).map (fun t => (t, p)) } } p (if isCount then 0xE else 0xD) v), some stOk) := by
  refine if_neg ?_
  rw [Bool.and_eq_true, Bool.and_eq_true, decide_eq_true_eq, decide_eq_true_eq, bne_iff_ne]
  exact fun h => hmay.elim (fun hn => hn h.1) h.2

theorem tallyRangeOp_refused {s : State} {p v : Nat} {isCount : Bool} (hmay : ¬RangeMoves s p isCount v ∨ pGet s p 5 = 3)
    (h : ¬(RangeInside (askedRange s p isCount v) ∧ RangeApart s p (askedRange s p isCount v))) :
    tallyRangeOp p isCount v s = (s, some stRefused) := by
  rw [tallyRangeOp_of_may hmay]
  dsimp only
  rw [rangeInside_iff, rangeApart_iff, not_and, Bool.not_eq_false] at h
  split
  · rfl
  next hinside => exact if_pos (h hinside)

theorem tallyRangeOp_ok {s : State} {p v : Nat} {isCount : Bool} (hmay : ¬RangeMoves s p isCount v ∨ pGet s p 5 = 3)
    (hinside : RangeInside (askedRange s p isCount v)) (hapart : RangeApart s p (askedRange s p isCount v)) :
    tallyRangeOp p isCount v s =
      ((talliesLeft (askedRange s p isCount v) (pGet s p 0xD, pGet s p 0xE)).foldl (gainTally p)
        (pSet { s with hop := { s.hop with tallyLast := s.hop.tallyLast ++
          (talliesLeft (pGet s p 0xD, pGet s p 0xE) (askedRange s p isCount v)).map (fun t => (t, p)) } }
          p (if isCount then 0xE else 0xD) v), some stOk) := by
  rw [rangeInside_iff] at hinside
  rw [rangeApart_iff] at hapart
  rw [tallyRangeOp_of_may hmay]
  dsimp only
  rw [if_neg hinside, if_neg (by rw [hapart]; exact Bool.false_ne_true)]

/-! ### tally_mirror_base (R69) -/

theorem tallyMirrorOp_busy {s : State} (rq : Req) (v : Nat) (h : allQuiet s = false) :
    tallyMirrorOp rq v s = (s, some stNotQuiescent) := if_pos (by rw [h]; rfl)

theorem tallyMirrorOp_quiet {s : State} (rq : Req) (v : Nat) (h : allQuiet s = true) :
    tallyMirrorOp rq v s = if v = 0 then (dSet s (dk 0x2100 8) 0, some stOk)
      else if v % 64 = 0 ∧ gaValid s v ∧ gaValid s (v + 32767) then
        let s1 := farWrite (dSet s (dk 0x2100 8) v) v ((List.range 4096).flatMap (fun t => leBytes 8 (tallyOf s t)))
        if mirrorOpen s1 v then ({ s1 with hop := { s1.hop with mirrorReqs := s1.hop.mirrorReqs ++ [(rq, v)] } }, none)
        else (s1, some stOk)
      else (s, some stRefused) := if_neg (by rw [h]; exact Bool.false_ne_true)

/-- Settles O44: tally_base and tally_count by the range asked for, the mirror by its place and by what is still to be written. -/
theorem tallyEntries : Obligations.TallyEntries := by
  intro rq s s0
  refine ⟨fun part isCount v => ?range, fun v hserved => ?mirror⟩
  case range =>
    intro p index sub b0 c0 b c moves inside apart hserved
    refine ⟨fun hmoves hstate => ?_, fun hmay hnot => ?_, fun hmay hinside hapart => ?_⟩
    · exact congrArg _ (handleWrite_served_refused _ hserved (tallyRangeOp_busy (s := s0) hmoves hstate) (by decide))
    · exact congrArg _ (handleWrite_served_refused _ hserved (tallyRangeOp_refused (s := s0) hmay hnot) (by decide))
    · exact congrArg _ (handleWrite_served_ok _ hserved (tallyRangeOp_ok (s := s0) hmay hinside hapart))
  case mirror =>
    intro n place s1
    refine ⟨fun hbusy => ?_, fun hquiet hzero => ?_, fun hquiet hne hplace => ?_, fun hquiet hne hplace =>
      ⟨fun hshut => ?_, fun hopen => ?_⟩⟩
    · exact congrArg _ (handleWrite_served_refused _ hserved (tallyMirrorOp_busy (s := s0) rq n hbusy) (by decide))
    all_goals have hop := tallyMirrorOp_quiet (s := s0) rq n hquiet
    · exact congrArg _ (handleWrite_served_ok _ hserved (hop.trans (if_pos hzero)))
    · exact congrArg _ (handleWrite_served_refused _ hserved (hop.trans ((if_neg hne).trans (if_neg hplace))) (by decide))
    · have hshut' : ¬mirrorOpen s1 n = true := by rw [hshut]; exact Bool.false_ne_true
      exact congrArg _ (handleWrite_served_ok _ hserved (hop.trans ((if_neg hne).trans ((if_pos hplace).trans (if_neg hshut')))))
    · exact congrArg _ (handleWrite_served_later _ hserved (hop.trans ((if_neg hne).trans ((if_pos hplace).trans (if_pos hopen)))))

end Sys2Proof.Machine

end

section
/-! CERTIFICATE. O45 (CacheEntries): kv_pool_base and prefix_nodes. -/

namespace Sys2Proof.Machine

open Sys2Proof.Claims

theorem kvPoolOp_busy {s : State} {p : Nat} (v : Nat) (h : partQuiet s p = false) : kvPoolOp p v s = (s, some stNotQuiescent) :=
  if_pos (by rw [h]; rfl)

theorem kvPoolOp_quiet {s : State} {p : Nat} (v : Nat) (h : partQuiet s p = true) :
    kvPoolOp p v s = if v = 0 then (dSet s (dk (0x2610 + p) 3) 0, some stOk)
      else if poolGood s v then (stWord (dSet s (dk (0x2610 + p) 3) v) (v + 16) 8 0, some stOk) else (s, some stRefused) :=
  if_neg (by rw [h]; exact Bool.false_ne_true)

theorem prefixNodesOp_busy {s : State} {p : Nat} (v : Nat) (h : partQuiet s p = false) :
    prefixNodesOp p v s = (s, some stNotQuiescent) := if_pos (by rw [h]; rfl)

/-- A prefix region of `v` nodes fits the module's HBM. -/
def prefixFits (s : State) (p v : Nat) : Prop := inLocalHbm s (kvGet s p 6) (nodeAddr s p v - kvGet s p 6) = true

theorem prefixNodesOp_refused {s : State} {p v : Nat} (h : partQuiet s p = true) (hv : v ≠ 0) (hfit : ¬prefixFits s p v) :
    prefixNodesOp p v s = (s, some stRefused) := by
  have hbad : v ≠ 0 ∧ (!inLocalHbm s (kvGet s p 6) (nodeAddr s p v - kvGet s p 6)) = true := by
    refine ⟨hv, ?_⟩
    rw [Bool.not_eq_true', ← Bool.not_eq_true]
    exact hfit
  exact (if_neg (by rw [h]; exact Bool.false_ne_true)).trans (if_pos hbad)

theorem prefixNodesOp_none {s : State} {p : Nat} (h : partQuiet s p = true) :
    prefixNodesOp p 0 s = (setFreeList (dSet s (dk (0x2610 + p) 8) 0) p noNode 0, some stOk) :=
  (if_neg (by rw [h]; exact Bool.false_ne_true)).trans ((if_neg fun hb => hb.1 rfl).trans (if_pos rfl))

/-- The region after its buckets have been emptied and its nodes chained. -/
def prefixBuilt (s : State) (p v : Nat) : State :=
  let s1 := (List.range (2 ^ kvGet s p 7)).foldl (fun s' i => stWord s' (kvGet s p 6 + 4 * i) 4 noNode)
    (dSet s (dk (0x2610 + p) 8) v)
  (List.range v).foldl (fun s i => storeM s (nodeAddr s p i) (freeNode (if i + 1 < v then i + 1 else noNode))) s1

theorem prefixNodesOp_ok {s : State} {p v : Nat} (h : partQuiet s p = true) (hv : v ≠ 0) (hfit : prefixFits s p v) :
    prefixNodesOp p v s = (setFreeList (prefixBuilt s p v) p 0 v, some stOk) := by
  refine (if_neg (by rw [h]; exact Bool.false_ne_true)).trans ((if_neg fun hb => ?_).trans (if_neg hv))
  rw [Bool.not_eq_true', ← Bool.not_eq_true] at hb
  exact hb.2 hfit

/-- Settles O45: each write by what its operation answers. -/
theorem cacheEntries : Obligations.CacheEntries := by
  intro rq part s p index s0
  refine ⟨fun v hserved => ⟨fun hbusy => ?_, ?_, fun hquiet hv hbad => ?_, fun hquiet hv hgood => ?_⟩, fun v hserved => ?nodes⟩
  · exact congrArg _ (handleWrite_served_refused _ hserved (kvPoolOp_busy (s := s0) v.toNat hbusy) (by decide))
  · rintro hquiet rfl
    exact congrArg _ (handleWrite_served_ok _ hserved ((kvPoolOp_quiet (s := s0) 0 hquiet).trans (if_pos rfl)))
  · have hne : v.toNat ≠ 0 := fun h => hv (BitVec.eq_of_toNat_eq h)
    have hbad' : ¬poolGood s0 v.toNat = true := by rw [show poolGood s0 v.toNat = false from hbad]; exact Bool.false_ne_true
    exact congrArg _ (handleWrite_served_refused _ hserved ((kvPoolOp_quiet (s := s0) v.toNat hquiet).trans
      ((if_neg hne).trans (if_neg hbad'))) (by decide))
  · have hne : v.toNat ≠ 0 := fun h => hv (BitVec.eq_of_toNat_eq h)
    exact congrArg _ (handleWrite_served_ok _ hserved ((kvPoolOp_quiet (s := s0) v.toNat hquiet).trans
      ((if_neg hne).trans (if_pos hgood))))
  case nodes =>
    intro n base fits
    refine ⟨fun hbusy => ?_, fun hquiet hv hnot => ?_, fun hquiet hv => ?_, fun hquiet hv hfit => ?_⟩
    · exact congrArg _ (handleWrite_served_refused _ hserved (prefixNodesOp_busy (s := s0) n hbusy) (by decide))
    · exact congrArg _ (handleWrite_served_refused _ hserved (prefixNodesOp_refused (s := s0) hquiet hv hnot) (by decide))
    · have hzero : v = 0 := BitVec.eq_of_toNat_eq hv
      subst hzero
      exact congrArg _ (handleWrite_served_ok _ hserved (prefixNodesOp_none (s := s0) hquiet))
    · exact congrArg _ (handleWrite_served_ok _ hserved (prefixNodesOp_ok (s := s0) hquiet hv hfit))

end Sys2Proof.Machine

end

section
/-! CERTIFICATE. O46 (WatchEntries): watch slots, taps, the record selector, event_ack and region0_lost. -/

namespace Sys2Proof.Machine

open Sys2Proof.Claims

theorem tableGet_tableKeep_dropped {α : Type} (d : Nat → α) {keep : Nat → Bool} {k : Nat} (h : keep k = false) (t : List (Nat × α)) :
    tableGet d (tableKeep keep t) k = d k := by
  unfold tableKeep
  induction t with
  | nil => rfl
  | cons e t ih =>
    rw [List.filter_cons]
    split
    next hkeep =>
      have hne : e.1 ≠ k := by
        rintro rfl
        exact absurd hkeep (by rw [h]; exact Bool.false_ne_true)
      exact (if_neg hne).trans ih
    next => exact ih

/-- A byte of the first undefined range. -/
theorem memDefault_first {a n fresh k : Nat} (u : List (Nat × Nat × Nat)) (hlo : a ≤ k) (hhi : k < a + n) :
    memDefault ((a, n, fresh) :: u) k = Config.freeByte fresh k := by
  unfold memDefault
  simp [hlo, hhi]

theorem recordOf_isSome_iff (s : State) (fid : Nat) :
    (recordOf s fid).isSome = true ↔ ∃ r ∈ s.hlth.log, faultIdOf r.seq.toNat = fid := by
  unfold recordOf
  rw [List.getLast?_isSome, ne_eq, List.filter_eq_nil_iff]
  simp only [beq_iff_eq, not_forall, not_not, exists_prop]

/-- Region 0 once its loss has been acknowledged: its content is undefined. -/
def region0Freed (s : State) : State :=
  tickFresh { dSet s (dk 0x2400 7) 0 with mem := { s.mem with
    bytes := tableKeep (fun k => decide (2 ^ 40 ≤ k)) s.mem.bytes
    undef := (0, 2 ^ 40, s.fresh) :: carve 0 (2 ^ 40) s.mem.undef } }

theorem region0Op_frees {s : State} (h : dGet s (dk 0x2400 7) ≠ 0) : region0Op 0 s = (region0Freed s, some stOk) :=
  (if_neg fun hne => hne rfl).trans (if_neg h)

theorem region0Freed_bytes (s : State) {k : Nat} (h : k < 2 ^ 40) : keyByte (region0Freed s) k = Config.freeByte s.fresh k := by
  have hdropped : decide (2 ^ 40 ≤ k) = false := decide_eq_false (Nat.not_le.mpr h)
  refine (tableGet_tableKeep_dropped (keep := fun k => decide (2 ^ 40 ≤ k)) _ hdropped s.mem.bytes).trans ?_
  exact memDefault_first (carve 0 (2 ^ 40) s.mem.undef) (Nat.zero_le k) (by omega)

theorem region0Freed_entry {s : State} (h : tableWf (dictDefault s.variant) s.dict = true) :
    dGet (region0Freed s) (dk 0x2400 7) = 0 := dGet_dSet_same s (dk 0x2400 7) 0 h

/-- Settles O46: each write by what its operation answers. -/
theorem watchEntries : Obligations.WatchEntries := by
  intro rq s s0
  refine ⟨fun slot v hserved => ?slot, fun tap v => ?tap, fun v hserved => ?record, fun v hserved => ?event, fun v hserved => ?region⟩
  case slot =>
    refine ⟨fun hbad => ?_, fun hgood => ?_⟩
    · exact congrArg _ (handleWrite_served_refused _ hserved (if_pos hbad) (by decide))
    · exact congrArg _ (handleWrite_served_ok _ hserved (if_neg (not_not.mpr hgood)))
  case tap =>
    intro index sub hserved
    refine ⟨fun hbad => ?_, fun hfmt hbit => ?_⟩
    · exact congrArg _ (handleWrite_served_refused _ hserved (if_pos hbad) (by decide))
    · have hgood : ¬(bits v.toNat 30 29 = 3 ∨ bit v.toNat 28 = true) := by simp [hfmt, hbit]
      exact congrArg _ (handleWrite_served_ok _ hserved (if_neg hgood))
  case record =>
    refine ⟨fun hsome => ?_, fun hnone => ?_⟩
    · exact congrArg _ (handleWrite_served_ok _ hserved (if_pos ((recordOf_isSome_iff s0 v.toNat).mpr hsome)))
    · have hno : ¬(recordOf s0 v.toNat).isSome = true := by
        rw [recordOf_isSome_iff]
        exact fun ⟨r, hr, hid⟩ => hnone r hr hid
      exact congrArg _ (handleWrite_served_refused _ hserved (if_neg hno) (by decide))
  case event =>
    refine ⟨fun hlater => ?_, fun hseen => ?_⟩
    · exact congrArg _ (handleWrite_served_refused _ hserved (if_pos hlater) (by decide))
    · exact congrArg _ (handleWrite_served_ok _ hserved (if_neg (Nat.not_lt.mpr hseen)))
  case region =>
    refine ⟨fun hv => ?_, ?_, ?_⟩
    · have hne : v.toNat ≠ 0 := fun h => hv (BitVec.eq_of_toNat_eq h)
      exact congrArg _ (handleWrite_served_refused _ hserved (if_pos hne) (by decide))
    · rintro rfl hstands
      have hop : region0Op 0 s0 = (s0, some stOk) := (if_neg fun hne => hne rfl).trans (if_pos hstands)
      exact congrArg _ (handleWrite_served_ok _ hserved hop)
    · rintro rfl hstands ⟨-, hdict, -⟩
      exact ⟨region0Freed s0, congrArg _ (handleWrite_served_ok _ hserved (region0Op_frees (s := s0) hstands)),
        region0Freed_entry (s := s0) hdict, fun k hk => region0Freed_bytes s0 hk⟩

end Sys2Proof.Machine

end

section
/-! CERTIFICATE. O47 (FirmwareCommands): whole downloads, CANCEL, ROLLBACK, the security version and factory test mode. -/

namespace Sys2Proof.Machine

open Sys2Proof.Claims

/-! ### The slot that a command of the two slots finds -/

theorem findSlot_some {q : Nat → Bool} {i : Nat} (hi : i < 2) (h : q i = true) (hother : q (1 - i) = false) :
    [0, 1].find? q = some i := by
  obtain rfl | rfl : i = 0 ∨ i = 1 := by omega
  · rw [List.find?_cons_of_pos h]
  · rw [List.find?_cons_of_neg (by rw [show q 0 = false from hother]; exact Bool.false_ne_true), List.find?_cons_of_pos h]

theorem findSlot_none {q : Nat → Bool} (h0 : q 0 = false) (h1 : q 1 = false) : [0, 1].find? q = none := by
  simp [h0, h1]

/-! ### CANCEL and ROLLBACK (R405, R406) -/

theorem fwStageOp_staging {s : State} (v : Nat) (h : stagingOpen s = true) : fwStageOp v s = (s, some stRefused) := if_pos h

theorem fwStageOp_cancel {s : State} (h : stagingOpen s = false) :
    fwStageOp 1 s = match [0, 1].find? (fun i => slotState s i == 2) with
      | some i => (setSlotState s i (if (slotOf s i).byRollback then 5 else 0), some stOk)
      | none => (s, some stRefused) := by
  unfold fwStageOp
  rw [if_neg (by rw [h]; exact Bool.false_ne_true), if_pos rfl] <;> rfl

theorem fwStageOp_rollback {s : State} (h : stagingOpen s = false) :
    fwStageOp 2 s =
      match [0, 1].find? (fun i => slotState s i == 5 && decide (dGet s (dk 0x1310 2) ≤ bundleSecver (slotOf s i).bytes)) with
      | some i => (setSlotState (putSlot s i { slotOf s i with byRollback := true }) i 2, some stOk)
      | none => (s, some stRefused) := by
  unfold fwStageOp
  rw [if_neg (by rw [h]; exact Bool.false_ne_true), if_neg (by decide), if_pos rfl] <;> rfl

theorem fwStageOp_cancel_found {s : State} {i : Nat} (hi : i < 2) (h : stagingOpen s = false) (hstaged : slotState s i = 2)
    (hother : slotState s (1 - i) ≠ 2) :
    fwStageOp 1 s = (setSlotState s i (if (slotOf s i).byRollback then 5 else 0), some stOk) := by
  rw [fwStageOp_cancel h, findSlot_some (q := fun i => slotState s i == 2) hi (beq_iff_eq.mpr hstaged) (beq_eq_false_iff_ne.mpr hother)]

theorem fwStageOp_cancel_none {s : State} (h : stagingOpen s = false) (h0 : slotState s 0 ≠ 2) (h1 : slotState s 1 ≠ 2) :
    fwStageOp 1 s = (s, some stRefused) := by
  rw [fwStageOp_cancel h, findSlot_none (q := fun i => slotState s i == 2) (beq_eq_false_iff_ne.mpr h0) (beq_eq_false_iff_ne.mpr h1)]

theorem fwStageOp_rollback_found {s : State} {i : Nat} (hi : i < 2) (h : stagingOpen s = false) (hprev : slotState s i = 5)
    (hother : slotState s (1 - i) ≠ 5) (hver : dGet s (dk 0x1310 2) ≤ bundleSecver (slotOf s i).bytes) :
    fwStageOp 2 s = (setSlotState (putSlot s i { slotOf s i with byRollback := true }) i 2, some stOk) := by
  rw [fwStageOp_rollback h, findSlot_some hi (by simp [hprev, hver]) (by simp [hother])]

theorem fwStageOp_rollback_old {s : State} {i : Nat} (hi : i < 2) (h : stagingOpen s = false)
    (hother : slotState s (1 - i) ≠ 5) (hver : bundleSecver (slotOf s i).bytes < dGet s (dk 0x1310 2)) :
    fwStageOp 2 s = (s, some stRefused) := by
  have hold : (slotState s i == 5 && decide (dGet s (dk 0x1310 2) ≤ bundleSecver (slotOf s i).bytes)) = false := by
    simp [Nat.not_le.mpr hver]
  have hnone : (slotState s (1 - i) == 5 && decide (dGet s (dk 0x1310 2) ≤ bundleSecver (slotOf s (1 - i)).bytes)) = false := by
    simp [hother]
  rw [fwStageOp_rollback h]
  obtain rfl | rfl : i = 0 ∨ i = 1 := by omega
  · rw [findSlot_none hold hnone]
  · rw [findSlot_none hnone hold]

/-! ### Whole downloads (R405, R409) -/

theorem exec_fwBundle_heard {s : State} {rq : Req} (object : List Byte) (h : Heard s rq) :
    exec (.fwBundle rq object) s =
      .next (if blocked (awake s) (dk 0x1301 1) ∨ stagingOpen (awake s) ∨ 4 ≤ (awake s).host.sessions.length
        then respond (awake s) rq 0x05 0x1301 1 stBusy []
        else if slotBytes < object.length then respond (awake s) rq 0x05 0x1301 1 stRefused []
        else respond (journalObject (stageObject (awake s) object) rq.src 0x1301 1 object) rq 0x08 0x1301 1 stOk []) :=
  congrArg Host.Outcome.next (handle_heard _ _ _ _ h)

theorem exec_attestRequest_heard {s : State} {rq : Req} (nonce : List Byte) (h : Heard s rq) :
    exec (.attestRequest rq nonce) s =
      .next (if blocked (awake s) (dk 0x1340 1) ∨ 4 ≤ (awake s).host.sessions.length ∨
          (awake s).host.sessions.any (fun x => !x.upload && x.index == 0x1340)
        then respond (awake s) rq 0x05 0x1340 1 stBusy []
        else if nonce.length ≠ 32 then respond (awake s) rq 0x05 0x1340 1 stRefused []
        else respond (journalObject (attest (awake s) nonce) rq.src 0x1340 1 nonce) rq 0x08 0x1340 1 stOk []) :=
  congrArg Host.Outcome.next (handle_heard _ _ _ _ h)

/-! ### The security version (R408) -/

theorem secverOp_one (s : State) :
    secverOp 1 s = if dGet s (dk 0x1310 2) = 128 then (dSet s (dk 0x1310 4) 2, some stOk)
      else if min (liveValue s (dk 0x1310 1)) 128 ≤ dGet s (dk 0x1310 2) then (dSet s (dk 0x1310 4) 1, some stOk)
      else ([0, 1].foldl (failOld (min (liveValue s (dk 0x1310 1)) 128))
        (dSet (dSet s (dk 0x1310 2) (min (liveValue s (dk 0x1310 1)) 128)) (dk 0x1310 4) 0), some stOk) := by
  unfold secverOp
  exact if_neg (not_not.mpr rfl)

/-- Settles O47: each command by the branch of its operation that the state selects. -/
theorem firmwareCommands : Obligations.FirmwareCommands := by
  intro rq s s0
  refine ⟨fun object hheard => ?bundle, fun nonce hheard hfree hsessions => ?nonce, fun hserved => ?stage, fun v hserved => ?secver,
    fun hpower => congrArg _ (if_pos hpower)⟩
  case bundle =>
    have hexec := exec_fwBundle_heard object hheard
    rw [hexec]
    refine ⟨fun hbusy => congrArg _ (if_pos hbusy), fun hfree hclosed hroom => ?_⟩
    have hmay : ¬(blocked s0 (dk 0x1301 1) = true ∨ stagingOpen s0 = true ∨ 4 ≤ s0.host.sessions.length) := by
      rw [show blocked s0 (dk 0x1301 1) = false from hfree, show stagingOpen s0 = false from hclosed]
      rintro (h | h | h)
      · exact Bool.false_ne_true h
      · exact Bool.false_ne_true h
      · exact Nat.not_le.mpr hroom h
    refine ⟨fun hlong => congrArg _ ((if_neg hmay).trans (if_pos hlong)), fun hfits => congrArg _ ?_⟩
    exact (if_neg hmay).trans (if_neg (Nat.not_lt.mpr hfits))
  case nonce =>
    have hexec := exec_attestRequest_heard nonce hheard
    have hmay : ¬(blocked s0 (dk 0x1340 1) = true ∨ 4 ≤ s0.host.sessions.length ∨
        s0.host.sessions.any (fun x => !x.upload && x.index == 0x1340) = true) := by
      rw [show blocked s0 (dk 0x1340 1) = false from hfree, show s0.host.sessions = [] from hsessions]
      decide
    rw [hexec]
    exact ⟨fun hlen => congrArg _ ((if_neg hmay).trans (if_pos hlen)),
      fun hlen => congrArg _ ((if_neg hmay).trans (if_neg (not_not.mpr hlen)))⟩
  case stage =>
    refine ⟨fun hopen => ⟨?_, ?_⟩, fun hclosed h0 h1 => ?_, fun i hi hclosed hstaged hother => ?_,
      fun i hi hclosed hprev hother => ⟨fun hold => ?_, fun hver => ?_⟩⟩
    · exact congrArg _ (handleWrite_served_refused _ hserved (fwStageOp_staging (s := s0) 1 hopen) (by decide))
    · exact congrArg _ (handleWrite_served_refused _ hserved (fwStageOp_staging (s := s0) 2 hopen) (by decide))
    · exact congrArg _ (handleWrite_served_refused _ hserved (fwStageOp_cancel_none (s := s0) hclosed h0 h1) (by decide))
    · exact congrArg _ (handleWrite_served_ok _ hserved (fwStageOp_cancel_found (s := s0) hi hclosed hstaged hother))
    · exact congrArg _ (handleWrite_served_refused _ hserved (fwStageOp_rollback_old (s := s0) hi hclosed hother hold) (by decide))
    · exact congrArg _ (handleWrite_served_ok _ hserved (fwStageOp_rollback_found (s := s0) hi hclosed hprev hother hver))
  case secver =>
    intro count new
    refine ⟨fun hv => ?_, ?_, ?_, ?_⟩
    · have hne : v.toNat ≠ 1 := fun h => hv (BitVec.eq_of_toNat_eq h)
      exact congrArg _ (handleWrite_served_refused _ hserved (if_pos hne) (by decide))
    all_goals rintro rfl
    all_goals have hop := secverOp_one s0
    · exact fun hfull => congrArg _ (handleWrite_served_ok _ hserved (hop.trans (if_pos hfull)))
    · exact fun hroom hle => congrArg _ (handleWrite_served_ok _ hserved (hop.trans ((if_neg hroom).trans (if_pos hle))))
    · exact fun hroom hlt => congrArg _ (handleWrite_served_ok _ hserved
        (hop.trans ((if_neg hroom).trans (if_neg (Nat.not_le.mpr hlt)))))

end Sys2Proof.Machine

end

section
/-! CERTIFICATE. O48 (LendingCommands): PUBLISH by its code, REVOKE by its checks, and the end of a window. -/

namespace Sys2Proof.Machine

open Sys2Proof.Claims

theorem toNat_ne_zero {w : Nat} {x : BitVec w} (h : x ≠ 0) : x.toNat ≠ 0 := fun h0 => h (BitVec.eq_of_toNat_eq (by simpa using h0))

/-! ### PUBLISH (R273) -/

theorem publishCode_of_form {size : Nat} (s : State) (w part : Nat) (hsize : size ≠ 0) :
    publishCode s w part 0 size = if winGet s w 1 ≠ 0 then 1
      else if !quotaAllows s part 2 (windowBytes size) then 2
      else if (publishPlace s size).isNone then 3 else 0 := if_neg fun h => h.elim (fun hn => hn rfl) hsize

/-- A code other than 0 publishes nothing. -/
theorem publishOp_refused {s : State} {w part notice size code : Nat} (h : publishCode s w part notice size = code) (hcode : code ≠ 0) :
    publishOp w part notice size s = (dSet s (dk 0x2710 2) code, some stOk) := by
  unfold publishOp
  simp only [h, hcode, if_false]
  rfl

theorem publishOp_ok {s : State} {w part notice size off : Nat} (h : publishCode s w part notice size = 0)
    (hplace : publishPlace s size = some off) :
    publishOp w part notice size s = (dSet (publishAt s w part size off) (dk 0x2710 2) 0, some stOk) := by
  unfold publishOp
  simp only [h, if_true, hplace, Option.getD_some]
  rfl

theorem publishCode_taken {s : State} {w part size : Nat} (hsize : size ≠ 0) (hw : winGet s w 1 ≠ 0) :
    publishCode s w part 0 size = 1 := (publishCode_of_form s w part hsize).trans (if_pos hw)

theorem publishCode_quota {s : State} {w part size : Nat} (hsize : size ≠ 0) (hw : winGet s w 1 = 0)
    (hquota : quotaAllows s part 2 (windowBytes size) = false) : publishCode s w part 0 size = 2 :=
  (publishCode_of_form s w part hsize).trans ((if_neg (not_not.mpr hw)).trans (if_pos (by rw [hquota]; rfl)))

/-- With the quota kept, the place decides. -/
theorem publishCode_place {s : State} {w part size : Nat} (hsize : size ≠ 0) (hw : winGet s w 1 = 0)
    (hquota : quotaAllows s part 2 (windowBytes size) = true) :
    publishCode s w part 0 size = if (publishPlace s size).isNone then 3 else 0 :=
  (publishCode_of_form s w part hsize).trans ((if_neg (not_not.mpr hw)).trans (if_neg (by rw [hquota]; exact Bool.false_ne_true)))

/-! ### REVOKE (R275) -/

theorem revokeOp_form {part size : Nat} (s : State) (w notice : Nat) (h : part ≠ 0 ∨ size ≠ 0) :
    revokeOp w part notice size s = (dSet s (dk 0x2710 2) 4, some stOk) := if_pos h

theorem revokeOp_inactive {s : State} {w : Nat} (notice : Nat) (h : winGet s w 1 ≠ 1) :
    revokeOp w 0 notice 0 s = (dSet s (dk 0x2710 2) 1, some stOk) :=
  (if_neg fun hf => hf.elim (fun hp => hp rfl) fun hs => hs rfl).trans (if_pos h)

/-- The window of a REVOKE with a notice: its borrowers told, and the notice started. -/
def noticeStarted (s : State) (w ticks : Nat) : State :=
  let t := winSet s w 1 2
  { t with fab := { t.fab with
    noticeEnd := t.fab.noticeEnd.filter (fun x => x.1 != w) ++ [(w, BitVec.ofNat 64 (now t + ticks))] } }

theorem revokeOp_active {s : State} {w : Nat} (notice : Nat) (h : winGet s w 1 = 1) :
    revokeOp w 0 notice 0 s =
      if notice = 0 then (dSet (endNotice (tellBorrowers s w (notice * 25000)) w) (dk 0x2710 2) 0, some stOk)
      else (dSet (noticeStarted (tellBorrowers s w (notice * 25000)) w (notice * 25000)) (dk 0x2710 2) 0, some stOk) :=
  (if_neg fun hf => hf.elim (fun hp => hp rfl) fun hs => hs rfl).trans (if_neg (not_not.mpr h))

/-- Settles O48: PUBLISH by `publishCode`, REVOKE by its checks, the window's end by its state. -/
theorem lendingCommands : Obligations.LendingCommands := by
  refine ⟨fun rq window part notice size s hserved => ?lend, fun window s => ?ends⟩
  case lend =>
    intro w s0 bytes word published revoked
    have publishes (t : State) (code : Nat)
        (hop : publishOp w part.toNat notice.toNat size.toNat s0 = (dSet t (dk 0x2710 2) code, some stOk)) : published t code :=
      congrArg Host.Outcome.next (handleWrite_served_ok _ hserved hop)
    have revokes (t : State) (code : Nat)
        (hop : revokeOp w part.toNat notice.toNat size.toNat s0 = (dSet t (dk 0x2710 2) code, some stOk)) : revoked t code :=
      congrArg Host.Outcome.next (handleWrite_served_ok _ hserved hop)
    refine ⟨fun hform => ?_, ?_, ?_, ?_, fun hform => ?_, ?_, ?_⟩
    · refine publishes s0 4 (publishOp_refused (if_pos (hform.imp toNat_ne_zero fun h => ?_)) (by decide))
      rw [h]
      rfl
    · rintro rfl hsize hw
      exact publishes s0 1 (publishOp_refused (publishCode_taken (toNat_ne_zero hsize) hw) (by decide))
    · rintro rfl hsize hw hquota
      exact publishes s0 2 (publishOp_refused (publishCode_quota (toNat_ne_zero hsize) hw hquota) (by decide))
    · rintro rfl hsize hw hquota
      have hcode := publishCode_place (s := s0) (w := w) (part := part.toNat) (toNat_ne_zero hsize) hw hquota
      refine ⟨fun hnone => ?_, fun off hsome => ?_⟩
      · exact publishes s0 3 (publishOp_refused (hcode.trans (if_pos (Option.isNone_iff_eq_none.mpr hnone))) (by decide))
      · refine publishes _ 0 (publishOp_ok (hcode.trans (if_neg ?_)) hsome)
        rw [show publishPlace s0 size.toNat = some off from hsome]
        exact Bool.false_ne_true
    · exact revokes s0 4 (revokeOp_form s0 w notice.toNat (hform.imp toNat_ne_zero toNat_ne_zero))
    · rintro rfl rfl hw
      exact revokes s0 1 (revokeOp_inactive (s := s0) notice.toNat hw)
    · rintro rfl rfl hw ticks s1
      have hop := revokeOp_active (s := s0) notice.toNat hw
      refine ⟨?_, fun hn => ?_⟩
      · rintro rfl
        exact revokes _ 0 (hop.trans (if_pos rfl))
      · exact revokes _ 0 (hop.trans (if_neg (toNat_ne_zero hn)))
  case ends =>
    refine ⟨fun hlive hstate hleft => congrArg Host.Outcome.next (if_pos ?_),
      fun hlive hstate => congrArg Host.Outcome.next (if_pos ?_), fun hdead => ⟨congrArg Host.Outcome.next (if_neg ?_), congrArg Host.Outcome.next (if_neg ?_)⟩⟩
    · simp [hlive, hstate, hleft]
    · simp [hlive, hstate]
    · simp [hdead]
    · simp [hdead]

end Sys2Proof.Machine

end

section
/-! CERTIFICATE. O49 (PortCommands): the bywash, and a port's training. -/

namespace Sys2Proof.Machine

open Sys2Proof.Claims

/-! ### The bywash (R278, R281) -/

theorem bywashForceOp_one (s : State) : bywashForceOp 1 s = (closeBywash (dSet s (dk 0x2700 0xB) 1), some stOk) := rfl

theorem bywashForceOp_zero (s : State) : bywashForceOp 0 s = (dSet s (dk 0x2700 0xB) 0, some stOk) := rfl

/-- The module with the lasers of some ports ready. -/
def withLasers (s : State) (lasers : BitVec 6) : State := { s with fab := { s.fab with lasersReady := lasers } }

/-- The conditions of R278. -/
def BywashMayOpen (s : State) (lasers : BitVec 6) : Prop :=
  bywashClosed s = true ∧ coordsValid s = true ∧ lasers = 0x3F ∧ mustClose s = false ∧ s.fab.dedupCleared.toNat + 2500000 ≤ now s

theorem bywashMayOpen_iff (s : State) (lasers : BitVec 6) :
    BywashMayOpen s lasers ↔ (bywashClosed s && coordsValid s && lasers == 0x3F && !mustClose s &&
      decide (s.fab.dedupCleared.toNat + dedupHold ≤ now s)) = true := by
  unfold BywashMayOpen dedupHold
  simp only [Bool.and_eq_true, beq_iff_eq, Bool.not_eq_true', decide_eq_true_eq, and_assoc]

theorem openBywash_of_may {s : State} {lasers : BitVec 6} (h : BywashMayOpen s lasers) :
    openBywash s lasers = (List.range 6).foldl startTraining (dSet (withLasers s lasers) (dk 0x2700 0xC) 0) :=
  if_pos ((bywashMayOpen_iff s lasers).mp h)

theorem openBywash_of_not {s : State} {lasers : BitVec 6} (h : ¬BywashMayOpen s lasers) :
    openBywash s lasers = withLasers s lasers := if_neg (mt (bywashMayOpen_iff s lasers).mpr h)

/-! ### Training (R255, R256, R262, R279) -/

theorem retrain_of_up {s : State} {i : Nat} (hi : i < 6) (hopen : bywashClosed s = false) (hoff : portState s i ≠ 4)
    (hdown : portState s i ≠ 1) : retrain s i = count (portSet s i 1 1) 0x3286 (i + 1) 1 :=
  if_neg (by simp [Nat.not_le.mpr hi, hopen, hoff, hdown])

theorem trainingDone_unlocked {s : State} (i : Nat) {r : TrainResult} (h : locked r = false) : trainingDone s i r = s :=
  if_pos (Or.inr (Or.inr (Or.inr (by rw [h]; rfl))))

/-- A port that did not find its partner. -/
def portOff (s : State) (i : Nat) : State := portSet (portSet s i 1 0) i 2 0xFFFF

/-- A partner that R262 refuses, or none of whose versions the module has, brings no version. -/
theorem trainVersion_none {s : State} {i : Nat} {r : TrainResult}
    (h : partnerGood s i r = false ∨ bestVersion Config.kraurVersions r.versions.toNat = none) :
    (if partnerGood s i r = true then bestVersion Config.kraurVersions r.versions.toNat else none) = none := by
  obtain h | h := h
  · rw [h]
    rfl
  · rw [h, ite_self]

/-- A port whose training ends: it trains, has lock, and the bywash is open. -/
def TrainingEnds (s : State) (i : Nat) (r : TrainResult) : Prop :=
  i < 6 ∧ bywashClosed s = false ∧ portState s i = 1 ∧ locked r = true

theorem TrainingEnds.goes {s : State} {i : Nat} {r : TrainResult} (h : TrainingEnds s i r) :
    ¬(6 ≤ i ∨ bywashClosed s = true ∨ portState s i ≠ 1 ∨ (!locked r) = true) := by
  obtain ⟨hi, hopen, htrains, hlocked⟩ := h
  simp [Nat.not_le.mpr hi, hopen, htrains, hlocked]

theorem trainingDone_few {s : State} {i : Nat} {r : TrainResult} (h : TrainingEnds s i r) (hnone : trainLanes s i r.goodLanes = none) :
    trainingDone s i r = portOff s i := by
  unfold trainingDone
  rw [if_neg h.goes, hnone]
  rfl

theorem trainingDone_alone {s : State} {i : Nat} {r : TrainResult} {x : Nat × Option Nat} (h : TrainingEnds s i r)
    (hsome : trainLanes s i r.goodLanes = some x)
    (hbad : partnerGood s i r = false ∨ bestVersion Config.kraurVersions r.versions.toNat = none) :
    trainingDone s i r = raiseEvent (portOff s i) 1 0 none (0x2701 + i) 1 0 := by
  unfold trainingDone
  rw [if_neg h.goes, hsome]
  dsimp only
  rw [trainVersion_none hbad]
  rfl

/-- The port's link and entries once it has found its partner. -/
def portJoined (s : State) (i : Nat) (r : TrainResult) (x : Nat × Option Nat) (v : Nat) : State :=
  let s1 := setLink s i { getLink s i with spareFor := x.2, version := v }
  portSet (portSet (portSet (portSet s1 i 3 x.1) i 4 r.delay.toNat) i 2 (trainNode s r.coords)) i 1 2

theorem trainingDone_up {s : State} {i v : Nat} {r : TrainResult} {x : Nat × Option Nat} (h : TrainingEnds s i r)
    (hsome : trainLanes s i r.goodLanes = some x) (hgood : partnerGood s i r = true)
    (hv : bestVersion Config.kraurVersions r.versions.toNat = some v) :
    trainingDone s i r = pump (joinPartner (portJoined s i r x v) i (trainNode s r.coords) r.lack) i := by
  unfold trainingDone
  rw [if_neg h.goes, hsome]
  dsimp only
  rw [hgood, if_pos rfl, hv]
  rfl

/-- Settles O49: the bywash by R278, a port by its state and by what its training found. -/
theorem portCommands : Obligations.PortCommands := by
  refine ⟨fun rq v s hserved => ⟨fun hv => ?_, ?_, ?_⟩, fun lasers s => ?bywash, fun port s hi hopen => ?port⟩
  · exact congrArg Host.Outcome.next (handleWrite_served_refused _ hserved (if_pos hv) (by decide))
  · rintro rfl
    exact congrArg Host.Outcome.next (handleWrite_served_ok _ hserved (bywashForceOp_zero (awake s)))
  · rintro rfl
    exact congrArg Host.Outcome.next (handleWrite_served_ok _ hserved (bywashForceOp_one (awake s)))
  case bywash =>
    intro s1 may
    exact ⟨fun h => congrArg Host.Outcome.next (openBywash_of_not h), fun h => congrArg Host.Outcome.next (openBywash_of_may h)⟩
  case port =>
    intro i
    refine ⟨fun hoff hdown => congrArg Host.Outcome.next (retrain_of_up hi hopen hoff hdown),
      fun r _ hlock => congrArg Host.Outcome.next (trainingDone_unlocked i hlock), fun r htrains hlock => ?_⟩
    intro off version
    have hends : TrainingEnds s i r := ⟨hi, hopen, htrains, hlock⟩
    exact ⟨fun hnone => congrArg Host.Outcome.next (trainingDone_few hends hnone), fun x hsome =>
      ⟨fun hbad => congrArg Host.Outcome.next (trainingDone_alone hends hsome hbad),
        fun v hgood hv => congrArg Host.Outcome.next (trainingDone_up hends hsome hgood hv)⟩⟩

end Sys2Proof.Machine

end

section
/-! CERTIFICATE. O50 (LinkCommands): flits, NAKs, suspect lanes, forwarding and LIFE. -/

namespace Sys2Proof.Machine

open Sys2Proof.Claims

/-! ### Flits (R258, R260, R261) -/

/-- The link as it was counted for a flit whose symbols it corrected. -/
def flitCounted (s : State) (i corrected : Nat) : State := linkCount (linkCount s i 0x3283 0 corrected) i 0x3281 0 1

/-- A flit on a link that carries none is ignored; on one that does, the host's transactions follow what it was received as. -/
theorem exec_flit_down {link : BitVec 3} (bytes : List Byte) (good : Bool) (corrected : BitVec 16) {s : State}
    (h : linkStays s link.toNat = false) : exec (.flit link bytes good corrected) s = .next s :=
  congrArg Host.Outcome.next (if_pos (Or.inr (by rw [h]; rfl)))

theorem exec_flit_up {link : BitVec 3} (bytes : List Byte) (good : Bool) (corrected : BitVec 16) {s t : State} (hlink : link ≠ 7)
    (h : linkStays s link.toNat = true)
    (ht : receiveFlit (linkCount s link.toNat 0x3283 0 corrected.toNat) link.toNat bytes good = t) :
    exec (.flit link bytes good corrected) s =
      .next (if link = 6 ∧ (getLink t 6).rxNext ≠ (getLink s link.toNat).rxNext then hostFlit t (getLink s link.toNat) bytes else t) := by
  rw [← ht]
  exact congrArg Host.Outcome.next (if_neg fun hd => hd.elim hlink (by rw [h]; exact Bool.false_ne_true))

theorem receiveFlit_bad {s : State} {i : Nat} (bytes : List Byte) (h : linkStays s i = true) :
    receiveFlit s i bytes false = discardFlit (linkCount (linkCount s i 0x3281 0 1) i 0x3284 0 1) i := by
  unfold receiveFlit
  rw [h]
  rfl

theorem receiveFlit_crc {s : State} {i : Nat} {bytes : List Byte} (h : linkStays s i = true) (hcrc : flitGood bytes = false) :
    receiveFlit s i bytes true = discardFlit (linkCount (linkCount s i 0x3281 0 1) i 0x3282 0x3110 1) i := by
  unfold receiveFlit
  rw [h, hcrc]
  rfl

/-- A flit without errors, by its type and its number. -/
theorem receiveFlit_good {s : State} {i : Nat} {bytes : List Byte} (h : linkStays s i = true) (hcrc : flitGood bytes = true) :
    receiveFlit s i bytes true =
      let s1 := linkCount s i 0x3281 0 1
      let h := flitHead bytes
      let l := ackReplay (getLink s1 i) (BitVec.ofNat 12 h.lack)
      if h.type ≠ 1 then pump (setLink s1 i (takeCredit l h.crvc h.crcnt)) i
      else if BitVec.ofNat 12 h.lseq ≠ l.rxNext then
        (if l.rxDiscard then setLink s1 i l else discardFlit (setLink s1 i l) i)
      else
        pump (setLink s1 i (acceptSlots { takeCredit l h.crvc h.crcnt with rxNext := l.rxNext + 1, rxDiscard := false, ackDue := true }
          h (bytes.drop 16))) i := by
  unfold receiveFlit
  rw [h, hcrc]
  rfl

/-! ### NAKs (R260) -/

/-- The link with its flits on the way again. -/
def nakSent (s : State) (i : Nat) (lack : BitVec 12) (kept : List Word) : State :=
  let l := resendFlits s (ackReplay (getLink s i) lack)
  linkCount (linkCount (setLink s i { l with replayed := kept }) i 0x3280 0 l.replay.length) i 0x3285 0x3111 1

theorem nakLink_up {s : State} {i : Nat} (lack : BitVec 12) (corrected : Nat) (h : linkStays s i = true) :
    nakLink s i lack corrected =
      let s1 := flitCounted s i corrected
      let many := decide (16 < (replaysNow s1 i).length)
      if many = true then retrainLink (nakSent s1 i lack (if many = true then [] else replaysNow s1 i)) i
      else pump (nakSent s1 i lack (if many = true then [] else replaysNow s1 i)) i := by
  unfold nakLink
  rw [h]
  rfl

theorem nakLink_few {s : State} {i : Nat} (lack : BitVec 12) {corrected : Nat} (h : linkStays s i = true)
    (hfew : (replaysNow (flitCounted s i corrected) i).length ≤ 16) :
    nakLink s i lack corrected =
      pump (nakSent (flitCounted s i corrected) i lack (replaysNow (flitCounted s i corrected) i)) i := by
  rw [nakLink_up lack corrected h]
  dsimp only
  rw [decide_eq_false (Nat.not_lt.mpr hfew), if_neg Bool.false_ne_true, if_neg Bool.false_ne_true]

theorem nakLink_many {s : State} {i : Nat} (lack : BitVec 12) {corrected : Nat} (h : linkStays s i = true)
    (hmany : 16 < (replaysNow (flitCounted s i corrected) i).length) :
    nakLink s i lack corrected = retrainLink (nakSent (flitCounted s i corrected) i lack []) i := by
  rw [nakLink_up lack corrected h]
  dsimp only
  rw [decide_eq_true hmany, if_pos rfl, if_pos rfl]

theorem exec_nak (link : BitVec 3) (lack : BitVec 12) (corrected : BitVec 16) (s : State) (h : link ≠ 7) :
    exec (.nak link lack corrected) s = .next (nakLink s link.toNat lack corrected.toNat) :=
  congrArg Host.Outcome.next (if_neg h)

/-! ### Suspect lanes (R257) -/

/-- The link with what the spare's test has shown. -/
def spareSeen (s : State) (i : Nat) (spareGood : Bool) : State := setLink s i { getLink s i with spareClean := spareGood }

/-- What is seen of a lane in use. -/
theorem laneSuspect_used {s : State} {i lane : Nat} (corrections : Nat) (lockLost spareGood : Bool) (h : linkStays s i = true)
    (hlane : lane ≤ spareLane i) (hused : bit (dGet s (laneMapKey i)) lane = true) :
    laneSuspect s i lane corrections lockLost spareGood =
      if dGet s (dk 0x2700 0xE) < corrections ∨ lockLost = true
        then laneError (spareSeen s i spareGood) i lane (laneReport i lane) none else spareSeen s i spareGood := by
  have hgo : ¬((!linkStays s i) = true ∨ spareLane i < lane ∨ (!bit (dGet s (laneMapKey i)) lane) = true) := by
    simp [h, Nat.not_lt.mpr hlane, hused]
  have hbound : dGet (spareSeen s i spareGood) (dk 0x2700 0xE) = dGet s (dk 0x2700 0xE) := by
    unfold spareSeen setLink
    split <;> rfl
  unfold laneSuspect
  rw [if_neg hgo, ← hbound]
  rfl

theorem laneError_spared {s : State} {i : Nat} (lane : Nat) (e : ErrorReport) (persist : Option (BitVec 2))
    (h : (getLink s i).spareFor.isSome = true) : laneError s i lane e persist = retrainLink (detectError s e persist).1 i := if_pos h

theorem laneError_unspared {s : State} {i : Nat} (lane : Nat) (e : ErrorReport) (persist : Option (BitVec 2))
    (h : (getLink s i).spareFor = none) :
    laneError s i lane e persist = if (getLink (detectError s e persist).1 i).spareFor = some lane
      then sendCtrl (detectError s e persist).1 i 1 lane else (detectError s e persist).1 :=
  if_neg (by rw [h]; exact Bool.false_ne_true)

theorem exec_laneSwap (link : BitVec 3) (lane : BitVec 4) (seen : LaneErrors) (spareGood : Bool) (s : State) (h : link ≠ 7) :
    exec (.laneSwap link lane seen spareGood) s =
      .next (laneSuspect s link.toNat lane.toNat seen.corrections.toNat seen.lockLost spareGood) :=
  congrArg Host.Outcome.next (if_neg h)

/-! ### Forwarding (R264, R267) -/

/-- What a packet's next hop makes of it. -/
def atHop (s : State) (p : Packet) (residency : Nat) : Hop → State
  | .here => s
  | .absent lost => turnBack s p lost
  | .out port vc => launch s port vc residency p

theorem forwardPacket_on {s : State} {p : Packet} (inPort : Option Nat) (vc residency : Nat) (h : fabricOn s = true) :
    forwardPacket s p inPort vc residency = atHop s p residency (nextHop s p.dest inPort vc) := by
  unfold forwardPacket
  rw [h]
  cases nextHop s p.dest inPort vc <;> rfl

theorem exec_forward_on {p : Packet} {inPort : Option (BitVec 3)} {vc : BitVec 2} {residency : BitVec 32} {s : State} {hop : Hop}
    (h : fabricOn s = true) (hhop : nextHop s p.dest (inPort.map (·.toNat)) vc.toNat = hop) :
    exec (.forward p inPort vc residency) s = .next (atHop s p residency.toNat hop) := by
  rw [← hhop]
  exact congrArg Host.Outcome.next (forwardPacket_on _ _ _ h)

theorem turnBack_response {p : Packet} (s : State) (lost : Bool) (h : p.kind = kResponse) :
    turnBack s p lost = if lost then countT s 0x3291 1 else s := if_pos h

/-- A request without a way is answered NODE_ABSENT. -/
theorem turnBack_request {p : Packet} (s : State) (lost : Bool) (h : p.kind ≠ kResponse) :
    turnBack s p lost =
      let s1 := if lost then countT s 0x3291 1 else s
      if p.src = nodeId s1 then { s1 with fab := { s1.fab with sent := s1.fab.sent ++ [{ port := 6, vc := 0, pkt := absentAnswer p }] } }
      else sendPacket s1 (absentAnswer p) := if_neg h

/-- Settles O50: a flit and a NAK by what the link finds, a lane by what it shows, a packet by its next hop. -/
theorem linkCommands : Obligations.LinkCommands := by
  refine ⟨fun link bytes good corrected s hlink => ?flit, fun link lack corrected s hlink => ?nak,
    fun link lane corrections lockLost spareGood s hlink => ?lane, fun p inPort vc residency s hon => ?forward⟩
  case flit =>
    intro i s1
    refine ⟨fun hdown => exec_flit_down bytes good corrected hdown, fun hup hstays => ?_⟩
    intro h l credited received
    refine ⟨?_, ?_, ?_, ?_, ?_⟩
    · rintro rfl
      exact exec_flit_up bytes false corrected hlink hup (receiveFlit_bad bytes hstays)
    all_goals rintro rfl hcrc
    · exact exec_flit_up bytes true corrected hlink hup (receiveFlit_crc hstays hcrc)
    all_goals have hgood := receiveFlit_good hstays hcrc
    · exact fun htype => exec_flit_up bytes true corrected hlink hup (hgood.trans (if_pos htype))
    · exact fun htype hseq => exec_flit_up bytes true corrected hlink hup
        (hgood.trans ((if_neg (not_not.mpr htype)).trans (if_pos hseq)))
    · exact fun htype hseq => exec_flit_up bytes true corrected hlink hup
        (hgood.trans ((if_neg (not_not.mpr htype)).trans (if_neg (not_not.mpr hseq))))
  case nak =>
    intro i s1 l sent
    rw [exec_nak link lack corrected s hlink]
    exact ⟨fun hdown => congrArg Host.Outcome.next (if_pos (by rw [hdown]; rfl)), fun hup =>
      ⟨fun hfew => congrArg Host.Outcome.next (nakLink_few lack hup hfew),
        fun hmany => congrArg Host.Outcome.next (nakLink_many lack hup hmany)⟩⟩
  case lane =>
    intro i s1 hup hlane hused
    rw [exec_laneSwap link lane ⟨corrections, lockLost⟩ spareGood s hlink]
    have hseen := laneSuspect_used corrections.toNat lockLost spareGood hup hlane hused
    refine ⟨fun hfew hlock => congrArg Host.Outcome.next (hseen.trans (if_neg ?_)), fun hmany => ?_⟩
    · rintro (hover | hlost)
      · exact Nat.not_lt.mpr hfew hover
      · exact Bool.false_ne_true (hlock.symm.trans hlost)
    · have herror := hseen.trans (if_pos hmany)
      exact ⟨fun hspare => congrArg Host.Outcome.next (herror.trans (laneError_spared lane.toNat _ none hspare)),
        fun hspare => congrArg Host.Outcome.next (herror.trans (laneError_unspared lane.toNat _ none hspare))⟩
  case forward =>
    intro hop
    refine ⟨⟨fun hhere => ?_, fun lost habsent hkind => ?_, fun lost habsent hkind => ?_, fun port v hout => ?_⟩, ?_⟩
    · exact exec_forward_on hon hhere
    · exact (exec_forward_on hon habsent).trans (congrArg _ (turnBack_response s lost hkind))
    · exact (exec_forward_on hon habsent).trans (congrArg _ (turnBack_request s lost hkind))
    · exact ⟨fun hlate => (exec_forward_on hon hout).trans (congrArg _ (if_pos hlate)),
        fun hlife => (exec_forward_on hon hout).trans (congrArg _ (if_neg (Nat.not_le.mpr hlife)))⟩
    · exact congrArg Host.Outcome.next (if_neg (by rw [hon]; exact Bool.false_ne_true))

end Sys2Proof.Machine

end

section
/-! SUPPORT. The module as a target: how a transaction is taken in, looked up and lent its range, and which bytes and entries these
steps leave alone (R267 to R271). -/

namespace Sys2Proof.Machine

open Sys2Proof.Claims

/-! ### What the steps of a target keep -/

theorem foldl_fireRead_none {s : State} (h : s.hlth.injections = []) (l : List (Nat × Nat)) :
    l.foldl (fun s x => fireRead s x.1 x.2) s = s := by
  induction l with
  | nil => rfl
  | cons x l ih => rw [List.foldl_cons, fireRead_none h, ih]

theorem lookDedup_hlth (s : State) (p : Packet) : (lookDedup s p).1.hlth = s.hlth := by
  unfold lookDedup putDedup
  dsimp only
  split
  · split
    · rfl
    · split <;> rfl
  · split
    · exact (countT_countsOnly s _ _).hlth
    · rfl

/-- What lending a range to a node changes: a new borrower enters the window's list and count. -/
theorem lent_eq_some {s t : State} {node a n : Nat} (h : lent s node a n = some t) :
    t = s ∨ ∃ w < 64, ∃ v b, t = { dSet s (dk (0x2740 + w) 6) v with fab := { s.fab with borrowers := b } } := by
  unfold lent at h
  split at h
  · exact absurd h (by simp)
  · split at h
    · exact absurd h (by simp)
    next w hw =>
      have hlt : w < 64 := List.mem_range.mp (List.mem_of_find?_eq_some hw)
      dsimp only at h
      split at h
      · exact Or.inl (Option.some.inj h).symm
      · split at h
        · exact absurd h (by simp)
        · exact Or.inr ⟨w, hlt, _, _, (Option.some.inj h).symm⟩

theorem lent_hlth {s t : State} {node a n : Nat} (h : lent s node a n = some t) : t.hlth = s.hlth := by
  obtain rfl | ⟨w, -, v, b, rfl⟩ := lent_eq_some h
  · rfl
  · rfl

/-! ### A transaction taken in (R267, R271) -/

/-- The word that holds TAG and LIFE holds no other field. -/
theorem withX1_fields (p : Packet) (x : Word) : { p with x1 := x }.kind = p.kind ∧ { p with x1 := x }.code = p.code ∧
    { p with x1 := x }.w64 = p.w64 ∧ { p with x1 := x }.src = p.src ∧ { p with x1 := x }.len = p.len ∧
    { p with x1 := x }.addr = p.addr ∧ { p with x1 := x }.operand = p.operand ∧ { p with x1 := x }.data = p.data := by
  obtain ⟨x0, x1, x2, x3, data⟩ := p
  exact ⟨rfl, rfl, rfl, rfl, rfl, rfl, rfl, rfl⟩

theorem taken_fields (p : Packet) : (taken p).kind = p.kind ∧ (taken p).code = p.code ∧ (taken p).w64 = p.w64 ∧
    (taken p).src = p.src ∧ (taken p).len = p.len ∧ (taken p).addr = p.addr ∧ (taken p).operand = p.operand ∧
    (taken p).data = p.data := withX1_fields p _

/-- A packet's LIFE, set to a value that fits, reads so. -/
theorem life_packetLife (p : Packet) {n : Nat} (h : n < 2 ^ 32) : (packetLife p n).life = n := by
  have htag : p.tag < 2 ^ 32 := by
    unfold Packet.tag bits
    exact Nat.mod_lt _ (by decide)
  change bits (BitVec.ofNat 64 (p.tag * 2 ^ 32 + n)).toNat 31 0 = n
  rw [BitVec.toNat_ofNat, Nat.mod_eq_of_lt (by omega)]
  unfold bits
  rw [Nat.shiftRight_eq_div_pow]
  omega

/-- A transaction taken in at once is served. -/
theorem arrive_takesIn {p : Packet} {s s1 : State} {kind : Nat} (serve : State → Packet → State) (h : TakesIn s p kind s1) :
    arrive s p kind serve = serve s1 (taken p) := by
  obtain ⟨hkind, hdest, hon, hlive, rfl, hserving, hheld, -, -⟩ := h
  unfold arrive
  rw [if_neg (by simp [hkind, hdest, hon]), if_pos hlive]
  dsimp only
  rw [hserving, hheld]
  rfl

theorem receive_full {s t : State} {p : Packet} (again fresh : State → State) (hlife : p.life ≠ 0) (h : lookDedup s p = (t, .full)) :
    receive s p again fresh = answer t p 3 [] 0 := by
  unfold receive
  rw [if_neg hlife, h]

theorem receive_old {s t : State} {p : Packet} (again fresh : State → State) (hlife : p.life ≠ 0) (h : lookDedup s p = (t, .old)) :
    receive s p again fresh = again (countT t 0x328E 1) := by
  unfold receive
  rw [if_neg hlife, h]

theorem receive_new {s t : State} {p : Packet} (again fresh : State → State) (hlife : p.life ≠ 0) (h : lookDedup s p = (t, .new)) :
    receive s p again fresh = fresh t := by
  unfold receive
  rw [if_neg hlife, h]

theorem injections_of_new {s t : State} {p : Packet} {x : Seen} (h : lookDedup s p = (t, x)) (hinj : s.hlth.injections = []) :
    t.hlth.injections = [] := by
  have := lookDedup_hlth s p
  rw [h] at this
  rw [this, hinj]

/-! ### READ, WRITE and ATOMIC of a range that is lent (R270) -/

theorem readWindow_lost {s t : State} {p : Packet} {a : Nat} (hlent : lent s p.src p.addr p.len = some t)
    (hinj : t.hlth.injections = []) (hlost : firstLost t p.addr p.len = some a) : readWindow p s = lenderError t p a := by
  unfold readWindow
  rw [hlent]
  dsimp only
  rw [fireRead_none hinj, hlost]

theorem readWindow_whole {s t : State} {p : Packet} (hlent : lent s p.src p.addr p.len = some t) (hinj : t.hlth.injections = [])
    (hlost : firstLost t p.addr p.len = none) :
    readWindow p s = answer (touchRange none false (markDedup t p none) p.addr p.len) p 0 (ldBytes t p.addr p.len) 0 := by
  unfold readWindow
  rw [hlent]
  dsimp only
  rw [fireRead_none hinj, hlost]

theorem readWindow_unlent {s : State} {p : Packet} (hlent : lent s p.src p.addr p.len = none) : readWindow p s = notLent s p := by
  unfold readWindow
  rw [hlent]

theorem writeWindow_whole {s t : State} {p : Packet} (hlent : lent s p.src p.addr p.data.length = some t)
    (hinj : t.hlth.injections = []) (hlost : lostRead t (partialWords p.addr p.data.length) = none) :
    writeWindow p s = answer (gWrite (markDedup t p none) p.addr p.data) p 0 [] 0 := by
  unfold writeWindow
  simp only [hlent, foldl_fireRead_none hinj, hlost]

theorem writeWindow_unlent {s : State} {p : Packet} (hlent : lent s p.src p.addr p.data.length = none) :
    writeWindow p s = notLent s p := by
  unfold writeWindow
  simp only [hlent]

/-- The state of an ATOMIC that answers `v`: marked and counted. -/
def atomicMarked (s : State) (p : Packet) (v : Nat) : State :=
  touchLine none true (countT (tickFresh (markDedup s p (some (BitVec.ofNat 64 v)))) 0x327A 1) (lineAddr p.addr)

theorem atomicWindow_scalar {s t : State} {p : Packet} (hlent : lent s p.src p.addr (atomicWidth p.code p.w64) = some t)
    (hinj : t.hlth.injections = []) (hlost : firstLost t p.addr (atomicWidth p.code p.w64) = none) (hcode : scalarAtomic p.code = true) :
    atomicWindow p s = answer (storeM (atomicMarked t p (ldNat t p.addr (atomicWidth p.code p.w64))) p.addr
      (leBytes (atomicWidth p.code p.w64) (atomicScalar t.fresh p.code (atomicWidth p.code p.w64)
        (ldNat t p.addr (atomicWidth p.code p.w64)) p.operand (leNat (p.data.take 8))))) p 0 []
      (ldNat t p.addr (atomicWidth p.code p.w64)) := by
  unfold atomicWindow
  simp only [hlent, fireRead_none hinj, hlost, hcode, if_true]
  rfl

theorem atomicWindow_vector {s t : State} {p : Packet} (hlent : lent s p.src p.addr (atomicWidth p.code p.w64) = some t)
    (hinj : t.hlth.injections = []) (hlost : firstLost t p.addr (atomicWidth p.code p.w64) = none) (hcode : scalarAtomic p.code = false) :
    atomicWindow p s = answer (storeM (atomicMarked t p 0) p.addr (atomicVector p.code (ldBytes t p.addr 128) p.data)) p 0 [] 0 := by
  unfold atomicWindow
  simp only [hlent, fireRead_none hinj, hlost, hcode, Bool.false_eq_true, if_false]
  rfl

theorem atomicWindow_unlent {s : State} {p : Packet} (hlent : lent s p.src p.addr (atomicWidth p.code p.w64) = none) :
    atomicWindow p s = notLent s p := by
  unfold atomicWindow
  simp only [hlent]

/-! ### TALLY and chunks (R70, R282) -/

theorem tallyTarget_unowned {s : State} {p : Packet} (h : tallyOwner s (p.addr % 4096) = none) :
    tallyTarget p s = answer (countT s 0x3211 1) p 4 [] 0 := by
  unfold tallyTarget
  simp only [h]

theorem tallyTarget_closed {s : State} {p : Packet} {o : Nat} (h : tallyOwner s (p.addr % 4096) = some o) (hopen : pGet s o 0xF ≠ 1) :
    tallyTarget p s = answer (countP s 0x3211 o 1) p 4 [] 0 := by
  unfold tallyTarget
  simp only [h]
  exact if_neg hopen

theorem tallyTarget_open {s : State} {p : Packet} {o : Nat} (h : tallyOwner s (p.addr % 4096) = some o) (hopen : pGet s o 0xF = 1) :
    tallyTarget p s = answer (tallyAdd (markDedup s p none) (p.addr % 4096) p.operand) p 0 [] 0 := by
  unfold tallyTarget
  simp only [h]
  exact if_pos hopen

theorem chunkTarget_alone {s : State} {p : Packet} (h : instanceOf s (p.addr / 2 ^ 32) = none) : chunkTarget p s = answer s p 3 [] 0 := by
  unfold chunkTarget
  simp only [h]

theorem chunkTarget_other {s : State} {p : Packet} {c : InFlight} {inst : CollInst} (h : instanceOf s (p.addr / 2 ^ 32) = some c)
    (hcoll : c.coll = some inst) (hsig : inst.signature.toNat ≠ p.operand / 2 ^ 32) :
    chunkTarget p s = answer (countT s 0x3293 1) p 3 [] 0 := by
  unfold chunkTarget
  simp only [h, hcoll]
  exact if_pos hsig

/-- The state in which a chunk has been staged for its collective. -/
def chunkStaged (s : State) (p : Packet) (c : InFlight) (inst : CollInst) : State :=
  let s3 := markDedup s p none
  let s4 : State := { s3 with fab := { s3.fab with staged := s3.fab.staged ++ [{ node := p.src, pkt := p }] } }
  setFlight s4 c.ring (fun f => { f with coll := some { inst with lastTick := BitVec.ofNat 64 (now s4) } })

theorem chunkTarget_staged {s : State} {p : Packet} {c : InFlight} {inst : CollInst} (h : instanceOf s (p.addr / 2 ^ 32) = some c)
    (hcoll : c.coll = some inst) (hsig : inst.signature.toNat = p.operand / 2 ^ 32) (hfits : stagingFits s p.data.length = true) :
    chunkTarget p s = answer (chunkStaged s p c inst) p 0 [] 0 := by
  unfold chunkTarget
  simp only [h, hcoll]
  rw [if_neg (not_not.mpr hsig), if_neg (by rw [hfits]; exact Bool.false_ne_true)]
  rfl

end Sys2Proof.Machine

end

section
/-! CERTIFICATE. O51 (TargetRequests), first part: what each transaction does whose tag is new, has been applied, or finds the table full,
and what one does that cannot be taken in. -/

namespace Sys2Proof.Machine

open Sys2Proof.Claims

/-- A command served by a deduplicated handler: answered RETRY when the table is full. -/
theorem served_full {p : Packet} {s s1 : State} {kind : Nat} {i : Instr} {again fresh : State → State} (h : TakesIn s p kind s1)
    (hexec : exec i s = .next (receive s1 (taken p) again fresh)) (s2 : State) (hlook : lookDedup s1 (taken p) = (s2, .full)) :
    exec i s = .next (answer s2 (taken p) 3 [] 0) := by
  obtain ⟨-, -, -, -, -, -, -, hlife, -⟩ := h
  rw [hexec, receive_full again fresh hlife hlook]

theorem served_old {p : Packet} {s s1 : State} {kind : Nat} {i : Instr} {again fresh : State → State} (h : TakesIn s p kind s1)
    (hexec : exec i s = .next (receive s1 (taken p) again fresh)) (s2 : State) (hlook : lookDedup s1 (taken p) = (s2, .old)) :
    exec i s = .next (again (countT s2 0x328E 1)) := by
  obtain ⟨-, -, -, -, -, -, -, hlife, -⟩ := h
  rw [hexec, receive_old again fresh hlife hlook]

theorem served_new {p : Packet} {s s1 s2 : State} {kind : Nat} {i : Instr} {again fresh : State → State} (h : TakesIn s p kind s1)
    (hexec : exec i s = .next (receive s1 (taken p) again fresh)) (hlook : lookDedup s1 (taken p) = (s2, .new)) :
    exec i s = .next (fresh s2) := by
  obtain ⟨-, -, -, -, -, -, -, hlife, -⟩ := h
  rw [hexec, receive_new again fresh hlife hlook]

theorem takesIn_unarmed {p : Packet} {s s1 s2 : State} {kind : Nat} {x : Seen} (h : TakesIn s p kind s1)
    (hlook : lookDedup s1 (taken p) = (s2, x)) : s2.hlth.injections = [] := by
  obtain ⟨-, -, -, -, -, -, -, -, hinj⟩ := h
  exact injections_of_new hlook hinj

theorem unarmed_of_lent {s t : State} {node a n : Nat} (h : lent s node a n = some t) (hinj : s.hlth.injections = []) :
    t.hlth.injections = [] := by rw [lent_hlth h, hinj]

/-! ### The commands as served handlers -/

theorem exec_kraurRead {p : Packet} {s s1 : State} (h : TakesIn s p kRead s1) :
    exec (.kraurRead p) s = .next (receive s1 (taken p) (readWindow (taken p)) (readWindow (taken p))) :=
  congrArg Host.Outcome.next (arrive_takesIn serveRead h)

theorem exec_kraurWrite {p : Packet} {s s1 : State} (h : TakesIn s p kWrite s1) :
    exec (.kraurWrite p) s = .next (receive s1 (taken p) (ackAgain (taken p)) (writeWindow (taken p))) :=
  congrArg Host.Outcome.next (arrive_takesIn serveWrite h)

theorem exec_atomic {p : Packet} {s s1 : State} (h : TakesIn s p kAtomic s1)
    (hcode : atomicWidth (taken p).code (taken p).w64 ≠ 0) :
    exec (.atomic p) s = .next (receive s1 (taken p) (atomicAgain (taken p)) (atomicWindow (taken p))) :=
  congrArg Host.Outcome.next ((arrive_takesIn serveAtomic h).trans (if_neg hcode))

theorem exec_tally {p : Packet} {s s1 : State} (h : TakesIn s p kTally s1) :
    exec (.tally p) s = .next (receive s1 (taken p) (ackAgain (taken p)) (tallyTarget (taken p))) :=
  congrArg Host.Outcome.next (arrive_takesIn serveTally h)

theorem exec_lendNotice {p : Packet} {s s1 : State} (h : TakesIn s p kMessage s1) (hcode : p.code = 0) :
    exec (.lendNotice p) s = .next (receive s1 (taken p) (ackAgain (taken p)) (noticeTarget (taken p))) :=
  congrArg Host.Outcome.next ((if_pos hcode).trans (arrive_takesIn serveNotice h))

theorem exec_collAbort {p : Packet} {s s1 : State} (h : TakesIn s p kMessage s1) (hcode : p.code = 1) :
    exec (.collAbort p) s = .next (receive s1 (taken p) (ackAgain (taken p)) (abortTarget (taken p))) :=
  congrArg Host.Outcome.next ((if_pos hcode).trans (arrive_takesIn serveAbort h))

theorem exec_collective {p : Packet} {s s1 : State} (h : TakesIn s p kCollective s1) :
    exec (.collective p) s = .next (receive s1 (taken p) (ackAgain (taken p)) (chunkTarget (taken p))) :=
  congrArg Host.Outcome.next (arrive_takesIn serveChunk h)

/-! ### A transaction that is not taken in (R267, R271) -/

/-- A transaction for this module, its fabric on. -/
def ForHere (s : State) (p : Packet) (kind : Nat) : Prop := p.kind = kind ∧ p.dest = nodeId s ∧ fabricOn s = true

theorem arrive_here {s : State} {p : Packet} {kind : Nat} (serve : State → Packet → State) (h : ForHere s p kind) :
    arrive s p kind serve =
      let s1 := if live s then wakeFrom s [2] else s
      if serving s1 && !packetHeld s1 p then serve s1 (taken p) else holdPacket s1 p := by
  obtain ⟨hkind, hdest, hon⟩ := h
  exact if_neg (by simp [hkind, hdest, hon])

/-- While a reset holds the module it waits at its port. -/
theorem arrive_held {s : State} {p : Packet} {kind : Nat} (serve : State → Packet → State) (h : ForHere s p kind)
    (hdead : live s = false) : arrive s p kind serve = holdPacket s p := by
  rw [arrive_here serve h, hdead]
  refine if_neg ?_
  change ¬(serving s && !packetHeld s p) = true
  unfold serving
  rw [hdead]
  exact Bool.false_ne_true

/-- Its last tick of LIFE is spent. -/
theorem taken_spent {p : Packet} (h : p.life ≤ 1) : (taken p).life = 0 := by
  have hzero : p.life - 1 = 0 := by omega
  exact (life_packetLife p (show p.life - 1 < 2 ^ 32 by omega)).trans hzero

/-- One with no LIFE left is dropped, whatever serves it. -/
theorem arrive_spent {s s1 : State} {p : Packet} {kind : Nat} {serve : State → Packet → State} (h : ForHere s p kind)
    (hlive : live s = true) (hs1 : s1 = wakeFrom s [2]) (hserving : serving s1 = true) (hheld : packetHeld s1 p = false)
    (hserve : serve s1 (taken p) = dropExpired s1) : arrive s p kind serve = dropExpired s1 := by
  subst hs1
  rw [arrive_here serve h, hlive]
  dsimp only
  rw [if_pos rfl, if_pos (by rw [hserving, hheld]; rfl), hserve]

theorem receive_spent {s : State} {p : Packet} (again fresh : State → State) (h : p.life = 0) :
    receive s p again fresh = dropExpired s := if_pos h

/-- What happens to each command's transaction that is not taken in. -/
def NotTaken (i : Instr) (p : Packet) (s s1 : State) : Prop :=
  (live s = false → exec i s = .next { s with fab := { s.fab with arrivals := s.fab.arrivals ++ [(p, BitVec.ofNat 64 (now s))] } }) ∧
  (live s = true → s1 = wakeFrom s [2] → serving s1 = true → packetHeld s1 p = false → p.life ≤ 1 → exec i s = .next (countT s1 0x3290 1))

theorem notTaken_of_arrive {i : Instr} {p : Packet} {s : State} {kind : Nat} {serve : State → Packet → State} (s1 : State)
    (hexec : exec i s = .next (arrive s p kind serve)) (h : ForHere s p kind)
    (hserve : (taken p).life = 0 → serve s1 (taken p) = dropExpired s1) : NotTaken i p s s1 :=
  ⟨fun hdead => by rw [hexec, arrive_held serve h hdead]; rfl, fun hlive hs1 hserving hheld hlife => by
    rw [hexec, arrive_spent h hlive hs1 hserving hheld (hserve (taken_spent hlife))]
    rfl⟩

theorem notTaken_all {i : Instr} {kind : Nat} {p : Packet} {s : State} (s1 : State)
    (hi : (i, kind) ∈ [(Instr.kraurRead p, kRead), (.kraurWrite p, kWrite), (.atomic p, kAtomic), (.tally p, kTally),
        (.collective p, kCollective)] ++ (if p.code = 0 then [(.lendNotice p, kMessage)] else []) ++
        (if p.code = 1 then [(.collAbort p, kMessage)] else []))
    (h : ForHere s p kind) (hatomic : kind = kAtomic → atomicWidth p.code p.w64 ≠ 0) : NotTaken i p s s1 := by
  obtain ⟨-, hcode, hw64, -⟩ := taken_fields p
  rw [List.mem_append, List.mem_append] at hi
  obtain (hi | hi) | hi := hi
  · simp only [List.mem_cons, Prod.mk.injEq, List.not_mem_nil, or_false] at hi
    obtain ⟨rfl, rfl⟩ | ⟨rfl, rfl⟩ | ⟨rfl, rfl⟩ | ⟨rfl, rfl⟩ | ⟨rfl, rfl⟩ := hi
    · exact notTaken_of_arrive (serve := serveRead) s1 rfl h fun hl => receive_spent _ _ hl
    · exact notTaken_of_arrive (serve := serveWrite) s1 rfl h fun hl => receive_spent _ _ hl
    · refine notTaken_of_arrive (serve := serveAtomic) s1 rfl h fun hl => (if_neg ?_).trans (receive_spent _ _ hl)
      rw [hcode, hw64]
      exact hatomic rfl
    · exact notTaken_of_arrive (serve := serveTally) s1 rfl h fun hl => receive_spent _ _ hl
    · exact notTaken_of_arrive (serve := serveChunk) s1 rfl h fun hl => receive_spent _ _ hl
  all_goals
    split at hi
    case isFalse => exact absurd hi List.not_mem_nil
  all_goals
    rename_i hmsg
    obtain ⟨rfl, rfl⟩ := Prod.mk.inj (List.mem_singleton.mp hi)
  · exact notTaken_of_arrive (serve := serveNotice) s1 (congrArg Host.Outcome.next (if_pos hmsg)) h fun hl => receive_spent _ _ hl
  · exact notTaken_of_arrive (serve := serveAbort) s1 (congrArg Host.Outcome.next (if_pos hmsg)) h fun hl => receive_spent _ _ hl

end Sys2Proof.Machine

end

section
/-! SUPPORT. Looking a tag up, lending a range and counting an access leave the module's bytes and its other entries alone. -/

namespace Sys2Proof.Machine

open Sys2Proof.Claims

/-- The state with another deduplication table. -/
def withDedup (s : State) (d : List Dedup) : State := { s with fab := { s.fab with dedup := d } }

/-- A tag of a node that has no entry yet is new, while the table has room. -/
theorem lookDedup_unknown {s : State} {p : Packet} (h : ∀ e ∈ s.fab.dedup, e.node ≠ p.src) (hroom : s.fab.dedup.length < 4096) :
    ∃ d, lookDedup s p = (withDedup s d, .new) := by
  have hnone : (s.fab.dedup.filter (fun e => decide (now s ≤ e.expiry.toNat))).find? (fun e => e.node == p.src) = none := by
    rw [List.find?_eq_none]
    intro e he
    rw [beq_iff_eq]
    exact h e (List.mem_of_mem_filter he)
  have hlen : ¬4096 ≤ (s.fab.dedup.filter (fun e => decide (now s ≤ e.expiry.toNat))).length :=
    Nat.not_le.mpr (lt_of_le_of_lt (List.length_filter_le _ _) hroom)
  unfold lookDedup
  dsimp only
  rw [hnone]
  dsimp only
  rw [if_neg hlen]
  exact ⟨_, rfl⟩

theorem markDedup_eq (s : State) (p : Packet) (slot : Option Word) : ∃ d, markDedup s p slot = withDedup s d := by
  unfold markDedup
  split
  · exact ⟨s.fab.dedup, rfl⟩
  · exact ⟨_, rfl⟩

/-- A state with the same memory whose entries, those of windows apart, are the same. -/
def SameMemory (s t : State) : Prop :=
  t.mem = s.mem ∧ ∀ k, (k / 256 < 0x2740 ∨ 0x2780 ≤ k / 256) → dGet t k = dGet s k

theorem SameMemory.coords {s t : State} (h : SameMemory s t) : coordsValid t = coordsValid s := by
  obtain ⟨-, hdict⟩ := h
  unfold coordsValid
  rw [List.all_cons, List.all_cons, List.all_cons, hdict (dk 0x2700 1) (by decide), hdict (dk 0x2700 2) (by decide),
    hdict (dk 0x2700 3) (by decide), hdict (dk 0x2700 (1 + 3)) (by decide), hdict (dk 0x2700 (2 + 3)) (by decide),
    hdict (dk 0x2700 (3 + 3)) (by decide)]
  rfl

theorem SameMemory.node {s t : State} (h : SameMemory s t) : nodeId t = nodeId s := by
  obtain ⟨-, hdict⟩ := id h
  unfold nodeId
  rw [h.coords, hdict (dk 0x2700 1) (by decide), hdict (dk 0x2700 2) (by decide), hdict (dk 0x2700 4) (by decide),
    hdict (dk 0x2700 5) (by decide), hdict (dk 0x2700 6) (by decide)]

theorem SameMemory.key {s t : State} (h : SameMemory s t) (a : Nat) : memKey t a = memKey s a := by
  unfold memKey
  rw [h.node]

theorem SameMemory.bytes {s t : State} (h : SameMemory s t) (a n : Nat) : ldBytes t a n = ldBytes s a n := by
  induction n generalizing a with
  | zero => rfl
  | succ n ih =>
    unfold ldBytes ldByte keyByte
    rw [h.key, h.1, ih]

theorem SameMemory.lost {s t : State} (h : SameMemory s t) (a n : Nat) : lostIn t a n = lostIn s a n := by
  unfold lostIn
  rw [h.key, h.node, h.1, h.2 (dk 0x2400 7) (by decide)]

theorem SameMemory.marked {s t : State} (h : SameMemory s t) (d : List Dedup) : SameMemory s (withDedup t d) := ⟨h.1, h.2⟩

theorem lent_sameMemory {s t : State} {node a n : Nat} (h : lent s node a n = some t) : SameMemory s t := by
  obtain rfl | ⟨w, hw, v, b, rfl⟩ := lent_eq_some h
  · exact ⟨rfl, fun _ _ => rfl⟩
  · refine ⟨rfl, fun k hk => dGet_dSet_ne s v ?_⟩
    rintro rfl
    unfold dk at hk
    omega

/-- A range in a window that takes another borrower is lent. -/
theorem lent_of_window {s : State} {node a n w : Nat} (hnode : gaNode a = nodeId s) (hregion : gaRegion a = 0)
    (hw : windowOf s a n = some w) (hroom : (borrowersOf s w).length < 64) : ∃ t, lent s node a n = some t := by
  unfold lent
  rw [if_neg (by simp [hnode, hregion]), hw]
  dsimp only
  split
  · exact ⟨_, rfl⟩
  · rw [if_neg (Nat.not_le.mpr hroom)]
    exact ⟨_, rfl⟩

/-- What is not lost meets no lost line. -/
theorem firstLost_none {s : State} {a n : Nat} (h : lostIn s a n = false) : firstLost s a n = none := by
  have hlines : s.mem.lostLines.find? (fun l => decide (128 * l < memKey s a + n ∧ memKey s a < 128 * l + 128)) = none := by
    unfold lostIn at h
    rw [Bool.or_eq_false_iff, List.any_eq_false] at h
    exact List.find?_eq_none.mpr h.2
  unfold firstLost
  dsimp only
  rw [hlines]
  exact if_neg (by rw [h]; exact Bool.false_ne_true)

theorem lostRead_none {s : State} {l : List (Nat × Nat)} (h : ∀ x ∈ l, lostIn s x.1 x.2 = false) : lostRead s l = none := by
  have hnone : l.filterMap (fun x => firstLost s x.1 x.2) = [] := List.filterMap_eq_nil_iff.mpr fun x hx => firstLost_none (h x hx)
  unfold lostRead
  rw [hnone]
  rfl

/-! ### Counting an access -/

/-- The bytes of memory, with the undefined ranges. -/
def cells (s : State) : List (Nat × Nat × Nat) × List Host.Cell := (s.mem.undef, s.mem.bytes)

theorem keyByte_of_cells {s t : State} (h : cells t = cells s) (k : Nat) : keyByte t k = keyByte s k := by
  obtain ⟨hundef, hbytes⟩ := Prod.mk.inj h
  unfold keyByte
  rw [hundef, hbytes]

theorem CountsOnly.cells {s t : State} (h : CountsOnly s t) : Machine.cells t = Machine.cells s := by
  unfold Machine.cells
  rw [h.mem]

theorem touchLine_cells (owner : Option Nat) (write : Bool) (s : State) (l : Nat) : cells (touchLine owner write s l) = cells s := by
  unfold touchLine
  dsimp only
  split
  all_goals
    cases owner
    · exact (countT_countsOnly _ _ _).cells
    · exact (countP_countsOnly _ _ _ _).cells

theorem touchPart_cells (owner : Option Nat) (mask : Nat) (s : State) (l : Nat) : cells (touchPart owner mask s l) = cells s := by
  unfold touchPart
  split
  · exact touchLine_cells owner true s l
  · dsimp only
    cases owner
    · exact (countT_countsOnly _ _ _).cells
    · exact (countP_countsOnly _ _ _ _).cells

theorem touchWhole_cells (owner : Option Nat) (s : State) (l : Nat) : cells (touchWhole owner s l) = cells s :=
  touchLine_cells owner true _ l

theorem touchRange_cells (owner : Option Nat) (write : Bool) (s : State) (a n : Nat) :
    cells (touchRange owner write s a n) = cells s := by
  unfold touchRange
  split
  · refine List.foldlRecOn (motive := fun t => cells t = cells s) _ _ rfl fun t ht l _ => ?_
    split
    · split
      · exact (touchWhole_cells owner t l).trans ht
      · exact (touchPart_cells owner _ t l).trans ht
    · exact (touchLine_cells owner false t l).trans ht
  · rfl

theorem busSend_fab (s : State) (d : Datagram) : (busSend s d).fab = s.fab := by
  unfold busSend
  split <;> rfl

theorem sendMsix_fab (s : State) (v : Nat) : (sendMsix s v).fab = s.fab := by
  unfold sendMsix
  split <;> rfl

theorem raiseEvent_fab (s : State) (sev faultId : Nat) (part : Option Nat) (index sub detail : Nat) :
    (raiseEvent s sev faultId part index sub detail).fab = s.fab := by
  unfold raiseEvent
  dsimp only
  split
  · exact (sendMsix_fab _ 0).trans (busSend_fab _ _)
  · exact busSend_fab _ _

end Sys2Proof.Machine

end

section
/-! CERTIFICATE. O51 (TargetRequests): where each transaction completes, and the rest of its ends. -/

namespace Sys2Proof.Machine

open Sys2Proof.Claims

/-- A transaction that comes is taken in by the state it comes to, its tag new. -/
theorem comes_takesIn {s : State} {p : Packet} {kind : Nat} (h : Comes s p kind) : TakesIn s p kind s := by
  obtain ⟨hkind, hdest, hon, hlive, hstate, htrans, hheld, hlife, hinj, -, -⟩ := h
  have hpos : pState s = 0 ∨ pState s = 1 ∨ pState s = 3 := by simpa using hstate
  have hrun : serving s = true := by
    unfold serving
    rw [hlive]
    obtain h | h | h := hpos <;> rw [h] <;> rfl
  have hwake : s = wakeFrom s [2] := by
    unfold wakeFrom
    rw [htrans]
    refine (if_neg ?_).symm
    obtain h | h | h := hpos <;> rw [h] <;> decide
  exact ⟨hkind, hdest, hon, hlive, hwake, hrun, hheld, hlife, hinj⟩

theorem comes_isNew {s : State} {p : Packet} {kind : Nat} (h : Comes s p kind) :
    ∃ d, lookDedup s (taken p) = (withDedup s d, .new) := by
  obtain ⟨-, -, -, -, -, -, -, -, -, hnodes, hroom⟩ := h
  obtain ⟨-, -, -, hsrc, -⟩ := taken_fields p
  refine lookDedup_unknown (fun e he => ?_) hroom
  rw [hsrc]
  exact hnodes e he

/-- The range that such a transaction names is lent to its node, nothing of it lost. -/
theorem reaches_lends {s : State} {p : Packet} {n : Nat} (d : List Dedup) (h : Reaches s p n) :
    ∃ t, lent (withDedup s d) (taken p).src p.addr n = some t ∧ SameMemory s t ∧ firstLost t p.addr n = none ∧
      lostRead t (partialWords p.addr n) = none := by
  obtain ⟨hnode, hregion, ⟨w, hw, hroom⟩, hlost, hwords⟩ := h
  obtain ⟨t, ht⟩ := lent_of_window (s := withDedup s d) (node := (taken p).src) hnode hregion hw hroom
  have hsame : SameMemory s t := lent_sameMemory (s := withDedup s d) ht
  refine ⟨t, ht, hsame, firstLost_none ?_, lostRead_none fun x hx => ?_⟩
  · rw [hsame.lost, hlost]
  · rw [hsame.lost, hwords x hx]

theorem read_completes {p : Packet} {s : State} (h : Comes s p kRead) (hreach : Reaches s p p.len) :
    ∃ t, exec (.kraurRead p) s = .next (answer t (taken p) 0 (ldBytes s p.addr p.len) 0) := by
  obtain ⟨d, hlook⟩ := comes_isNew h
  obtain ⟨-, -, -, -, hlen, haddr, -⟩ := taken_fields p
  obtain ⟨t, hlent, hsame, hfirst, -⟩ := reaches_lends d hreach
  have hinj := unarmed_of_lent hlent (takesIn_unarmed (comes_takesIn h) hlook)
  rw [← hlen, ← haddr] at hlent hfirst
  rw [served_new (comes_takesIn h) (exec_kraurRead (comes_takesIn h)) hlook, readWindow_whole hlent hinj hfirst, hsame.bytes, hlen, haddr]
  exact ⟨_, rfl⟩

theorem atomic_completes {p : Packet} {s : State} (h : Comes s p kAtomic) (hscalar : scalarAtomic p.code = true)
    (hwidth : atomicWidth p.code p.w64 ≠ 0) (hreach : Reaches s p (atomicWidth p.code p.w64)) :
    ∃ t, exec (.atomic p) s = .next (answer t (taken p) 0 [] (ldNat s p.addr (atomicWidth p.code p.w64))) := by
  obtain ⟨d, hlook⟩ := comes_isNew h
  obtain ⟨-, hcode, hw64, -, -, haddr, -⟩ := taken_fields p
  obtain ⟨t, hlent, hsame, hfirst, -⟩ := reaches_lends d hreach
  have hinj := unarmed_of_lent hlent (takesIn_unarmed (comes_takesIn h) hlook)
  have hsum : ldNat t p.addr (atomicWidth p.code p.w64) = ldNat s p.addr (atomicWidth p.code p.w64) :=
    congrArg leNat (hsame.bytes _ _)
  rw [← hcode, ← hw64] at hwidth hlent hfirst hsum ⊢
  rw [← haddr] at hlent hfirst
  rw [← hcode] at hscalar
  rw [served_new (comes_takesIn h) (exec_atomic (comes_takesIn h) hwidth) hlook, atomicWindow_scalar hlent hinj hfirst hscalar, haddr, hsum]
  exact ⟨_, rfl⟩

/-- The bytes of a WRITE into HBM are read there. -/
theorem gWrite_read {s : State} {a : Nat} {bs : List Byte} (hregion : gaRegion a = 0)
    (hlost : lostRead s (partialWords a bs.length) = none) (hwf : memOk s) {i : Nat} (hi : i < bs.length) :
    keyByte (gWrite s a bs) (memKey s a + i) = bs.getD i 0 := by
  have hstore : storeM s a bs = store s a bs := by
    unfold storeM
    rw [hlost]
  unfold gWrite
  rw [if_neg (by rw [hregion]; decide), keyByte_of_cells (touchRange_cells none true _ a bs.length), hstore, store_read s a i bs hi hwf]

theorem write_completes {p : Packet} {s : State} (hwf : memOk s) (h : Comes s p kWrite) (hreach : Reaches s p p.data.length) :
    ∃ t, exec (.kraurWrite p) s = .next (answer t (taken p) 0 [] 0) ∧
      ∀ i, i < p.data.length → keyByte t (memKey s p.addr + i) = p.data.getD i 0 := by
  obtain ⟨d, hlook⟩ := comes_isNew h
  obtain ⟨-, -, -, -, -, haddr, -, hdata⟩ := taken_fields p
  obtain ⟨t, hlent, hsame, -, hwords⟩ := reaches_lends d hreach
  have hinj := unarmed_of_lent hlent (takesIn_unarmed (comes_takesIn h) hlook)
  obtain ⟨-, hregion, -, -, hparts⟩ := hreach
  rw [← hdata, ← haddr] at hlent hwords
  rw [served_new (comes_takesIn h) (exec_kraurWrite (comes_takesIn h)) hlook, writeWindow_whole hlent hinj hwords]
  refine ⟨_, rfl, fun i hi => ?_⟩
  obtain ⟨d', hmark⟩ := markDedup_eq t (taken p) none
  rw [hmark, haddr, hdata]
  have hmarked : SameMemory s (withDedup t d') := hsame.marked d'
  have hmem : memOk (withDedup t d') := by
    unfold memOk
    rw [hmarked.1]
    exact hwf
  have hread : lostRead (withDedup t d') (partialWords p.addr p.data.length) = none :=
    lostRead_none fun x hx => (hmarked.lost x.1 x.2).trans (hparts x hx)
  rw [← hmarked.key]
  exact gWrite_read hregion hread hmem hi

theorem tally_completes {p : Packet} {s : State} {q : Nat} (hwf : tableWf tallyDefault s.hop.tallies = true) (h : Comes s p kTally)
    (howner : tallyOwner s (p.addr % 4096) = some q) (hopen : pGet s q 0xF = 1) :
    ∃ t, exec (.tally p) s = .next (answer t (taken p) 0 [] 0) ∧
      tallyOf t (p.addr % 4096) = min (tallyOf s (p.addr % 4096) + p.operand) (2 ^ 64 - 1) := by
  obtain ⟨d, hlook⟩ := comes_isNew h
  obtain ⟨-, -, -, -, -, haddr, hoperand, -⟩ := taken_fields p
  have howner' : tallyOwner (withDedup s d) ((taken p).addr % 4096) = some q := by
    rw [haddr]
    exact howner
  rw [served_new (comes_takesIn h) (exec_tally (comes_takesIn h)) hlook, tallyTarget_open howner' hopen]
  refine ⟨_, rfl, ?_⟩
  obtain ⟨d', hmark⟩ := markDedup_eq (withDedup s d) (taken p) none
  rw [hmark, haddr, hoperand]
  exact (tallyAdd_saturates (withDedup (withDedup s d) d') (p.addr % 4096) p.operand hwf).1

theorem mem_insertNat {n k : Nat} {l : List Nat} (h : k = n ∨ k ∈ l) : k ∈ insertNat n l := by
  induction l with
  | nil => simpa [insertNat] using h
  | cons m t ih =>
    unfold insertNat
    split
    · simpa using h
    · split
      next hm =>
        subst hm
        simpa using h
      next =>
        rw [List.mem_cons] at h ⊢
        obtain h | h | h := h
        · exact Or.inr (ih (Or.inl h))
        · exact Or.inl h
        · exact Or.inr (ih (Or.inr h))

theorem mem_foldl_insertNat {l acc : List Nat} {k : Nat} (h : k ∈ l ∨ k ∈ acc) : k ∈ l.foldl (fun l k => insertNat k l) acc := by
  induction l generalizing acc with
  | nil => exact h.resolve_left List.not_mem_nil
  | cons x l ih =>
    refine ih ?_
    rw [List.mem_cons] at h
    obtain (h | h) | h := h
    · exact Or.inr (mem_insertNat (Or.inl h))
    · exact Or.inl h
    · exact Or.inr (mem_insertNat (Or.inr h))

theorem notice_completes {p : Packet} {s : State} (h : Comes s p kMessage) (hcode : p.code = 0) :
    ∃ t, exec (.lendNotice p) s = .next (answer t (taken p) 0 [] 0) ∧ ∀ k ∈ noticedBy s p.addr, k ∈ t.fab.noticed := by
  obtain ⟨d, hlook⟩ := comes_isNew h
  obtain ⟨-, -, -, -, -, haddr, -⟩ := taken_fields p
  rw [served_new (comes_takesIn h) (exec_lendNotice (comes_takesIn h) hcode) hlook]
  refine ⟨_, rfl, fun k hk => ?_⟩
  rw [raiseEvent_fab]
  obtain ⟨d', hmark⟩ := markDedup_eq { withDedup s d with fab := { (withDedup s d).fab with
    noticed := (noticedBy (withDedup s d) (taken p).addr).foldl (fun l k => insertNat k l) (withDedup s d).fab.noticed } } (taken p) none
  rw [hmark]
  refine mem_foldl_insertNat (Or.inl ?_)
  rw [haddr]
  exact hk

theorem chunk_completes {p : Packet} {s : State} {c : InFlight} {inst : CollInst} (h : Comes s p kCollective)
    (hinst : instanceOf s (p.addr / 2 ^ 32) = some c) (hcoll : c.coll = some inst)
    (hsig : inst.signature.toNat = p.operand / 2 ^ 32) (hfits : stagingFits s p.data.length = true) :
    ∃ t, exec (.collective p) s = .next (answer t (taken p) 0 [] 0) ∧
      t.fab.staged = s.fab.staged ++ [{ node := p.src, pkt := taken p }] := by
  obtain ⟨d, hlook⟩ := comes_isNew h
  obtain ⟨-, -, -, hsrc, -, haddr, hoperand, hdata⟩ := taken_fields p
  rw [← hoperand] at hsig
  have hinst' : instanceOf (withDedup s d) ((taken p).addr / 2 ^ 32) = some c := by
    rw [haddr]
    exact hinst
  have hfits' : stagingFits (withDedup s d) (taken p).data.length = true := by
    rw [hdata]
    exact hfits
  rw [served_new (comes_takesIn h) (exec_collective (comes_takesIn h)) hlook, chunkTarget_staged hinst' hcoll hsig hfits']
  refine ⟨_, rfl, ?_⟩
  obtain ⟨d', hmark⟩ := markDedup_eq (withDedup s d) (taken p) none
  unfold chunkStaged
  rw [setFlight_fab, hmark, hsrc]
  rfl

theorem targetCompletes {p : Packet} {s : State} (h : Sys2Proof.State.canonical s) : TargetCompletes p s := by
  obtain ⟨hmem, -, -, -, htallies, -⟩ := h
  refine ⟨read_completes, write_completes hmem, atomic_completes, fun q hcomes howner hopen => tally_completes htallies hcomes howner hopen,
    notice_completes, fun hcomes hcode => ?_, fun c inst => chunk_completes⟩
  obtain ⟨d, hlook⟩ := comes_isNew hcomes
  exact ⟨_, served_new (comes_takesIn hcomes) (exec_collAbort (comes_takesIn hcomes) hcode) hlook⟩

/-- Settles O51: where each transaction completes by `targetCompletes`; its other ends by what the deduplication table says of its tag. -/
theorem targetRequests : Obligations.TargetRequests := by
  intro p s s1 q again full
  obtain ⟨-, hcode, -⟩ := taken_fields p
  refine ⟨targetCompletes, fun h => ?read, fun h => ?write, fun h hwidth => ?atomic, fun h => ?tally, fun h hmsg => ?notice,
    fun h hmsg => ?abort, fun h => ?chunk, fun i kind hi hkind hdest hon hatomic => notTaken_all s1 hi ⟨hkind, hdest, hon⟩ hatomic⟩
  case read =>
    have hexec := exec_kraurRead h
    refine ⟨served_full h hexec, fun s2 hlook => ⟨fun hno => ?_, fun s3 hlent => ⟨fun a hlost => ?_, fun hwhole => ?_⟩⟩⟩
    · exact (served_new h hexec hlook).trans (congrArg _ (readWindow_unlent hno))
    · exact (served_new h hexec hlook).trans (congrArg _ (readWindow_lost hlent (unarmed_of_lent hlent (takesIn_unarmed h hlook)) hlost))
    · exact (served_new h hexec hlook).trans (congrArg _ (readWindow_whole hlent (unarmed_of_lent hlent (takesIn_unarmed h hlook)) hwhole))
  case write =>
    have hexec := exec_kraurWrite h
    refine ⟨served_full h hexec, served_old h hexec, fun s2 hlook => ⟨fun hno => ?_, fun s3 hlent hwhole => ?_⟩⟩
    · exact (served_new h hexec hlook).trans (congrArg _ (writeWindow_unlent hno))
    · exact (served_new h hexec hlook).trans (congrArg _ (writeWindow_whole hlent (unarmed_of_lent hlent (takesIn_unarmed h hlook)) hwhole))
  case atomic =>
    have hexec := exec_atomic h hwidth
    refine ⟨served_full h hexec, served_old h hexec, fun s2 hlook => ⟨fun hno => ?_, fun s3 hlent hwhole => ?_⟩⟩
    · exact (served_new h hexec hlook).trans (congrArg _ (atomicWindow_unlent hno))
    · have hinj := unarmed_of_lent hlent (takesIn_unarmed h hlook)
      exact ⟨fun hscalar => (served_new h hexec hlook).trans (congrArg _ (atomicWindow_scalar hlent hinj hwhole hscalar)),
        fun hvector => (served_new h hexec hlook).trans (congrArg _ (atomicWindow_vector hlent hinj hwhole hvector))⟩
  case tally =>
    have hexec := exec_tally h
    refine ⟨served_full h hexec, served_old h hexec, fun s2 hlook => ⟨fun hno => ?_, fun o howner => ⟨fun hshut => ?_, fun hopen => ?_⟩⟩⟩
    · exact (served_new h hexec hlook).trans (congrArg _ (tallyTarget_unowned hno))
    · exact (served_new h hexec hlook).trans (congrArg _ (tallyTarget_closed howner hshut))
    · exact (served_new h hexec hlook).trans (congrArg _ (tallyTarget_open howner hopen))
  case notice =>
    have hexec := exec_lendNotice h (hcode.symm.trans hmsg)
    exact ⟨served_full h hexec, served_old h hexec, fun s2 hlook => served_new h hexec hlook⟩
  case abort =>
    have hexec := exec_collAbort h (hcode.symm.trans hmsg)
    exact ⟨served_full h hexec, served_old h hexec, fun s2 hlook => served_new h hexec hlook⟩
  case chunk =>
    have hexec := exec_collective h
    refine ⟨served_full h hexec, served_old h hexec, fun s2 hlook => ⟨fun hno => ?_, fun c inst hinst hcoll => ⟨fun hsig => ?_,
      fun hsig hfits => ?_⟩⟩⟩
    · exact (served_new h hexec hlook).trans (congrArg _ (chunkTarget_alone hno))
    · exact (served_new h hexec hlook).trans (congrArg _ (chunkTarget_other hinst hcoll hsig))
    · exact (served_new h hexec hlook).trans (congrArg _ (chunkTarget_staged hinst hcoll hsig hfits))

end Sys2Proof.Machine

end

section
/-! CERTIFICATE. O52 (SourceEnds): responses by their code, retries, timeouts, and the wait limit of a collective. -/

namespace Sys2Proof.Machine

open Sys2Proof.Claims

/-- A response for this module reaches the table of outstanding transactions. -/
theorem exec_response {p : Packet} {s : State} (hrun : tableRuns s = true) (hkind : p.kind = kResponse) (hdest : p.dest = nodeId s) :
    exec (.response p) s = .next (takeResponse s p) :=
  congrArg Host.Outcome.next (if_pos (by simp [hrun, hkind, hdest]))

theorem takeResponse_unknown {s : State} {p : Packet} (hlife : p.life ≠ 0)
    (h : findTxn s p.src (BitVec.ofNat 32 p.tag) = none) : takeResponse s p = s := by
  unfold takeResponse
  rw [if_neg hlife, h]

/-- An outstanding transaction with a response code that says that the access failed at its target. -/
theorem takeResponse_failed {s : State} {p : Packet} {t : Txn} (hlife : p.life ≠ 0)
    (h : findTxn s p.src (BitVec.ofNat 32 p.tag) = some t) (hcode : 4 ≤ p.code) :
    takeResponse s p = if t.pkt.kind = kTally then endTxn (failTxn s t 0x34) t else remoteFault (endTxn s t) t := by
  unfold takeResponse
  rw [if_neg hlife, h]
  dsimp only
  split
  case h_1 h0 => omega
  case h_2 h1 => omega
  case h_3 h2 => omega
  case h_4 h3 => omega
  case h_5 => rfl
  case h_6 => rfl

/-- The end that a response of a code below 4 brings to its transaction. -/
def responseEnd (s : State) (p : Packet) (t : Txn) : Nat → State
  | 0 => endTxn (noteAck (takeDone s t p) t) t
  | 1 => endTxn (failTxn (countT s 0x328D 1) t 0x32) t
  | 2 => endTxn (failTxn s t 0x34) t
  | _ => if t.pkt.kind = kCollective then resendChunk (endTxn s t) t else s

theorem takeResponse_code {s : State} {p : Packet} {t : Txn} {code : Nat} (hlife : p.life ≠ 0)
    (h : findTxn s p.src (BitVec.ofNat 32 p.tag) = some t) (hcode : p.code = code) (hlt : code < 4) :
    takeResponse s p = responseEnd s p t code := by
  unfold takeResponse
  rw [if_neg hlife, h]
  dsimp only
  rw [hcode]
  obtain rfl | rfl | rfl | rfl : code = 0 ∨ code = 1 ∨ code = 2 ∨ code = 3 := by omega
  all_goals rfl

/-! ### Retries and timeouts (R266, R268) -/

theorem exec_txnRetry {node : BitVec 16} {tag : BitVec 32} {s : State} {t : Txn} (hrun : tableRuns s = true)
    (h : findTxn s node.toNat tag = some t) :
    exec (.txnRetry node tag) s =
      .next (if t.deadline.toNat ≤ now s then s
        else sendPacket (countT s 0x328B 1) (packetLife t.pkt (t.deadline.toNat - now s))) := by
  refine congrArg Host.Outcome.next ((if_pos hrun).trans ?_)
  unfold retryTxn
  rw [h]

theorem exec_fabricTimeout {node : BitVec 16} {tag : BitVec 32} {s : State} {t : Txn} (hrun : tableRuns s = true)
    (h : findTxn s node.toNat tag = some t) :
    exec (.fabricTimeout node tag) s =
      .next (if now s < t.deadline.toNat then s
        else if t.pkt.kind = kCollective then resendChunk (endTxn (countT s 0x328C 1) t) t
        else endTxn (failTxn (countT s 0x328C 1) t 0x33) t) := by
  refine congrArg Host.Outcome.next ((if_pos hrun).trans ?_)
  unfold timeoutTxn
  rw [h]

theorem exec_collWaitTimeout {ring : RingId} {s : State} {c : InFlight} {inst : CollInst} (hlive : live s = true)
    (hflight : flightOf s ring.toNat = some c) (hcoll : c.coll = some inst) :
    exec (.collWaitTimeout ring) s =
      .next (if now s < inst.lastTick.toNat + max (collWaitMs c.desc * 25000) (txnTicks s) ∨ c.discard.isSome ∨ sealedOn s ring.toNat
        then s else failColl s ring.toNat 0x33) := by
  refine congrArg Host.Outcome.next ((if_pos hlive).trans ?_)
  unfold collTimeout
  simp only [hflight, hcoll]

/-- Settles O52: a response by its code, a retry and a timeout by the deadline, a collective's wait by its limit. -/
theorem sourceEnds : Obligations.SourceEnds := by
  refine ⟨fun p s hrun hkind hdest hlife => ?response, fun node tag s t hrun hfind => ?timer,
    fun ring s c inst hlive hflight hcoll hdiscard hsealed => ?wait⟩
  case response =>
    rw [exec_response hrun hkind hdest]
    refine ⟨fun hnone => congrArg _ (takeResponse_unknown hlife hnone), fun t hfind => ?_⟩
    have hend (code : Nat) (hlt : code < 4) (hcode : p.code = code) : Host.Outcome.next (takeResponse s p) =
        (.next (responseEnd s p t code) : Host.Outcome State Fault Refusal) :=
      congrArg _ (takeResponse_code hlife hfind hcode hlt)
    refine ⟨hend 0 (by decide), hend 1 (by decide), hend 2 (by decide), fun hcode hkind => ?_, fun hcode hkind => ?_,
      fun hcode hkind => ?_, fun hcode hkind => ?_⟩
    · exact (hend 3 (by decide) hcode).trans (congrArg _ (if_neg hkind))
    · exact (hend 3 (by decide) hcode).trans (congrArg _ (if_pos hkind))
    · exact congrArg _ ((takeResponse_failed hlife hfind hcode).trans (if_pos hkind))
    · exact congrArg _ ((takeResponse_failed hlife hfind hcode).trans (if_neg hkind))
  case timer =>
    rw [exec_txnRetry hrun hfind, exec_fabricTimeout hrun hfind]
    exact ⟨fun hearly => ⟨congrArg _ (if_neg (Nat.not_le.mpr hearly)), congrArg _ (if_pos hearly)⟩,
      fun hlate => ⟨congrArg _ (if_pos hlate), congrArg _ (if_neg (Nat.not_lt.mpr hlate))⟩⟩
  case wait =>
    rw [exec_collWaitTimeout hlive hflight hcoll]
    refine ⟨fun hearly => congrArg _ (if_pos (Or.inl hearly)), fun hlate => congrArg _ (if_neg ?_)⟩
    rw [hdiscard, hsealed]
    rintro (h | h | h)
    · exact Nat.not_lt.mpr hlate h
    · exact Bool.false_ne_true h
    · exact Bool.false_ne_true h

end Sys2Proof.Machine

end

section
/-! CERTIFICATE. O56 (WipeRetention) fails: its states are all canonical ones, and canonical form does not bound the state that a
transition is bound for. A transition "to P(0xEBF02)" is abandoned by counting it under 0x3141:0xEBF02, and that key is health_seq's,
0x4000:02, of class P. No run reaches such a state. -/

namespace Sys2Proof.Machine

/-- The module after reset, entering a power state that no request names. -/
def strayTransition : State :=
  { State.reset with pwr := { State.reset.pwr with transition := some (0xEBF02, false) } }

/-- The counter of that interrupted entry lies on health_seq. -/
theorem interrupted_key_is_health_seq : dk 0x3141 0xEBF02 = dk 0x4000 2 := rfl

theorem strayTransition_canonical : State.canonical strayTransition := by
  have h := resetIsCanonical
  unfold Obligations.ResetIsCanonical at h
  exact h

/-- The module reset counts the abandoned entry there, and keeps the count. -/
theorem wipe_strayTransition_health_seq : dGet (wipe strayTransition false) (dk 0x4000 2) = 1 := by decide +kernel

/-- Refutes O56: health_seq, an entry of class P, reads 1 after the reset and 0 before it. -/
theorem not_wipeRetention : ¬ Obligations.WipeRetention := by
  intro h
  obtain ⟨_, _, _, _, _, persists, _⟩ := h strayTransition false strayTransition_canonical
  have kept := persists rfl (dk 0x4000 2) (by decide +kernel) (by decide)
  rw [wipe_strayTransition_health_seq] at kept
  revert kept
  decide +kernel

end Sys2Proof.Machine
end

section
/-! CERTIFICATE. O53 (FalyndiCommands): training, loss and restore of Falyndi, and the host's accesses through it. -/

namespace Sys2Proof.Machine

open Sys2Proof.Claims

/-! ### Training, loss and restore -/

theorem falyndiTrain_barred {s : State} (host : HostEnd) (good : BitVec 5) (h : mayTrain s = false) : falyndiTrain s host good = s :=
  if_pos (by rw [h]; rfl)

theorem falyndiTrain_without_version {s : State} {host : HostEnd} (good : BitVec 5) (h : mayTrain s = true)
    (hv : bit host.versions.toNat 1 = false) :
    falyndiTrain s host good = raiseEvent (countT (falyndiDown s) 0x3114 1) 1 0 none 0x3114 0xFF 0 :=
  (if_neg (by rw [h]; exact Bool.false_ne_true)).trans (if_pos (by rw [hv]; rfl))

theorem falyndiTrain_without_lanes {s : State} {host : HostEnd} {good : BitVec 5} (h : mayTrain s = true)
    (hv : bit host.versions.toNat 1 = true) (hlanes : falyndiLanes (falyndiGood s good) = none) : falyndiTrain s host good = s := by
  unfold falyndiTrain
  rw [if_neg (by rw [h]; exact Bool.false_ne_true), if_neg (by rw [hv]; exact Bool.false_ne_true), hlanes]

theorem falyndiTrain_up {s : State} {host : HostEnd} {good : BitVec 5} {x : Nat × Option Nat} (h : mayTrain s = true)
    (hv : bit host.versions.toNat 1 = true) (hlanes : falyndiLanes (falyndiGood s good) = some x) :
    falyndiTrain s host good = flushHeld (dSet (dSet (dSet { s with host := { s.host with
      link := { resendFlits s (ackReplay s.host.link host.lack) with spareFor := x.2, version := 1 } } }
        (dk 0x1100 4) x.1) (dk 0x1100 2) 1) (dk 0x1100 1) 2) := by
  unfold falyndiTrain
  rw [if_neg (by rw [h]; exact Bool.false_ne_true), if_neg (by rw [hv]; exact Bool.false_ne_true), hlanes]

theorem linkLoss_down {s : State} (h : s.pwr.inputOk = false ∨ falyndiTrained s = false) :
    (if s.pwr.inputOk then falyndiRetrain s else s) = s := by
  split
  case isTrue hon =>
    refine if_neg fun htrained => ?_
    obtain hin | hdown := h
    · exact Bool.false_ne_true (hin.symm.trans hon)
    · exact Bool.false_ne_true (hdown.symm.trans htrained)
  case isFalse => rfl

/-- Of a run of reads answered with all ones, the host sees the last one's bytes. -/
theorem foldl_hostAnswer_ones (reads : List HostAccess) (s : State) :
    reads.foldl (fun s x => hostAnswer s (ones x.len)) s =
      hostAnswer s ((reads.getLast?.map (fun x => List.replicate x.len 0xFF)).getD s.host.hostRead) := by
  induction reads generalizing s with
  | nil => rfl
  | cons x t ih =>
    rw [List.foldl_cons, ih]
    cases t with
    | nil => rfl
    | cons y u =>
      rw [List.getLast?_cons_cons, List.getLast?_eq_some_getLast (List.cons_ne_nil y u)]
      rfl

theorem restoreExpiry_early {s : State} (h : now s < s.host.downAt.toNat + dGet s (dk 0x1100 5) * 25000) : restoreExpiry s = s :=
  if_pos (Or.inr (Or.inr h))

/-- What the end of falyndi_restore_ms does to the FHA-4. -/
def linkGivenUp (s : State) : State :=
  let s1 := dSet (dSet s (dk 0x1100 1) 4) (dk 0x1100 2) 0
  let reads := s.host.fhaBuf.filter (fun x => !x.isWrite)
  { s1 with host := { s1.host with
    linkLost := true
    dropped := s.host.dropped + (s.host.fhaBuf.length - reads.length)
    fhaBuf := []
    hostRead := (reads.getLast?.map (fun x => List.replicate x.len 0xFF)).getD s.host.hostRead } }

theorem restoreExpiry_due {s : State} (hlive : live s = true) (hdown : dGet s (dk 0x1100 1) = 3)
    (h : s.host.downAt.toNat + dGet s (dk 0x1100 5) * 25000 ≤ now s) :
    restoreExpiry s = (detectError (linkGivenUp s) falyndiFault none).1 := by
  have hgo : ¬((!live s) = true ∨ dGet s (dk 0x1100 1) ≠ 3 ∨ now s < s.host.downAt.toNat + dGet s (dk 0x1100 5) * 25000) := by
    rw [hlive, hdown]
    simpa using h
  unfold restoreExpiry
  rw [if_neg hgo]
  exact congrArg (fun t => (detectError t falyndiFault none).1) (foldl_hostAnswer_ones _ _)

/-! ### Bytes of a window of memory -/

/-- The bytes of one 2^40-byte region lie behind one another in memory. -/
theorem memKey_add {s : State} {a i : Nat} (h : a % 2 ^ 40 + i < 2 ^ 40) : memKey s (a + i) = memKey s a + i := by
  have hnode : gaNode (a + i) = gaNode a := by
    unfold gaNode bits
    rw [Nat.shiftRight_eq_div_pow, Nat.shiftRight_eq_div_pow]
    omega
  unfold memKey
  rw [hnode]
  split <;> omega

theorem gaRegion_add {a i : Nat} (h : a % 2 ^ 40 + i < 2 ^ 40) : gaRegion (a + i) = gaRegion a := by
  unfold gaRegion bits
  rw [Nat.shiftRight_eq_div_pow, Nat.shiftRight_eq_div_pow]
  omega

theorem gaNode_add {a i : Nat} (h : a % 2 ^ 40 + i < 2 ^ 40) : gaNode (a + i) = gaNode a := by
  unfold gaNode bits
  rw [Nat.shiftRight_eq_div_pow, Nat.shiftRight_eq_div_pow]
  omega

/-- A range of which nothing is lost has no lost byte. -/
theorem lostIn_byte {s : State} {a n i : Nat} (h : lostIn s a n = false) (hi : i < n) (hin : a % 2 ^ 40 + n ≤ 2 ^ 40) :
    lostIn s (a + i) 1 = false := by
  have hlt : a % 2 ^ 40 + i < 2 ^ 40 := by omega
  unfold lostIn at h ⊢
  dsimp only at h ⊢
  rw [memKey_add hlt, gaNode_add hlt, gaRegion_add hlt]
  obtain ⟨hregion, hlines⟩ := Bool.or_eq_false_iff.mp h
  refine Bool.or_eq_false_iff.mpr ⟨?_, ?_⟩
  · rw [decide_eq_true (Nat.lt_of_le_of_lt (Nat.zero_le i) hi)] at hregion
    exact hregion
  · rw [List.any_eq_false] at hlines ⊢
    intro l hl hmeets
    refine hlines l hl ?_
    have hm := of_decide_eq_true hmeets
    exact decide_eq_true (by omega)

theorem ldBytes_eq_map (s : State) (a n : Nat) : ldBytes s a n = (List.range n).map (fun i => ldByte s (a + i)) := by
  induction n generalizing a with
  | zero => rfl
  | succ n ih =>
    rw [List.range_succ_eq_map, List.map_cons, List.map_map]
    refine congrArg₂ List.cons rfl ((ih (a + 1)).trans ?_)
    refine List.map_congr_left fun i _ => congrArg (ldByte s) ?_
    omega

/-- A host read of HBM that meets nothing lost and no injection gives the host the bytes of memory. -/
theorem hostLoad_read {s : State} {a n : Nat} (tag : Nat) (hin : a % 2 ^ 40 + n ≤ 2 ^ 40) (hlost : lostIn s a n = false)
    (hinj : s.hlth.injections = []) : (hostLoad s a n tag).host.hostRead = ldBytes s a n := by
  have hbytes : (List.range n).map (fun i => if lostIn s (a + i) 1 then Config.freeByte s.fresh i else ldByte s (a + i)) =
      ldBytes s a n := by
    rw [ldBytes_eq_map]
    refine List.map_congr_left fun i hi => ?_
    rw [lostIn_byte hlost (List.mem_range.mp hi) hin]
    rfl
  unfold hostLoad
  rw [fireRead_none hinj]
  dsimp only
  rw [firstLost_none hlost, hbytes]
  rfl

/-! ### Host accesses -/

/-- The read of `n` bytes at `a`, as the FHA-4 holds it. -/
def hostGet (a n : Nat) : HostAccess := { isWrite := false, addr := a, len := n, data := [], tag := 0 }

theorem hostAccess_write {address : Word} {len : BitVec 16} {data : List Byte} {s t : State} (hlen : len.toNat ≤ 256)
    (h : hostWriteAccess s address.toNat (padTo len.toNat data) = t) :
    exec (.falyndiHostAccess true address len data) s = .next t :=
  congrArg Host.Outcome.next ((if_neg (Nat.not_lt.mpr hlen)).trans h)

theorem hostAccess_read {address : Word} {len : BitVec 16} {s t : State} (data : List Byte) (hlen : len.toNat ≤ 256)
    (h : hostReadAccess s address.toNat len.toNat 0 = t) :
    exec (.falyndiHostAccess false address len data) s = .next t :=
  congrArg Host.Outcome.next ((if_neg (Nat.not_lt.mpr hlen)).trans h)

section
variable {s : State} {a n : Nat} {bs : List Byte}

theorem hostWriteAccess_own (h : 2 ^ 41 ≤ a ∧ a < 2 ^ 41 + 0x10000) : hostWriteAccess s a bs = s := if_pos h

theorem hostReadAccess_own (h : 2 ^ 41 ≤ a ∧ a < 2 ^ 41 + 0x10000) :
    hostReadAccess s a n 0 = controlRead s (a - 2 ^ 41) n 0 := if_pos h

theorem hostWriteAccess_lost (h : ¬(2 ^ 41 ≤ a ∧ a < 2 ^ 41 + 0x10000)) (hl : s.host.linkLost = true) :
    hostWriteAccess s a bs = dropHost s := (if_neg h).trans (if_pos hl)

theorem hostReadAccess_lost (h : ¬(2 ^ 41 ≤ a ∧ a < 2 ^ 41 + 0x10000)) (hl : s.host.linkLost = true) :
    hostReadAccess s a n 0 = hostAnswer s (ones n) := (if_neg h).trans (if_pos hl)

theorem hostWriteAccess_waits (h : ¬(2 ^ 41 ≤ a ∧ a < 2 ^ 41 + 0x10000)) (hl : s.host.linkLost = false)
    (hw : hostQueued s = true ∨ accessHeld s (hostPut a bs) = true) : hostWriteAccess s a bs = holdHost s (hostPut a bs) :=
  (if_neg h).trans ((if_neg (by rw [hl]; exact Bool.false_ne_true)).trans (if_pos ((Bool.or_eq_true _ _).mpr hw)))

theorem hostReadAccess_waits (h : ¬(2 ^ 41 ≤ a ∧ a < 2 ^ 41 + 0x10000)) (hl : s.host.linkLost = false)
    (hw : hostQueued s = true ∨ accessHeld s (hostGet a n) = true) : hostReadAccess s a n 0 = holdHost s (hostGet a n) :=
  (if_neg h).trans ((if_neg (by rw [hl]; exact Bool.false_ne_true)).trans (if_pos ((Bool.or_eq_true _ _).mpr hw)))

/-- Neither the link nor a test holds a write: it reaches the module where the link is up, and nothing where it is not. -/
theorem hostWriteAccess_free (h : ¬(2 ^ 41 ≤ a ∧ a < 2 ^ 41 + 0x10000)) (hl : s.host.linkLost = false)
    (hq : hostQueued s = false) (hh : accessHeld s (hostPut a bs) = false) :
    hostWriteAccess s a bs = if falyndiUp s then deliverWrite s a bs else s :=
  (if_neg h).trans ((if_neg (by rw [hl]; exact Bool.false_ne_true)).trans (if_neg (by rw [hq, hh]; exact Bool.false_ne_true)))

theorem hostReadAccess_free (h : ¬(2 ^ 41 ≤ a ∧ a < 2 ^ 41 + 0x10000)) (hl : s.host.linkLost = false)
    (hq : hostQueued s = false) (hh : accessHeld s (hostGet a n) = false) :
    hostReadAccess s a n 0 = if falyndiUp s then deliverRead s a n 0 else hostAnswer s (ones n) :=
  (if_neg h).trans ((if_neg (by rw [hl]; exact Bool.false_ne_true)).trans (if_neg (by
    unfold hostGet at hh
    rw [hq, hh]
    exact Bool.false_ne_true)))

end

/-- An access beyond region 1 reaches no row of HBM. -/
theorem accessHeld_beyond {s : State} {x : HostAccess} (h : 2 ^ 41 ≤ x.addr) : accessHeld s x = false := by
  unfold accessHeld
  rw [decide_eq_false (Nat.not_lt.mpr h)]
  rfl

theorem deliverWrite_hbm {s : State} {a : Nat} {bs : List Byte} (h : a < 2 ^ 41)
    (hbar : barRange s (a / 2 ^ 40) (a % 2 ^ 40) bs.length = true) :
    deliverWrite s a bs = hostStore s (gaMake (nodeId s) (a / 2 ^ 40) (a % 2 ^ 40)) bs := (if_pos h).trans (if_pos hbar)

theorem deliverWrite_beyond_hbm {s : State} {a : Nat} {bs : List Byte} (h : a < 2 ^ 41)
    (hbar : barRange s (a / 2 ^ 40) (a % 2 ^ 40) bs.length = false) : deliverWrite s a bs = countT s 0x3115 1 :=
  (if_pos h).trans (if_neg (by rw [hbar]; exact Bool.false_ne_true))

theorem deliverRead_hbm {s : State} {a n : Nat} (h : a < 2 ^ 41) (hbar : barRange s (a / 2 ^ 40) (a % 2 ^ 40) n = true) :
    deliverRead s a n 0 = hostLoad s (gaMake (nodeId s) (a / 2 ^ 40) (a % 2 ^ 40)) n 0 := (if_pos h).trans (if_pos hbar)

theorem deliverRead_beyond_hbm {s : State} {a n : Nat} (h : a < 2 ^ 41)
    (hbar : barRange s (a / 2 ^ 40) (a % 2 ^ 40) n = false) :
    deliverRead s a n 0 = hostReply (countT s 0x3115 1) 0 (ones n) :=
  (if_pos h).trans (if_neg (by rw [hbar]; exact Bool.false_ne_true))

theorem deliverWrite_control {s : State} {a : Nat} (bs : List Byte) (h : 2 ^ 41 ≤ a) (hlt : a < 2 ^ 41 + 2 ^ 24) :
    deliverWrite s a bs = controlWrite s (a - 2 ^ 41) bs := (if_neg (Nat.not_lt.mpr h)).trans (if_pos hlt)

theorem deliverRead_control {s : State} {a : Nat} (n : Nat) (h : 2 ^ 41 ≤ a) (hlt : a < 2 ^ 41 + 2 ^ 24) :
    deliverRead s a n 0 = controlRead s (a - 2 ^ 41) n 0 := (if_neg (Nat.not_lt.mpr h)).trans (if_pos hlt)

theorem deliverWrite_beyond {s : State} {a : Nat} (bs : List Byte) (h : 2 ^ 41 + 2 ^ 24 ≤ a) : deliverWrite s a bs = s :=
  (if_neg (by omega)).trans (if_neg (by omega))

theorem deliverRead_beyond {s : State} {a : Nat} (n : Nat) (h : 2 ^ 41 + 2 ^ 24 ≤ a) : deliverRead s a n 0 = s :=
  (if_neg (by omega)).trans (if_neg (by omega))

/-- A range that the host may reach stays in its region. -/
theorem barRange_inside {s : State} {a n : Nat} (h : barRange s (a / 2 ^ 40) (a % 2 ^ 40) n = true) :
    gaMake (nodeId s) (a / 2 ^ 40) (a % 2 ^ 40) % 2 ^ 40 + n ≤ 2 ^ 40 := by
  unfold barRange at h
  dsimp only at h
  rw [Bool.and_eq_true, Bool.and_eq_true] at h
  have hfit := of_decide_eq_true h.1.1
  unfold gaMake
  omega

/-- Settles O53. Training, loss and restore are the branches of `falyndiTrain` and `restoreExpiry`; an access is taken by `hostWriteAccess` and
`hostReadAccess`, whose outcome turns on where it goes, on LINK_LOST, on what waits, and on the link. -/
theorem falyndiCommands : Obligations.FalyndiCommands := by
  unfold Obligations.FalyndiCommands
  intro s
  refine ⟨fun host good => ⟨fun h => congrArg Host.Outcome.next (falyndiTrain_barred host good h),
      fun h hv => congrArg Host.Outcome.next (falyndiTrain_without_version good h hv),
      fun h hv hl => congrArg Host.Outcome.next (falyndiTrain_without_lanes h hv hl),
      fun x h hv hl => congrArg Host.Outcome.next (falyndiTrain_up h hv hl)⟩,
    fun hin ht => congrArg Host.Outcome.next ((if_pos hin).trans (if_pos ht)),
    fun h => congrArg Host.Outcome.next (linkLoss_down h),
    fun _ _ h => congrArg Host.Outcome.next (restoreExpiry_early h),
    fun hlive hdown h => congrArg Host.Outcome.next (restoreExpiry_due hlive hdown h), rfl,
    fun _ _ _ _ h => congrArg Host.Outcome.next (if_pos h), ?_⟩
  intro address len data hlen a n bs ones put get write read
  refine ⟨fun hlo hhi => ⟨hostAccess_write hlen (hostWriteAccess_own ⟨hlo, hhi⟩),
    hostAccess_read data hlen (hostReadAccess_own ⟨hlo, hhi⟩)⟩, fun hout => ⟨?_, ?_, ?_, ?_, ?_, ?_, ?_⟩⟩
  · exact fun hl => ⟨hostAccess_write hlen (hostWriteAccess_lost hout hl), hostAccess_read data hlen (hostReadAccess_lost hout hl)⟩
  · exact fun hl hq => ⟨hostAccess_write hlen (hostWriteAccess_waits hout hl (Or.inl hq)),
      hostAccess_read data hlen (hostReadAccess_waits hout hl (Or.inl hq))⟩
  · exact fun hl _ => ⟨fun hh => hostAccess_write hlen (hostWriteAccess_waits hout hl (Or.inr hh)),
      fun hh => hostAccess_read data hlen (hostReadAccess_waits hout hl (Or.inr hh))⟩
  · intro hl hq hup ha g
    refine ⟨fun hh => ?_, fun hh => ?_⟩
    · have hget := (hostReadAccess_free hout hl hq hh).trans (if_pos hup)
      exact ⟨fun hbar => hostAccess_read data hlen (hget.trans (deliverRead_beyond_hbm ha hbar)),
        fun hbar hlost hinj => ⟨_, hostAccess_read data hlen (hget.trans (deliverRead_hbm ha hbar)),
          hostLoad_read 0 (barRange_inside hbar) hlost hinj⟩⟩
    · have hput := (hostWriteAccess_free hout hl hq hh).trans (if_pos hup)
      exact ⟨fun hbar => hostAccess_write hlen (hput.trans (deliverWrite_beyond_hbm ha hbar)),
        fun hbar => hostAccess_write hlen (hput.trans (deliverWrite_hbm ha hbar))⟩
  · intro hl hq hup hlo hhi
    have hfar : 2 ^ 41 ≤ a := by omega
    exact ⟨hostAccess_write hlen (((hostWriteAccess_free hout hl hq (accessHeld_beyond hfar)).trans (if_pos hup)).trans
        (deliverWrite_control bs hfar hhi)),
      hostAccess_read data hlen (((hostReadAccess_free hout hl hq (accessHeld_beyond hfar)).trans (if_pos hup)).trans
        (deliverRead_control n hfar hhi))⟩
  · intro hl hq hup hlo
    have hfar : 2 ^ 41 ≤ a := by omega
    exact ⟨hostAccess_write hlen (((hostWriteAccess_free hout hl hq (accessHeld_beyond hfar)).trans (if_pos hup)).trans
        (deliverWrite_beyond bs hlo)),
      hostAccess_read data hlen (((hostReadAccess_free hout hl hq (accessHeld_beyond hfar)).trans (if_pos hup)).trans
        (deliverRead_beyond n hlo))⟩
  · intro hl hq hdown hput hget
    have hnot : ¬falyndiUp s = true := by rw [hdown]; exact Bool.false_ne_true
    exact ⟨hostAccess_write hlen ((hostWriteAccess_free hout hl hq hput).trans (if_neg hnot)),
      hostAccess_read data hlen ((hostReadAccess_free hout hl hq hget).trans (if_neg hnot))⟩

end Sys2Proof.Machine
end

section
/-! CERTIFICATE. O54 (PowerCommands): power states, power cap and temperatures. -/

namespace Sys2Proof.Machine

open Sys2Proof.Claims

/-! ### power_request -/

theorem powerOp_busy {s : State} (rq : Req) (v : Nat) (h : resetting s = true) : powerOp rq v s = (s, some stBusy) := if_pos h

theorem powerOp_unknown {s : State} (rq : Req) {v : Nat} (h : resetting s = false) (hv : 4 < v) : powerOp rq v s = refusePower s 4 :=
  (if_neg (by rw [h]; exact Bool.false_ne_true)).trans (if_pos hv)

section
variable {s : State} (rq : Req) {v : Nat} (h : resetting s = false)
include h

/-- A write of 0 or 1 is judged by the transition that runs. -/
theorem powerOp_return_waking {t : Nat} (hv : v < 2) (ht : s.pwr.transition = some (t, true)) :
    powerOp rq v s = refusePower s 6 := by
  unfold powerOp
  rw [if_neg (by rw [h]; exact Bool.false_ne_true), if_neg (by omega), if_pos hv, ht]

theorem powerOp_return_entering {t : Nat} (hv : v < 2) (ht : s.pwr.transition = some (t, false)) :
    powerOp rq v s = (setTransition (wakeFrom s [2, 3, 4]) 1 true rq, none) := by
  unfold powerOp
  rw [if_neg (by rw [h]; exact Bool.false_ne_true), if_neg (by omega), if_pos hv, ht]

theorem powerOp_return_awake (hv : v < 2) (ht : s.pwr.transition = none) (hp : pState s < 2) :
    powerOp rq v s = refusePower s 4 := by
  unfold powerOp
  rw [if_neg (by rw [h]; exact Bool.false_ne_true), if_neg (by omega), if_pos hv, ht]
  exact if_pos hp

theorem powerOp_return_asleep (hv : v < 2) (ht : s.pwr.transition = none) (hp : 2 ≤ pState s) :
    powerOp rq v s = (setTransition s 1 true rq, none) := by
  unfold powerOp
  rw [if_neg (by rw [h]; exact Bool.false_ne_true), if_neg (by omega), if_pos hv, ht]
  exact if_neg (Nat.not_lt.mpr hp)

theorem powerOp_enter_moving (hlo : 2 ≤ v) (hhi : v ≤ 4) (ht : s.pwr.transition.isSome = true) :
    powerOp rq v s = refusePower s 6 :=
  (if_neg (by rw [h]; exact Bool.false_ne_true)).trans ((if_neg (by omega)).trans ((if_neg (by omega)).trans (if_pos ht)))

theorem powerOp_enter (hlo : 2 ≤ v) (hhi : v ≤ 4) (ht : s.pwr.transition = none) :
    powerOp rq v s = if entryBar s v = 0 then (setTransition s v false rq, none) else refusePower s (entryBar s v) :=
  (if_neg (by rw [h]; exact Bool.false_ne_true)).trans ((if_neg (by omega)).trans ((if_neg (by omega)).trans
    (if_neg (by rw [ht]; exact Bool.false_ne_true))))

end

/-- No repair runs: no test, no retirement and no evacuation. -/
theorem repairRuns_idle {s : State} (htests : s.hlth.tests = []) (hmig : s.mem.migration = none) (hqueue : s.mem.retireQueue = [])
    (hevac : s.mem.evacRanges = []) : repairRuns s = false := by
  unfold repairRuns
  rw [htests, hmig, hqueue, hevac]
  rfl

theorem entryBar_open {s : State} {t : Nat} (hp : pState s < 2) (hidle : idleModule s = true) (hwin : t = 4 → windowsUp s = false)
    (hmargin : dGet s (dk 0x2413 1) ≠ 1) (hlmargin : dGet s (dk 0x2707 1) ≠ 1) (hrepair : repairRuns s = false) : entryBar s t = 0 :=
  (if_neg (Nat.not_le.mpr hp)).trans ((if_neg (by rw [hidle]; exact Bool.false_ne_true)).trans
    ((if_neg (fun hw => Bool.false_ne_true ((hwin hw.1).symm.trans hw.2))).trans
      ((if_neg (fun hm => hm.elim hmargin hlmargin)).trans (if_neg (by rw [hrepair]; exact Bool.false_ne_true)))))

/-- ENTER_DOZE, ENTER_LEND and ENTER_SLEEP are writes of 2, 3 and 4. -/
theorem exec_enter {i : Req → Instr} {t : Nat}
    (h : (i, t) = (Instr.enterDoze, 2) ∨ (i, t) = (Instr.enterLend, 3) ∨ (i, t) = (Instr.enterSleep, 4)) (rq : Req) (s : State) :
    (2 ≤ t ∧ t ≤ 4) ∧ exec (i rq) s = .next (powerRequest s rq t) := by
  obtain h | h | h := h <;> obtain ⟨rfl, rfl⟩ := Prod.mk.inj h <;> exact ⟨by decide, rfl⟩

section
variable {s : State} {rq : Req} (hserved : Served s rq 0x1400 3) {v : Nat}
include hserved

theorem powerRequest_refused {code : Nat} (hop : powerOp rq v (awake s) = refusePower (awake s) code) :
    powerRequest s rq v = reject (dSet (awake s) (dk 0x1400 5) code) rq 0x1400 3 stRefused :=
  handleWrite_served_refused _ hserved hop (by decide)

theorem powerRequest_later {t : State} (hop : powerOp rq v (awake s) = (t, none)) : powerRequest s rq v = t :=
  handleWrite_served_later _ hserved hop

theorem powerRequest_busy (hreset : resetting s = true) : powerRequest s rq v = reject (awake s) rq 0x1400 3 stBusy :=
  handleWrite_served_refused _ hserved (powerOp_busy (s := awake s) rq v hreset) (by decide)

end

/-! ### PARK and the end of a transition -/

theorem park_idle {s : State} (hlive : live s = true) (hp : pState s = 0) (hin : s.hop.inflight = [])
    (ht : s.pwr.transition = none) (hdue : s.pwr.idleSince.toNat + dGet s (dk 0x1400 4) ≤ now s) :
    park s = dAdd (dSet s (dk 0x1400 2) 1) (dk 0x3140 1) 1 := by
  refine if_pos ?_
  rw [hlive, hp, hin, ht, decide_eq_true hdue]
  rfl

theorem park_stays {s : State} (h : pState s ≠ 0 ∨ s.hop.inflight ≠ [] ∨ s.pwr.transition ≠ none ∨
    now s < s.pwr.idleSince.toNat + dGet s (dk 0x1400 4)) : park s = s := by
  refine if_neg fun hgo => ?_
  simp only [Bool.and_eq_true, beq_iff_eq, List.isEmpty_iff, Option.isNone_iff_eq_none, decide_eq_true_eq] at hgo
  obtain ⟨⟨⟨⟨-, hp⟩, hin⟩, ht⟩, hdue⟩ := hgo
  obtain h | h | h | h := h
  · exact h hp
  · exact h hin
  · exact h ht
  · omega

theorem stateReached_still {s : State} (hlive : live s = true) (ht : s.pwr.transition = none) : stateReached s = s := by
  unfold stateReached
  rw [if_neg (by rw [hlive]; exact Bool.false_ne_true), ht]

theorem stateReached_entered {s : State} {t : Nat} (hlive : live s = true) (ht : s.pwr.transition = some (t, false)) :
    stateReached s = endTransition (enterState s t) stOk 0 := by
  unfold stateReached
  rw [if_neg (by rw [hlive]; exact Bool.false_ne_true), ht]

theorem stateReached_woken {s : State} {t : Nat} (hlive : live s = true) (ht : s.pwr.transition = some (t, true)) :
    stateReached s = releaseArrivals ((List.range 7).foldl pump (endTransition (wakeUp s) stOk
      (if s.pwr.transReq.isSome = true ∧ dGet s (dk 0x1400 5) ≠ 3 then 0 else dGet s (dk 0x1400 5)))) := by
  unfold stateReached
  rw [if_neg (by rw [hlive]; exact Bool.false_ne_true), ht]

/-- power_result after a wake that a request began. -/
theorem wakeResult_requested {s : State} {rq : Req} (h : s.pwr.transReq = some rq) :
    (if s.pwr.transReq.isSome = true ∧ dGet s (dk 0x1400 5) ≠ 3 then 0 else dGet s (dk 0x1400 5)) =
      if dGet s (dk 0x1400 5) = 3 then 3 else 0 := by
  rw [h]
  split <;> split <;> simp_all

theorem wakeResult_unrequested {s : State} (h : s.pwr.transReq = none) :
    (if s.pwr.transReq.isSome = true ∧ dGet s (dk 0x1400 5) ≠ 3 then 0 else dGet s (dk 0x1400 5)) = dGet s (dk 0x1400 5) :=
  if_neg fun hr => by rw [h] at hr; exact Bool.false_ne_true hr.1

/-! ### The power cap and the temperatures -/

/-- The array duty after a sample. -/
def nextDuty (s : State) (sum limit : Nat) : Nat :=
  if s.pwr.throttling || decide (limit < sum) then s.pwr.duty - 1
  else if 100 * sum < 97 * limit then min 64 (s.pwr.duty + 1)
  else s.pwr.duty

theorem nextDuty_eq (s : State) (sum limit : Nat) :
    nextDuty s sum limit = if s.pwr.throttling = true ∨ limit < sum then s.pwr.duty - 1
      else if 100 * sum < 97 * limit then min 64 (s.pwr.duty + 1) else s.pwr.duty := by
  unfold nextDuty
  simp only [Bool.or_eq_true, decide_eq_true_eq]

theorem capSample_eq {s : State} (watts : BitVec 16) (hlive : live s = true) :
    let l := keepLast 10 (s.pwr.samples ++ [watts])
    let sum := (l.map (·.toNat)).sum
    let s1 := dSet (dSet s (dk 0x1401 2) (sum / l.length)) (dk 0x1401 3) (watts.toNat * 100 / 92 + Config.boardLoad s.fresh % 16)
    capSample s watts = tickFresh { s1 with
      pwr := { s1.pwr with samples := l, duty := nextDuty s sum (dGet s (dk 0x1401 1) * l.length) } } :=
  if_neg (by rw [hlive]; exact Bool.false_ne_true)

/-- The average of the last samples stands in package_power_w. -/
theorem package_power_dSet {s : State} (hwf : tableWf (dictDefault s.variant) s.dict = true) (average input : Nat) :
    dGet (dSet (dSet s (dk 0x1401 2) average) (dk 0x1401 3) input) (dk 0x1401 2) = average % 2 ^ 64 := by
  rw [dGet_dSet_ne _ _ (by decide), dGet_dSet_same _ _ _ hwf]

theorem throttle_on {s : State} (sensor celsius : BitVec 8) (hin : s.pwr.inputOk = true) :
    throttle s sensor celsius =
      if tooHot (readSensor s sensor celsius) then trip (readSensor s sensor celsius) else reThrottle (readSensor s sensor celsius) :=
  if_neg (by rw [hin]; exact Bool.false_ne_true)

theorem coolant_on {s : State} (reading : BitVec 32) (hin : s.pwr.inputOk = true) :
    coolant s reading = if 0x42200000 < reading.toNat ∧ reading.toNat ≤ 0x7F800000
      then raiseEvent (dSet s (dk 0x1402 4) reading.toNat) 1 0 none 0x1402 4 0 else dSet s (dk 0x1402 4) reading.toNat :=
  if_neg (by rw [hin]; exact Bool.false_ne_true)

theorem thermalTrip_cool {s : State} {celsius : BitVec 8} (h : celsius.toNat < dGet s (dk 0x1402 2)) : thermalTrip s celsius = s :=
  if_pos (Or.inr h)

theorem thermalTrip_hot {s : State} {celsius : BitVec 8} (hin : s.pwr.inputOk = true) (h : dGet s (dk 0x1402 2) ≤ celsius.toNat) :
    thermalTrip s celsius = trip (dSet { s with pwr := { s.pwr with
      sensors := s.pwr.sensors.filter (fun x => x.1 != tripSensor) ++ [(tripSensor, celsius)] } }
      (dk 0x1402 3) (max (dGet s (dk 0x1402 3)) celsius.toNat)) :=
  if_neg fun hb => by
    rw [hin] at hb
    exact hb.elim Bool.false_ne_true (Nat.not_lt.mpr h)

/-- Settles O54. Requests are judged by `powerOp` and `entryBar`; PARK and POWER_STATE_REACHED by the transition; the temperatures by their
limits. -/
theorem powerCommands : Obligations.PowerCommands := by
  unfold Obligations.PowerCommands
  refine ⟨?_, ?_, ?_, ?_⟩
  · intro rq i t s hi hserved s0 refused
    obtain ⟨⟨hlo, hhi⟩, hexec⟩ := exec_enter hi rq s
    refine ⟨fun hr => hexec.trans (congrArg Host.Outcome.next (powerRequest_busy hserved hr)), fun hr ht => ?_, fun hr ht hbar => ?_,
      fun hr ht hp hidle hwin hm hlm htests hmig hqueue hevac => ?_⟩
    · exact hexec.trans (congrArg Host.Outcome.next (powerRequest_refused hserved
        (powerOp_enter_moving (s := awake s) rq hr hlo hhi ht)))
    · exact hexec.trans (congrArg Host.Outcome.next (powerRequest_refused hserved
        ((powerOp_enter (s := awake s) rq hr hlo hhi ht).trans (if_neg hbar))))
    · exact hexec.trans (congrArg Host.Outcome.next (powerRequest_later hserved
        ((powerOp_enter (s := awake s) rq hr hlo hhi ht).trans
          (if_pos (entryBar_open (s := awake s) hp hidle hwin hm hlm (repairRuns_idle htests hmig hqueue hevac))))))
  · intro rq v s hserved hr s0 refused waking
    refine ⟨fun hv => congrArg Host.Outcome.next (powerRequest_refused hserved (powerOp_unknown (s := awake s) rq hr hv)),
      fun hv ht hp => congrArg Host.Outcome.next (powerRequest_refused hserved (powerOp_return_awake (s := awake s) rq hr hv ht hp)),
      fun hv ht hp => congrArg Host.Outcome.next (powerRequest_later hserved (powerOp_return_asleep (s := awake s) rq hr hv ht hp)),
      fun t hv ht => congrArg Host.Outcome.next (powerRequest_refused hserved (powerOp_return_waking (s := awake s) rq hr hv ht)),
      fun t hv ht => congrArg Host.Outcome.next (powerRequest_later hserved (powerOp_return_entering (s := awake s) rq hr hv ht))⟩
  · intro s hlive
    refine ⟨fun hp hin ht hdue => congrArg Host.Outcome.next (park_idle hlive hp hin ht hdue),
      fun h => congrArg Host.Outcome.next (park_stays h), congrArg Host.Outcome.next (if_pos hlive),
      fun ht => congrArg Host.Outcome.next (stateReached_still hlive ht),
      fun t ht => congrArg Host.Outcome.next (stateReached_entered hlive ht), fun t rq ht hrq => ?_, fun t ht hrq => ?_,
      fun watts => ?_⟩
    · refine congrArg Host.Outcome.next ((stateReached_woken hlive ht).trans ?_)
      rw [wakeResult_requested hrq]
    · refine congrArg Host.Outcome.next ((stateReached_woken hlive ht).trans ?_)
      rw [wakeResult_unrequested hrq]
    · exact ⟨_, congrArg Host.Outcome.next (capSample_eq watts hlive), rfl, fun hwf => package_power_dSet hwf _ _,
        nextDuty_eq s _ _⟩
  · intro s hin
    refine ⟨fun sensor celsius => ?_, fun reading => ⟨fun hlo hhi => ?_, fun hle => ?_⟩, fun celsius =>
      ⟨fun h => congrArg Host.Outcome.next (thermalTrip_cool h), fun h => congrArg Host.Outcome.next (thermalTrip_hot hin h)⟩, ?_, rfl⟩
    · exact ⟨fun h => congrArg Host.Outcome.next ((throttle_on sensor celsius hin).trans (if_pos h)),
        fun h => congrArg Host.Outcome.next ((throttle_on sensor celsius hin).trans
          (if_neg (by rw [h]; exact Bool.false_ne_true)))⟩
    · exact congrArg Host.Outcome.next ((coolant_on reading hin).trans (if_pos ⟨hlo, hhi⟩))
    · exact congrArg Host.Outcome.next ((coolant_on reading hin).trans (if_neg fun h => absurd h.1 (Nat.not_lt.mpr hle)))
    · exact congrArg Host.Outcome.next (if_pos (by rw [hin]; rfl))

end Sys2Proof.Machine
end

section
/-! CERTIFICATE. O55 (ResetCommands): cold, module, warm and partition resets and what absorbs them. -/

namespace Sys2Proof.Machine

open Sys2Proof.Claims

/-! ### Input and the module reset -/

theorem moduleByPin_tripped {s : State} (h : s.pwr.tripped.isSome = true) :
    moduleByPin s = { s with pwr := { s.pwr with modRstLow := true, resetWaits := true } } := if_pos h

theorem moduleByPin_untripped {s : State} (h : s.pwr.tripped = none) :
    moduleByPin s = if s.pwr.held then absorb { s with pwr := { s.pwr with modRstLow := true } } else holdByPin (wipe s false) :=
  if_neg (by rw [h]; exact Bool.false_ne_true)

theorem coldReset_pin_high {info : StartInfo} {s : State} (h : info.modRstLow = false) :
    coldReset s info = start (dSet (wipe (readEeprom { s with
      pwr := { s.pwr with inputOk := true, tripped := none, held := false, modRstLow := false, sensors := [] }
      host := { s.host with factoryTest := false } }) true) (dk 0x1500 3) 0) info :=
  if_neg (by rw [h]; exact Bool.false_ne_true)

theorem coldReset_pin_low {info : StartInfo} {s : State} (h : info.modRstLow = true) :
    coldReset s info = moduleByPin (start (dSet (wipe (readEeprom { s with
      pwr := { s.pwr with inputOk := true, tripped := none, held := false, modRstLow := false, sensors := [] }
      host := { s.host with factoryTest := false } }) true) (dk 0x1500 3) 0) info) :=
  if_pos h

section
variable {s : State} (seen : SupplySeen) (hin : s.pwr.inputOk = true)
include hin

theorem inputLoss_within (hlo : 41000 ≤ seen.millivolts.toNat) (hhi : seen.millivolts.toNat ≤ 58000) :
    inputLoss s seen = { dSet s (dk 0x1401 4) seen.millivolts.toNat with
      pwr := { s.pwr with pgood := seen.railsGood && s.pwr.tripped.isNone } } :=
  (if_neg (by rw [hin]; exact Bool.false_ne_true)).trans (if_neg (by omega))

theorem inputLoss_beyond (hout : seen.millivolts.toNat < 41000 ∨ 58000 < seen.millivolts.toNat) :
    inputLoss s seen = closeBywash (dSet (dSet { dSet s (dk 0x1401 4) seen.millivolts.toNat with
      pwr := { s.pwr with inputOk := false, pgood := false } } (dk 0x1100 1) 0) (dk 0x1100 2) 0) :=
  (if_neg (by rw [hin]; exact Bool.false_ne_true)).trans (if_pos hout)

end

/-- MODULE_RESET by the pin, with input power. -/
theorem exec_moduleReset_pin {info : StartInfo} {s : State} (hin : s.pwr.inputOk = true) :
    exec (.moduleReset none info) s = .next (moduleByPin s) :=
  congrArg Host.Outcome.next (if_neg (by rw [hin]; exact Bool.false_ne_true))

/-- MODULE_RESET by a request that is heard: the response comes first. -/
theorem exec_moduleReset_command {info : StartInfo} {s : State} {rq : Req} (hin : s.pwr.inputOk = true) (h : Heard s rq) :
    exec (.moduleReset (some rq) info) s = .next (moduleByCommand (respond (awake s) rq 0x02 0x1500 1 stOk []) info) :=
  congrArg Host.Outcome.next ((if_neg (by rw [hin]; exact Bool.false_ne_true)).trans (handle_heard _ _ _ _ h))

theorem moduleByCommand_free {s : State} (info : StartInfo) (ht : s.pwr.tripped = none) (hh : s.pwr.held = false) :
    moduleByCommand s info = start (dSet (wipe s false) (dk 0x1500 3) 2) info := by
  unfold moduleByCommand
  rw [ht, hh]
  rfl

theorem moduleByCommand_held {s : State} (info : StartInfo) (ht : s.pwr.tripped = none) (hh : s.pwr.held = true) :
    moduleByCommand s info = absorb s := by
  unfold moduleByCommand
  rw [ht, hh]
  rfl

theorem moduleByCommand_after_trip {s : State} (info : StartInfo) {t : Word} (ht : s.pwr.tripped = some t)
    (hdue : t.toNat + 1500000000 ≤ now s) (hpin : s.pwr.modRstLow = false) :
    moduleByCommand s info = start (dSet (wipe s false) (dk 0x1500 3) 5) info := by
  have hgo : ¬(now s < t.toNat + tripHold ∨ s.pwr.modRstLow = true) := by
    rw [hpin]
    exact fun h => h.elim (Nat.not_lt.mpr hdue) Bool.false_ne_true
  unfold moduleByCommand
  rw [ht]
  exact if_neg hgo

section
variable {s : State} (info : StartInfo) (hin : s.pwr.inputOk = true)
include hin

/-- Nothing keeps MOD_RST_N_RELEASE from acting: there is input power, and the pin was low. -/
theorem releasePin_acts (hpin : s.pwr.modRstLow = true) : ¬((!s.pwr.inputOk) = true ∨ (!s.pwr.modRstLow) = true) := by
  rw [hin, hpin]
  exact fun h => h.elim Bool.false_ne_true Bool.false_ne_true

theorem releasePin_held (hpin : s.pwr.modRstLow = true) (ht : s.pwr.tripped = none) (hh : s.pwr.held = true) :
    releasePin s info = start { s with pwr := { s.pwr with modRstLow := false } } info := by
  unfold releasePin
  rw [if_neg (releasePin_acts hin hpin)]
  dsimp only
  rw [ht]
  exact if_pos hh

theorem releasePin_tripped_early (hpin : s.pwr.modRstLow = true) {t : Word} (ht : s.pwr.tripped = some t)
    (h : now s < t.toNat + 1500000000) : releasePin s info = { s with pwr := { s.pwr with modRstLow := false } } := by
  unfold releasePin
  rw [if_neg (releasePin_acts hin hpin)]
  dsimp only
  rw [ht]
  exact if_pos h

theorem releasePin_tripped_due (hpin : s.pwr.modRstLow = true) {t : Word} (ht : s.pwr.tripped = some t)
    (h : t.toNat + 1500000000 ≤ now s) : releasePin s info =
      start (dSet (wipe { s with pwr := { s.pwr with modRstLow := false } } false) (dk 0x1500 3) 5) info := by
  unfold releasePin
  rw [if_neg (releasePin_acts hin hpin)]
  dsimp only
  rw [ht]
  exact if_neg (Nat.not_lt.mpr h)

theorem tripExpiry_due {t : Word} (ht : s.pwr.tripped = some t) (hwaits : s.pwr.resetWaits = true)
    (hpin : s.pwr.modRstLow = false) (h : t.toNat + 1500000000 ≤ now s) :
    tripExpiry s info = start (dSet (wipe s false) (dk 0x1500 3) 5) info := by
  have hgo : ¬((!s.pwr.inputOk) = true ∨ (!s.pwr.resetWaits) = true ∨ s.pwr.modRstLow = true ∨ now s < t.toNat + tripHold) := by
    rw [hin, hwaits, hpin]
    rintro (h1 | h1 | h1 | h1)
    · exact Bool.false_ne_true h1
    · exact Bool.false_ne_true h1
    · exact Bool.false_ne_true h1
    · exact Nat.not_lt.mpr h h1
  unfold tripExpiry
  rw [ht]
  exact if_neg hgo

end

theorem tripExpiry_untripped {s : State} (info : StartInfo) (ht : s.pwr.tripped = none) : tripExpiry s info = s := by
  unfold tripExpiry
  rw [ht]

theorem tripExpiry_early {s : State} (info : StartInfo) {t : Word} (ht : s.pwr.tripped = some t)
    (h : now s < t.toNat + 1500000000) : tripExpiry s info = s := by
  unfold tripExpiry
  rw [ht]
  exact if_pos (Or.inr (Or.inr (Or.inr h)))

/-! ### Warm reset -/

theorem raiseWarm_absorbed {s : State} (cause : Nat) (h : s.pwr.resetRunning.isSome = true ∨ s.pwr.held = true) :
    raiseWarm s cause = absorb s := if_pos h

theorem raiseWarm_begins {s : State} (cause : Nat) (hr : s.pwr.resetRunning = none) (hh : s.pwr.held = false) :
    raiseWarm s cause = beginWarm s cause :=
  if_neg (by rw [hr, hh]; exact fun h => h.elim Bool.false_ne_true Bool.false_ne_true)

theorem warmDrained_idle {s : State} (h : s.pwr.resetRunning ≠ some .warm) : warmDrained s = false := by
  unfold warmDrained
  rw [beq_eq_false_iff_ne.mpr h]
  rfl

theorem warmDrained_outstanding {s : State} (h : ∃ t ∈ s.fab.txns, t.issued = true) : warmDrained s = false := by
  obtain ⟨t, ht, hissued⟩ := h
  have hall : s.fab.txns.all (fun t => !t.issued) = false := by
    rw [List.all_eq_false]
    exact ⟨t, ht, by rw [hissued]; exact Bool.false_ne_true⟩
  unfold warmDrained
  rw [hall, Bool.and_false]

theorem warmDrained_empty {s : State} (hin : s.pwr.inputOk = true) (hr : s.pwr.resetRunning = some .warm)
    (h : ∀ t ∈ s.fab.txns, t.issued = false) : warmDrained s = true := by
  have hall : s.fab.txns.all (fun t => !t.issued) = true := by
    rw [List.all_eq_true]
    intro t ht
    rw [h t ht]
    rfl
  unfold warmDrained
  rw [hr, hin, hall]
  rfl

theorem exec_recovery_waits {s : State} (fails : List StartupFail) (abandoned : List (RingId × BitVec 8 × UnitCycles))
    (h : warmDrained s = false) : exec (.warmResetRecovery ⟨fails, abandoned⟩) s = .next s :=
  congrArg Host.Outcome.next (if_neg (by rw [h]; exact Bool.false_ne_true))

/-- The links release their traffic before what waited for Falyndi goes, and the event comes last. -/
theorem exec_recovery_ends {s : State} (fails : List StartupFail) (abandoned : List (RingId × BitVec 8 × UnitCycles))
    (h : warmDrained s = true) :
    exec (.warmResetRecovery ⟨fails, abandoned⟩) s = .next (endWarm (flushHeld (recoverWarm s fails abandoned))) :=
  congrArg Host.Outcome.next (if_pos h)

/-! ### Partition reset -/

theorem partitionResetOp_unknown {s : State} {v : Nat} (h : 15 < v) : partitionResetOp v s = (s, some stRefused) := if_pos h

theorem partitionResetOp_absorbed {s : State} {v : Nat} (hv : v ≤ 15) (h : resetting s = true ∨ partResetting s v = true) :
    partitionResetOp v s = (absorb s, some stOk) :=
  (if_neg (Nat.not_lt.mpr hv)).trans (if_pos ((Bool.or_eq_true _ _).mpr h))

theorem partitionResetOp_resets {s : State} {v : Nat} (hv : v ≤ 15) (hr : resetting s = false) (hp : partResetting s v = false) :
    partitionResetOp v s = (resetPart (abandonTransition s) v, some stOk) :=
  (if_neg (Nat.not_lt.mpr hv)).trans (if_neg (by rw [hr, hp]; exact Bool.false_ne_true))

/-- Settles O55. Each command is judged by what holds the module: no input, a trip, the pin, or a reset that runs. -/
theorem resetCommands : Obligations.ResetCommands := by
  unfold Obligations.ResetCommands
  refine ⟨?_, ?_, ?_, ?_, ?_, ?_⟩
  · intro info s s1 up
    refine ⟨fun h => congrArg Host.Outcome.next (coldReset_pin_high h), fun h => congrArg Host.Outcome.next ?_⟩
    exact coldReset_pin_low h
  · intro seen s hin mv s1
    exact ⟨fun hlo hhi => congrArg Host.Outcome.next (inputLoss_within seen hin hlo hhi),
      fun hout => congrArg Host.Outcome.next (inputLoss_beyond seen hin hout)⟩
  · intro info s hin
    refine ⟨fun ht hh => ?_, fun ht hh => ?_, fun ht => ?_, ?_, ?_, fun ht => ?_, fun t ht hwaits hpin => ⟨fun h => ?_, fun h => ?_⟩⟩
    · refine (exec_moduleReset_pin hin).trans (congrArg Host.Outcome.next ((moduleByPin_untripped ht).trans (if_neg ?_)))
      rw [hh]
      exact Bool.false_ne_true
    · exact (exec_moduleReset_pin hin).trans (congrArg Host.Outcome.next ((moduleByPin_untripped ht).trans (if_pos hh)))
    · exact (exec_moduleReset_pin hin).trans (congrArg Host.Outcome.next (moduleByPin_tripped ht))
    · intro rq hheard s1
      have hexec := exec_moduleReset_command (info := info) hin hheard
      exact ⟨fun ht hh => hexec.trans (congrArg Host.Outcome.next (moduleByCommand_free info ht hh)),
        fun ht hh => hexec.trans (congrArg Host.Outcome.next (moduleByCommand_held info ht hh)),
        fun t ht hdue hpin => hexec.trans (congrArg Host.Outcome.next (moduleByCommand_after_trip info ht hdue hpin))⟩
    · intro hpin s1
      exact ⟨fun ht hh => congrArg Host.Outcome.next (releasePin_held info hin hpin ht hh),
        fun t ht h => congrArg Host.Outcome.next (releasePin_tripped_early info hin hpin ht h),
        fun t ht h => congrArg Host.Outcome.next (releasePin_tripped_due info hin hpin ht h)⟩
    · exact congrArg Host.Outcome.next (tripExpiry_untripped info ht)
    · exact congrArg Host.Outcome.next (tripExpiry_early info ht h)
    · exact congrArg Host.Outcome.next (tripExpiry_due info hin ht hwaits hpin h)
  · intro rq s hheard s1
    have hexec : exec (.warmReset rq) s = .next (raiseWarm s1 3) := congrArg Host.Outcome.next (handle_heard _ _ _ _ hheard)
    exact ⟨fun h => hexec.trans (congrArg Host.Outcome.next (raiseWarm_absorbed 3 h)),
      fun hr hh => hexec.trans (congrArg Host.Outcome.next (raiseWarm_begins 3 hr hh))⟩
  · intro s hin
    refine ⟨fun h => congrArg Host.Outcome.next (if_neg fun hb => hb.2 h), fun h hr hh => ?_,
      fun fails abandoned h => exec_recovery_waits fails abandoned (warmDrained_idle h),
      fun fails abandoned h => exec_recovery_waits fails abandoned (warmDrained_outstanding h),
      fun fails abandoned hr h => exec_recovery_ends fails abandoned (warmDrained_empty hin hr h)⟩
    exact congrArg Host.Outcome.next ((if_pos ⟨hin, h⟩).trans (raiseWarm_begins 4 hr hh))
  · intro rq v s hserved
    refine ⟨fun h => ?_, fun hv h => ?_, fun hv hr hp => ?_⟩
    · exact congrArg Host.Outcome.next (handleWrite_served_refused _ hserved (partitionResetOp_unknown h) (by decide))
    · exact congrArg Host.Outcome.next (handleWrite_served_ok _ hserved (partitionResetOp_absorbed (s := awake s) hv h))
    · exact congrArg Host.Outcome.next (handleWrite_served_ok _ hserved (partitionResetOp_resets (s := awake s) hv hr hp))

end Sys2Proof.Machine
end

section
/-! CERTIFICATE. O57 (HealthCommands): reports, targeted tests, lost dies and injections. -/

namespace Sys2Proof.Machine

open Sys2Proof.Claims

/-! ### Reports -/

/-- ERROR_DETECTED of a module that runs. -/
theorem exec_errorDetected {s : State} (e : ErrorReport) (hlive : live s = true) : exec (.errorDetected e) s = .next (errorStep s e) :=
  congrArg Host.Outcome.next (if_pos hlive)

theorem errorStep_unknown {s : State} {e : ErrorReport} (h : e.source.toNat = 0 ∨ 0x15 < e.source.toNat) : errorStep s e = s :=
  if_pos h

theorem errorStep_die {s : State} {e : ErrorReport} (h : e.source = 0x13) : errorStep s e = loseDie s e.unit.toNat := by
  have hk : e.source.toNat = 0x13 := by rw [h]; rfl
  unfold errorStep
  dsimp only
  rw [hk]
  rfl

/-- A source that is neither unknown nor a die. -/
theorem source_known {e : ErrorReport} (h0 : e.source ≠ 0) (h15 : e.source.toNat ≤ 0x15) (h13 : e.source ≠ 0x13) :
    ¬(e.source.toNat = 0 ∨ 0x15 < e.source.toNat) ∧ ¬e.source.toNat = 0x13 := by
  refine ⟨?_, fun h => h13 (BitVec.eq_of_toNat_eq h)⟩
  rintro (h | h)
  · exact h0 (BitVec.eq_of_toNat_eq h)
  · exact Nat.not_lt.mpr h15 h

/-- An armed injection of this error is used up by it. -/
theorem errorStep_injected {s t : State} {e : ErrorReport} {i : Injection} (h0 : e.source ≠ 0) (h15 : e.source.toNat ≤ 0x15)
    (h13 : e.source ≠ 0x13) (hi : takeInjection s (armedFor s e) = some (i, t)) :
    errorStep s e = reportError t e (some i.persist) := by
  obtain ⟨hk, hdie⟩ := source_known h0 h15 h13
  unfold errorStep
  rw [if_neg hk, if_neg hdie, hi]

theorem errorStep_uninjected {s : State} {e : ErrorReport} (h0 : e.source ≠ 0) (h15 : e.source.toNat ≤ 0x15)
    (h13 : e.source ≠ 0x13) (hinj : s.hlth.injections = []) : errorStep s e = reportError s e none := by
  obtain ⟨hk, hdie⟩ := source_known h0 h15 h13
  unfold errorStep
  rw [if_neg hk, if_neg hdie, takeInjection_none hinj]

theorem reportError_laneless {s : State} {e : ErrorReport} (persist : Option (BitVec 2)) (hd : e.source ≠ 0x0D) (he : e.source ≠ 0x0E) :
    reportError s e persist = (detectError s e persist).1 := if_neg (fun h => h.elim hd he)

/-- The link and the lane that a report of a lane names. -/
def reportedLane (e : ErrorReport) : Nat × Nat := laneOf (blankRec e.source.toNat e.unitKind.toNat e.unit.toNat 0)

theorem reportError_lane {s : State} {e : ErrorReport} (persist : Option (BitVec 2)) (h : e.source = 0x0D ∨ e.source = 0x0E) :
    reportError s e persist = laneError s (reportedLane e).1 (reportedLane e).2 e persist := if_pos h

/-! ### Targeted tests -/

theorem arrayTest_iff (t : Test) (r : HealthRec) :
    arrayTest t r = true ↔ r.unitKind = 1 ∧ (r.source = 1 ∨ r.source = 2 ∨ t.verify = true) := by
  unfold arrayTest
  simp only [Bool.and_eq_true, Bool.or_eq_true, beq_iff_eq, or_assoc]

theorem startTest_none {s : State} (h : nextTest s = none) : startTest s = s := by
  unfold startTest
  rw [h]

/-- The queued test runs and is counted. -/
def testRuns (s : State) (t : Test) : State :=
  let s1 := countT s 0x32C4 1
  { s1 with hlth := { s1.hlth with
    tests := modifyFirst (fun x => x.seq == t.seq) (fun x => { x with running := true }) s1.hlth.tests } }

theorem startTest_some {s : State} {t : Test} {r : HealthRec} (h : nextTest s = some (t, r)) :
    startTest s = if arrayTest t r = true then
      enterRunnerMode (if t.verify = true then testRuns s t else resetCore (testRuns s t) (physOf (testRuns s t) r.unit.toNat))
        (physOf (testRuns s t) r.unit.toNat) else testRuns s t := by
  unfold startTest
  rw [h]
  rfl

theorem exec_testResult_found {s : State} {fid : BitVec 24} {t : Test} (o : TestOutcome) (ticks : BitVec 32) (hlive : live s = true)
    (h : s.hlth.tests.find? (fun t => t.running && faultIdOf t.seq.toNat == fid.toNat) = some t) :
    exec (.testResult fid o ticks) s = .next (endTest s t o ticks.toNat) := by
  refine congrArg Host.Outcome.next ((if_pos hlive).trans ?_)
  rw [h]

theorem exec_testResult_missing {s : State} {fid : BitVec 24} (o : TestOutcome) (ticks : BitVec 32) (hlive : live s = true)
    (h : s.hlth.tests.find? (fun t => t.running && faultIdOf t.seq.toNat == fid.toNat) = none) :
    exec (.testResult fid o ticks) s = .next s := by
  refine congrArg Host.Outcome.next ((if_pos hlive).trans ?_)
  rw [h]

/-- A die that does not exist, or that is lost already, is not lost again. -/
theorem loseDie_again {s : State} {d : Nat} (h : 6 ≤ d ∨ d ∈ s.cores.lostDies) : loseDie s d = s :=
  if_pos (h.imp_right List.contains_iff_mem.mpr)

/-! ### Injections -/

/-- ARM is refused. -/
def armBad (s : State) (w : Nat) : Prop :=
  let i := injOf s w
  let k := i.kind.toNat
  k = 0 ∨ 10 < k ∨ i.persist = 3 ∨ bits w 53 48 ≠ 0 ∨ 16 ≤ s.hlth.injections.length ∨ 2 ≤ pState s ∨
    dGet s (dk 0x4000 3) = 3 ∨ (i.persist = 2 ∧ dGet s (dk 0x4200 3) = 0) ∨
    ((k = 5 ∨ k = 6) ∧ inLocalHbm s i.addr.toNat 1 = false)

theorem armBad_iff (s : State) (w : Nat) :
    armBad s w ↔ (injOf s w).kind.toNat = 0 ∨ 10 < (injOf s w).kind.toNat ∨ (injOf s w).persist = 3 ∨ bits w 53 48 ≠ 0 ∨
      16 ≤ s.hlth.injections.length ∨ 2 ≤ pState s ∨ dGet s (dk 0x4000 3) = 3 ∨
      ((injOf s w).persist = 2 ∧ dGet s (dk 0x4200 3) = 0) ∨
      (((injOf s w).kind.toNat = 5 ∨ (injOf s w).kind.toNat = 6) ∧ (!inLocalHbm s (injOf s w).addr.toNat 1) = true) := by
  rw [Bool.not_eq_true']
  exact Iff.rfl

theorem armOp_bad {s : State} {w : Nat} (h : armBad s w) : armOp w s = (s, some stRefused) := if_pos ((armBad_iff s w).mp h)

theorem armOp_lane {s : State} {w : Nat} (h : ¬armBad s w) (hk : (injOf s w).kind.toNat = 7 ∨ (injOf s w).kind.toNat = 8) :
    armOp w s = (reportError (countT s 0x32C7 1)
      { injError s (injOf s w) with byCommand := false } (some (injOf s w).persist), some stOk) :=
  (if_neg (mt (armBad_iff s w).mpr h)).trans (if_pos hk)

theorem armOp_armed {s : State} {w : Nat} (h : ¬armBad s w) (h7 : (injOf s w).kind.toNat ≠ 7) (h8 : (injOf s w).kind.toNat ≠ 8) :
    armOp w s = ({ s with hlth := { s.hlth with injections := s.hlth.injections ++ [injOf s w] } }, some stOk) :=
  (if_neg (mt (armBad_iff s w).mpr h)).trans (if_neg (fun hk => hk.elim h7 h8))

/-- Settles O57. A report is judged by its source and by the injections that are armed; a lane's goes with its link. -/
theorem healthCommands : Obligations.HealthCommands := by
  unfold Obligations.HealthCommands
  refine ⟨fun s hlive => ⟨?_, ?_, ?_, ?_, ?_, ?_, ?_, ?_⟩, ?_⟩
  · exact fun e h => (exec_errorDetected e hlive).trans (congrArg Host.Outcome.next (errorStep_die h))
  · exact fun e x t h0 h15 h13 hi =>
      (exec_errorDetected e hlive).trans (congrArg Host.Outcome.next (errorStep_injected h0 h15 h13 hi))
  · intro e hinj h13
    refine ⟨fun h => ?_, ?_⟩
    · refine (exec_errorDetected e hlive).trans (congrArg Host.Outcome.next (errorStep_unknown ?_))
      exact h.imp_left (fun h0 => by rw [h0]; rfl)
    · intro h0 h15 s1 lane
      have hstep := (exec_errorDetected e hlive).trans (congrArg Host.Outcome.next (errorStep_uninjected h0 h15 h13 hinj))
      refine ⟨fun hd he => hstep.trans (congrArg Host.Outcome.next (reportError_laneless none hd he)), fun hl => ⟨fun hs => ?_, fun hs => ?_⟩⟩
      · exact hstep.trans (congrArg Host.Outcome.next ((reportError_lane none hl).trans (laneError_spared _ e none hs)))
      · exact hstep.trans (congrArg Host.Outcome.next ((reportError_lane none hl).trans (laneError_unspared _ e none hs)))
  · exact fun h => congrArg Host.Outcome.next ((if_pos hlive).trans (startTest_none h))
  · intro t r h s1 s2 core s3
    refine congrArg Host.Outcome.next ((if_pos hlive).trans ((startTest_some h).trans ?_))
    by_cases harray : arrayTest t r = true
    · exact (if_pos harray).trans (if_pos ((arrayTest_iff t r).mp harray)).symm
    · exact (if_neg harray).trans (if_neg (mt (arrayTest_iff t r).mpr harray)).symm
  · exact fun fid o ticks => ⟨fun t h => exec_testResult_found o ticks hlive h, exec_testResult_missing o ticks hlive⟩
  · exact fun die h => congrArg Host.Outcome.next ((if_pos hlive).trans (loseDie_again h))
  · exact fun die _ _ => ⟨_, congrArg Host.Outcome.next (if_pos hlive), rfl⟩
  · intro rq word s hserved s0 w i k bytes bad
    have hbytes : leBytes 8 (2 ^ 60 + w) = bytes 1 := congrArg (fun x => leBytes 8 (x + w)) (Nat.one_mul (2 ^ 60)).symm
    refine ⟨fun h => ?_, fun h hk => ?_, fun h h7 h8 => ?_, ?_⟩
    · exact congrArg Host.Outcome.next (handleWrite_served_refused _ hserved (armOp_bad (s := s0) h) (by decide))
    · rw [← hbytes]
      exact congrArg Host.Outcome.next (handleWrite_served_ok _ hserved (armOp_lane (s := s0) h hk))
    · rw [← hbytes]
      exact congrArg Host.Outcome.next (handleWrite_served_ok _ hserved (armOp_armed (s := s0) h h7 h8))
    · exact congrArg Host.Outcome.next (handleWrite_served_ok _ hserved rfl)

end Sys2Proof.Machine
end

section
/-! CERTIFICATE. O58 (UpkeepCommands): retraining, scrubbing, zeroing, migration and margining. -/

namespace Sys2Proof.Machine

open Sys2Proof.Claims

/-! ### Retraining -/

section
variable {s : State} {channel : BitVec 9} (hold : BitVec 32) (hon : hbmOn s = true)
include hon

theorem exec_hbmRetrain_passed : exec (.hbmRetrain channel .passed hold) s = .next (retrainChannel s channel.toNat true hold.toNat) :=
  congrArg Host.Outcome.next (if_neg (by rw [hon]; exact Bool.false_ne_true))

theorem exec_hbmRetrain_failed : exec (.hbmRetrain channel .failed hold) s = .next (retrainChannel s channel.toNat false hold.toNat) :=
  congrArg Host.Outcome.next (if_neg (by rw [hon]; exact Bool.false_ne_true))

theorem exec_hbmRetrain_phyFailed : exec (.hbmRetrain channel .phyFailed hold) s = .next (failPhy s channel.toNat hold.toNat) :=
  congrArg Host.Outcome.next (if_neg (by rw [hon]; exact Bool.false_ne_true))

end

/-- A retrain of a channel is counted under its stack, with the cycles that it held the channel. -/
def retrainCounted (s : State) (ch hold : Nat) : State := count (count s 0x3273 (ch / 32 + 1) 1) 0x3272 (ch / 32 + 1) hold

section
variable {s : State} {ch : Nat} (hlt : ch < 384) (hlive : ch ∉ s.mem.retired)
include hlt hlive

/-- A live channel: its failures in a row retire it at the third. -/
theorem retrainChannel_live (passed : Bool) (hold : Nat) :
    retrainChannel s ch passed hold = if passed then setFails (retrainCounted s ch hold) ch 0 else
      if failsOf (setFails (retrainCounted s ch hold) ch (failsOf (retrainCounted s ch hold) ch + 1)) ch < 3
      then setFails (retrainCounted s ch hold) ch (failsOf (retrainCounted s ch hold) ch + 1)
      else beginRetire (setFails (retrainCounted s ch hold) ch (failsOf (retrainCounted s ch hold) ch + 1)) [ch] 0 :=
  (if_neg (Nat.not_le.mpr hlt)).trans (if_neg (mt List.contains_iff_mem.mp hlive))

theorem failPhy_live (hold : Nat) : failPhy s ch hold = beginRetire (retrainCounted s ch hold) (liveOfStack s (ch / 32)) 0 :=
  if_neg (fun h => h.elim (Nat.not_le.mpr hlt) (mt List.contains_iff_mem.mp hlive))

end

theorem failPhy_retired {s : State} {ch : Nat} (hold : Nat) (h : ch ∈ s.mem.retired) : failPhy s ch hold = s :=
  if_pos (Or.inr (List.contains_iff_mem.mpr h))

/-- A retired channel that does not migrate is trained no more. -/
theorem retrainChannel_retired {s : State} {ch : Nat} (passed : Bool) (hold : Nat) (h : ch ∈ s.mem.retired)
    (hm : ∀ m, s.mem.migration = some m → ch ∉ m.channels) : retrainChannel s ch passed hold = s := by
  have hidle : ¬s.mem.migration.any (fun m => m.channels.contains ch) = true := by
    intro hany
    obtain ⟨m, hsome, hmem⟩ := (Option.any_eq_true _ _).mp hany
    exact hm m hsome (List.contains_iff_mem.mp hmem)
  unfold retrainChannel
  rw [if_pos (List.contains_iff_mem.mpr h), if_neg hidle]
  exact ite_self s

/-! ### Scrubbing, zeroing and migration -/

theorem scrubSome_off {s : State} (corrected : List Nat) (lines : Nat) (bad : List Nat) (h : dGet s (dk 0x2412 1) = 0) :
    scrubSome s corrected lines bad = s := if_pos h

/-- SCRUB of an HBM that is on. -/
theorem exec_scrub {s : State} (corrected bad : List Word) (lines : BitVec 32) (hon : hbmOn s = true) :
    exec (.scrub corrected bad lines) s = .next (scrubSome s (corrected.map (·.toNat)) lines.toNat (bad.map (·.toNat))) :=
  congrArg Host.Outcome.next (if_pos hon)

theorem zeroNext_nil {s : State} (h : s.mem.unzeroed = []) : zeroNext s = s := by
  unfold zeroNext
  rw [h]

theorem zeroNext_cons {s : State} {u : Nat × Nat} {rest : List (Nat × Nat)} (h : s.mem.unzeroed = u :: rest) :
    zeroNext s = zeroRange { s with mem := { s.mem with unzeroed := rest } } u.1 u.2 := by
  unfold zeroNext
  rw [h]

theorem exec_evacuationResume {s : State} (hlive : live s = true) :
    exec .evacuationResume s = .next
      (let s := if s.mem.migration.any (·.blocked) then evacuateStep s else s
       s.mem.evacRanges.foldl evacRange s) := congrArg Host.Outcome.next (if_pos hlive)

/-- With no blocked migration EVACUATION_RESUME only moves pages out of the ranges that wait. -/
theorem exec_evacuationResume_ranges {s : State} (hlive : live s = true) (h : s.mem.migration.any (·.blocked) = false) :
    exec .evacuationResume s = .next (s.mem.evacRanges.foldl evacRange s) := by
  rw [exec_evacuationResume hlive, if_neg (by rw [h]; exact Bool.false_ne_true)]

theorem exec_evacuationResume_blocked {s : State} (hlive : live s = true) (h : s.mem.migration.any (·.blocked) = true) :
    exec .evacuationResume s = .next ((evacuateStep s).mem.evacRanges.foldl evacRange (evacuateStep s)) := by
  rw [exec_evacuationResume hlive, if_pos h]

theorem endMigration_none {s : State} (h : s.mem.migration = none) : endMigration s = s := by
  unfold endMigration
  rw [h]

theorem endMigration_blocked {s : State} {m : Migration} (h : s.mem.migration = some m) (hb : m.blocked = true) :
    endMigration s = s := by
  unfold endMigration
  rw [h]
  exact if_pos hb

/-- The channels of a migration that ends have neither a state nor failures any more. -/
def channelsMoved (s : State) (m : Migration) : State :=
  { s with mem := { s.mem with
    migration := none
    chanState := s.mem.chanState.filter (fun x => !m.channels.contains x.1)
    chanFails := s.mem.chanFails.filter (fun x => !m.channels.contains x.1) } }

theorem endMigration_ends {s : State} {m : Migration} (h : s.mem.migration = some m) (hb : m.blocked = false) :
    endMigration s = nextPass (m.channels.foldl (channelRecord m.recSeq)
      ((deadStacks (channelsMoved s m) m.channels).foldl loseStack (raiseHealth (channelsMoved s m) 2))) := by
  unfold endMigration
  rw [h]
  exact if_neg (by rw [hb]; exact Bool.false_ne_true)

/-! ### Margining of HBM -/

/-- No partition is enabled and every ring is FREE. -/
def marginFree (s : State) : Prop := (∀ p < 16, pGet s p 5 = 0) ∧ ∀ r ∈ s.hop.rings, r.2.state = .free

theorem marginFree_iff (s : State) :
    ((List.range 16).all (fun p => pGet s p 5 == 0) && s.hop.rings.all (fun r => r.2.state == .free)) = true ↔ marginFree s := by
  unfold marginFree
  simp only [Bool.and_eq_true, List.all_eq_true, List.mem_range, beq_iff_eq]

theorem marginEnableOp_unknown {s : State} {v : Nat} (h : 1 < v) : marginEnableOp v s = (s, some stRefused) := if_pos h

theorem marginEnableOp_on {s : State} (h : marginFree s) : marginEnableOp 1 s = (dSet s (dk 0x2413 1) 1, some stOk) :=
  if_pos ((marginFree_iff s).mpr h)

theorem marginEnableOp_refused {s : State} (h : ¬marginFree s) : marginEnableOp 1 s = (s, some stRefused) :=
  if_neg (mt (marginFree_iff s).mp h)

/-- A measurement, of HBM or of a lane, is refused for an unknown value, without margining, or out of range. -/
theorem measure_refused {α : Type} {v enabled : Nat} {inRange : Bool} (refused idle run : α)
    (h : 1 < v ∨ enabled = 0 ∨ (v = 1 ∧ inRange = false)) :
    (if 1 < v ∨ enabled = 0 then refused else if v = 0 then idle else if !inRange then refused else run) = refused := by
  by_cases hbar : 1 < v ∨ enabled = 0
  · exact if_pos hbar
  · obtain ⟨hv, hin⟩ := (or_assoc.mpr h).resolve_left hbar
    exact (if_neg hbar).trans ((if_neg (by omega)).trans (if_pos (by rw [hin]; rfl)))

theorem measure_idle {α : Type} {enabled : Nat} {inRange : Bool} (refused idle run : α) (h : enabled ≠ 0) :
    (if 1 < 0 ∨ enabled = 0 then refused else if 0 = 0 then idle else if !inRange then refused else run) = idle :=
  (if_neg (by omega)).trans (if_pos rfl)

theorem measure_run {α : Type} {enabled : Nat} (refused idle run : α) (h : enabled ≠ 0) :
    (if 1 < 1 ∨ enabled = 0 then refused else if 1 = 0 then idle else if !true then refused else run) = run :=
  (if_neg (by omega)).trans ((if_neg (by decide)).trans (if_neg (by decide)))

/-! ### Margining of a lane -/

theorem lmarginEnableOp_unknown {s : State} {v : Nat} (h : 1 < v) : lmarginEnableOp v s = (s, some stRefused) := if_pos h

theorem lmarginEnableOp_same {s : State} {v : Nat} (hv : v ≤ 1) (h : v = dGet s (dk 0x2707 1)) :
    lmarginEnableOp v s = (s, some stOk) := (if_neg (Nat.not_lt.mpr hv)).trans (if_pos h)

theorem lmarginEnableOp_off {s : State} {v : Nat} (hv : v = 0) (h : dGet s (dk 0x2707 1) ≠ 0) :
    lmarginEnableOp v s = (endMargin s, some stOk) :=
  (if_neg (by omega)).trans ((if_neg (by omega)).trans (if_pos hv))

section
variable {s : State} {v : Nat} (hv : v = 1) (hoff : dGet s (dk 0x2707 1) ≠ 1)
include hv hoff

theorem lmarginEnableOp_unready
    (h : portState s (dGet s (dk 0x2707 2)) ≠ 2 ∨ (getLink s (dGet s (dk 0x2707 2))).spareFor.isSome = true) :
    lmarginEnableOp v s = (s, some stRefused) :=
  (if_neg (by omega)).trans ((if_neg (by omega)).trans ((if_neg (by omega)).trans (if_pos h)))

variable (hport : portState s (dGet s (dk 0x2707 2)) = 2) (hspare : (getLink s (dGet s (dk 0x2707 2))).spareFor = none)
include hport hspare

/-- The port is active and its spare is free. -/
theorem lmarginEnableOp_ready (moved : State × Bool)
    (hmoved : (if dGet s (dk 0x2707 3) = 12 then (s, true) else swapLane s (dGet s (dk 0x2707 2)) (dGet s (dk 0x2707 3))) = moved) :
    lmarginEnableOp v s = if !moved.2 then (s, some stRefused) else
      (if dGet s (dk 0x2707 3) = 12
        then dSet { moved.1 with fab := { moved.1.fab with
          margined := some (dGet s (dk 0x2707 2), dGet s (dk 0x2707 3)) } } (dk 0x2707 1) 1
        else sendCtrl (dSet { moved.1 with fab := { moved.1.fab with
          margined := some (dGet s (dk 0x2707 2), dGet s (dk 0x2707 3)) } } (dk 0x2707 1) 1) (dGet s (dk 0x2707 2)) 1
            (dGet s (dk 0x2707 3)), some stOk) := by
  subst hmoved
  refine (if_neg (by omega)).trans ((if_neg (by omega)).trans ((if_neg (by omega)).trans (if_neg ?_)))
  rw [hport, hspare]
  exact fun h => h.elim (fun h2 => h2 rfl) Bool.false_ne_true

theorem lmarginEnableOp_spare (hlane : dGet s (dk 0x2707 3) = 12) :
    lmarginEnableOp v s = (dSet { s with fab := { s.fab with
      margined := some (dGet s (dk 0x2707 2), dGet s (dk 0x2707 3)) } } (dk 0x2707 1) 1, some stOk) := by
  rw [lmarginEnableOp_ready hv hoff hport hspare (s, true) (if_pos hlane), if_pos hlane]
  exact if_neg Bool.false_ne_true

theorem lmarginEnableOp_lane (hlane : dGet s (dk 0x2707 3) ≠ 12) :
    lmarginEnableOp v s = if !(swapLane s (dGet s (dk 0x2707 2)) (dGet s (dk 0x2707 3))).2 then (s, some stRefused) else
      (sendCtrl (dSet { (swapLane s (dGet s (dk 0x2707 2)) (dGet s (dk 0x2707 3))).1 with
        fab := { (swapLane s (dGet s (dk 0x2707 2)) (dGet s (dk 0x2707 3))).1.fab with
          margined := some (dGet s (dk 0x2707 2), dGet s (dk 0x2707 3)) } } (dk 0x2707 1) 1) (dGet s (dk 0x2707 2)) 1
            (dGet s (dk 0x2707 3)), some stOk) := by
  rw [lmarginEnableOp_ready hv hoff hport hspare _ (if_neg hlane), if_neg hlane]

end

theorem endMargin_none {s : State} (h : s.fab.margined = none) : endMargin s = s := by
  unfold endMargin
  rw [h]

theorem endMargin_some {s : State} {i lane : Nat} (h : s.fab.margined = some (i, lane)) :
    endMargin s = if (getLink s i).spareFor = some lane
      then laneBack (dSet { s with fab := { s.fab with margined := none } } (dk 0x2707 1) 0) i lane
      else dSet { s with fab := { s.fab with margined := none } } (dk 0x2707 1) 0 := by
  unfold endMargin
  rw [h]
  rfl

/-! ### The statement -/

theorem retrainResults {s : State} (hon : hbmOn s = true) {channel : BitVec 9} (hold : BitVec 32) (h : channel.toNat ∈ s.mem.retired)
    (hm : ∀ m, s.mem.migration = some m → channel.toNat ∉ m.channels) (r : RetrainResult) :
    exec (.hbmRetrain channel r hold) s = .next s := by
  cases r with
  | passed => exact (exec_hbmRetrain_passed hold hon).trans (congrArg Host.Outcome.next (retrainChannel_retired true _ h hm))
  | failed => exact (exec_hbmRetrain_failed hold hon).trans (congrArg Host.Outcome.next (retrainChannel_retired false _ h hm))
  | phyFailed => exact (exec_hbmRetrain_phyFailed hold hon).trans (congrArg Host.Outcome.next (failPhy_retired _ h))

/-- The clause of margin_enable. -/
theorem marginEnable_cases {s : State} {rq : Req} {v : Byte} (hserved : Served s rq 0x2413 1) :
    (1 < v.toNat → exec (.marginEnable rq v) s = .next (reject (awake s) rq 0x2413 1 stRefused)) ∧
    (v = 0 → exec (.marginEnable rq v) s = .next (accept { dSet (awake s) (dk 0x2413 1) 0 with
      mem := { (awake s).mem with marginTrained := true } } rq 0x2413 1 [v])) ∧
    (v = 1 → marginFree s → exec (.marginEnable rq v) s = .next (accept (dSet (awake s) (dk 0x2413 1) 1) rq 0x2413 1 [v])) ∧
    (v = 1 → ¬marginFree s → exec (.marginEnable rq v) s = .next (reject (awake s) rq 0x2413 1 stRefused)) := by
  refine ⟨fun h => ?_, ?_, ?_, ?_⟩
  · exact congrArg Host.Outcome.next (handleWrite_served_refused _ hserved (marginEnableOp_unknown h) (by decide))
  · rintro rfl
    exact congrArg Host.Outcome.next (handleWrite_served_ok _ hserved rfl)
  · rintro rfl hfree
    exact congrArg Host.Outcome.next (handleWrite_served_ok _ hserved (marginEnableOp_on (s := awake s) hfree))
  · rintro rfl hfree
    exact congrArg Host.Outcome.next (handleWrite_served_refused _ hserved (marginEnableOp_refused (s := awake s) hfree) (by decide))

/-- A byte of value 1, as a number. -/
theorem measure_value {v : Byte} {enabled : Nat} {inRange : Bool} (h : 1 < v.toNat ∨ enabled = 0 ∨ (v = 1 ∧ inRange = false)) :
    1 < v.toNat ∨ enabled = 0 ∨ (v.toNat = 1 ∧ inRange = false) :=
  h.imp_right (Or.imp_right (And.imp_left (fun hv => by rw [hv]; rfl)))

/-- Settles O58. Retraining turns on the channel's failures in a row, migration on what blocks it, margining on what is enabled. -/
theorem upkeepCommands : Obligations.UpkeepCommands := by
  unfold Obligations.UpkeepCommands
  refine ⟨fun s hon => ⟨?_, ?_, ?_, ?_, ?_⟩, fun s hlive => ?_, ?_, ?_, ?_⟩
  · intro channel hold hlt hmem ch s1 s2
    have hfailed := (exec_hbmRetrain_failed hold hon).trans (congrArg Host.Outcome.next (retrainChannel_live hlt hmem false hold.toNat))
    refine ⟨?_, ?_, fun h => ?_, fun h => ?_⟩
    · exact (exec_hbmRetrain_passed hold hon).trans (congrArg Host.Outcome.next (retrainChannel_live hlt hmem true hold.toNat))
    · exact (exec_hbmRetrain_phyFailed hold hon).trans (congrArg Host.Outcome.next (failPhy_live hlt hmem hold.toNat))
    · exact hfailed.trans (congrArg Host.Outcome.next ((if_neg Bool.false_ne_true).trans (if_pos h)))
    · exact hfailed.trans (congrArg Host.Outcome.next ((if_neg Bool.false_ne_true).trans (if_neg (Nat.not_lt.mpr h))))
  · intro channel hold hmem
    exact ⟨(exec_hbmRetrain_phyFailed hold hon).trans (congrArg Host.Outcome.next (failPhy_retired _ hmem)),
      fun hm r => retrainResults hon hold hmem hm r⟩
  · intro corrected bad lines
    refine ⟨fun h => (exec_scrub corrected bad lines hon).trans (congrArg Host.Outcome.next (scrubSome_off _ _ _ h)), ?_⟩
    intro h total at_ s0 s1 s2
    refine (exec_scrub corrected bad lines hon).trans (congrArg Host.Outcome.next ((if_neg h).trans ?_))
    dsimp only
    rw [List.foldl_map, List.foldl_map]
  · exact fun h => congrArg Host.Outcome.next ((if_pos hon).trans (zeroNext_nil h))
  · exact fun u rest h => congrArg Host.Outcome.next ((if_pos hon).trans (zeroNext_cons h))
  · intro ranges
    refine ⟨fun h => ?_, fun m h => ⟨fun hb => ?_, fun hb => ⟨?_, ?_⟩⟩⟩
    · exact ⟨exec_evacuationResume_ranges hlive (by rw [h]; rfl),
        congrArg Host.Outcome.next ((if_pos hlive).trans (endMigration_none h))⟩
    · exact ⟨exec_evacuationResume_blocked hlive (by rw [h]; exact hb),
        congrArg Host.Outcome.next ((if_pos hlive).trans (endMigration_blocked h hb))⟩
    · exact exec_evacuationResume_ranges hlive (by rw [h]; exact hb)
    · exact congrArg Host.Outcome.next ((if_pos hlive).trans (endMigration_ends h hb))
  · exact fun rq v s hserved => marginEnable_cases hserved
  · intro rq v passed inRange errors s s0 word
    refine ⟨fun hserved => ⟨fun h => ?_, ?_, ?_⟩, fun hserved => ⟨fun h => ?_, ?_, ?_⟩⟩
    · exact congrArg Host.Outcome.next
        (handleWrite_served_refused _ hserved (measure_refused (refuse s0) (accepted s0) _ (measure_value h)) (by decide))
    · rintro rfl h
      exact congrArg Host.Outcome.next (handleWrite_served_ok _ hserved (measure_idle (refuse s0) (accepted s0) _ h))
    · rintro rfl h rfl
      exact congrArg Host.Outcome.next (handleWrite_served_ok _ hserved (measure_run (refuse s0) (accepted s0) _ h))
    · exact congrArg Host.Outcome.next
        (handleWrite_served_refused _ hserved (measure_refused (refuse s0) (accepted s0) _ (measure_value h)) (by decide))
    · rintro rfl h
      exact congrArg Host.Outcome.next (handleWrite_served_ok _ hserved (measure_idle (refuse s0) (accepted s0) _ h))
    · rintro rfl h rfl
      exact congrArg Host.Outcome.next (handleWrite_served_ok _ hserved (measure_run (refuse s0) (accepted s0) _ h))
  · intro rq v s hserved s0 port lane
    refine ⟨fun h => ?_, fun hv h => ?_, ?_, ?_, ?_⟩
    · exact congrArg Host.Outcome.next (handleWrite_served_refused _ hserved (lmarginEnableOp_unknown h) (by decide))
    · exact congrArg Host.Outcome.next (handleWrite_served_ok _ hserved (lmarginEnableOp_same (s := s0) hv h))
    · rintro rfl hoff h
      have hop : lmarginEnableOp 1 s0 = (s0, some stRefused) := by
        by_cases hready : portState s0 port ≠ 2 ∨ (getLink s0 port).spareFor.isSome = true
        · exact lmarginEnableOp_unready (s := s0) rfl hoff hready
        · obtain ⟨hlane, hswap⟩ := (or_assoc.mpr h).resolve_left hready
          obtain ⟨hport, hspare⟩ := not_or.mp hready
          refine (lmarginEnableOp_lane (s := s0) rfl hoff (not_not.mp hport) (Option.not_isSome_iff_eq_none.mp hspare) hlane).trans (if_pos ?_)
          rw [Bool.not_eq_true']
          exact hswap
      exact congrArg Host.Outcome.next (handleWrite_served_refused _ hserved hop (by decide))
    · rintro rfl hoff hport hspare h moved s1
      by_cases hlane : lane = 12
      · have hmoved : moved = s0 := if_pos hlane
        rw [if_pos hlane]
        refine congrArg Host.Outcome.next (handleWrite_served_ok _ hserved ?_)
        refine (lmarginEnableOp_spare (s := s0) rfl hoff hport hspare hlane).trans ?_
        rw [show s1 = dSet { moved with fab := { moved.fab with margined := some (port, lane) } } (dk 0x2707 1) 1 from rfl, hmoved]
        rfl
      · have hmoved : moved = (swapLane s0 port lane).1 := if_neg hlane
        rw [if_neg hlane]
        refine congrArg Host.Outcome.next (handleWrite_served_ok _ hserved ?_)
        refine (lmarginEnableOp_lane (s := s0) rfl hoff hport hspare hlane).trans ((if_neg ?_).trans ?_)
        · rw [Bool.not_eq_true', Bool.not_eq_false]
          exact h.resolve_left hlane
        · rw [show s1 = dSet { moved with fab := { moved.fab with margined := some (port, lane) } } (dk 0x2707 1) 1 from rfl, hmoved]
          rfl
    · rintro rfl hon
      have hexec {t : State} (ht : endMargin s0 = t) : exec (.lmarginEnable rq 0) s = .next (accept t rq 0x2707 1 [0]) :=
        congrArg Host.Outcome.next (handleWrite_served_ok _ hserved
          ((lmarginEnableOp_off (s := s0) rfl hon).trans (congrArg (fun t => (t, some stOk)) ht)))
      refine ⟨fun h => hexec (endMargin_none h), ?_⟩
      intro i k h s1
      exact ⟨fun hk => hexec ((endMargin_some (s := s0) h).trans (if_neg hk)),
        fun hk => hexec ((endMargin_some (s := s0) h).trans (if_pos hk))⟩

end Sys2Proof.Machine
end

section
/-! CERTIFICATE. O60 (NumberFormats): what a pattern stands for lies on its format's grid, so rounding gives it back. -/

namespace Sys2Proof.Machine

/-- A pattern is its sign and its magnitude. -/
theorem pack_sign_mag {f : FFmt} {b : Nat} (hb : b < 2 ^ f.width) :
    f.pack ((b >>> (f.eb + f.fb)) % 2 == 1) (b % 2 ^ (f.eb + f.fb)) = b := by
  have hwidth : 2 ^ f.width = 2 ^ (f.eb + f.fb) * 2 := by
    rw [← pow_succ]
    exact congrArg (2 ^ ·) (by unfold FFmt.width; omega)
  have hsign : b / 2 ^ (f.eb + f.fb) < 2 := Nat.div_lt_of_lt_mul (hwidth ▸ hb)
  have hsplit := Nat.div_add_mod b (2 ^ (f.eb + f.fb))
  unfold FFmt.pack
  rw [Nat.shiftRight_eq_div_pow, Nat.mod_eq_of_lt hsign]
  obtain h | h : b / 2 ^ (f.eb + f.fb) = 0 ∨ b / 2 ^ (f.eb + f.fb) = 1 := Nat.le_one_iff_eq_zero_or_eq_one.mp (Nat.lt_succ_iff.mp hsign)
  · rw [h] at hsplit ⊢
    simpa using hsplit
  · rw [h] at hsplit ⊢
    simpa using hsplit

/-- A value on the grid is not rounded: no remainder is left. -/
theorem roundMag_on_grid {f : FFmt} {m : Nat} {e : Int} (hm : m ≠ 0) (h : f.ulpExp m e = e) :
    f.roundMag m e = ((e + f.fb + f.bias - 1) * 2 ^ f.fb + m).toNat := by
  have hscale : scaleTo m e e = (m, 0, 1) := by
    unfold scaleTo
    rw [if_pos (le_refl e), sub_self]
    simp
  have hround : roundHalfEven m 0 1 = m := if_pos (by decide)
  unfold FFmt.roundMag
  rw [if_neg hm]
  dsimp only
  rw [h, hscale]
  dsimp only
  rw [hround]

/-- A subnormal value of the grid. -/
theorem roundMag_subnormal (f : FFmt) {m : Nat} (hm : m < 2 ^ f.fb) : f.roundMag m (1 - f.bias - f.fb) = m := by
  by_cases h0 : m = 0
  · rw [h0]
    exact if_pos rfl
  · have hlog := (Nat.log2_lt h0).mpr hm
    have hulp : f.ulpExp m (1 - f.bias - f.fb) = 1 - f.bias - f.fb := by
      unfold FFmt.ulpExp
      rw [max_eq_right (by omega)]
    rw [roundMag_on_grid h0 hulp]
    have hzero : (1 - f.bias - f.fb + f.fb + f.bias - 1 : Int) = 0 := by omega
    rw [hzero, zero_mul, zero_add, Int.toNat_natCast]

/-- A normal value of the grid: the exponent field and the fraction come back. -/
theorem roundMag_normal (f : FFmt) {e fr : Nat} (he : e ≠ 0) (hfr : fr < 2 ^ f.fb) :
    f.roundMag (2 ^ f.fb + fr) (e - f.bias - f.fb) = e * 2 ^ f.fb + fr := by
  have hpos : 2 ^ f.fb + fr ≠ 0 := by
    have := Nat.two_pow_pos f.fb
    omega
  have hlog : Nat.log2 (2 ^ f.fb + fr) = f.fb :=
    (Nat.log2_eq_iff hpos).mpr ⟨Nat.le_add_right _ _, by rw [pow_succ]; omega⟩
  have hulp : f.ulpExp (2 ^ f.fb + fr) (e - f.bias - f.fb) = e - f.bias - f.fb := by
    unfold FFmt.ulpExp
    rw [hlog, max_eq_left (by omega)]
    omega
  obtain ⟨k, rfl⟩ := Nat.exists_eq_succ_of_ne_zero he
  rw [roundMag_on_grid hpos hulp]
  have hexp : ((k.succ : Nat) - f.bias - f.fb + f.fb + f.bias - 1 : Int) = (k : Int) := by push_cast; omega
  rw [hexp]
  have hcast : ((k : Int) * 2 ^ f.fb + (2 ^ f.fb + fr : Nat)) = ((k.succ * 2 ^ f.fb + fr : Nat) : Int) := by
    push_cast
    ring
  rw [hcast, Int.toNat_natCast]

/-- The largest exponent with an empty fraction is infinity's pattern. -/
theorem topBits_of_inf {f : FFmt} {mag : Nat} (hkind : f.kind = .ieee) (hlt : mag < 2 ^ (f.eb + f.fb)) (htop : f.topBits ≤ mag)
    (hfr : mag % 2 ^ f.fb = 0) : mag = f.topBits := by
  have htopEq : f.topBits = (2 ^ f.eb - 1) * 2 ^ f.fb := by
    unfold FFmt.topBits
    rw [hkind]
  have hsplit := Nat.div_add_mod' mag (2 ^ f.fb)
  have hfield : mag / 2 ^ f.fb < 2 ^ f.eb := Nat.div_lt_of_lt_mul (by rw [mul_comm, ← pow_add]; exact hlt)
  refine le_antisymm ?_ htop
  rw [htopEq, ← hsplit, hfr, add_zero]
  exact Nat.mul_le_mul_right _ (by omega)

/-- The magnitude of a pattern that is finite comes back. -/
theorem round_decode_fin {f : FFmt} {b : Nat} (hb : b < 2 ^ f.width) (hfin : ¬f.topBits ≤ b % 2 ^ (f.eb + f.fb)) :
    f.round (f.decode b) = b := by
  have hsplit := Nat.div_add_mod' (b % 2 ^ (f.eb + f.fb)) (2 ^ f.fb)
  have hfr := Nat.mod_lt (b % 2 ^ (f.eb + f.fb)) (Nat.two_pow_pos f.fb)
  have hpack := pack_sign_mag hb
  unfold FFmt.decode
  dsimp only
  rw [if_neg hfin, Nat.shiftRight_eq_div_pow (b % 2 ^ (f.eb + f.fb))]
  split
  case isTrue he =>
    rw [he, zero_mul, zero_add] at hsplit
    unfold FFmt.round
    dsimp only
    rw [roundMag_subnormal f hfr, hsplit, if_neg hfin]
    exact hpack
  case isFalse he =>
    unfold FFmt.round
    dsimp only
    rw [roundMag_normal f he hfr, hsplit, if_neg hfin]
    exact hpack

/-- Rounding gives back every pattern that is not NaN, in any format. -/
theorem round_decode {f : FFmt} {b : Nat} (hb : b < 2 ^ f.width) (hnan : f.decode b ≠ .nan) : f.round (f.decode b) = b := by
  by_cases htop : f.topBits ≤ b % 2 ^ (f.eb + f.fb)
  · have hinf : f.kind = .ieee ∧ b % 2 ^ (f.eb + f.fb) % 2 ^ f.fb = 0 := by
      unfold FFmt.decode at hnan
      dsimp only at hnan
      rw [if_pos htop] at hnan
      cases hkind : f.kind with
      | ieee =>
        rw [hkind] at hnan
        exact ⟨rfl, not_not.mp fun hfr => hnan (if_neg hfr)⟩
      | e4m3 =>
        rw [hkind] at hnan
        exact absurd rfl hnan
      | e2m1 =>
        rw [hkind] at hnan
        exact absurd rfl hnan
    obtain ⟨hkind, hfr⟩ := hinf
    have hmag := topBits_of_inf hkind (Nat.mod_lt b (Nat.two_pow_pos _)) htop hfr
    have hdecode : f.decode b = .inf ((b >>> (f.eb + f.fb)) % 2 == 1) := by
      unfold FFmt.decode
      dsimp only
      rw [if_pos htop, hkind]
      exact if_pos hfr
    rw [hdecode]
    unfold FFmt.round
    dsimp only
    rw [← hmag]
    exact pack_sign_mag hb
  · exact round_decode_fin hb htop

/-- Settles O60: `round_decode` holds of every format; NaN rounds to the canonical NaN by definition. -/
theorem numberFormats : Obligations.NumberFormats := by
  unfold Obligations.NumberFormats
  refine ⟨fun f _ b hb => ⟨round_decode hb, fun h => ?_⟩, by decide, by decide, by decide, by decide, by decide, by decide⟩
  rw [h]
  rfl

end Sys2Proof.Machine
end

section
/-! SUPPORT. What DISPATCH does with a head: the heads that are ready, the four ends of a dispatch, and the opcodes without operands. -/

namespace Sys2Proof.Machine

open Sys2Proof.Claims

/-! ### Ready heads -/

theorem leastBy_ne_none {α : Type} (key : α → Nat) {l : List α} (h : l ≠ []) : ∃ x, leastBy key l = some x := by
  cases l with
  | nil => exact absurd rfl h
  | cons a t =>
    unfold leastBy
    split
    · exact ⟨_, rfl⟩
    · split <;> exact ⟨_, rfl⟩

/-- A head that is ready: its tallies are met, and what its opcode asks. -/
def headReady (s : State) (p : Nat) (ring : Nat) (c : HCell) : Bool :=
  headerWait s c.desc && (opcOf c.desc != 2 || bodyWait s c.desc) && opReady s { part := p, ring := ring } c.desc

theorem mem_readyHeads {s : State} {p : Nat} {y : Nat × HCell} :
    y ∈ readyHeads s p ↔
      ∃ x ∈ s.hop.rings, x.1 = y.1 ∧ x.2.part.toNat = p ∧ headOf x.2 = some y.2 ∧ headReady s p y.1 y.2 = true := by
  unfold readyHeads
  rw [List.mem_filterMap]
  refine exists_congr fun x => and_congr_right fun _ => ?_
  constructor
  · intro h
    split at h
    next hp =>
      split at h
      next c hc =>
        split at h
        next hr =>
          obtain rfl : (x.1, c) = y := Option.some.inj h
          exact ⟨rfl, hp, hc, hr⟩
        next => cases h
      next => cases h
    next => cases h
  · rintro ⟨hx, hp, hc, hr⟩
    rw [if_pos hp, hc]
    dsimp only
    rw [← hx] at hr
    exact (if_pos hr).trans (congrArg some (Prod.ext hx rfl))

theorem mem_openHeads_of_pickHead {s : State} {p : Nat} {x : Nat × HCell} (h : pickHead s p = some x) : x ∈ openHeads s p :=
  List.mem_of_mem_filter (leastBy_eq_some h).1

/-! ### The ends of a dispatch -/

/-- One more command is in flight. -/
def addFlight (s : State) (f : InFlight) : State :=
  { s with hop := { s.hop with inflight := s.hop.inflight ++ [f], dispatchOrder := s.hop.dispatchOrder + 1 } }

/-- A command is put in flight, and its ring's record says so. -/
def putHead (s : State) (w : Who) (f : InFlight) : State :=
  putRing (addFlight s f) w.ring { ringOf (addFlight s f) w.ring with inflight := true }

/-- The command and the state once what it writes at its dispatch is written. -/
def startedHead (s : State) (w : Who) (c : HCell) : State × InFlight :=
  firstWrites (enterRun s) w c.desc (makeFlight (enterRun s) w c 0)

/-- A command that ends without a run. -/
def endedHead (s : State) (w : Who) (c : HCell) (st : Nat) : InFlight :=
  { blankFlight s w.ring w.part c with
    holds := opHolds s w c.desc, executed := true, idle := true, status := BitVec.ofNat 8 st
    acts := if st = 1 then zeroActs s w.part c.desc else [] }

theorem makeFlight_ended (s : State) (w : Who) (c : HCell) {st : Nat} (h : st ≠ 0) : makeFlight s w c st = endedHead s w c st :=
  if_pos h

theorem placeFlight_runs (s : State) (w : Who) (c : HCell) :
    placeFlight s w c 0 = asks (some w.ring) (putHead (dispatchEffects (startedHead s w c).1 w c.desc) w (startedHead s w c).2)
      (((startedHead s w c).2.results.filter (fun y => remoteAddr
        (putHead (dispatchEffects (startedHead s w c).1 w c.desc) w (startedHead s w c).2) y.1)).flatMap
          (fun y => writeAsks false y.1 y.2)) := by
  have hstatus : ¬(opcOf c.desc = 0x302 ∧ 0 = 0x31) := fun h => absurd h.2 (by decide)
  unfold placeFlight
  extract_lets s1 x f s2 s3 hop s4 ring s5
  have hs3 : s3 = s2 := if_neg hstatus
  have hs5 : s5 = putHead (dispatchEffects (startedHead s w c).1 w c.desc) w (startedHead s w c).2 :=
    congrArg (fun t => putHead t w f) hs3
  rw [hs5]
  rfl

theorem placeFlight_ended (s : State) (w : Who) (c : HCell) {st : Nat} (h : st ≠ 0) :
    placeFlight s w c st = putHead
      (if opcOf c.desc = 0x302 ∧ st = 0x31 then countP (enterRun s) 0x3265 w.part 1 else enterRun s) w (endedHead (enterRun s) w c st) := by
  unfold placeFlight
  extract_lets s1 x f s2 s3 hop s4 ring s5
  have hx : x = (s1, endedHead s1 w c st) := (if_neg h).trans (congrArg (Prod.mk s1) (makeFlight_ended s1 w c h))
  have hs2 : s2 = s1 := if_neg h
  have hf : f = endedHead s1 w c st := congrArg Prod.snd hx
  have hresults : f.results = [] := congrArg InFlight.results hf
  have hs5 : s5 = putHead s3 w f := rfl
  have hs3 : s3 = if opcOf c.desc = 0x302 ∧ st = 0x31 then countP s1 0x3265 w.part 1 else s1 :=
    congrArg (fun t => if opcOf c.desc = 0x302 ∧ st = 0x31 then countP t 0x3265 w.part 1 else t) hs2
  rw [hresults, hs5, hf, hs3]
  rfl

section
variable {s : State} {w : Who} {c : HCell}

theorem dispatchHead_fault {e : ErrorReport} (h : shapeFault s w c.desc = some e) :
    dispatchHead s w c = (detectError (placeFlight s w c 0) e none).1 := by
  unfold dispatchHead
  rw [h]

variable (h : shapeFault s w c.desc = none)
include h

theorem dispatchHead_placed (h1 : dispatchStatus s w c.desc / 16 ≠ 1) (h2 : dispatchStatus s w c.desc / 16 ≠ 2) :
    dispatchHead s w c = placeFlight s w c (dispatchStatus s w c.desc) := by
  unfold dispatchHead
  rw [h]
  exact (if_neg h1).trans (if_neg h2)

theorem dispatchHead_refused (h2 : dispatchStatus s w c.desc / 16 = 2) :
    dispatchHead s w c = endHead (restoreRefused s w c.desc) w.ring (dispatchStatus s w c.desc) 0 0 0 0 := by
  unfold dispatchHead
  rw [h]
  exact (if_neg (by omega)).trans (if_pos h2)

/-- A segment to replay whose entry cannot be read. -/
theorem dispatchHead_unreadable (h1 : dispatchStatus s w c.desc / 16 = 1) {g : Segment} {d : List Word}
    (hg : findSeg s (segName c.desc).1 (segName c.desc).2 = some g)
    (hd : g.held.find? (fun d => tensorCheck s w.part d == 0x10) = some d) :
    dispatchHead s w c = endHead (entryFault s w.part d).1 w.ring 0x10 (entryFault s w.part d).2 0 0 0 := by
  unfold dispatchHead
  rw [h]
  refine (if_pos h1).trans ?_
  rw [hg]
  dsimp only
  rw [hd]

theorem dispatchHead_returned (h1 : dispatchStatus s w c.desc / 16 = 1)
    (hd : ∀ g, findSeg s (segName c.desc).1 (segName c.desc).2 = some g →
      g.held.find? (fun d => tensorCheck s w.part d == 0x10) = none) :
    dispatchHead s w c = endHead s w.ring (dispatchStatus s w c.desc) 0 0 0 0 := by
  unfold dispatchHead
  rw [h]
  refine (if_pos h1).trans ?_
  cases hg : findSeg s (segName c.desc).1 (segName c.desc).2 with
  | none => rfl
  | some g =>
    dsimp only
    rw [hd g hg]

end

/-! ### DISPATCH -/

theorem exec_dispatch_new {part : PartId} {s : State} {ring : Nat} {c : HCell} (hon : dispatcherOn s = true)
    (hread : headRead s part.toNat = none) (hpart : partDispatches s part.toNat = true)
    (hpick : pickHead s part.toNat = some (ring, c)) :
    exec (.dispatch part) s = .next (if engineTaken s part.toNat (ring, c) then s
      else if (headFetch s { part := part.toNat, ring := ring } c.desc []).isEmpty
        then dispatchHead s { part := part.toNat, ring := ring } c
        else startReading s { part := part.toNat, ring := ring } c (headFetch s { part := part.toNat, ring := ring } c.desc [])) := by
  refine congrArg Host.Outcome.next ?_
  unfold dispatchPart
  rw [if_neg (by rw [hon]; exact Bool.false_ne_true), hread]
  dsimp only
  rw [if_pos hpart]
  unfold dispatchNew
  rw [hpick]

theorem exec_dispatch_resume {part : PartId} {s : State} {f : InFlight} {c : HCell} {rest : List HCell} (hon : dispatcherOn s = true)
    (hread : headRead s part.toNat = some f) (hcells : (ringOf s f.ring).cells = c :: rest) :
    exec (.dispatch part) s = .next (if (headFetch s { part := f.part, ring := f.ring } f.desc f.fetched).isEmpty
      then setFlight (dispatchHead (dropFlight s f.ring) { part := f.part, ring := f.ring } c) f.ring (fun x => { x with order := f.order })
      else fetchOperands s f.ring f (headFetch s { part := f.part, ring := f.ring } f.desc f.fetched)) := by
  refine congrArg Host.Outcome.next ?_
  unfold dispatchPart
  rw [if_neg (by rw [hon]; exact Bool.false_ne_true), hread]
  dsimp only
  unfold resumeHead
  rw [hcells]

/-! ### NOP, TALLY_SIGNAL, TALLY_WAIT and FENCE have no operands -/

section
variable {d : List Word} (h : opcOf d < 4)
include h

theorem opShape_plain (s : State) (w : Who) : opShape s w d = 0 := if_pos (decide_eq_true (by omega))

theorem opDims_plain (s : State) (w : Who) : opDims s w d = 0 := by
  have hcoll : isParityColl d = false := by
    unfold isParityColl
    rw [beq_eq_false_iff_ne.mpr (by omega), beq_eq_false_iff_ne.mpr (by omega)]
    rfl
  unfold opDims
  dsimp only
  rw [if_neg (by omega), if_neg (by omega), if_neg (by omega), if_neg (by omega), if_neg (by omega), if_neg (by omega),
    if_neg (by rw [hcoll]; exact Bool.false_ne_true), if_neg (by omega)]
  exact opShape_plain h s w

theorem dispatchReads_plain (s : State) (w : Who) : dispatchReads s w d = [] := by
  have hcoll : isParityColl d = false := by
    unfold isParityColl
    rw [beq_eq_false_iff_ne.mpr (by omega), beq_eq_false_iff_ne.mpr (by omega)]
    rfl
  unfold dispatchReads
  dsimp only
  rw [if_neg (by omega), if_neg (by omega), if_neg (by omega), if_neg (by omega), if_neg (by omega),
    if_neg (by rw [hcoll]; exact Bool.false_ne_true), if_neg (by omega), if_neg (by omega)]

theorem dispatchGreads_plain (s : State) (w : Who) : dispatchGreads s w d = [] := by
  unfold dispatchGreads
  dsimp only
  cases poolOf s w.part with
  | none => rfl
  | some pool =>
    dsimp only
    rw [if_neg (by omega), if_neg (by omega), if_neg (by omega), if_neg (by omega), if_neg (by omega)]

theorem holderWrites_plain (s : State) (w : Who) : holderWrites s w d = [] := by
  refine if_neg fun hh => ?_
  unfold isHolder at hh
  rw [beq_eq_false_iff_ne.mpr (by omega)] at hh
  exact Bool.false_ne_true hh

theorem headFetch_plain (s : State) (w : Who) : headFetch s w d [] = [] := by
  unfold headFetch
  rw [opDims_plain h, dispatchReads_plain h, dispatchGreads_plain h]
  rfl

theorem shapeFault_plain (s : State) (w : Who) : shapeFault s w d = none := by
  unfold shapeFault dispatchFault
  rw [opDims_plain h, dispatchReads_plain h, dispatchGreads_plain h, holderWrites_plain h]
  rfl

theorem dispatchStatus_plain (s : State) (w : Who) : dispatchStatus s w d = 0 := by
  unfold dispatchStatus
  dsimp only
  rw [if_neg (by omega), if_neg (by omega), opShape_plain h]
  exact (if_neg (fun hne => hne rfl)).trans (if_neg (by omega))

theorem dispatchEffects_plain (s : State) (w : Who) : dispatchEffects s w d = s := by
  unfold dispatchEffects
  split
  case h_6 => rfl
  all_goals omega

theorem firstWrites_plain (s : State) (w : Who) (f : InFlight) : firstWrites s w d f = (s, f) := by
  have hnone : dispatchWrites s w d = [] := by
    unfold dispatchWrites
    rw [holderWrites_plain h]
    rfl
  unfold firstWrites
  rw [hnone]
  rfl

theorem engineOf_plain : engineOf (opcOf d) = 0 :=
  (if_neg (by omega)).trans ((if_neg (by omega)).trans (if_neg (by omega)))

theorem engineTaken_plain (s : State) (p ring : Nat) (c : HCell) (hc : c.desc = d) : engineTaken s p (ring, c) = false := by
  unfold engineTaken
  dsimp only
  rw [hc, engineOf_plain h]
  rfl

theorem opHolds_plain (s : State) (w : Who) : opHolds s w d = [] := by
  have hmedia : mediaName d = none := by
    unfold mediaName
    split
    case h_4 => rfl
    all_goals omega
  unfold opHolds
  split
  case h_3 => rw [hmedia]
  all_goals omega

/-- What the dispatch of such a command makes of it. -/
theorem placeFlight_plain (s : State) (w : Who) (c : HCell) (hc : c.desc = d) :
    placeFlight s w c 0 = putHead (enterRun s) w (makeFlight (enterRun s) w c 0) := by
  have hstarted : startedHead s w c = (enterRun s, makeFlight (enterRun s) w c 0) := by
    unfold startedHead
    rw [hc]
    exact firstWrites_plain h _ w _
  have hresults : (makeFlight (enterRun s) w c 0).results = [] := by
    unfold makeFlight placeCounter
    rw [if_neg (fun hne => hne rfl)]
    dsimp only
    split <;> rfl
  rw [placeFlight_runs, hstarted]
  dsimp only
  rw [hc, dispatchEffects_plain h, hresults]
  rfl

end

/-- The record of a command that is dispatched to run. -/
theorem makeFlight_fields (s : State) (w : Who) (c : HCell) :
    let f := makeFlight s w c 0
    f.ring = w.ring ∧ f.desc = c.desc ∧ f.pos = c.pos ∧ f.part = w.part ∧ f.executed = false ∧ f.status = 0 ∧
      f.order = s.hop.dispatchOrder := by
  unfold makeFlight placeCounter
  rw [if_neg (fun hne => hne rfl)]
  dsimp only
  split <;> exact ⟨rfl, rfl, rfl, rfl, rfl, rfl, rfl⟩

theorem enterRun_hop (s : State) : (enterRun s).hop = s.hop := by
  unfold enterRun
  split <;> rfl

theorem putHead_inflight (s : State) (w : Who) (f : InFlight) : (putHead s w f).hop.inflight = s.hop.inflight ++ [f] := by
  unfold putHead
  rw [putRing_hop]
  rfl

theorem putHead_ring {s : State} (w : Who) (f : InFlight) (hwf : tableWf ringDefault s.hop.rings = true) :
    (ringOf (putHead s w f) w.ring).inflight = true := by
  have hsame := ringOf_putRing_same (addFlight s f) w.ring { ringOf (addFlight s f) w.ring with inflight := true } hwf
  exact congrArg Ring.inflight hsame

theorem putRing_pState (s : State) (n : Nat) (r : Ring) : pState (putRing s n r) = pState s := by
  unfold putRing mirrorRing
  dsimp only
  split <;> rfl

theorem pState_putHead (s : State) (w : Who) (f : InFlight) : pState (putHead s w f) = pState s := putRing_pState _ _ _

/-- A dispatcher that dispatches leaves the module in P0. -/
theorem pState_enterRun {s : State} (hon : dispatcherOn s = true) (hwf : tableWf (dictDefault s.variant) s.dict = true) :
    pState (enterRun s) = 0 := by
  unfold dispatcherOn at hon
  simp only [Bool.and_eq_true, Bool.or_eq_true, beq_iff_eq] at hon
  obtain ⟨⟨-, hp⟩, -⟩ := hon
  unfold enterRun
  split
  case isTrue => exact dGet_dSet_same s (dk 0x1400 2) 0 hwf
  case isFalse h1 => exact hp.resolve_right h1

/-- The four opcodes complete: DISPATCH puts such a head in flight, not yet run, and the module is in P0. -/
theorem exec_dispatch_plain {part : PartId} {s : State} {ring : Nat} {c : HCell} (hcan : Sys2Proof.State.canonical s)
    (hon : dispatcherOn s = true) (hread : headRead s part.toNat = none) (hpart : partDispatches s part.toNat = true)
    (hpick : pickHead s part.toNat = some (ring, c)) (hopc : opcOf c.desc < 4) :
    ∃ t f, exec (.dispatch part) s = .next t ∧ t.hop.inflight = s.hop.inflight ++ [f] ∧ f.ring = ring ∧ f.desc = c.desc ∧
      f.pos = c.pos ∧ f.part = part.toNat ∧ f.executed = false ∧ f.status = 0 ∧ f.order = s.hop.dispatchOrder ∧
      (ringOf t ring).inflight = true ∧ pState t = 0 := by
  obtain ⟨-, hdict, hrings, -⟩ := hcan
  let w : Who := { part := part.toNat, ring := ring }
  have hhead : dispatchHead s w c = putHead (enterRun s) w (makeFlight (enterRun s) w c 0) := by
    rw [dispatchHead_placed (shapeFault_plain hopc s w) (by rw [dispatchStatus_plain hopc]; decide)
      (by rw [dispatchStatus_plain hopc]; decide), dispatchStatus_plain hopc]
    exact placeFlight_plain hopc s w c rfl
  have hexec : exec (.dispatch part) s = .next (putHead (enterRun s) w (makeFlight (enterRun s) w c 0)) := by
    rw [exec_dispatch_new hon hread hpart hpick, engineTaken_plain hopc s _ _ c rfl, headFetch_plain hopc]
    exact congrArg Host.Outcome.next hhead
  obtain ⟨hring, hdesc, hpos, hpt, hexecuted, hstatus, horder⟩ := makeFlight_fields (enterRun s) w c
  refine ⟨_, makeFlight (enterRun s) w c 0, hexec, ?_, hring, hdesc, hpos, hpt, hexecuted, hstatus, ?_, ?_, ?_⟩
  · rw [putHead_inflight, enterRun_hop]
  · rw [horder, enterRun_hop]
  · exact putHead_ring w _ (by rw [enterRun_hop]; exact hrings)
  · rw [pState_putHead]
    exact pState_enterRun hon hdict

end Sys2Proof.Machine
end

section
/-! CERTIFICATE. O15 (Dispatch): where DISPATCH completes, waits, ends, or comes back. -/

namespace Sys2Proof.Machine

open Sys2Proof.Claims

/-- A NOP whose tally is met is ready. -/
theorem headReady_nop {s : State} {p ring : Nat} {c : HCell} (hopc : opcOf c.desc = 0) (hwait : headerWait s c.desc = true) :
    headReady s p ring c = true := by
  have hlt : opcOf c.desc < 4 := by omega
  have hop : opReady s { part := p, ring := ring } c.desc = true := by
    unfold opReady holdsFree
    rw [opHolds_plain hlt]
    dsimp only
    rw [hopc]
    rfl
  unfold headReady
  rw [hwait, hop, hopc]
  rfl

/-- With a ready NOP, and only NOPs at the heads of its rings, a partition picks one of them. -/
theorem pickHead_nop {s : State} {p : Nat}
    (hnops : ∀ x ∈ s.hop.rings, x.2.part.toNat = p → ∀ c, headOf x.2 = some c → opcOf c.desc = 0)
    (hready : ∃ x ∈ s.hop.rings, x.2.part.toNat = p ∧ ∃ c, headOf x.2 = some c ∧ headerWait s c.desc = true) :
    ∃ x ∈ s.hop.rings, ∃ c, headOf x.2 = some c ∧ opcOf c.desc = 0 ∧ pickHead s p = some (x.1, c) := by
  have hopc : ∀ y ∈ readyHeads s p, opcOf y.2.desc = 0 := by
    intro y hy
    obtain ⟨x, hx, -, hp, hc, -⟩ := mem_readyHeads.mp hy
    exact hnops x hx hp y.2 hc
  have hopen : ∀ y ∈ readyHeads s p, y ∈ openHeads s p := by
    intro y hy
    refine mem_openHeads.mpr ⟨hy, fun ⟨z, hz, hb⟩ => absurd (hopc z hz) ?_⟩
    obtain h | h := (isBarrier_iff z).mp hb <;> omega
  obtain ⟨x, hx, hp, c, hc, hwait⟩ := hready
  have hmem : (x.1, c) ∈ readyHeads s p := mem_readyHeads.mpr ⟨x, hx, rfl, hp, hc, headReady_nop (hnops x hx hp c hc) hwait⟩
  have hfree : (x.1, c) ∈ (openHeads s p).filter (fun x => !needsSlot (opcOf x.2.desc) || !slotsFull s) := by
    refine List.mem_filter.mpr ⟨hopen _ hmem, ?_⟩
    dsimp only
    rw [hopc _ hmem]
    rfl
  obtain ⟨y, hy⟩ := leastBy_ne_none headKey (List.ne_nil_of_mem hfree)
  have hyr := (mem_openHeads.mp (mem_openHeads_of_pickHead hy)).1
  obtain ⟨z, hz, hn, -, hd, -⟩ := mem_readyHeads.mp hyr
  exact ⟨z, hz, y.2, hd, hopc y hyr, by rw [hn]; exact hy⟩

/-- With nothing in flight no command of a partition is being read. -/
theorem headRead_empty {s : State} (p : Nat) (h : s.hop.inflight = []) : headRead s p = none := by
  unfold headRead flights
  rw [h]
  rfl

theorem dispatchHead_ends {s : State} {w : Who} {c : HCell} :
    let st := dispatchStatus s w c.desc
    (∀ e, shapeFault s w c.desc = some e → dispatchHead s w c = (detectError (placeFlight s w c 0) e none).1) ∧
    (shapeFault s w c.desc = none →
      (st = 0 → dispatchHead s w c = placeFlight s w c 0) ∧
      (st = 1 ∨ 0x30 ≤ st → dispatchHead s w c = putHead
        (if opcOf c.desc = 0x302 ∧ st = 0x31 then countP (enterRun s) 0x3265 w.part 1 else enterRun s) w (endedHead (enterRun s) w c st))) := by
  intro st
  refine ⟨fun e h => dispatchHead_fault h, fun h => ⟨fun h0 => ?_, fun hst => ?_⟩⟩
  · have hplaced := dispatchHead_placed h (by omega) (by omega)
    exact hplaced.trans (congrArg (placeFlight s w c) h0)
  · exact (dispatchHead_placed h (by omega) (by omega)).trans (placeFlight_ended s w c (by omega))

/-- Settles O15: the NOPs by `exec_dispatch_plain`, the rest by the ends of `dispatchHead` and by what has still to be read. -/
theorem dispatch : Obligations.Dispatch := by
  unfold Obligations.Dispatch
  refine ⟨?_, ?_, ?_, ?_⟩
  · intro part s hcan hon hpart hempty hnops hready
    obtain ⟨x, hx, c, hc, hopc, hpick⟩ := pickHead_nop hnops hready
    obtain ⟨t, f, hexec, hin, hring, hdesc, hpos, hpt, hex, hst, -, hr, hp⟩ :=
      exec_dispatch_plain hcan hon (headRead_empty _ hempty) hpart hpick (by omega)
    rw [hempty] at hin
    exact ⟨t, f, x, c, hexec, hx, hc, hin, hring, hdesc, hpos, hpt, hex, hst, hr, hp⟩
  · intro part s ring c p w hon hread hpart hpick
    have hexec := exec_dispatch_new hon hread hpart hpick
    refine ⟨fun ht => ?_, fun ht hf => ?_, fun ht hf => ?_, fun hopc hflight hcan => ?_⟩
    · exact hexec.trans (congrArg Host.Outcome.next (if_pos ht))
    · refine hexec.trans (congrArg Host.Outcome.next ((if_neg (by rw [ht]; exact Bool.false_ne_true)).trans (if_pos ?_)))
      exact List.isEmpty_iff.mpr hf
    · refine hexec.trans (congrArg Host.Outcome.next ((if_neg (by rw [ht]; exact Bool.false_ne_true)).trans (if_neg ?_)))
      exact mt List.isEmpty_iff.mp hf
    · obtain ⟨t, f, hnext, hin, hring, hdesc, hpos, hpt, hex, -, horder, hr, hp⟩ := exec_dispatch_plain hcan hon hread hpart hpick hopc
      refine ⟨t, f, hnext, ?_, hdesc, hpos, hpt, hex, horder, hr, hp⟩
      have hold : s.hop.inflight.find? (fun x => x.ring == ring) = none := hflight
      unfold flightOf
      rw [hin, List.find?_append, hold]
      exact List.find?_cons_of_pos (p := fun x : InFlight => x.ring == ring) (beq_iff_eq.mpr hring)
  · intro part s f c rest w hon hread hcells
    have hexec := exec_dispatch_resume hon hread hcells
    exact ⟨fun hf => hexec.trans (congrArg Host.Outcome.next (if_neg (mt List.isEmpty_iff.mp hf))),
      fun hf => hexec.trans (congrArg Host.Outcome.next (if_pos (List.isEmpty_iff.mpr hf)))⟩
  · intro s w c st s1 put x runs ends
    obtain ⟨hfault, hclean⟩ := dispatchHead_ends (s := s) (w := w) (c := c)
    have hruns : placeFlight s w c 0 = runs := placeFlight_runs s w c
    rw [hruns] at hfault hclean
    refine ⟨hfault, fun h => ?_⟩
    obtain ⟨hzero, hends⟩ := hclean h
    refine ⟨hzero, fun h1 => ?_, fun h30 hnot => ?_, fun h31 hopc => ?_, fun h2 => dispatchHead_refused h h2, fun h1 => ⟨?_, ?_⟩⟩
    · exact (hends (Or.inl h1)).trans (congrArg (fun t => putHead t w ends) (if_neg (fun hb => by omega)))
    · exact (hends (Or.inr h30)).trans (congrArg (fun t => putHead t w ends) (if_neg (fun hb => hnot.elim (· hb.1) (· hb.2))))
    · exact (hends (Or.inr (by omega))).trans (congrArg (fun t => putHead t w ends) (if_pos ⟨hopc, h31⟩))
    · exact fun g d hg hd => dispatchHead_unreadable h h1 hg hd
    · exact fun hd => dispatchHead_returned h h1 hd

end Sys2Proof.Machine
end
